-- ==== Sys2Proof/Word.lean ====
section
/-! DEFINITION. Word.lean: the words the manual treats as bits (conventions of spec/00_scope.md). -/
namespace Sys2Proof

/-- One byte. -/
abbrev Byte := BitVec 8

/-- A string of bytes, lowest address (or first sent) first. -/
abbrev Bytes := List Byte

/-- A 32-bit register value. -/
abbrev W32 := BitVec 32

/-- A 64-bit register value. -/
abbrev W64 := BitVec 64

end Sys2Proof
end

