-- ==== Sys2Proof/Syntax.lean ====
section
/-! DEFINITION. Syntax.lean: the commands the block takes, with what each carries from outside. -/
namespace Sys2Proof

/-- A cell as it stands on the wire: header, 64-byte payload and CRC-32C (R36). -/
structure Cell where
  hdr     : BitVec 128
  payload : Bytes
  crc     : W32
  deriving DecidableEq, Repr, Inhabited

/-- A mailbox message: the mailbox rung and what the host wrote into its PAYLOAD (R380 to R383).
The opcode is the command's own; `body` is what follows the 16-byte header in PAYLOAD (the 32-byte
descriptor where INDIRECT is set). -/
structure Msg where
  mbx   : Fin 8
  ver   : Byte
  flags : Byte
  seqid : W32
  len   : W32
  rsvd  : W32
  body  : Bytes
  deriving DecidableEq, Repr, Inhabited

/-- The two windows of CXL.mem (R373). -/
inductive Window where
  | table
  | snapshot
  deriving DecidableEq, Repr

/-- A datagram of the service port after its UDP header (R423). The command code is the command's own. -/
structure Dgram where
  ver     : Byte
  kind    : Byte
  session : W32
  seq     : W32
  mac     : Bytes
  body    : Bytes
  deriving DecidableEq, Repr, Inhabited

/-- The sideband words of one wave whose CRC-8 fails (R85), each by its input block and output block: requests, and the copies of a match
for its input block and for its output block. -/
structure SideLoss where
  requests  : List (Nat × Nat)
  inCopies  : List (Nat × Nat)
  outCopies : List (Nat × Nat)
  deriving DecidableEq, Repr

/-- What the ROM finds in step 1 of the boot order: whether the hub's PUF reading corrects and agrees with the module
record, and whether each region die's does (R413, R414). -/
structure BootRun where
  hubPuf   : Bool
  dies     : List Bool
  deriving DecidableEq, Repr

/-- The eye figures and the end status of one memory channel's training (R333, R336). -/
structure ChanTrain where
  status   : Nat
  rdHeight : Nat
  rdWidth  : Nat
  wrHeight : Nat
  wrWidth  : Nat
  deriving DecidableEq, Repr, Inhabited

/-- The outcome of the self-test items (R436): whether the hub's items passed, which region dies failed theirs, how
each memory channel's training ended (channels not listed passed), and the wave engines whose check failed. -/
structure SelfTest where
  hubOk    : Bool
  failed   : List Nat
  channels : List (Nat × ChanTrain)
  engines  : List Nat
  deriving DecidableEq, Repr

/-- Reference clocks other than TREF_25M (R483). -/
inductive RefClk where
  | fabric (region : Nat)
  | cxl
  deriving DecidableEq, Repr

/-- One lane's result of receiver and transmitter adaptation (R56). -/
structure EqResult where
  peerLane : Nat
  taps     : BitVec 40
  preset   : W32
  eye      : W32
  precode  : Bool
  deriving DecidableEq, Repr, Inhabited

/-- What the physical layer found in a training step: the lane order, the polarity and the skew between lanes in ns (DESKEW,
R34) and the adaptation result of each lane (PMD_TRAIN, EQ_STORE). -/
structure TrainRes where
  order    : List Nat
  polarity : List Bool
  skewNs   : Nat
  eq       : List EqResult
  deriving DecidableEq, Repr

/-- The correction verdict of a lane's next FEC codeword (R44, R45): the symbols it corrected, whether it could not correct,
and the cells whose bytes it changed, as corrected: each by its link block (0: the block the codeword begins in, 1: the next)
and its slot there. -/
structure Verdict where
  symbols       : Nat
  uncorrectable : Bool
  changed       : List (Nat × Nat × Cell)
  deriving DecidableEq, Repr

/-- A memory error of a die or of the hub, found by its ECC. `ue` says uncorrectable. -/
inductive EccError where
  /-- a cell buffer entry (R72) -/
  | buffer (block entry : Nat) (ue : Bool)
  /-- descriptor (0), VOQ link (1) or counter (2) memory of a block (R72, R439) -/
  | control (block mem : Nat) (ue : Bool)
  /-- a word of a region's table memory, by window byte offset (R100) -/
  | table (region off : Nat) (ue : Bool)
  /-- the row state or program store of a region's peal store (R439) -/
  | store (region : Nat) (ue : Bool)
  /-- wave-engine state in the hub (R439) -/
  | engine (engine : Nat) (ue : Bool)
  /-- the express queue of a hub output (R439) -/
  | express (block : Nat) (ue : Bool)
  /-- a learned LAST_EQ entry of a lane (R439) -/
  | learnedEq (lane : Nat) (ue : Bool)
  /-- a corrected error in control-core memory, the journal, warden memory or a measured image (R439); an uncorrectable one there is CORE_CRASH
  or UNCORRECTABLE_HUB_STATE -/
  | complex
  deriving DecidableEq, Repr

/-- Where an uncorrectable hub error lies (R439). -/
inductive HubLoc where
  | wardenMemory
  | measuredImage
  deriving DecidableEq, Repr

/-- A TWIN message put together from its cells: its TMSG, the TAG of its header, the SRC of its header, the first
cell's payload and the payloads of the cells that follow (R300, R302). -/
structure TwinMsg where
  tmsg : Nat
  tag  : Nat
  src  : Nat
  head : Bytes
  data : Bytes
  deriving DecidableEq, Repr, Inhabited

/-- The operand fields of a peal-core instruction word (R231); the operation is the command's own. -/
structure IWord where
  d   : BitVec 4
  a   : BitVec 4
  b   : BitVec 4
  c   : BitVec 4
  imm : BitVec 10
  deriving DecidableEq, Repr, Inhabited

/-- What the unit that verifies a division or square root finds (R257). -/
inductive SelfCheck where
  | agrees
  | failed
  deriving DecidableEq, Repr

/-- What a patrol read of one burst finds (R329). -/
inductive EccKind where
  | clean
  | corrected
  | uncorrectable
  | poisoned
  deriving DecidableEq, Repr

/-- What an uncorrectable LPDDR error strikes, by its pool (R322, R332). -/
inductive UeTarget where
  /-- a slice of a shard: bank and cell position -/
  | slice (shard bank pos : Nat)
  /-- rows of a spilled peal -/
  | spill (peal : Nat)
  /-- a member-table word: its entry index -/
  | memberTable (index : Nat)
  /-- the per-peal member state of a peal -/
  | memberState (peal : Nat)
  /-- a stash burst of a circuit port and group: the place of its first cell in the queue and how many cells it held -/
  | stash (port group first cells : Nat)
  /-- a ledger cache entry of a die -/
  | ledger (die : Nat)
  /-- no live extent -/
  | none
  deriving DecidableEq, Repr

/-- What link ECC reports of one read of a burst (R328). -/
inductive LinkEcc where
  | clean
  /-- a single-bit error -/
  | single
  | uncorrectable
  deriving DecidableEq, Repr

/-- A read of a burst that meets an LPDDR error: where it is, what lies there, what link ECC reports of the read and of its re-reads in order
(a read the list does not name is clean), and what inline ECC then judges the data. -/
structure MemUe where
  channel : Nat
  frame   : Nat
  target  : UeTarget
  link    : List LinkEcc
  ecc     : EccKind
  deriving DecidableEq, Repr

/-- The IEEE 1588 messages that reach the part (R367), with the stamps taken in the service-port PHY. `best` is the
outcome of the standard's best master clock algorithm over the masters heard. -/
inductive PtpMsg where
  /-- Announce of a master: its clock identity, its priority and whether the algorithm selects it -/
  | announce (identity : W64) (priority : Nat) (best : Bool)
  /-- Sync with its origin time and receive stamp -/
  | sync (identity : W64) (t1 t2 : BitVec 80)
  /-- Delay_Resp with the transmit stamp of the request and the master's receive stamp -/
  | delayResp (identity : W64) (t3 t4 : BitVec 80)
  /-- any message the ordinary slave clock does not use -/
  | other
  deriving DecidableEq, Repr

/-- How the regulators answered one setpoint write: for each of the five rails, how many transactions failed before
one was acknowledged; `none` when every retry failed (R477). -/
structure AvsAcks where
  fails : List (Option Nat)
  deriving DecidableEq, Repr

/-- The commands of the block: one constructor per row of the command table. -/
inductive Instr where
  /-- Opens a session, or reattaches to one, and forms the accepted feature map. (R388) -/
  | hello (m : Msg)
  /-- Closes the session, stops the event queue and shadow compare, and discards staged table edits. (R390) -/
  | goodbye (m : Msg)
  /-- Returns the requested identity, resource, channel or library page. (R403) -/
  | queryInfo (m : Msg)
  /-- Checks and installs a cabling plan, then re-judges port conformance at once. (R135) -/
  | planLoad (m : Msg)
  /-- Reports the plan status code of each configured port and the count for each code. (R136) -/
  | planStatus (m : Msg)
  /-- Copies the active route bank into the inactive bank and opens a table change. (R128) -/
  | tableBegin (m : Msg)
  /-- Checks the new bank and, at one cut, advances the epoch and starts the drain timer. (R128) -/
  | tableCommit (m : Msg)
  /-- Discards the edits of the open table change and closes it. (R128) -/
  | tableAbort (m : Msg)
  /-- Copies a range of the table window to host memory by DMA. (R395) -/
  | tableAccessRead (m : Msg)
  /-- Checks a range whole, then writes host data into the staging copies of locked segments. (R395) -/
  | tableAccessWrite (m : Msg)
  /-- Locks a range of segments all or nothing. (R395) -/
  | tableAccessLock (m : Msg)
  /-- Publishes the locked segments of a range at one cut. (R395) -/
  | tableAccessUnlock (m : Msg)
  /-- Clears the locks of a range without publishing the host edits. (R395) -/
  | tableAccessDiscard (m : Msg)
  /-- Configures, enables or disables a port, with its width, reach, credit profile and QoS record. (R33) -/
  | portConfig (m : Msg)
  /-- Replaces only the QoS record of a configured port, in any port state. (R139) -/
  | portConfigQosOnly (m : Msg)
  /-- Takes a DOWN port out of the configuration. (R403) -/
  | portConfigRemove (m : Msg)
  /-- Moves a port to the sticky FENCED state. (R61) -/
  | portFence (m : Msg)
  /-- Takes a FENCED port to DOWN, DAMPED, CHECK or TRAINING, as the conditions in force require. (R61) -/
  | portUnfence (m : Msg)
  /-- Holds a port in DAMPED until it is released. (R60) -/
  | portDampDamp (m : Msg)
  /-- Releases a port held in DAMPED, which then retrains. (R60) -/
  | portDampRelease (m : Msg)
  /-- Admits a job tag with its port mask at one cut. (R158) -/
  | jobAdmit (m : Msg)
  /-- At one cut, clears the tag's mask and multicast entries and retires its peals. (R160) -/
  | jobRetire (m : Msg)
  /-- Checks a peal descriptor and reserves its store and member space. (R165) -/
  | pealAdmit (m : Msg)
  /-- Checks the members and the twin, then arms the peal and opens its next round. (R491) -/
  | pealArm (m : Msg)
  /-- Moves a peal to RETIRING; the response follows its entry into FREE. (R174) -/
  | pealRetire (m : Msg)
  /-- Returns the state, worst-case figures and counters of a peal. (R403) -/
  | pealStatus (m : Msg)
  /-- Voids the peal's round with cause HOST, or sets the hold on a peal already VOIDED. (R174) -/
  | pealVoid (m : Msg)
  /-- Checks a shard descriptor, reserves both banks and makes the shard LOADING. (R274) -/
  | shardCreate (m : Msg)
  /-- Stores the hyperparameter block and TRAIN_STEP for a step of a KIND 5 peal. (R278) -/
  | stepParams (m : Msg)
  /-- Marks a pending step committed, or records commit on pending. (R290) -/
  | stepCommitCommit (m : Msg)
  /-- Voids a sealed or pending step with cause HOST so that it replays from SHARD_P. (R291) -/
  | stepCommitRollback (m : Msg)
  /-- Writes the slices of the committed or pending bank to host memory. (R294) -/
  | shardExport (m : Msg)
  /-- Writes host slices into the bank that is not live; with FINAL, makes that bank live and the shard READY. (R295) -/
  | shardImport (m : Msg)
  /-- Starts pairing with the twin named in the plan. (R304) -/
  | twinPairPair (m : Msg)
  /-- Returns the chip to SOLO. (R304) -/
  | twinPairUnpair (m : Msg)
  /-- Returns the pair state, the side and the rebuild progress. (R317) -/
  | twinStatus (m : Msg)
  /-- The host grants an ORPHAN chip the right to take over its twin's homes. (R313) -/
  | takeoverGrant (m : Msg)
  /-- Starts copying twinned shards from the survivor to a new twin. (R314) -/
  | twinRebuildStart (m : Msg)
  /-- Aborts a running rebuild. (R314) -/
  | twinRebuildAbort (m : Msg)
  /-- Checks a circuit schedule and installs it, or sets it as the successor of the active one. (R343) -/
  | circuitScheduleLoad (m : Msg)
  /-- Arms a circuit port, which stays dark until the first edge of its schedule. (R344) -/
  | circuitArmArm (m : Msg)
  /-- Disarms a circuit port at its next edge. (R345) -/
  | circuitArmDisarm (m : Msg)
  /-- Sets the enabled time sources and their parameters, then reselects. (R370) -/
  | timeSetSource (m : Msg)
  /-- Returns the time state, network time and FRC, read at one cut. (R371) -/
  | timeStatus (m : Msg)
  /-- Takes a global freeze and writes the counters into the next snapshot slot. (R456) -/
  | snapshot (m : Msg)
  /-- Copies health-ledger records of one die to host memory. (R468) -/
  | healthRead (m : Msg)
  /-- Copies entries of the on-chip event log to host memory. (R403) -/
  | eventRead (m : Msg)
  /-- Returns the staging record of each updatable part. (R433) -/
  | fwStageStatus (m : Msg)
  /-- Checks a staged image and activates it under PAUSE or HANDOVER, with a trial. (R426) -/
  | fwActivate (m : Msg)
  /-- Returns a quote over the nonce, signed with the identity key. (R422) -/
  | attest (m : Msg)
  /-- Checks a last and installs it at its activation point. (R27) -/
  | lastLoad (m : Msg)
  /-- Returns the running or pending last. (R403) -/
  | lastQuery (m : Msg)
  /-- Starts or stops comparison of the tables with the host's shadow copy. (R399) -/
  | shadowConfig (m : Msg)
  /-- A RING whose SEQID equals MBX_LAST_SEQ rewrites the saved response and executes nothing. (R381) -/
  | messageReplay (m : Msg)
  /-- A RING that arrives while the mailbox is BUSY is ignored and sets OVERRUN. (R380) -/
  | mailboxOverrun (mbx : Nat)
  /-- The host writes EQ_HEAD, freeing ring entries and ending the outstanding vector-0 signal. (R402) -/
  | eqHeadWrite (head : BitVec 16)
  /-- A write to a register that has no row of its own. (R5) -/
  | registerWrite (off : Nat) (data : Bytes)
  /-- Writing 1 to a lock bit copies the segment to its staging copy and locks it. (R392) -/
  | segmentLock (segs : List Nat)
  /-- Writing 0 to lock bits publishes the staging copies at one cut and applies the deferred hardware writes. (R392) -/
  | segmentUnlock (segs : List Nat)
  /-- A CXL.mem write to a window is applied to a staging copy or dropped with a cause. (R397) -/
  | cxlMemWrite (win : Window) (off : Nat) (data : Bytes)
  /-- The checker ends and sets the entry ADMITTED or REJECTED, posting an event. (R263) -/
  | programCheckDone (pid : Nat)
  /-- Opens a service-port session and exchanges nonces. (R424) -/
  | svcHello (dg : Dgram)
  /-- Returns the chip state, the boot reason and the staging records. (R424) -/
  | svcStatus (dg : Dgram)
  /-- Starts staging an image into the bank that is not selected. (R425) -/
  | stageBegin (dg : Dgram)
  /-- Receives one staging chunk, checks its SHA-256 and stores it. (R425) -/
  | stageData (dg : Dgram)
  /-- Checks the payload hash and marks the slot STAGED or INVALID. (R425) -/
  | stageEnd (dg : Dgram)
  /-- Discards the staging in progress. (R424) -/
  | stageAbort (dg : Dgram)
  /-- Returns a configuration record body. (R424) -/
  | configRead (dg : Dgram)
  /-- Writes a new configuration record with a higher WRITE_SEQ. (R431) -/
  | configWrite (dg : Dgram)
  /-- Sets or replaces the operator key, sealed under K_CFG. (R424) -/
  | setOpk (dg : Dgram)
  /-- Clears the operator key under a vendor token. (R424) -/
  | clearOpk (dg : Dgram)
  /-- Returns ledger records over the service port. (R468) -/
  | ledgerRead (dg : Dgram)
  /-- A service session idle for 60 s expires. (R423) -/
  | svcSessionIdle (session : Nat)
  /-- RESET_N low resets the whole module and idles every lane. (R484) -/
  | resetNAssert
  /-- Release of RESET_N starts the boot sequence. (R484) -/
  | resetNRelease (boot : BootRun)
  /-- The self-test items end and the chip leaves SELFTEST, or stays there. (R436) -/
  | selftestComplete (res : SelfTest)
  /-- PERST_N resets the CXL link, the session, staged edits and the event queue. (R374) -/
  | perstN
  /-- VDD_CORE below 0.66 V asserts warning and exposes the chunks concerned. (R445) -/
  | supplyWarning (die : Nat) (mv : Nat)
  /-- Warning clears after 100 µs at or above 0.67 V, and the exposed chunks are re-checked. (R445) -/
  | supplyWarningClear (die : Nat) (mv : Nat)
  /-- Warning held for more than 1 ms becomes a degrading condition. (R445) -/
  | supplyWarningHeld (die : Nat)
  /-- VDD_CORE below 0.58 V resets the module. (R446) -/
  | supplyReset (die : Nat) (mv : Nat)
  /-- Another supply more than 5 % low for 10 µs resets the module. (R473) -/
  | supplyFail (rail : Nat)
  /-- Loss of a fabric or CXL reference clock takes down its lanes or link. (R483) -/
  | refclkLoss (clk : RefClk)
  /-- Loss of the 25 MHz time reference moves time to FREE or DRIFTING. (R361) -/
  | trefLoss
  /-- A signal is detected on an enabled DOWN or ABSENT port, which starts training. (R60) -/
  | signalDetect (port : Nat)
  /-- RETRAIN_INTERVAL_MS elapses and the port starts training. (R60) -/
  | retrainInterval (port : Nat)
  /-- A training step completes and the next one starts, or the sequence completes and the port enters CHECK. (R55) -/
  | trainingStepDone (port : Nat) (res : TrainRes)
  /-- A training step fails or times out, and the sequence restarts. (R55) -/
  | trainingStepFail (port : Nat)
  /-- TRAIN_TIMEOUT_MS elapses in TRAINING and the port becomes ABSENT or DOWN. (R60) -/
  | trainTimeout (port : Nat)
  /-- Framing is found in 4 consecutive superframes and the lane declares lock. (R32) -/
  | pcsLock (lane : Nat)
  /-- Three consecutive misses lose lock and take an UP port to DAMPED. (R32) -/
  | pcsLossOfLock (lane : Nat)
  /-- At the end of the CHECK dwell, symbol error ratio and flight time are judged. (R60) -/
  | checkDwellEnd (port : Nat) (serPpm : Nat)
  /-- The DAMPED hold elapses and the port retrains. (R62) -/
  | dampHoldExpiry (port : Nat)
  /-- A symbol error ratio above SER_DAMP_PPM over 10 ms takes the port to DAMPED. (R60) -/
  | serDamp (port : Nat) (serPpm : Nat)
  /-- Stomps above STOMP_OFF_PPM over 1 ms stop speculation on the lane. (R47) -/
  | stompRateLimit (lane : Nat)
  /-- A port sends its periodic DISCOVERY cell. (R132) -/
  | discoverySend (port : Nat)
  /-- Two identical DISCOVERY cells judge the neighbour, giving UP, QUARANTINE or a status update. (R132) -/
  | discoveryReceive (port : Nat) (cell : Cell)
  /-- A good LCW updates ACK, credits, NAK, REFUSE and the peer state. (R41) -/
  | lcwReceive (lane : Nat) (lcw : BitVec 128)
  /-- Four consecutive lost LCWs are treated as retry exhaustion. (R43) -/
  | lcwLoss (lane : Nat)
  /-- No ACK or NAK within 250 ns + 2F starts a retry attempt. (R48) -/
  | retryTimeout (lane : Nat)
  /-- The FEC verdict of a codeword patches, withdraws or stomps forwarded cells, or makes the block bad. (R45) -/
  | codewordVerdict (lane : Nat) (v : Verdict)
  /-- Discards the target cell, and its followers when TAIL is set, stomping any that were forwarded. (R46) -/
  | stompReceive (lane : Nat) (cell : Cell)
  /-- A LINK STOMP makes the sender rewind and resend from the named LSN. (R48) -/
  | linkStompReceive (lane : Nat) (cell : Cell)
  /-- A received cell is checked, admitted and routed, or discarded. (R102) -/
  | cellReceive (lane : Nat) (slot : Nat) (cell : Cell)
  /-- At each 1,024 ns boundary the buckets refill and held cells are metered again. (R144) -/
  | policerRefill (port : Nat)
  /-- A new QoS record is installed at the first refill boundary after its acceptance. (R147) -/
  | qosRecordInstall (port : Nat)
  /-- A cell moves from the credited allocation into the shared pool and its credit is returned. (R70) -/
  | sharedPoolMove (block : Nat) (port : Nat) (vc : Nat)
  /-- A copy waiting in the pending list is placed once its VOQ is below its limit. (R90) -/
  | replicationPendingPlace (block : Nat)
  /-- A wave engine computes one matching of input blocks to output blocks. (R81) -/
  | schedulerWave (engine : Nat) (lost : SideLoss)
  /-- The block's local arbiter serves its VOQs for its own ports. (R77) -/
  | localArbitration (block : Nat)
  /-- The output block answers a CLAIM with C and reserves the entries and credits. (R84) -/
  | claim (block : Nat) (port : Nat) (vc : Nat) (len : Nat) (engine : Nat) (inBlock : Nat)
  /-- The input block binds C cells to the train and sends them. (R75) -/
  | claimReply (inBlock : Nat) (claim : Nat)
  /-- No reply within 200 ns, and the input block sends nothing on that way. (R85) -/
  | claimNoReply (inBlock : Nat) (claim : Nat)
  /-- A reservation unused for 1 µs is released. (R85) -/
  | reservationExpiry (block : Nat) (claim : Nat)
  /-- An engine that completes no wave within 10 µs is retired. (R85) -/
  | engineStall (engine : Nat)
  /-- A train enters the transmit store in train-number order, or waits. (R76) -/
  | trainArrival (block : Nat) (inBlock : Nat) (port : Nat) (vc : Nat) (number : Nat)
  /-- A VC0 cell crosses the hub express path. (R86) -/
  | expressForward (outBlock : Nat)
  /-- An output port chooses the cell for its next slot. (R142) -/
  | transmitSlot (port : Nat)
  /-- A seam frame fails its CRC and is retried go-back-N. (R11) -/
  | seamFrameCrcFail (seam : Nat) (dir : Nat) (lane : Nat)
  /-- A seam without spares narrows by one eighth, or fences a region below one half. (R12) -/
  | seamLaneLoss (seam : Nat) (dir : Nat)
  /-- A cell buffer ECC error is corrected, or the cell is discarded and the entry retired. (R72) -/
  | bufferEccError (e : EccError)
  /-- The epoch drain timer runs out and old-epoch cells are then discarded. (R129) -/
  | drainTimerExpiry
  /-- Every HEALTH_DECAY_US, mark scores decay and SCALE is recomputed. (R120) -/
  | healthDecayTick
  /-- A sample unmatched for HEALTH_HORIZON_MS is freed. (R118) -/
  | sampleExpiry (region : Nat)
  /-- An ECHO passing through is matched against the samples and updates MARK_SCORE. (R118) -/
  | echoCellTransit (cell : Cell)
  /-- A region's averaged seam load crosses AFFINITY_ON or AFFINITY_OFF. (R112) -/
  | seamLoadUpdate (region : Nat) (pct : Nat)
  /-- The holder accepts a WINDOW that advances LIMIT or ACK, or discards it as stale. (R154) -/
  | windowReceive (cell : Cell)
  /-- The holder resends unacknowledged cells and charges PATH_HEALTH. (R155) -/
  | windowTimeout (win : Nat)
  /-- The grantor repeats its WINDOW after a quarter of the timeout without cells. (R156) -/
  | windowRepeat (peal : Nat) (member : Nat)
  /-- The home judges a contribution and accepts it into the window or discards it. (R177) -/
  | pealContribReceive (cell : Cell)
  /-- The home echoes marks 2 µs after the first mark not yet echoed. (R152) -/
  | markEchoTimer (peal : Nat) (member : Nat)
  /-- A verdict commits a speculative entry or undoes it with UNACC. (R216) -/
  | verdictArrival (core : Nat) (good : Bool)
  /-- The home accepts a member's MAXEXP for a chunk. (R210) -/
  | pealExpReceive (cell : Cell)
  /-- The next chunk opens once its home region has a free slot. (R176) -/
  | chunkOpen (peal : Nat)
  /-- All owed cells of a chunk are in; residues and flags are checked and ON_CHUNK runs. (R178) -/
  | chunkComplete (peal : Nat) (chunk : Nat)
  /-- A result is released once its chunk is complete and every hold has passed. (R178) -/
  | resultRelease (peal : Nat) (chunk : Nat)
  /-- 2 × WINDOW_TIMEOUT_US after the last close cell, the step advances and the next round opens. (R174) -/
  | sealedExpiry (peal : Nat)
  /-- A delayed round opens once its guards are met: banks are bound, commits applied and WINDOWs sent. (R183) -/
  | roundOpen (peal : Nat)
  /-- STEP_WATCHDOG_MS elapses in RUNNING and the round is voided. (R184) -/
  | stepWatchdogExpiry (peal : Nat)
  /-- Every core has dropped the peal, the reservations are released, and it becomes FREE. (R174) -/
  | retireComplete (peal : Nat)
  /-- A repair request voids a SEALED round with cause RESULT_LOSS. (R181) -/
  | repairRequestReceive (cell : Cell)
  /-- The twin accumulates a forwarded contribution of a selected chunk. (R220) -/
  | spotFwdReceive (msg : TwinMsg)
  /-- The home compares the twin's chunk digest and passes the hold or voids. (R221) -/
  | spotDigestReceive (msg : TwinMsg)
  /-- No twin digest within WINDOW_TIMEOUT_US voids with cause SPOT_DUP. (R221) -/
  | spotDigestTimeout (peal : Nat) (chunk : Nat)
  /-- The core runs the contribution handler for an accepted cell. (R233) -/
  | onContrib (core : Nat) (peal : Nat) (x : Nat) (member : Nat)
  /-- The core runs the chunk handler for each row of a completed chunk. (R233) -/
  | onChunk (core : Nat) (peal : Nat) (x : Nat)
  /-- The core runs the step-end handler once its ordering conditions hold. (R235) -/
  | onStepEnd (core : Nat) (peal : Nat) (x : Nat)
  /-- The core abandons the peal's invocations and runs the void handler. (R237) -/
  | onVoid (core : Nat) (peal : Nat)
  /-- Loads from a read-only window. (R247) -/
  | ldc (core : Nat) (w : IWord)
  /-- Loads from ROW or PSTORE. (R247) -/
  | lds (core : Nat) (w : IWord)
  /-- Stores to PSTORE with an atomic combine. (R245) -/
  | sts (core : Nat) (w : IWord)
  /-- Loads from a shard slice. (R247) -/
  | ldm (core : Nat) (w : IWord)
  /-- Stores to the SHARD_N slice. (R247) -/
  | stm (core : Nat) (w : IWord)
  /-- Loads a sign-extended immediate into a scalar register. (R247) -/
  | ldi (core : Nat) (w : IWord)
  /-- Moves data between registers. (R253) -/
  | mov (core : Nat) (w : IWord)
  /-- Reads an invocation context value into a scalar register. (R232) -/
  | movCtx (core : Nat) (w : IWord)
  /-- Hands a result part to the release stage. (R247) -/
  | emit (core : Nat) (w : IWord)
  /-- Sends a contribution cell to another peal's home. (R247) -/
  | echo (core : Nat) (w : IWord)
  /-- Decodes the current cell and accumulates it into the row. (R248) -/
  | accxCell (core : Nat) (w : IWord)
  /-- Accumulates register lanes into the row and commits them. (R248) -/
  | accxVreg (core : Nat) (w : IWord)
  /-- Subtracts exactly what ACCX added. (R248) -/
  | unacc (core : Nat) (w : IWord)
  /-- Rounds accumulators once into a result format. (R248) -/
  | rndx (core : Nat) (w : IWord)
  /-- Checks the row residue and voids with cause RESIDUE on a mismatch. (R248) -/
  | chk (core : Nat) (w : IWord)
  /-- Sums the acting accumulator lanes exactly. (R248) -/
  | vsum (core : Nat) (w : IWord)
  /-- FP32 add. (R249) -/
  | fadd (core : Nat) (w : IWord)
  /-- FP32 subtract. (R249) -/
  | fsub (core : Nat) (w : IWord)
  /-- FP32 multiply. (R249) -/
  | fmul (core : Nat) (w : IWord)
  /-- FP32 fused multiply-add. (R249) -/
  | ffma (core : Nat) (w : IWord)
  /-- FP32 maximum. (R249) -/
  | fmax (core : Nat) (w : IWord)
  /-- FP32 minimum. (R249) -/
  | fmin (core : Nat) (w : IWord)
  /-- FP32 divide, verified by a separate unit. (R249) -/
  | fdiv (core : Nat) (w : IWord) (check : SelfCheck)
  /-- FP32 square root. (R249) -/
  | fsqrt (core : Nat) (w : IWord) (check : SelfCheck)
  /-- FP32 reciprocal square root, correctly rounded. (R249) -/
  | frsq (core : Nat) (w : IWord) (check : SelfCheck)
  /-- Scales by a power of two with one rounding. (R249) -/
  | fscl (core : Nat) (w : IWord)
  /-- FP32 absolute value. (R249) -/
  | fabs (core : Nat) (w : IWord)
  /-- FP32 negation. (R249) -/
  | fneg (core : Nat) (w : IWord)
  /-- FP32 clamp. (R249) -/
  | fclmp (core : Nat) (w : IWord)
  /-- Integer add. (R250) -/
  | iadd (core : Nat) (w : IWord)
  /-- Integer subtract. (R250) -/
  | isub (core : Nat) (w : IWord)
  /-- Signed integer maximum. (R250) -/
  | imax (core : Nat) (w : IWord)
  /-- Signed integer minimum. (R250) -/
  | imin (core : Nat) (w : IWord)
  /-- Bitwise AND. (R250) -/
  | andOp (core : Nat) (w : IWord)
  /-- Bitwise OR. (R250) -/
  | orOp (core : Nat) (w : IWord)
  /-- Bitwise XOR. (R250) -/
  | xorOp (core : Nat) (w : IWord)
  /-- Shift left. (R250) -/
  | shl (core : Nat) (w : IWord)
  /-- Logical shift right. (R250) -/
  | shr (core : Nat) (w : IWord)
  /-- Arithmetic shift right. (R250) -/
  | shrArith (core : Nat) (w : IWord)
  /-- Converts between binary32, BF16, FP16 and INT32. (R251) -/
  | cvt (core : Nat) (w : IWord)
  /-- Packs 64 values into an 8-bit format. (R251) -/
  | qnt (core : Nat) (w : IWord)
  /-- Decodes 8-bit elements into binary32 or INT32. (R251) -/
  | dqt (core : Nat) (w : IWord)
  /-- FP32 compare into a predicate. (R252) -/
  | fcmp (core : Nat) (w : IWord)
  /-- Integer compare into a predicate. (R252) -/
  | icmp (core : Nat) (w : IWord)
  /-- Selects lanes by predicate. (R252) -/
  | sel (core : Nat) (w : IWord)
  /-- Unconditional branch. (R252) -/
  | br (core : Nat) (w : IWord)
  /-- Branch on a predicate test. (R252) -/
  | brp (core : Nat) (w : IWord)
  /-- Waits until every earlier EMIT and ECHO has been accepted. (R252) -/
  | waitSend (core : Nat) (w : IWord)
  /-- Waits for another peal's sealed round and binds LINKRES to it. (R252) -/
  | waitLink (core : Nat) (w : IWord)
  /-- Waits for the invocation's earlier stores to complete. (R246) -/
  | fenceOp (core : Nat) (w : IWord)
  /-- Voids the round with cause PROGRAM. (R252) -/
  | voidOp (core : Nat) (w : IWord)
  /-- Ends the invocation. (R252) -/
  | endInv (core : Nat) (w : IWord)
  /-- Forms Q_p and the chip contribution Q once the round's ON_CHUNK invocations have ended. (R280) -/
  | normPartialForm (tag : Nat) (normPeal : Nat) (trainStep : Nat)
  /-- Resends the norm contribution every WINDOW_TIMEOUT_US until its result arrives. (R281) -/
  | normResend (tag : Nat) (normPeal : Nat)
  /-- The norm home stores Q, repeats the result or flags a conflict, and seals the record. (R282) -/
  | normContribReceive (cell : Cell)
  /-- A contributor accepts the norm total matching its t and TRY. (R282) -/
  | normResultReceive (cell : Cell)
  /-- The twin keeps a copy of a norm record entry. (R283) -/
  | normCopyReceive (msg : TwinMsg)
  /-- A Welt port sends its periodic PAIR_HELLO. (R299) -/
  | pairHelloSend (wp : Nat)
  /-- Judges the Welt port's twin identity and the pair's agreement. (R305) -/
  | pairHelloReceive (wp : Nat) (msg : TwinMsg)
  /-- Sends a HEARTBEAT every 1 µs. (R307) -/
  | heartbeatSend
  /-- A heard twin resumes pairing, or yields or takes over by its state. (R307) -/
  | heartbeatReceive (msg : TwinMsg)
  /-- No HEARTBEAT for WELT_DEAD_US moves the pair to SOLO or ORPHAN. (R307) -/
  | heartbeatLoss
  /-- A DYING message takes over the twin's whole chip or the named regions. (R311) -/
  | dyingReceive (msg : TwinMsg)
  /-- The takeover completes and the chip enters SOLO. (R312) -/
  | homesReassigned
  /-- Applies the twin's round open, void, rollback or commit. (R308) -/
  | roundCtlReceive (msg : TwinMsg)
  /-- Applies the agree or differ verdict of the twin digests. (R310) -/
  | verdictReceive (msg : TwinMsg)
  /-- Sends the in-order TSEQ of each VC every 1 µs. (R301) -/
  | twinAckSend
  /-- Frees the acknowledged TWIN cells. (R301) -/
  | twinAckReceive (msg : TwinMsg)
  /-- Resends an unacknowledged TWIN cell 4 µs after its last sending. (R301) -/
  | twinResend (vc : Nat) (tseq : BitVec 32)
  /-- Compares the peal descriptor, member digest and bank digest with the twin's. (R172) -/
  | armCheckReceive (msg : TwinMsg)
  /-- Writes mirrored accumulators into the staging area and starts the mirrored ON_STEP_END. (R308) -/
  | mirrorRowReceive (msg : TwinMsg)
  /-- Sends the SHARD_N unit digests once ON_STEP_END has ended everywhere. (R310) -/
  | digestsSend (shard : Nat)
  /-- Side 0 compares the digests and sends VERDICT. (R310) -/
  | digestsReceive (msg : TwinMsg)
  /-- The twin's digests missing for STEP_WATCHDOG_MS void with cause TWIN_DIGEST. (R310) -/
  | digestsMissing (shard : Nat)
  /-- Writes copied slices into a bank for rebuild or repair. (R314) -/
  | copyDataReceive (msg : TwinMsg)
  /-- Begins, ends, aborts or completes a shard copy. (R314) -/
  | copyCtlReceive (msg : TwinMsg)
  /-- Answers a slice repair request with COPY_DATA. (R315) -/
  | sliceReqReceive (msg : TwinMsg)
  /-- A peal not joined within REBUILD_HOLD_MS aborts its copy and opens its round. (R314) -/
  | rebuildHoldExpiry (peal : Nat)
  /-- A Welt port sends its periodic PROBE. (R299) -/
  | probeSend (wp : Nat)
  /-- Answers a PROBE with a PROBE_ECHO. (R299) -/
  | probeReceive (wp : Nat) (msg : TwinMsg) (stamp : BitVec 80)
  /-- Computes the Welt flight time d. (R299) -/
  | probeEchoReceive (wp : Nat) (msg : TwinMsg) (stamp : BitVec 80)
  /-- A peer not UP takes an UP Welt port to CHECK. (R299) -/
  | weltFenceReceive (wp : Nat) (msg : TwinMsg)
  /-- A DAMPED or FENCED port sends FENCE every 10 µs. (R440) -/
  | fenceSend (port : Nat)
  /-- A peer state moves an UP port to CHECK; a leaf report counts toward or withdraws from the quorum. (R441) -/
  | fenceCellReceive (port : Nat) (cell : Cell)
  /-- A patrol read corrects a burst, or poisons it. (R329) -/
  | patrolScrub (channel : Nat) (frame : Nat) (burst : Nat) (res : EccKind) (target : UeTarget)
  /-- An uncorrectable LPDDR error is handled by its pool. (R332) -/
  | memoryUe (ue : MemUe)
  /-- Every 64 ms, WCK-to-DQ drift is corrected. (R334) -/
  | dqsTracking (channel : Nat) (ok : Bool)
  /-- Every 16 ms, the refresh multiplier is set from MR4 and LAST_THERMAL. (R335) -/
  | mr4Read (package : Nat) (code : Nat) (mr4Mult : Nat) (tempC : Nat)
  /-- A stash record is written when full, or 2 µs after its first cell. (R346) -/
  | stashRecordWrite (port : Nat) (group : Nat)
  /-- A cell waiting at the stash writer enters its queue once a record is free. (R347) -/
  | stashWriterWait (port : Nat)
  /-- At T − 2 µs, stash release stops. (R350) -/
  | edgeReleaseStop (port : Nat)
  /-- At T − 1.5 µs and T − 1.0 µs, a CIRCUIT notice is sent. (R352) -/
  | circuitNoticeSend (port : Nat)
  /-- At T − 0.5 µs, no further resend starts. (R350) -/
  | edgeResendStop (port : Nat)
  /-- At T, the lanes idle, unacknowledged cells are rewound, credits are cleared, and the port goes DOWN. (R350) -/
  | slotEdge (port : Nat)
  /-- At T + SWITCH_NS, a circuit slot starts WARM or FULL training. (R350) -/
  | switchSettled (port : Nat)
  /-- A slot not UP by RELOCK_LIMIT_US fails. (R353) -/
  | relockLimitExpiry (port : Nat)
  /-- FULL training incomplete by T + LEN_US − 2 µs fails the slot. (R353) -/
  | fullTrainDeadline (port : Nat)
  /-- Compares the notified edge with the local one and counts EDGE_SKEW. (R352) -/
  | circuitNoticeReceive (port : Nat) (cell : Cell)
  /-- Sends ANNOUNCE every 100 µs. (R365) -/
  | announceSend (port : Nat)
  /-- Updates the neighbour's ranking and reselects the time source. (R362) -/
  | announceReceive (port : Nat) (cell : Cell)
  /-- A peer source with no ANNOUNCE for 300 µs is no longer selectable. (R362) -/
  | announceTimeout (port : Nat)
  /-- Sends a stamped REQ. (R365) -/
  | timingReqSend (port : Nat)
  /-- Answers a REQ with a stamped RESP. (R365) -/
  | timingReqReceive (port : Nat) (cell : Cell) (stamp : BitVec 80)
  /-- Computes o and d and accepts or rejects the measurement. (R365) -/
  | timingRespReceive (port : Nat) (cell : Cell) (stamp : BitVec 80)
  /-- A PPS_IN edge is sampled and measured. (R366) -/
  | ppsInEdge (frcQ : Nat)
  /-- 2.5 s without an accepted edge loses PPS_IN. (R366) -/
  | ppsInLoss
  /-- Handles an IEEE 1588 message on the service port. (R367) -/
  | ptpMessage (p : PtpMsg)
  /-- Three announce intervals without an Announce lose the master. (R367) -/
  | ptpMasterLoss
  /-- HOLDOVER_MS elapses and time enters DRIFTING. (R361) -/
  | holdoverExpiry
  /-- PPS_OUT rises at the network second. (R369) -/
  | ppsOutEdge
  /-- PPS_OUT falls after 1 ms. (R369) -/
  | ppsOutEnd
  /-- A control core that misses 10 ms of signals has crashed. (R407) -/
  | coreWatchdogMiss (core : Nat)
  /-- The warden has reloaded and released a crashed core. (R408) -/
  | coreRestartComplete (core : Nat)
  /-- A lockstep mismatch restarts the warden from ROM. (R407) -/
  | wardenCompareMismatch (restartOk : Bool)
  /-- TRIAL_S passes without a crash and the trial commits. (R430) -/
  | trialExpiry
  /-- The cores restart into the new firmware and the control plane resumes. (R428) -/
  | pauseRestartComplete
  /-- Mailbox service moves to the new instances at one cut. (R429) -/
  | handoverCut
  /-- No cut within 2 s stops the new instances. (R429) -/
  | handoverTimeout
  /-- Every 10 µs, the region throughput index is recomputed. (R17) -/
  | throughputIndexRefresh (region : Nat) (rates : List Nat)
  /-- Every 1 µs, the derated rate D_r is formed. (R480) -/
  | derateCompute
  /-- A monitor more than 5 % below the median for 100 µs posts an event. (R447) -/
  | delayExcursion (region : Nat) (monitor : Nat) (rate : Nat)
  /-- Steps the core voltage setpoint. (R476) -/
  | setpointStep (acks : AvsAcks)
  /-- Every 100 µs, Tj is sampled and warning or trip is applied. (R448) -/
  | tjSample (die : Nat) (tj8 : Int)
  /-- A pending LAST_CELLFMT takes effect when no job tag is admitted. (R64) -/
  | lastCellfmtActivate
  /-- Reads and compares the host shadow of the tables. (R400) -/
  | shadowPass
  /-- After 1 ms, re-reads a differing segment and raises TABLE_DRIFT. (R400) -/
  | shadowRecheck (seg : Nat)
  /-- A die latches its counters at the first freeze marker and forwards markers. (R456) -/
  | freezeMarkerArrival (die : Nat)
  /-- Writes the hourly ledger records. (R464) -/
  | ledgerHourly (die : Nat) (eyes : List Nat)
  /-- Writes the daily histogram records. (R464) -/
  | ledgerDaily (die : Nat)
  /-- Appends cached ledger records to flash. (R465) -/
  | ledgerFlush (die : Nat)
  /-- A control core stops on a kernel fault or takes an uncorrectable error in its local memory or journal, has crashed, and the warden restarts it. (R407) -/
  | coreCrash (core : Nat)
  /-- An uncorrectable error in warden memory or in the measured images in hub SRAM takes the chip to DAMPED. (R439) -/
  | uncorrectableHubState (loc : HubLoc)
  /-- A leaf's down-report that is older than 10 ms stops counting toward the leaf quorum. (R311) -/
  | leafReportExpiry (chip : BitVec 64)
  /-- A fault report from the SerDes firmware in its trial reverts part 2 to its previous selection. (R430) -/
  | serdesFirmwareFault
  /-- While no service-port link is up, the port switches between 25GBASE-R and 1000BASE-X every 1 s. (R486) -/
  | servicePortLinkAttempt (linkUp : Bool)
  deriving DecidableEq, Repr

end Sys2Proof
end

