-- ==== Sys2Proof/Decode.lean ====
section
/-! DEFINITION. Decode.lean: the commands by the bits of the command table. -/
namespace Sys2Proof

/-- The command a word spells by the bits of spec/opcode_table.json. Every row of the table gives no bits, so no word
spells a command. -/
def decodeTableWord (_nbits _w : Nat) : Option Instr := none

end Sys2Proof
end

