-- ==== Sys2Proof/Machine/Bits.lean ====
section
/-! DEFINITION. Machine/Bits.lean: bit fields, byte order, CRCs, keyed tables and byte memories that every chapter uses. -/
namespace Sys2Proof.Machine

/-- Bits `[lo + w - 1 : lo]` of a number. -/
def field (v lo w : Nat) : Nat := v / 2 ^ lo % 2 ^ w

/-- A value placed at bit `lo`, cut to `w` bits. -/
def place (v lo w : Nat) : Nat := v % 2 ^ w * 2 ^ lo

/-- Replace bits `[lo + w - 1 : lo]` of `v`. -/
def setField (v lo w x : Nat) : Nat := v - place (field v lo w) lo w + place x lo w

/-- One bit of a number. -/
def bit (v i : Nat) : Bool := v / 2 ^ i % 2 == 1

/-- A truth value as a bit. -/
def b2n (b : Bool) : Nat := if b then 1 else 0

/-- Signed reading of a `w`-bit number. -/
def signed (v w : Nat) : Int := if v % 2 ^ w < 2 ^ (w - 1) then (v % 2 ^ w : Nat) else (v % 2 ^ w : Nat) - (2 ^ w : Nat)

/-- Two's complement of an integer in `w` bits. -/
def twos (x : Int) (w : Nat) : Nat := (x % (2 ^ w : Nat)).toNat

/-- Ceiling of a quotient (0 for a zero divisor). -/
def ceilDiv (a b : Nat) : Nat := if b = 0 then 0 else (a + b - 1) / b

/-- Largest `k` with `2 ^ k ≤ n` (0 for 0). -/
def ilog2 (n : Nat) : Nat := Nat.log2 n

/-- Smallest `k` with `n ≤ 2 ^ k`. -/
def clog2 (n : Nat) : Nat := if n ≤ 1 then 0 else Nat.log2 (n - 1) + 1

/-! Little-endian byte strings (conventions of spec/00_scope.md). -/

/-- The number a byte string spells, little-endian. -/
def leNat : Bytes → Nat
  | [] => 0
  | b :: bs => b.toNat + 256 * leNat bs

/-- `n` bytes of a number, little-endian. -/
def toLE : Nat → Nat → Bytes
  | 0, _ => []
  | n + 1, v => BitVec.ofNat 8 v :: toLE n (v / 256)

/-- `n` bytes of a number, most significant first. -/
def toBE (n v : Nat) : Bytes := (toLE n v).reverse

/-- The number a byte string spells, most significant byte first. -/
def beNat (b : Bytes) : Nat := leNat b.reverse

/-- The little-endian field of `n` bytes at byte `off` (bytes past the end read zero). -/
def le (b : Bytes) (off n : Nat) : Nat := leNat ((b.drop off).take n)

/-- The byte at `off` (zero past the end). -/
def byteAt (b : Bytes) (off : Nat) : Nat := (b.getD off 0).toNat

/-- `n` zero bytes. -/
def zeros (n : Nat) : Bytes := List.replicate n 0

/-- A byte string cut or zero-padded to `n` bytes. -/
def fit (n : Nat) (b : Bytes) : Bytes := (b.take n) ++ zeros (n - b.length)

/-- Replace the bytes from `off` on by `x` (the string keeps its length when `x` lies inside). -/
def putBytes (b : Bytes) (off : Nat) (x : Bytes) : Bytes := b.take off ++ x ++ b.drop (off + x.length)

/-- Replace a little-endian field of `n` bytes. -/
def putLE (b : Bytes) (off n v : Nat) : Bytes := putBytes b off (toLE n v)

/-- The bytes `[off, off + n)` are all zero. -/
def zeroAt (b : Bytes) (off n : Nat) : Bool := ((b.drop off).take n).all (· == 0)

/-! Checks in order: the first failing one answers. -/

/-- The first answer of a list of checks. (DEDUCED, log entry 51). -/
def firstOf {α : Type} : List (Option α) → Option α
  | [] => none
  | some a :: _ => some a
  | none :: t => firstOf t

/-- A check: answer `a` when the condition fails. -/
def need {α : Type} (ok : Bool) (a : α) : Option α := if ok then none else some a

/-! Cyclic redundancy checks. -/

/-- One bit step of the reflected CRC-32C register (polynomial 0x1EDC6F41). -/
def crc32cBit (c : Nat) : Nat := if c % 2 = 1 then (c / 2) ^^^ 0x82F63B78 else c / 2

/-- One byte into the CRC-32C register. -/
def crc32cByte (c : Nat) (b : Byte) : Nat :=
  crc32cBit (crc32cBit (crc32cBit (crc32cBit (crc32cBit (crc32cBit (crc32cBit (crc32cBit (c ^^^ b.toNat))))))))

/-- CRC-32C of a byte string: initial and final inversion, reflected (R37). -/
def crc32c (b : Bytes) : Nat := (b.foldl crc32cByte 0xFFFFFFFF) ^^^ 0xFFFFFFFF

/-- One bit step of a CRC-16 with polynomial `poly`, most significant bit first. -/
def crc16Bit (poly c : Nat) (b : Bool) : Nat :=
  if (bit c 15) != b then (c * 2 % 65536) ^^^ poly else c * 2 % 65536

/-- CRC-16 of `n` bits of `v`, most significant first, from register `init`. -/
def crc16Bits (poly init : Nat) : Nat → Nat → Nat
  | 0, _ => init
  | n + 1, v => crc16Bit poly (crc16Bits poly init n (v / 2)) (v % 2 == 1)

/-! Keyed tables: strictly rising keys. -/

/-- Sparse data by key. -/
abbrev Tbl (α : Type) := List (Nat × α)

/-- The entry under a key. -/
def Tbl.look? {α : Type} : Tbl α → Nat → Option α
  | [], _ => none
  | (j, a) :: t, k => if j = k then some a else Tbl.look? t k

/-- The entry under a key, or a default. -/
def Tbl.look {α : Type} (t : Tbl α) (k : Nat) (d : α) : α := (t.look? k).getD d

/-- Set the entry under a key, keeping the keys rising. -/
def Tbl.put {α : Type} : Tbl α → Nat → α → Tbl α
  | [], k, a => [(k, a)]
  | (j, b) :: t, k, a => if k < j then (k, a) :: (j, b) :: t else if k = j then (k, a) :: t else (j, b) :: Tbl.put t k a

/-- Remove the entry under a key. -/
def Tbl.del {α : Type} (t : Tbl α) (k : Nat) : Tbl α := t.filter (fun e => e.1 != k)

/-- Change the entry under a key, from a default where it has none. -/
def Tbl.upd {α : Type} (t : Tbl α) (k : Nat) (d : α) (f : α → α) : Tbl α := t.put k (f (t.look k d))

/-- Change the entry under a key if it is there. -/
def Tbl.mod {α : Type} (t : Tbl α) (k : Nat) (f : α → α) : Tbl α := t.map fun e => if e.1 = k then (e.1, f e.2) else e

/-- The keys, rising. -/
def Tbl.keys {α : Type} (t : Tbl α) : List Nat := t.map (·.1)

/-- A number put into a rising list without repeats. -/
def insertNat (x : Nat) : List Nat → List Nat
  | [] => [x]
  | y :: t => if x < y then x :: y :: t else if x = y then y :: t else y :: insertNat x t

/-! Byte memories in one canonical form. -/

/-- A byte memory: the bytes that differ from what an unlisted address reads as, addresses strictly rising. -/
abbrev Memory := List Host.Cell

/-- Read one byte; `d` says what an unlisted address reads as. -/
def Memory.read (d : Nat → Byte) : Memory → Nat → Byte
  | [], a => d a
  | (j, b) :: t, a => if j = a then b else Memory.read d t a

/-- Drop the entry of an address. -/
def Memory.drop1 : Memory → Nat → Memory
  | [], _ => []
  | (j, b) :: t, a => if j = a then t else (j, b) :: Memory.drop1 t a

/-- Enter a byte at an address, keeping the addresses rising. -/
def Memory.enter : Memory → Nat → Byte → Memory
  | [], a, v => [(a, v)]
  | (j, b) :: t, a, v => if a < j then (a, v) :: (j, b) :: t else if a = j then (a, v) :: t else (j, b) :: Memory.enter t a v

/-- Write one byte; the value an unlisted address reads as removes the entry. -/
def Memory.write (d : Nat → Byte) (m : Memory) (a : Nat) (v : Byte) : Memory :=
  if v = d a then Memory.drop1 m a else Memory.enter m a v

/-- Write a byte string from an address up. -/
def Memory.writes (d : Nat → Byte) : Memory → Nat → Bytes → Memory
  | m, _, [] => m
  | m, a, v :: vs => Memory.writes d (Memory.write d m a v) (a + 1) vs

/-- Read `n` bytes from an address up. -/
def Memory.reads (d : Nat → Byte) (m : Memory) (a n : Nat) : Bytes := (List.range n).map fun i => Memory.read d m (a + i)

/-- The entries are at rising addresses, the first at or above `lo`, and none reads as an unlisted address would. -/
def Memory.wfFrom (d : Nat → Byte) : Nat → Memory → Bool
  | _, [] => true
  | lo, (a, v) :: t => decide (lo ≤ a) && v != d a && Memory.wfFrom d (a + 1) t

/-- The canonical form. -/
def Memory.wf (d : Nat → Byte) (m : Memory) : Bool := Memory.wfFrom d 0 m

/-- An unlisted address reads zero. (DESIGN CHOICE, log entry 10). -/
def zeroDefault (_ : Nat) : Byte := 0

/-- Copy of a memory with the entries of `[lo, lo + n)` dropped (they read as unlisted again). -/
def Memory.clear (m : Memory) (lo n : Nat) : Memory := m.filter fun e => !(decide (lo ≤ e.1) && decide (e.1 < lo + n))

/-- The entries of `[lo, lo + n)`, moved down to offset 0. -/
def Memory.slice (m : Memory) (lo n : Nat) : Memory :=
  (m.filter fun e => decide (lo ≤ e.1) && decide (e.1 < lo + n)).map fun e => (e.1 - lo, e.2)

end Sys2Proof.Machine
end

