-- ==== Sys2Proof/Machine/TypesPeal.lean ====
section
/-! DEFINITION. Machine/TypesPeal.lean: the state of peals, members, chunks, rows, shards, norm exchanges and peal cores (chapters 06 to 09). -/
namespace Sys2Proof.Machine

/-- An exact element value: a NaN, an infinity, or ±m × 2^e with the sign of a zero kept (R197, R203). -/
inductive Elt where
  | nan
  | inf (neg : Bool)
  | fin (neg : Bool) (m : Nat) (e : Int)
  deriving DecidableEq, Repr, Inhabited

/-- The peal states (R173), in the order of their codes. -/
inductive PealSt where
  | free | admitted | armed | running | sealed | voided | retiring
  deriving DecidableEq, Repr, Inhabited

/-- A row of the peal store (R199 to R204): one accumulator per element lane as an exact integer, the extremes of a MAX or MIN
row, the payload and SIDE of a copy row, and the row state. -/
structure Row where
  acc    : List Int := []
  ext    : List (Option Elt) := []
  copy   : Bytes := []
  copySide : Nat := 0
  lane   : List Nat := []
  resIn  : Nat := 0
  sat    : Bool := false
  nan    : Bool := false
  inf    : Bool := false
  spec   : Nat := 0
  loss   : Nat := 0
  deriving DecidableEq, Repr, Inhabited

/-- A data cell waiting for its chunk's anchor (R212), with its contributor. -/
structure Parked where
  cell   : Cell
  member : Nat
  deriving DecidableEq, Repr, Inhabited

/-- The hold of spot duplication on a chunk (R220, R221). -/
inductive Spot where
  | none
  | waiting
  | passed
  deriving DecidableEq, Repr, Inhabited

/-- An open or done chunk of a home (R176, R178): its anchor once resolved, the MAXEXP of each contributor heard (R210), the rows
by cell position, the cells parked, and how far it has come: `ended` lists the rows whose ON_CHUNK has ended,
`released` says that its slot is free again, `sent` that its results are released, `satted` that it counted SAT; `supply` says that a supply warning exposes it, `tainted` that a program
formed results of it meanwhile (R445). -/
structure Chunk where
  anchor   : Option Int := none
  exps     : Tbl Int := []
  rows     : Tbl Row := []
  parked   : List Parked := []
  complete : Bool := false
  ended    : List Nat := []
  released : Bool := false
  sent     : Bool := false
  satted   : Bool := false
  spot     : Spot := .none
  digest   : Option W64 := none
  twinDig  : Option W64 := none
  doneAt   : Nat := 0
  supply   : Bool := false
  tainted  : Bool := false
  deriving DecidableEq, Repr, Inhabited

/-- The window a home keeps for a contributor (R176). -/
structure MemberWin where
  ack     : Nat := 0
  got     : List Nat := []
  exps    : List Nat := []
  sentAck : Nat := 0
  sentLim : Nat := 0
  heardAt : Nat := 0
  deriving DecidableEq, Repr, Inhabited

/-- Marks of a member's accepted cells not yet echoed (R152): how many, the CELL of the latest, and when the first came. -/
structure Marks where
  n    : Nat := 0
  cell : Nat := 0
  at_  : Nat := 0
  deriving DecidableEq, Repr, Inhabited

/-- A result part handed to the release stage (R247): part, payload, SIDE. -/
structure Part where
  part    : Nat
  payload : Bytes
  side    : Nat
  deriving DecidableEq, Repr, Inhabited

/-- A block of STEP_PARAMS (R278). -/
structure Params where
  train : Nat
  block : Bytes
  deriving DecidableEq, Repr, Inhabited

/-- A peal (R164, R173 to R192). `isOpen` says that a round is open, `waiting` that an opening is delayed, `wasAdmitted` that the
next opening is the first after PEAL_ARM from ADMITTED; `openAt` keeps when each ROUND value was last opened; `closers` the
destinations already sent to, with the cells sent; `outs` the result parts that wait for release; `ended` the ON_STEP_END
invocations that have ended (cell positions for KIND 5, cores otherwise), `landed` and `mirEnded` the mirrored positions; `fasOpen` the lookup at the last round opening (R293); `waits` since when each reason
has delayed the opening (0 R183, 1 parameters, 2 commit), `rejoins` whether it takes STEP and ROUND from the survivor's next OPEN (R314), `twinReady` the round, step and parameter CRC side 1 has last said it can open, `linkNew` the result
cells of the open round that reached this chip, LINKRES once it seals, `opened` the latest step a round has opened for, `noPlace` a spilled row that lost its place for good (R332), `ready` whether side 1 has told side 0 that it can open. -/
structure Peal where
  desc      : BitVec 512 := 0
  st        : PealSt := .free
  cause     : Nat := 0
  round     : Nat := 0
  isOpen    : Bool := false
  waiting   : Bool := false
  waits     : Tbl Nat := []
  ready     : Bool := false
  wasAdmitted : Bool := false
  heldRebuild : Bool := false
  step      : Nat := 0
  openAt    : Tbl Nat := []
  runAt     : Nat := 0
  replays   : Nat := 0
  spilled   : Bool := false
  granules  : List Nat := []
  storeWin  : Nat := 0
  fas       : Tbl Nat := []
  fasOpen   : Tbl Nat := []
  due       : List Nat := []
  catchAll  : Bool := false
  wins      : Tbl MemberWin := []
  marks     : Tbl Marks := []
  chunks    : Tbl Chunk := []
  nextOpen  : Nat := 0
  spotRows  : Tbl Chunk := []
  sat       : Bool := false
  nan       : Bool := false
  inf       : Bool := false
  loss      : Nat := 0
  closers   : Tbl Nat := []
  outs      : Tbl (List Part) := []
  ended     : List Nat := []
  landed    : List Nat := []
  mirEnded  : List Nat := []
  closeAt   : Nat := 0
  linkStep  : Option Nat := none
  linkRes   : Tbl Bytes := []
  linkNew   : Tbl Bytes := []
  params    : Tbl Params := []
  mismatch  : Bool := false
  joined    : Bool := false
  rejoins   : Bool := false
  twinCommit : Option Nat := none
  twinReady : Option (Nat × Nat × Nat) := none
  agreed    : Bool := false
  freeAt    : Option Nat := none
  noPlace   : Bool := false
  oldTag    : Nat := 0
  oldDog    : Nat := 0
  retireMbx : List (Fin 8) := []
  armMbx    : List (Fin 8) := []
  opened    : Option Nat := none
  deriving DecidableEq, Repr, Inhabited

/-- The shard states (R270), in the order of their codes. -/
inductive ShardSt where
  | free | loading | ready | bound | lost
  deriving DecidableEq, Repr, Inhabited

/-- A shard (R270 to R297) beside its descriptor: the part-set fields, the pending step, commit marks, the next import position,
the start s of its placement, and the export that reads a bank. -/
structure Shard where
  desc      : BitVec 512 := 0
  st        : ShardSt := .free
  live      : Nat := 0
  pending   : Bool := false
  peal      : Nat := 0
  step      : W64 := 0
  train     : W64 := 0
  pendStep  : Nat := 0
  pendTrain : Nat := 0
  committed : Bool := false
  early     : Option Nat := none
  nextCell  : Nat := 0
  start     : Nat := 0
  records   : List (Nat × Nat) := []
  copied    : Bool := false
  badSlices : List (Nat × Nat) := []
  deriving DecidableEq, Repr, Inhabited

/-- The norm contribution of a chip for one (TAG, NORM_PEAL) group and one TRAIN_STEP (R280 to R282). -/
structure NormStep where
  partials : Tbl Nat := []
  tries    : Nat := 0
  sum      : Option Nat := none
  result   : Option Bytes := none
  deriving DecidableEq, Repr, Inhabited

/-- A record of a norm home (R282, R283): Qs by contributor FA, whether each copy is acknowledged, the total once sealed. -/
structure NormRec where
  tryNo   : Nat := 0
  qs      : Tbl Nat := []
  covers  : List Nat := []
  uncopied : List (Nat × W32) := []
  total   : Option Nat := none
  deriving DecidableEq, Repr, Inhabited

/-- The norm home of one NORM_PEAL (R274, R282). -/
structure NormHome where
  tag     : Nat := 0
  list    : List (Nat × Nat) := []
  recs    : Tbl NormRec := []
  deriving DecidableEq, Repr, Inhabited

/-- A lane of an A register: its 128-bit value and its tag (R230, R231). -/
structure ALane where
  val : Int := 0
  tag : Nat := 0
  deriving DecidableEq, Repr, Inhabited

/-- A running program invocation (R230 to R233): entry point 0 ON_CONTRIB, 1 ON_CHUNK, 2 ON_STEP_END, 3 ON_VOID; V registers as
16 × 32 lanes, A registers as 4 × 32 lanes; the instruction index, the target and taken count of each backward branch, the parts emitted, the
SAT raised, the peal bound to LINKRES; the step and round it belongs to and, for ON_VOID, the cause. `mirror` marks a mirrored ON_STEP_END (R308), `stuck` one at a WAIT LINK not satisfied. -/
structure Inv where
  peal    : Nat
  entry   : Nat
  x       : Nat
  member  : Nat := 0
  cell    : Option Cell := none
  v       : List W32 := List.replicate 512 0
  a       : List ALane := List.replicate 128 {}
  s       : List W32 := List.replicate 16 0
  p       : List W32 := List.replicate 4 0
  pc      : Nat := 0
  taken   : Tbl (Nat × Nat) := []
  parts   : List Part := []
  sat     : Bool := false
  link    : Option Nat := none
  cause   : Nat := 0
  round   : Nat := 0
  step    : Nat := 0
  mirror  : Bool := false
  stuck   : Bool := false
  deriving DecidableEq, Repr, Inhabited

/-- An entry of a core's undo ring (R215): the peal, the cell with its contributor as found at receipt, and its block. -/
structure Undo where
  cell   : Cell
  peal   : Nat
  round  : Nat
  bad    : Bool
  deriving DecidableEq, Repr, Inhabited

/-- A peal core, by its index 132r + k of R458 (R226 to R237): the running invocation, its undo ring, ON_VOID invocations due (peal, cause, round, step), contributions
whose handler has not run yet, the times of its core faults, and whether it is retired. -/
structure Core where
  inv     : Option Inv := none
  ring    : List Undo := []
  voids   : List (Nat × Nat × Nat × Nat) := []
  queue   : List (Nat × Nat × Cell) := []
  faults  : List Nat := []
  retired : Bool := false
  deriving DecidableEq, Repr, Inhabited

/-- The peal cores' side of the chip: cores, which physical core serves an index that is not its own (R227), shards, norm groups of this
chip (keyed 4,096 × TAG + NORM_PEAL, then by TRAIN_STEP) and norm homes. -/
structure Spine where
  cores  : Tbl Core := []
  served : Tbl Nat := []
  shards : Tbl Shard := []
  norms  : Tbl (Tbl NormStep) := []
  homes  : Tbl NormHome := []
  lost   : List Cell := []
  residue : Tbl (List Nat) := []
  deriving DecidableEq, Repr, Inhabited

end Sys2Proof.Machine
end

