-- ==== Sys2Proof/Machine/Exact.lean ====
section
/-! DEFINITION. Machine/Exact.lean: number formats, the two roundings of exact reduction, lane states, result encoding, binary32 arithmetic and the CRC-64 (chapters 07, 08, 10). -/
namespace Sys2Proof.Machine

/-! Rounding of exact quotients: num / den × 2^e with num and den natural. -/

/-- The integer nearest to a / b, ties to even. -/
def rneQuot (a b : Nat) : Nat :=
  let q := a / b
  let r := a % b
  if 2 * r < b then q else if b < 2 * r then q + 1 else q + q % 2

/-- The integer nearest to num / den × 2^k, ties to even. -/
def rneScaled (num den : Nat) (k : Int) : Nat :=
  if 0 ≤ k then rneQuot (num * 2 ^ k.toNat) den else rneQuot num (den * 2 ^ (-k).toNat)

/-- Floor of the base-2 logarithm of num / den (both positive). -/
def flog2 (num den : Nat) : Int :=
  let l : Int := (Nat.log2 num : Int) - Nat.log2 den
  let big := if 0 ≤ l then decide (num < den * 2 ^ l.toNat) else decide (num * 2 ^ (-l).toNat < den)
  if big then l - 1 else l

/-- Round num / den × 2^e to p significant bits, but to no finer grid than 2^q0: answer n × 2^q. (DEDUCED, log entry 61). -/
def roundSig (p : Nat) (q0 : Int) (num den : Nat) (e : Int) : Nat × Int :=
  if num = 0 then (0, q0)
  else
    let q := max (flog2 num den + e - ((p : Int) - 1)) q0
    (rneScaled num den (e - q), q)

/-! Floating-point formats (R195, R197). -/

/-- A binary format: exponent bits, fraction bits, bias, and whether its top exponent holds infinities and NaNs (E4M3: only
its last code is NaN). -/
structure Flt where
  eb   : Nat
  mb   : Nat
  bias : Int
  ieee : Bool
  deriving DecidableEq, Repr

def f32 : Flt := ⟨8, 23, 127, true⟩
def fBf16 : Flt := ⟨8, 7, 127, true⟩
def f16 : Flt := ⟨5, 10, 15, true⟩
def fE4m3 : Flt := ⟨4, 3, 7, false⟩
def fE5m2 : Flt := ⟨5, 2, 15, true⟩

/-- The width of a format in bits. -/
def Flt.width (f : Flt) : Nat := 1 + f.eb + f.mb

/-- The code of +Inf, one past the largest finite code; for E4M3 the NaN code. -/
def Flt.top (f : Flt) : Nat := if f.ieee then (2 ^ f.eb - 1) * 2 ^ f.mb else 2 ^ (f.eb + f.mb) - 1

/-- The canonical quiet NaN (R205): E5M2 0x7E, E4M3 0x7F. -/
def Flt.qnan (f : Flt) : Nat := if f.ieee then f.top + 2 ^ (f.mb - 1) else f.top

/-- The least exponent of the last place. -/
def Flt.q0 (f : Flt) : Int := 1 - f.bias - f.mb

/-- Decode a code of a format to its exact value (R197). -/
def Flt.decode (f : Flt) (c : Nat) : Elt :=
  let neg := bit c (f.eb + f.mb)
  let m := field c 0 f.mb
  let x := field c f.mb f.eb
  let a := field c 0 (f.eb + f.mb)
  if f.ieee && x == 2 ^ f.eb - 1 then (if m = 0 then .inf neg else .nan)
  else if !f.ieee && a == f.top then .nan
  else if x = 0 then .fin neg m f.q0
  else .fin neg (2 ^ f.mb + m) (f.q0 + x - 1)

/-- Place the sign of a code. -/
def Flt.sgn (f : Flt) (neg : Bool) (c : Nat) : Nat := c + b2n neg * 2 ^ (f.eb + f.mb)

/-- Round ±num / den × 2^e into a format: its code, or none beyond the largest finite value. -/
def Flt.round (f : Flt) (neg : Bool) (num den : Nat) (e : Int) : Option Nat :=
  let (n, q) := roundSig (f.mb + 1) f.q0 num den e
  let (n, q) := if n = 2 ^ (f.mb + 1) then (2 ^ f.mb, q + 1) else (n, q)
  if n < 2 ^ f.mb then some (f.sgn neg n)
  else
    let c := (q - f.q0 + 1).toNat * 2 ^ f.mb + (n - 2 ^ f.mb)
    if c < f.top then some (f.sgn neg c) else none

/-- The float format of a code 0 to 6. -/
def fltOf (fmt : Nat) : Flt := match fmt with | 0 => f32 | 1 => fBf16 | 2 => f16 | 3 | 5 => fE4m3 | _ => fE5m2

/-- The largest finite code of a format. -/
def Flt.maxCode (f : Flt) : Nat := f.top - 1

/-! Cell formats (R195, R196). -/

/-- Bytes of an element. -/
def eltBytes (fmt : Nat) : Nat := match fmt with | 0 | 8 => 4 | 1 | 2 => 2 | 9 | 11 => 8 | 12 => 16 | _ => 1

/-- Elements per cell. -/
def eltsPerCell (fmt : Nat) : Nat := 64 / eltBytes fmt

/-- A float format code. -/
def isFloatFmt (fmt : Nat) : Bool := decide (fmt ≤ 7)

/-- An MX format code. -/
def isMx (fmt : Nat) : Bool := fmt == 5 || fmt == 6 || fmt == 7

/-- Multiply an element exactly by a power of two. -/
def Elt.shift (x : Elt) (k : Int) : Elt := match x with | .fin n m e => .fin n m (e + k) | x => x

/-- The exact product of two elements' magnitudes and signs (a finite second factor). -/
def Elt.scale (x : Elt) (s : Elt) : Elt :=
  match x, s with
  | .fin n m e, .fin n' m' e' => .fin (n != n') (m * m') (e + e')
  | .inf n, .fin n' _ _ => .inf (n != n')
  | _, _ => .nan

/-- An integer as an element. -/
def Elt.ofInt (v : Int) : Elt := .fin (decide (v < 0)) v.natAbs 0

/-- Element i of a cell's payload (R195 to R197): `side` carries the MX scales, `inScale` the binary32 of IN_SCALE. -/
def decodeElt (fmt side inScale : Nat) (b : Bytes) (i : Nat) : Elt :=
  let raw := le b (eltBytes fmt * i) (eltBytes fmt)
  let x := field side (8 * (i / 32)) 8
  match fmt with
  | 0 | 1 | 2 => (fltOf fmt).decode raw
  | 3 | 4 => ((fltOf fmt).decode raw).scale (f32.decode inScale)
  | 5 | 6 => if x = 255 then .nan else ((fltOf fmt).decode raw).shift ((x : Int) - 127)
  | 7 => if x = 255 then .nan else (Elt.ofInt (signed raw 8)).shift ((x : Int) - 133)
  | _ => Elt.ofInt (signed raw (8 * eltBytes fmt))

/-- All elements of a contribution cell. -/
def decodeCell (fmt side inScale : Nat) (b : Bytes) : List Elt :=
  (List.range (eltsPerCell fmt)).map fun i => decodeElt fmt side inScale b i

/-- SIDE of a contribution is legal for its format (R196). -/
def sideOk (fmt side : Nat) : Bool := isMx fmt || side == 0

/-! The grid and the accumulator (R199 to R203). -/

/-- A signed number from its parts. -/
def signedOf (neg : Bool) (n : Nat) : Int := if neg then -(n : Int) else n

/-- The largest magnitude an input may add (R200). -/
def gridMax (w : Nat) : Nat := 2 ^ (w - 18) - 1

/-- One finite input onto the grid: n, whether it was oversized, whether it was lost (R199, R200, R202). -/
def toGrid (neg : Bool) (m : Nat) (e anchor : Int) (w : Nat) : Int × Bool × Bool :=
  let n := rneScaled m 1 (e - anchor)
  if gridMax w < n then (signedOf neg (gridMax w), true, false) else (signedOf neg n, false, m != 0 && n == 0)

/-- Combine two lane states (R201): 0 FINITE, 1 POS_INF, 2 NEG_INF, 3 NAN. -/
def laneJoin (a b : Nat) : Nat := if a = 0 then b else if b = 0 then a else if a = b then a else 3

/-- The lane state an input brings. -/
def Elt.lane : Elt → Nat
  | .nan => 3 | .inf false => 1 | .inf true => 2 | .fin _ _ _ => 0

/-- The square of an element (R203; ±Inf becomes +Inf, R201). -/
def Elt.square : Elt → Elt
  | .nan => .nan | .inf _ => .inf false | .fin _ m e => .fin false (m * m) (2 * e)

/-- The order of R203, −Inf < negative < −0 < +0 < positive < +Inf, on elements that are not NaN. -/
def Elt.less : Elt → Elt → Bool
  | .inf n, .inf n' => n && !n'
  | .inf n, _ => n
  | _, .inf n => !n
  | .fin n m e, .fin n' m' e' =>
    let k := min e e'
    let a := signedOf n (m * 2 ^ (e - k).toNat)
    let b := signedOf n' (m' * 2 ^ (e' - k).toNat)
    decide (a < b) || (a == b && m == 0 && m' == 0 && n && !n')
  | _, _ => false

/-- Residue modulo 65,535 (R218). -/
def res16 (v : Int) : Nat := (v % 65535).toNat

/-- A W-bit accumulator after adding n (two's complement). (DEDUCED, log entry 61). -/
def accAdd (w : Nat) (a n : Int) : Int := signed (twos (a + n) w) w

/-! Result encoding (R205 to R208). -/

/-- A finite value divided by OUT_SCALE for RES_FMT 3 and 4: numerator, denominator, exponent. -/
def outQuot (fmt outScale m : Nat) (e : Int) : Nat × Nat × Int :=
  if fmt = 3 ∨ fmt = 4 then
    match f32.decode outScale with
    | .fin _ ms es => if ms = 0 then (m, 1, e) else (m, ms, e - es)
    | _ => (m, 1, e)
  else (m, 1, e)

/-- One result element of RES_FMT 0 to 4 and 8 to 10: its code and whether it set SAT (R205). -/
def encodeElt (fmt outScale : Nat) (x : Elt) : Nat × Bool :=
  if fmt ≤ 4 then
    let f := fltOf fmt
    match x with
    | .nan => (f.qnan, false)
    | .inf n => (f.sgn n (if fmt = 3 then f.maxCode else f.top), false)
    | .fin n m e =>
      let (a, b, e) := outQuot fmt outScale m e
      match f.round n a b e with
      | some c => (c, false)
      | none => (f.sgn n (if fmt = 3 then f.maxCode else f.top), true)
  else
    let w := 8 * eltBytes fmt
    let hi : Int := 2 ^ (w - 1) - 1
    match x with
    | .nan => (0, false)
    | .inf n => (twos (if n then -hi - 1 else hi) w, true)
    | .fin n m e =>
      let v := signedOf n (rneScaled m 1 e)
      if hi < v then (twos hi w, true) else if v < -hi - 1 then (twos (-hi - 1) w, true) else (twos v w, false)

/-- floor(log2) of the largest finite nonzero magnitude of a block, if any. -/
def blockExp (xs : List Elt) : Option Int :=
  xs.foldl (fun a x => match x with
    | .fin _ m e => if m = 0 then a else
        let l := (Nat.log2 m : Int) + e
        some (match a with | some b => max b l | none => l)
    | _ => a) none

/-- emax of an MX element format (R206). -/
def mxEmax (fmt : Nat) : Int := if fmt = 5 then 8 else if fmt = 6 then 15 else 0

/-- The exponent e of an MX block (R206). -/
def mxExp (fmt : Nat) (xs : List Elt) : Int :=
  match blockExp xs with | none => -127 | some l => max (-127) (min 127 (l - mxEmax fmt))

/-- One MX element under scale exponent s: code and SAT (R206). -/
def mxElt (fmt : Nat) (s : Int) (x : Elt) : Nat × Bool :=
  if fmt = 7 then
    match x with
    | .nan => (0, false)
    | .inf n => (twos (signedOf n 127) 8, true)
    | .fin n m e =>
      let v := rneScaled m 1 (e - s + 6)
      if 127 < v then (twos (signedOf n 127) 8, true) else (twos (signedOf n v) 8, false)
  else
    let f := fltOf fmt
    match x with
    | .nan => (f.qnan, false)
    | .inf n => (f.sgn n (if fmt = 5 then f.maxCode else f.top), true)
    | .fin n m e =>
      match f.round n m 1 (e - s) with
      | some c => (c, false)
      | none => (f.sgn n f.maxCode, true)

/-- An MX block of 32 lanes: scale byte, codes, SAT (R206). -/
def mxBlock (fmt : Nat) (xs : List Elt) : Nat × List Nat × Bool :=
  let s := mxExp fmt xs
  let cs := xs.map (mxElt fmt s)
  (if fmt = 7 && xs.contains .nan then 255 else (s + 127).toNat, cs.map (·.1), cs.any (·.2))

/-- The exported value of an accumulator lane (R207). -/
def exactCode (w : Nat) (acc : Int) (lane : Nat) : Nat :=
  match lane with
  | 0 => twos acc w
  | 1 => 2 ^ (w - 1) - 1
  | 2 => 2 ^ (w - 1) + 1
  | _ => 2 ^ (w - 1)

/-- The lane state and value that an exported accumulator stands for (R207, R231). -/
def exactLane (w c : Nat) : ALane :=
  if c = 2 ^ (w - 1) - 1 then ⟨0, 1⟩ else if c = 2 ^ (w - 1) + 1 then ⟨0, 2⟩ else if c = 2 ^ (w - 1) then ⟨0, 3⟩ else ⟨signed c w, 0⟩

/-- The exact value of an accumulator lane at an anchor (R205). -/
def laneElt (acc : Int) (lane : Nat) (anchor : Int) : Elt :=
  match lane with
  | 0 => .fin (decide (acc < 0)) acc.natAbs anchor
  | 1 => .inf false
  | 2 => .inf true
  | _ => .nan

/-- Payload of codes of n bytes each. -/
def packCodes (n : Nat) (cs : List Nat) : Bytes := (cs.map fun c => toLE n c).flatten

/-- SIDE of an EXACT64 or EXACT128 part (R196). -/
def exactSide (part : Nat) (anchor : Int) : Nat := part + 16 * twos anchor 10

/-- Lanes q × n to q × n + n − 1, padded with +0. -/
def lanesOfPart (n q : Nat) (xs : List Elt) : List Elt :=
  (List.range n).map fun i => xs.getD (q * n + i) (.fin false 0 0)

/-- Parts of a result (R208): P result cells for one contribution cell. -/
def partsOf (fmt resFmt : Nat) : Nat := max 1 (eltsPerCell fmt / eltsPerCell resFmt)

/-- One result part of lanes that are exact values, for RES_FMT 0 to 10: payload, SIDE and SAT (R205, R206, R208, R196). -/
def encodePart (fmt resFmt outScale q : Nat) (xs : List Elt) : Bytes × Nat × Bool :=
  let n := eltsPerCell resFmt
  let ls := lanesOfPart n q xs
  if isMx resFmt then
    let a := mxBlock resFmt (ls.take 32)
    let b := mxBlock resFmt (ls.drop 32)
    (packCodes 1 (a.2.1 ++ b.2.1), a.1 + 256 * b.1, a.2.2 || b.2.2)
  else
    let cs := ls.map (encodeElt resFmt outScale)
    (packCodes (eltBytes resFmt) (cs.map (·.1)), if partsOf fmt resFmt = 1 then 0 else q, cs.any (·.2))

/-- The element is an infinity. -/
def Elt.isInf : Elt → Bool | .inf _ => true | _ => false

/-- One EXACT part (R207). -/
def exactPart (resFmt w q : Nat) (anchor : Int) (acc : List Int) (lane : List Nat) : Bytes × Nat :=
  let n := eltsPerCell resFmt
  (packCodes (eltBytes resFmt) ((List.range n).map fun i => exactCode w (acc.getD (q * n + i) 0) (lane.getD (q * n + i) 0)), exactSide q anchor)

/-! Binary32 arithmetic (R254, R255). -/

/-- The NaN every instruction gives. -/
def nan32 : W32 := 0x7FC00000

/-- A 32-bit register as an exact value. -/
def fval (x : W32) : Elt := f32.decode x.toNat

/-- Round ±num / den × 2^e to binary32; overflow gives an infinity. (DEDUCED, log entry 63). -/
def fround (neg : Bool) (num den : Nat) (e : Int) : W32 :=
  BitVec.ofNat 32 ((f32.round neg num den e).getD (f32.sgn neg f32.top))

/-- An infinity. -/
def finf (neg : Bool) : W32 := BitVec.ofNat 32 (f32.sgn neg f32.top)

/-- A zero. -/
def fzero (neg : Bool) : W32 := BitVec.ofNat 32 (f32.sgn neg 0)

/-- The sum of two exact values, rounded once; an exact zero sum is +0 unless both are negative (R255). -/
def eltSum (x y : Elt) : W32 :=
  match x, y with
  | .inf a, .inf b => if a = b then finf a else nan32
  | .inf a, .fin _ _ _ => finf a
  | .fin _ _ _, .inf a => finf a
  | .fin n m e, .fin n' m' e' =>
    let k := min e e'
    let v := signedOf n (m * 2 ^ (e - k).toNat) + signedOf n' (m' * 2 ^ (e' - k).toNat)
    if v = 0 then fzero (n && n') else fround (decide (v < 0)) v.natAbs 1 k
  | _, _ => nan32

/-- The exact product, NaN for zero times infinity. -/
def eltMul (x y : Elt) : Elt :=
  match x, y with
  | .inf a, .inf b => .inf (a != b)
  | .inf a, .fin n m _ => if m = 0 then .nan else .inf (a != n)
  | .fin n m _, .inf a => if m = 0 then .nan else .inf (a != n)
  | .fin n m e, .fin n' m' e' => .fin (n != n') (m * m') (e + e')
  | _, _ => .nan

/-- An exact value rounded to binary32. -/
def eltF32 (x : Elt) : W32 :=
  match x with | .nan => nan32 | .inf n => finf n | .fin n m e => if m = 0 then fzero n else fround n m 1 e

/-- (DEDUCED, log entry 63). -/
def fAdd (a b : W32) : W32 := eltSum (fval a) (fval b)
def fNeg (a : W32) : W32 := match fval a with | .nan => nan32 | _ => a ^^^ 0x80000000
def fAbs (a : W32) : W32 := match fval a with | .nan => nan32 | _ => a &&& 0x7FFFFFFF
def fSub (a b : W32) : W32 := match fval b with | .nan => nan32 | _ => eltSum (fval a) (fval (b ^^^ 0x80000000))
def fMul (a b : W32) : W32 := eltF32 (eltMul (fval a) (fval b))
def fFma (a b c : W32) : W32 := eltSum (eltMul (fval a) (fval b)) (fval c)

/-- The larger under −0 < +0; NaN when either is (R255). -/
def fMax (a b : W32) : W32 :=
  match fval a, fval b with
  | .nan, _ => nan32
  | _, .nan => nan32
  | x, y => if x.less y then b else a

/-- The smaller under −0 < +0; NaN when either is (R255). -/
def fMin (a b : W32) : W32 :=
  match fval a, fval b with
  | .nan, _ => nan32
  | _, .nan => nan32
  | x, y => if y.less x then b else a

/-- Division (R255). -/
def fDiv (a b : W32) : W32 :=
  match fval a, fval b with
  | .nan, _ => nan32
  | _, .nan => nan32
  | .inf _, .inf _ => nan32
  | .inf n, .fin n' _ _ => finf (n != n')
  | .fin n _ _, .inf n' => fzero (n != n')
  | .fin n m e, .fin n' m' e' =>
    if m' = 0 then (if m = 0 then nan32 else finf (n != n'))
    else if m = 0 then fzero (n != n')
    else fround (n != n') m m' (e - e')

/-- Integer square root (floor), by two bits a time. -/
def isqrt : Nat → Nat → Nat
  | 0, _ => 0
  | k + 1, n => let r := 2 * isqrt k (n / 4); if (r + 1) * (r + 1) ≤ n then r + 1 else r

/-- Square root (R255): the root of m × 2^e with e even to 64 more bits, a sticky bit for the rest. -/
def fSqrt (a : W32) : W32 :=
  match fval a with
  | .nan => nan32
  | .inf n => if n then nan32 else finf false
  | .fin n m e =>
    if m = 0 then fzero n
    else if n then nan32
    else
      let (m, e) := if e % 2 = 0 then (m, e) else (2 * m, e - 1)
      let big := m * 2 ^ 64
      let r := isqrt 48 big
      fround false (2 * r + b2n (r * r != big)) 1 (e / 2 - 33)

/-- Reciprocal square root, correctly rounded (R255): 1 / √(m × 2^e) from ⌊√(2^120 / m)⌋ with a sticky bit. -/
def fRsq (a : W32) : W32 :=
  match fval a with
  | .nan => nan32
  | .inf n => if n then nan32 else fzero false
  | .fin n m e =>
    if m = 0 then finf n
    else if n then nan32
    else
      let (m, e) := if e % 2 = 0 then (m, e) else (2 * m, e - 1)
      let r := isqrt 64 (2 ^ 120 / m)
      fround false (2 * r + b2n (r * r * m != 2 ^ 120)) 1 (-(e / 2) - 61)

/-- A × 2^k with one rounding; k is held to ±1,000, beyond which every result is already zero or infinite (R255). -/
def fScl (a : W32) (k : Int) : W32 := eltF32 ((fval a).shift (max (-1000) (min 1000 k)))

/-- Whether a comparison holds (R252): codes 0 to 7. -/
def fCmp (cond : Nat) (a b : W32) : Bool :=
  match fval a, fval b with
  | .nan, _ => cond == 1 || cond == 6
  | _, .nan => cond == 1 || cond == 6
  | x, y =>
    let zero (z : Elt) : Bool := match z with | .fin _ m _ => m == 0 | _ => false
    let both := zero x && zero y
    let lt := !both && x.less y
    let gt := !both && y.less x
    match cond with
    | 0 => !lt && !gt | 1 => lt || gt | 2 => lt | 3 => !gt | 4 => gt | 5 => !lt | 6 => false | _ => true

/-- binary32 to INT32 (R251 MODE 4). -/
def fToInt (a : W32) : W32 :=
  match fval a with
  | .nan => 0
  | .inf n => if n then 0x80000000 else 0x7FFFFFFF
  | .fin n m e =>
    let v := signedOf n (rneScaled m 1 e)
    BitVec.ofNat 32 (twos (max (-2 ^ 31) (min (2 ^ 31 - 1) v)) 32)

/-- INT32 to binary32 (R251 MODE 5). -/
def fOfInt (a : W32) : W32 := eltF32 (Elt.ofInt a.toInt)

/-! CRC-64 (R302): ECMA-182, reflected. -/

/-- One bit step. -/
def crc64Bit (c : Nat) : Nat := if c % 2 = 1 then (c / 2) ^^^ 0xC96C5795D7870F42 else c / 2

/-- One byte. -/
def crc64Byte (c : Nat) (b : Byte) : Nat :=
  crc64Bit (crc64Bit (crc64Bit (crc64Bit (crc64Bit (crc64Bit (crc64Bit (crc64Bit (c ^^^ b.toNat))))))))

/-- The CRC-64 of a byte string. -/
def crc64 (b : Bytes) : W64 := BitVec.ofNat 64 ((b.foldl crc64Byte (2 ^ 64 - 1)) ^^^ (2 ^ 64 - 1))

end Sys2Proof.Machine
end

