-- ==== Sys2Proof/Machine/Isa.lean ====
section
/-! DEFINITION. Machine/Isa.lean: instruction words and the register operations of the peal cores (R230 to R255). -/
namespace Sys2Proof.Machine

/-! Instruction words (R239 to R241). -/

/-- The word of an opcode and its fields. -/
def wordOf (op : Nat) (w : IWord) : Nat :=
  op * 2 ^ 26 + w.d.toNat * 2 ^ 22 + w.a.toNat * 2 ^ 18 + w.b.toNat * 2 ^ 14 + w.c.toNat * 2 ^ 10 + w.imm.toNat

/-- The opcode of a word. -/
def wOp (w : Nat) : Nat := field w 26 6

/-- The fields of a word. -/
def wFields (w : Nat) : IWord :=
  { d := BitVec.ofNat 4 (field w 22 4), a := BitVec.ofNat 4 (field w 18 4), b := BitVec.ofNat 4 (field w 14 4), c := BitVec.ofNat 4 (field w 10 4), imm := BitVec.ofNat 10 (field w 0 10) }

/-- What a field of a word names (R240): nothing, a V or S register, an A or P register, a predicate field, or a predicate
register in its low two bits (TEST for BRP's D). -/
inductive Cls where
  | none | v | s | a | p | pred | low
  deriving DecidableEq, Repr

/-- A field value is one its class allows; `some reason` of R263 otherwise. -/
def clsCheck (c : Cls) (v : Nat) : Option Nat :=
  match c with
  | .none => need (v == 0) 5
  | .v | .s | .pred => none
  | .a | .p => need (decide (v < 4)) 6
  | .low => need (decide (v < 4)) 5

/-- Classes of D, A, B and C, or none where the opcode, its mode or its IMM is reserved (R239, R240, R244, R247 to R253). -/
def wClasses (op imm : Nat) : Option (Cls × Cls × Cls × Cls) :=
  let f (lo n : Nat) := field imm lo n
  let ok (c : Bool) (x : Cls × Cls × Cls × Cls) : Option (Cls × Cls × Cls × Cls) := if c then some x else none
  let win := f 7 3
  let size := f 5 2
  let halfOk := size == 1 || f 4 1 == 0
  let reg : Cls := if size = 3 then .s else if size = 2 then .a else .v
  let pr : Cls := if size = 3 then .none else .pred
  let fp : Cls := if f 9 1 = 1 then .s else .v
  let fpr : Cls := if f 9 1 = 1 then .none else .pred
  let cls := f 8 2
  let ic : Cls := if cls = 0 then .v else if cls = 1 then .s else .a
  let ipr : Cls := if cls = 1 then .none else .pred
  match op with
  | 0x01 => ok ([2, 3, 6, 7].contains win && size != 2 && halfOk && f 0 4 == 0) (reg, .s, .none, pr)
  | 0x02 => ok (decide (win ≤ 1) && halfOk && f 0 4 == 0) (reg, .s, .none, pr)
  | 0x03 => ok (win == 1 && halfOk && decide (f 0 4 ≤ 6)) (.none, .s, reg, pr)
  | 0x04 => ok ((win == 4 || win == 5) && halfOk && f 0 4 == 0) (reg, .s, .none, pr)
  | 0x05 => ok (win == 4 && halfOk && f 0 4 == 0) (.none, .s, reg, pr)
  | 0x06 => some (.s, .none, .none, .none)
  | 0x07 =>
    let m := f 6 4
    let i0 := f 0 5 == 0
    if f 5 1 ≠ 0 then none
    else match m with
      | 0 => ok i0 (.v, .v, .none, .pred) | 1 => ok i0 (.v, .s, .none, .pred) | 2 => some (.s, .v, .none, .none)
      | 3 => ok i0 (.s, .s, .none, .none) | 4 => ok i0 (.a, .v, .none, .pred) | 5 => ok i0 (.v, .a, .none, .pred)
      | 6 => ok i0 (.a, .a, .none, .none) | 7 => ok i0 (.p, .s, .none, .none) | 8 => ok i0 (.s, .p, .none, .none)
      | 9 => ok i0 (.p, .p, .none, .none) | 10 => ok (decide (f 0 5 ≤ 14)) (.s, .none, .none, .none) | 11 => ok i0 (.a, .s, .none, .none)
      | _ => none
  | 0x08 => ok (f 5 5 == 0) (.none, .v, .s, .none)
  | 0x09 => ok (f 5 5 == 0 && f 0 4 == 0) (.s, .s, .v, .none)
  | 0x0A | 0x0B => ok (decide (f 8 2 ≤ 1) && f 5 1 == 0 && f 0 4 == 0) (.none, if f 8 2 = 1 then .v else .none, .none, if f 8 2 = 1 then .pred else .none)
  | 0x0C => ok (decide (f 6 4 ≤ 12) && f 0 3 == 0) (.v, .a, .s, .s)
  | 0x0D => ok (imm == 0) (.p, .none, .none, .none)
  | 0x0E => ok (imm == 0) (.a, .a, .none, .pred)
  | 0x10 | 0x11 | 0x12 | 0x14 | 0x15 | 0x16 => ok (f 0 9 == 0) (fp, fp, fp, fpr)
  | 0x13 | 0x1C => ok (f 0 9 == 0) (fp, fp, fp, fp)
  | 0x17 | 0x18 | 0x1A | 0x1B => ok (f 0 9 == 0) (fp, fp, .none, fpr)
  | 0x19 => ok (f 0 9 == 0) (fp, fp, .s, fpr)
  | 0x20 | 0x21 | 0x22 | 0x23 | 0x24 | 0x25 | 0x26 => ok (cls != 3 && f 0 8 == 0) (ic, ic, ic, ipr)
  | 0x27 | 0x28 | 0x29 => ok (cls != 3 && (f 7 1 == 1 || f 0 7 == 0)) (ic, ic, if f 7 1 = 1 then .none else ic, ipr)
  | 0x2C => ok (decide (f 6 4 ≤ 5) && f 5 1 == 0 && f 0 4 == 0) (.v, .v, .none, .pred)
  | 0x2D => ok ([3, 4, 5, 6, 7, 10].contains (f 6 4) && f 5 1 == 0 && f 0 3 == 0) (.v, .v, .v, .s)
  | 0x2E => ok ([3, 4, 5, 6, 7, 10].contains (f 6 4) && f 0 4 == 0) (.v, .v, .s, .pred)
  | 0x30 => ok (f 3 6 == 0) (.p, fp, fp, .none)
  | 0x31 => ok (cls != 3 && f 4 4 == 0 && decide (f 0 3 ≤ 5)) (.p, ic, ic, .none)
  | 0x32 => ok (imm == 0) (.v, .v, .v, .low)
  | 0x38 => some (.none, .none, .none, .none)
  | 0x39 => some (.low, .none, .none, .low)
  | 0x3A => ok (decide (imm ≤ 1)) (.none, if imm = 1 then .s else .none, .none, .none)
  | 0x3B | 0x3C | 0x3D => ok (imm == 0) (.none, .none, .none, .none)
  | _ => none

/-- The issue cost of an instruction for a peal of width W (R247 to R252): the slots for which it holds the issue stage. -/
def issueOps (op : Nat) (w : IWord) (width : Nat) : Nat :=
  match op with
  | 0x02 => if field w.imm.toNat 5 2 = 2 ∧ width = 128 then 2 else 1
  | 0x0D | 0x2D => 2
  | 0x16 | 0x17 | 0x18 => 4
  | _ => 1

/-- The checker's verdict on one word (R263 reasons 5 and 6): none when it is an instruction. (DEDUCED, log entry 73). -/
def wordCheck (op : Nat) (w : IWord) : Option Nat :=
  match wClasses op w.imm.toNat with
  | none => some 5
  | some (d, a, b, c) =>
    firstOf [need (!(op == 0x39 && w.d.toNat == 3)) 5, clsCheck d w.d.toNat, clsCheck a w.a.toNat, clsCheck b w.b.toNat, clsCheck c w.c.toNat]

/-! Registers (R230). -/

def Inv.vl (i : Inv) (r l : Nat) : W32 := i.v.getD (32 * r + l) 0
def Inv.al (i : Inv) (r l : Nat) : ALane := i.a.getD (32 * (r % 4) + l) {}
def Inv.sr (i : Inv) (r : Nat) : W32 := i.s.getD r 0
def Inv.pr (i : Inv) (r : Nat) : W32 := i.p.getD (r % 4) 0

/-- Set one element of a list of registers. -/
def setReg {α : Type} (l : List α) (k : Nat) (x : α) : List α := l.set k x

def Inv.setS (i : Inv) (r : Nat) (x : W32) : Inv := { i with s := setReg i.s r x }
def Inv.setP (i : Inv) (r : Nat) (x : W32) : Inv := { i with p := setReg i.p (r % 4) x }

/-- Write lanes of a V register; `f` answers none for a lane that keeps its value. -/
def Inv.setV (i : Inv) (r : Nat) (f : Nat → Option W32) : Inv :=
  { i with v := i.v.mapIdx fun k x => if k / 32 = r then (f (k % 32)).getD x else x }

/-- Write lanes of an A register. -/
def Inv.setA (i : Inv) (r : Nat) (f : Nat → Option ALane) : Inv :=
  { i with a := i.a.mapIdx fun k x => if k / 32 = r % 4 then (f (k % 32)).getD x else x }

/-- Lane l acts under the predicate field (R241). -/
def Inv.acts (i : Inv) (c : BitVec 4) (l : Nat) : Bool := !c.getLsbD 3 || (i.pr (c.toNat % 4)).getLsbD l != c.getLsbD 2

/-- A value for a lane that acts. -/
def Inv.lane? {α : Type} (i : Inv) (c : BitVec 4) (f : Nat → α) (l : Nat) : Option α := if i.acts c l then some (f l) else none

/-- Go on to the next instruction: a loop that begins there is entered from outside, so the count of its branch starts again (R262). -/
def Inv.next (i : Inv) : Inv := { i with pc := i.pc + 1, taken := i.taken.filter fun e => e.2.1 != i.pc + 1 }

/-- The 16 lanes of a half as 64 bytes. -/
def Inv.half (i : Inv) (r h : Nat) : Bytes := ((List.range 16).map fun k => toLE 4 (i.vl r (16 * h + k)).toNat).flatten

/-! FP32 and integer operations over registers (R249, R250). -/

/-- A two-operand FP32 instruction. -/
def Inv.fp2 (f : W32 → W32 → W32) (w : IWord) (i : Inv) : Inv :=
  if w.imm.getLsbD 9 then i.setS w.d.toNat (f (i.sr w.a.toNat) (i.sr w.b.toNat))
  else i.setV w.d.toNat (i.lane? w.c fun l => f (i.vl w.a.toNat l) (i.vl w.b.toNat l))

/-- A one-operand FP32 instruction. -/
def Inv.fp1 (f : W32 → W32) (w : IWord) (i : Inv) : Inv :=
  if w.imm.getLsbD 9 then i.setS w.d.toNat (f (i.sr w.a.toNat))
  else i.setV w.d.toNat (i.lane? w.c fun l => f (i.vl w.a.toNat l))

/-- FFMA and FCLMP: C is an operand. -/
def Inv.fp3 (f : W32 → W32 → W32 → W32) (w : IWord) (i : Inv) : Inv :=
  if w.imm.getLsbD 9 then i.setS w.d.toNat (f (i.sr w.a.toNat) (i.sr w.b.toNat) (i.sr w.c.toNat))
  else i.setV w.d.toNat fun l => some (f (i.vl w.a.toNat l) (i.vl w.b.toNat l) (i.vl w.c.toNat l))

/-- FSCL: B is always an S register. -/
def Inv.fscl (w : IWord) (i : Inv) : Inv :=
  let k := (i.sr w.b.toNat).toInt
  i.fp1 (fun x => fScl x k) w

/-- The bound of A-class results. -/
def aMax : Int := 2 ^ 127 - 2

/-- Hold a value at ±(2^127 − 2): the value and whether it was held. -/
def aHold (v : Int) : Int × Bool := if aMax < v then (aMax, true) else if v < -aMax then (-aMax, true) else (v, false)

/-- A result lane of A-class arithmetic: a value under a tag; only FINITE lanes have a value (R231). -/
def mkLane (tag : Nat) (v : Int) : ALane := if tag = 0 then ⟨v, 0⟩ else ⟨0, tag⟩

/-- A 128-bit value from a number. -/
def s128 (n : Nat) : Int := signed n 128

/-- IADD or ISUB in class A: tags combine by R201, ISUB first exchanges the infinities of B. -/
def aAdd (sub : Bool) (x y : ALane) : ALane × Bool :=
  let tb := if sub then (match y.tag with | 1 => 2 | 2 => 1 | t => t) else y.tag
  let t := laneJoin x.tag tb
  if t = 0 then let (v, h) := aHold (if sub then x.val - y.val else x.val + y.val); (⟨v, 0⟩, h) else (⟨0, t⟩, false)

/-- IMAX or IMIN in class A: NEG_INF, finite, POS_INF; NAN wins. -/
def aExt (isMax : Bool) (x y : ALane) : ALane :=
  let rank (z : ALane) : Int := if z.tag = 1 then 1 else if z.tag = 2 then -1 else 0
  if x.tag = 3 ∨ y.tag = 3 then ⟨0, 3⟩
  else
    let less := decide (rank x < rank y) || (rank x == rank y && decide (x.val < y.val))
    if less == isMax then y else x

/-- A bit operation in class A: NAN unless both lanes are FINITE. -/
def aBit (f : Nat → Nat → Nat) (x y : ALane) : ALane :=
  if x.tag = 0 ∧ y.tag = 0 then ⟨s128 (f (twos x.val 128) (twos y.val 128)), 0⟩ else ⟨0, 3⟩

/-- An integer instruction: `fw` on 32-bit words, `fa` on A lanes with whether it sets SAT. -/
def Inv.int2 (fw : W32 → W32 → W32) (fa : ALane → ALane → ALane × Bool) (w : IWord) (i : Inv) : Inv :=
  match field w.imm.toNat 8 2 with
  | 0 => i.setV w.d.toNat (i.lane? w.c fun l => fw (i.vl w.a.toNat l) (i.vl w.b.toNat l))
  | 1 => i.setS w.d.toNat (fw (i.sr w.a.toNat) (i.sr w.b.toNat))
  | _ =>
    let r (l : Nat) := fa (i.al w.a.toNat l) (i.al w.b.toNat l)
    { i.setA w.d.toNat (i.lane? w.c fun l => (r l).1) with sat := i.sat || (List.range 32).any fun l => i.acts w.c l && (r l).2 }

/-- Signed maximum and minimum of words. -/
def iMax (a b : W32) : W32 := if a.toInt < b.toInt then b else a
def iMin (a b : W32) : W32 := if b.toInt < a.toInt then b else a

/-- A shift of n bits' value by k: 0 left, 1 logical right, 2 arithmetic right; counts of n or more give 0 or all sign bits. -/
def shiftN (kind n v k : Nat) : Nat :=
  match kind with
  | 0 => if n ≤ k then 0 else v * 2 ^ k % 2 ^ n
  | 1 => if n ≤ k then 0 else v / 2 ^ k
  | _ => twos (signed v n / (2 ^ (min k n) : Nat)) n

/-- A shift instruction: the count from IMM bits 6:0 or the low 7 bits of B (R250). -/
def Inv.shift (kind : Nat) (w : IWord) (i : Inv) : Inv :=
  let im := w.imm.getLsbD 7
  let k0 := field w.imm.toNat 0 7
  let cnt (x : W32) : Nat := if im then k0 else field x.toNat 0 7
  let fw (x y : W32) : W32 := BitVec.ofNat 32 (shiftN kind 32 x.toNat (cnt y))
  let fa (x y : ALane) : ALane × Bool :=
    if x.tag = 0 ∧ (im ∨ y.tag = 0) then (⟨s128 (shiftN kind 128 (twos x.val 128) (if im then k0 else field (twos y.val 128) 0 7)), 0⟩, false) else (⟨0, 3⟩, false)
  i.int2 fw fa w

/-! Moves (R253). -/

/-- MOV in the modes between registers. -/
def Inv.mov (w : IWord) (i : Inv) : Inv :=
  let d := w.d.toNat
  let a := w.a.toNat
  match field w.imm.toNat 6 4 with
  | 0 => i.setV d (i.lane? w.c fun l => i.vl a l)
  | 1 => i.setV d (i.lane? w.c fun _ => i.sr a)
  | 2 => i.setS d (i.vl a (field w.imm.toNat 0 5))
  | 3 => i.setS d (i.sr a)
  | 4 => i.setA d (i.lane? w.c fun l => ⟨(i.vl a l).toInt, 0⟩)
  | 5 => i.setV d (i.lane? w.c fun l => BitVec.ofNat 32 (twos (i.al a l).val 32))
  | 6 => i.setA d fun l => some (i.al a l)
  | 7 => i.setP d (i.sr a)
  | 8 => i.setS d (i.pr a)
  | 9 => i.setP d (i.pr a)
  | 11 => i.setA d fun _ => some ⟨(i.sr a).toInt, 0⟩
  | _ => i

/-! Conversions (R251). -/

/-- A binary32 value narrowed to a 16-bit format. -/
def narrow (f : Flt) (x : W32) : Nat :=
  match fval x with
  | .nan => f.qnan
  | .inf n => f.sgn n f.top
  | .fin n m e => if m = 0 then f.sgn n 0 else (f.round n m 1 e).getD (f.sgn n f.top)

/-- CVT. -/
def Inv.cvt (w : IWord) (i : Inv) : Inv :=
  let h := field w.imm.toNat 4 1
  let a := w.a.toNat
  let pack (f : Flt) : Inv := i.setV w.d.toNat fun l =>
    if l / 16 = h && i.acts w.c l then some (BitVec.ofNat 32 (narrow f (i.vl a (2 * (l % 16))) + 65536 * narrow f (i.vl a (2 * (l % 16) + 1)))) else none
  let unpack (f : Flt) : Inv := i.setV w.d.toNat (i.lane? w.c fun l => eltF32 (f.decode (field (i.vl a (16 * h + l / 2)).toNat (16 * (l % 2)) 16)))
  match field w.imm.toNat 6 4 with
  | 0 => pack fBf16
  | 1 => pack f16
  | 2 => unpack fBf16
  | 3 => unpack f16
  | 4 => i.setV w.d.toNat (i.lane? w.c fun l => fToInt (i.vl a l))
  | 5 => i.setV w.d.toNat (i.lane? w.c fun l => fOfInt (i.vl a l))
  | _ => i

/-- The scale of an element value kept as binary32: 1.0. -/
def one32 : Nat := 0x3F800000

/-- QNT: payload codes, and the scale bytes it writes (MX without SCALE_IN). INT8 takes INT32 inputs, as RNDX leaves them. (DEDUCED, log entry 62). -/
def qntCodes (fmt : Nat) (scaleIn : Bool) (xs : List W32) : List Nat × Option (Nat × Nat) :=
  if fmt = 10 then (xs.map fun x => twos (max (-128) (min 127 x.toInt)) 8, none)
  else if !isMx fmt then (xs.map fun x => (encodeElt fmt one32 (fval x)).1, none)
  else if scaleIn then (xs.map fun x => (mxElt fmt 0 (fval x)).1, none)
  else
    let a := mxBlock fmt ((xs.take 32).map fval)
    let b := mxBlock fmt ((xs.drop 32).map fval)
    (a.2.1 ++ b.2.1, some (a.1, b.1))

/-- QNT. (DEDUCED, log entry 62). -/
def Inv.qnt (w : IWord) (i : Inv) : Inv :=
  let h := field w.imm.toNat 4 1
  let xs := ((List.range 32).map fun l => i.vl w.a.toNat l) ++ ((List.range 32).map fun l => i.vl w.b.toNat l)
  let (cs, sc) := qntCodes (field w.imm.toNat 6 4) (w.imm.getLsbD 3) xs
  let b := packCodes 1 cs
  let i := i.setV w.d.toNat fun l => if l / 16 = h then some (BitVec.ofNat 32 (le b (4 * (l % 16)) 4)) else none
  match sc with
  | some (x, y) => i.setS w.c.toNat (BitVec.ofNat 32 (setField (i.sr w.c.toNat).toNat 0 16 (x + 256 * y)))
  | none => i

/-- DQT: element × IN_SCALE, or × the MX scale of S[B]; INT8 is sign-extended. -/
def Inv.dqt (inScale : Nat) (w : IWord) (i : Inv) : Inv :=
  let fmt := field w.imm.toNat 6 4
  let sel := field w.imm.toNat 5 1
  let b := i.half w.a.toNat (field w.imm.toNat 4 1)
  let x := field (i.sr w.b.toNat).toNat (8 * sel) 8
  i.setV w.d.toNat (i.lane? w.c fun l =>
    let e := decodeElt fmt (x + 256 * x) inScale b (32 * sel + l)
    if fmt = 10 then BitVec.ofNat 32 (twos (signed (byteAt b (32 * sel + l)) 8) 32) else eltF32 e)

/-! Comparison and selection (R252). -/

/-- FCMP. -/
def Inv.fcmp (w : IWord) (i : Inv) : Inv :=
  let cond := field w.imm.toNat 0 3
  if w.imm.getLsbD 9 then i.setP w.d.toNat (if fCmp cond (i.sr w.a.toNat) (i.sr w.b.toNat) then 0xFFFFFFFF else 0)
  else i.setP w.d.toNat (BitVec.ofNat 32 (((List.range 32).map fun l => b2n (fCmp cond (i.vl w.a.toNat l) (i.vl w.b.toNat l)) * 2 ^ l).foldl (· + ·) 0))

/-- An integer comparison of two ordered values. -/
def ordCmp (cond : Nat) (a b : Int) : Bool :=
  match cond with | 0 => a == b | 1 => a != b | 2 => decide (a < b) | 3 => decide (a ≤ b) | 4 => decide (b < a) | _ => decide (b ≤ a)

/-- ICMP of words. -/
def iCmp (cond : Nat) (uns : Bool) (a b : W32) : Bool := if uns then ordCmp cond a.toNat b.toNat else ordCmp cond a.toInt b.toInt

/-- ICMP of A lanes: infinities lie outside every finite value; what a NAN lane compares as is a free value. (DESIGN CHOICE, log entry 24). -/
def aCmp (cond : Nat) (uns open_ : Bool) (x y : ALane) : Bool :=
  let v (z : ALane) : Int := match z.tag with | 0 => (if uns then (twos z.val 128 : Nat) else z.val) | 1 => 2 ^ 130 | _ => -(2 ^ 130)
  if x.tag = 3 ∨ y.tag = 3 then open_ else ordCmp cond (v x) (v y)

/-- ICMP; `free` gives the bits of NAN lanes. -/
def Inv.icmp (free : W32) (w : IWord) (i : Inv) : Inv :=
  let cond := field w.imm.toNat 0 3
  let uns := w.imm.getLsbD 3
  let mask (f : Nat → Bool) : W32 := BitVec.ofNat 32 (((List.range 32).map fun l => b2n (f l) * 2 ^ l).foldl (· + ·) 0)
  match field w.imm.toNat 8 2 with
  | 0 => i.setP w.d.toNat (mask fun l => iCmp cond uns (i.vl w.a.toNat l) (i.vl w.b.toNat l))
  | 1 => i.setP w.d.toNat (if iCmp cond uns (i.sr w.a.toNat) (i.sr w.b.toNat) then 0xFFFFFFFF else 0)
  | _ => i.setP w.d.toNat (mask fun l => aCmp cond uns (free.getLsbD l) (i.al w.a.toNat l) (i.al w.b.toNat l))

/-- SEL. -/
def Inv.sel (w : IWord) (i : Inv) : Inv :=
  let p := i.pr (w.c.toNat % 4)
  i.setV w.d.toNat fun l => some (if p.getLsbD l then i.vl w.a.toNat l else i.vl w.b.toNat l)

/-- A predicate passes TEST (0 ANY, 1 ALL, 2 NONE). -/
def predTest (t : Nat) (p : W32) : Bool := match t with | 0 => p != 0 | 1 => p == 0xFFFFFFFF | _ => p == 0

/-! Rounding and sums of accumulators (R248). -/

/-- The exact value of an A lane at an anchor. -/
def ALane.elt (x : ALane) (anchor : Int) : Elt := laneElt x.val x.tag anchor

/-- VSUM. -/
def Inv.vsum (w : IWord) (i : Inv) : Inv :=
  let ls := (List.range 32).filter (i.acts w.c)
  let t := ls.foldl (fun t l => laneJoin t (i.al w.a.toNat l).tag) 0
  let (v, h) := aHold (ls.foldl (fun n l => n + (i.al w.a.toNat l).val) 0)
  { i.setA w.d.toNat (fun l => some (if l = 0 then mkLane t v else ⟨0, 0⟩)) with sat := i.sat || (t == 0 && h) }

/-- RNDX of the lanes of A[A] at an anchor (R205 to R207); a clamp or an infinity sets SAT (R248). -/
def Inv.rndx (outScale : Nat) (rowAnchor : Int) (w : IWord) (i : Inv) : Inv :=
  let t := field w.imm.toNat 6 4
  let part := field w.imm.toNat 4 2
  let anchor : Int := if w.imm.getLsbD 3 then (i.sr w.b.toNat).toInt else rowAnchor
  let x (l : Nat) : Elt := (i.al w.a.toNat l).elt anchor
  let d := w.d.toNat
  if t ≤ 4 then
    let r (l : Nat) := encodeElt t outScale (x l)
    { i.setV d (fun l => some (eltF32 ((fltOf t).decode (r l).1))) with sat := i.sat || (List.range 32).any fun l => (r l).2 || (x l).isInf }
  else if t = 8 ∨ t = 10 then
    let r (l : Nat) := encodeElt t outScale (x l)
    { i.setV d (fun l => some (BitVec.ofNat 32 (twos (signed (r l).1 (8 * eltBytes t)) 32))) with sat := i.sat || (List.range 32).any fun l => (r l).2 }
  else if t ≤ 7 then
    let (sc, cs, sat) := mxBlock t ((List.range 32).map x)
    let i := i.setV d fun l => some (if t = 7 then eltF32 ((Elt.ofInt (signed (cs.getD l 0) 8)).shift (-6)) else eltF32 ((fltOf t).decode (cs.getD l 0)))
    { i.setS w.c.toNat (BitVec.ofNat 32 (setField (i.sr w.c.toNat).toNat (8 * (part % 2)) 8 sc)) with sat := i.sat || sat }
  else if t = 9 ∨ t = 11 then
    let r (l : Nat) : Nat × Bool := if t = 9 then encodeElt 9 outScale (x l) else (exactCode 64 (i.al w.a.toNat l).val (i.al w.a.toNat l).tag, false)
    { i.setV d (fun l => some (BitVec.ofNat 32 (field (r (16 * (part % 2) + l / 2)).1 (32 * (l % 2)) 32))) with
      sat := i.sat || (List.range 16).any fun k => (r (16 * (part % 2) + k)).2 }
  else
    i.setV d fun l => (let y := i.al w.a.toNat (8 * part + l / 4); some (BitVec.ofNat 32 (field (exactCode 128 y.val y.tag) (32 * (l % 4)) 32)))

/-! Register images of memory accesses (R244). -/

/-- Bytes of an access: SIZE and the peal's W. -/
def sizeBytes (size w : Nat) : Nat := match size with | 0 => 128 | 1 => 64 | 2 => 32 * w / 8 | _ => 4

/-- Load a byte string into the destination; `tags` gives the tag of lane l, and `exact` whether R207's values decode into
tags. -/
def Inv.load (size half wbits : Nat) (exact : Bool) (tags : Nat → Nat) (d : Nat) (c : BitVec 4) (b : Bytes) (i : Inv) : Inv :=
  match size with
  | 0 => i.setV d (i.lane? c fun l => BitVec.ofNat 32 (le b (4 * l) 4))
  | 1 => i.setV d fun l => if l / 16 = half && i.acts c l then some (BitVec.ofNat 32 (le b (4 * (l % 16)) 4)) else none
  | 2 => i.setA d (i.lane? c fun l =>
      let n := le b (l * wbits / 8) (wbits / 8)
      if exact then exactLane wbits n else mkLane (tags l) (signed n wbits))
  | _ => i.setS d (BitVec.ofNat 32 (le b 0 4))

/-- The words or lanes a store writes, as (offset, bytes) of those that act. -/
def Inv.storeParts (size half wbits : Nat) (exact : Bool) (b : Nat) (c : BitVec 4) (i : Inv) : List (Nat × Bytes) :=
  match size with
  | 0 => ((List.range 32).filter (i.acts c)).map fun l => (4 * l, toLE 4 (i.vl b l).toNat)
  | 1 => ((List.range 16).filter fun k => i.acts c (16 * half + k)).map fun k => (4 * k, toLE 4 (i.vl b (16 * half + k)).toNat)
  | 2 => ((List.range 32).filter (i.acts c)).map fun l =>
      let x := i.al b l
      (l * wbits / 8, toLE (wbits / 8) (if exact then exactCode wbits x.val x.tag else twos x.val wbits))
  | _ => [(0, toLE 4 (i.sr b).toNat)]

/-- COMBINE of R245 on one word or lane of n bits: what memory holds, what is stored. -/
def combine (kind n old new : Nat) : Nat :=
  match kind with
  | 0 => new
  | 1 => if signed old n < signed new n then new else old
  | 2 => if signed new n < signed old n then new else old
  | 3 => old ||| new
  | 4 => old &&& new
  | 5 => old ^^^ new
  | _ => (old + new) % 2 ^ n

end Sys2Proof.Machine
end

