-- ==== Sys2Proof/Config.lean ====
section
/-! DEFINITION. Config.lean: what the part fixes, and the values the manual leaves open. -/
namespace Sys2Proof.Config

/-! Free values: constants with no body. Each is applied to the counter `State.free` (a fresh draw each time) or to the
operands it depends on; nothing can be proved about what they answer. -/

/-- The low 16 bits of a block's marking LFSR at one draw (R148 gives no polynomial, seed or stepping). -/
opaque markDraw : Nat → BitVec 16

/-- Which of the sprayed DATA cells the 1-in-2^SAMPLE_LOG2 sampling takes (R118 gives no rule). -/
opaque sampleDraw : Nat → BitVec 16

/-- The channel offset s that spreads a bank's extents, chosen at SHARD_CREATE (R319). -/
opaque extentStart : Nat → BitVec 7

/-- The part's own nonce of a service session (R423). -/
opaque nonceP : Nat → BitVec 256

/-- How long a drift correction pauses a memory channel, in ns: at most 400 (R334). -/
opaque trackPause : Nat → Fin 401

/-- The low bits of an anchored result the manual does not state: bytes of a ROW window that hold a MAX, MIN or COPY lane
(R243 states the accumulator's layout for SUM only). -/
opaque rowBits : Nat → BitVec 128

/-- How ICMP answers for the A lanes that are NAN: the manual gives no result there. -/
opaque openElement : Nat → BitVec 32

/-- The channel at which the extents of a region-local allocation begin (R319 does not say), by pool and allocation. -/
opaque choice : Nat → Nat

/-- What the staging copy holds of a table word that failed in all four replicas (R100 leaves no good copy). -/
opaque lostWord : Nat → BitVec 64

/-! What the images of the shipped peal library hold (R267, R268): the manual gives the programs' arithmetic but not their headers. -/

/-- WC_OPS of an entry point of a library program. -/
opaque libOps : Nat → Nat → BitVec 32

/-- WC_MEM of an entry point of a library program. -/
opaque libMem : Nat → Nat → BitVec 16

/-- STORE_WIN_BYTES of a library program beyond the 256 bytes that R275 asks for, in units of 128 bytes. -/
opaque libStore : Nat → Fin 524287

/-- The computed worst case of the standard ON_CHUNK for KIND, OP, FMT, RES_FMT and ACC128, where its row needs
more than one load or part: R268 does not list the instructions that form their offsets. -/
opaque stdOps : Nat → Nat → Nat → Nat → Nat → BitVec 32

/-- The issue slots of an entry point of a library program, which R267 does not list. -/
opaque libIssue : Nat → Nat → BitVec 32

/-- The issue slots of the standard ON_CHUNK for KIND, OP, FMT, RES_FMT and ACC128, where its row needs more than one load. -/
opaque stdIssue : Nat → Nat → Nat → Nat → Nat → BitVec 32

/-! Cryptographic functions (R413 to R423): the manual names the standard each follows; the keys are secret. -/

/-- SHA-256 of a byte string. -/
opaque sha256 : Bytes → Bytes

/-- HMAC-SHA-256 of a byte string under a key. -/
opaque hmac : Bytes → Bytes → Bytes

/-- Whether the vendor's HSS signature over a byte string verifies. -/
opaque hssVerify : Bytes → Bytes → Bool

/-- The identity key's LMS signature over a byte string with a given index. -/
opaque lmsSign : Nat → Bytes → Bytes

/-- The operator key sealed under K_CFG by AES-256-GCM (R413, R424). -/
opaque sealOpk : Bytes → Bytes

/-- The label-derived key K_CFG (R413). -/
opaque kCfg : Bytes

/-! What the manual leaves to the layout of configuration space and to the ordering sheet (R376). -/

/-- NEXT of the Koltor DVSEC. -/
opaque dvsecNext : BitVec 12

/-- Mladaun's assigned vendor ID. -/
opaque vendorId : BitVec 16

/-! Constants of the part. -/

/-- The features this part and firmware provide: the map of the manual's example under R389. -/
def supported : BitVec 64 := 0x3FFF

end Sys2Proof.Config
end

