-- ==== Sys2Proof/Machine/Desc.lean ====
section
/-! DEFINITION. Machine/Desc.lean: the fields of the peal descriptor (R164) and of the cell header (R36, R38). -/
namespace Sys2Proof.Machine

/-! Descriptor fields (R164). -/
def dPeal (d : BitVec 512) : Nat := field d.toNat 0 12
def dTag (d : BitVec 512) : Nat := field d.toNat 16 12
def dKind (d : BitVec 512) : Nat := field d.toNat 28 3
def dOp (d : BitVec 512) : Nat := field d.toNat 32 3
def dFmt (d : BitVec 512) : Nat := field d.toNat 36 4
def dResFmt (d : BitVec 512) : Nat := field d.toNat 40 4
def dAnchorLsb (d : BitVec 512) : Int := signed (field d.toNat 44 10) 10
def dAcc128 (d : BitVec 512) : Bool := bit d.toNat 54
def dAnchorAuto (d : BitVec 512) : Bool := bit d.toNat 55
def dTwinned (d : BitVec 512) : Bool := bit d.toNat 56
def dSpillable (d : BitVec 512) : Bool := bit d.toNat 57
def dResMode (d : BitVec 512) : Nat := field d.toNat 58 2
def dVoidPolicy (d : BitVec 512) : Nat := field d.toNat 60 3
def dRegionMask (d : BitVec 512) : Nat := field d.toNat 64 4
def dMaxReplay (d : BitVec 512) : Nat := field d.toNat 68 4
def dSpotShift (d : BitVec 512) : Nat := field d.toNat 72 4
def dWinLog2 (d : BitVec 512) : Nat := field d.toNat 80 4
def dChunkLog2 (d : BitVec 512) : Nat := field d.toNat 84 4
def dSlots (d : BitVec 512) : Nat := field d.toNat 88 8
def dMembers (d : BitVec 512) : Nat := field d.toNat 96 18
def dMemberBase (d : BitVec 512) : Nat := field d.toNat 128 23
def dStepCells (d : BitVec 512) : Nat := field d.toNat 160 24
def dScatter (d : BitVec 512) : Nat := field d.toNat 192 24
def dTimeoutUs (d : BitVec 512) : Nat := field d.toNat 224 16
def dRetries (d : BitVec 512) : Nat := field d.toNat 240 4
def dWatchdogMs (d : BitVec 512) : Nat := field d.toNat 256 20
def dRowMgid (d : BitVec 512) : Nat := field d.toNat 288 16
def dColMgid (d : BitVec 512) : Nat := field d.toNat 304 16
def dHome0 (d : BitVec 512) : Nat := field d.toNat 320 20
def dHome1 (d : BitVec 512) : Nat := field d.toNat 352 20
def dInScale (d : BitVec 512) : Nat := field d.toNat 384 32
def dOutScale (d : BitVec 512) : Nat := field d.toNat 416 32
def dProgram (d : BitVec 512) : Nat := field d.toNat 448 16
def dShard (d : BitVec 512) : Nat := field d.toNat 464 16

/-- The regions of REGION_MASK, ascending. -/
def dRegions (d : BitVec 512) : List Nat := (List.range 4).filter fun r => bit (dRegionMask d) r

/-! Cell types (R38). -/
def tIdle : Nat := 0
def tData : Nat := 1
def tRow : Nat := 2
def tCol : Nat := 3
def tContrib : Nat := 4
def tResult : Nat := 5
def tVoid : Nat := 6
def tExp : Nat := 7
def tWindow : Nat := 8
def tEcho : Nat := 9
def tTiming : Nat := 10
def tFence : Nat := 11
def tDiscovery : Nat := 12
def tCircuit : Nat := 13
def tTwin : Nat := 14
def tStomp : Nat := 15

/-- The VCs a type may use (R38). -/
def vcAllowed (typ vc : Nat) : Bool :=
  match typ with
  | 0 => vc == 0
  | 1 => [3, 4, 6, 7].contains vc
  | 2 | 3 => [3, 4, 7].contains vc
  | 4 | 7 => vc == 2
  | 5 | 6 => vc == 1
  | 8 | 9 => vc == 5
  | 10 | 11 | 12 | 13 => vc == 0
  | _ => true

/-- How many low bits of 58:0 a type reserves, and from which bit (R38). -/
def reservedLow (typ : Nat) : Nat × Nat :=
  match typ with
  | 1 => (0, 9) | 2 | 3 => (0, 5) | 4 | 5 | 6 | 7 => (0, 1) | 8 => (0, 20) | 9 => (0, 9) | 10 => (0, 40) | 11 => (0, 43)
  | 12 => (0, 47) | 13 => (0, 30) | 14 => (0, 19) | 15 => (0, 34) | _ => (0, 0)

/-- The bits a LAST_CELLFMT body opens for a type (R64), as a mask. -/
def fmtOpen (body : Bytes) (typ : Nat) : Nat → Nat
  | 0 => 0
  | n + 1 =>
    let o := 8 * n
    let here := if byteAt body (o + 1) = typ then 2 ^ (byteAt body (o + 3) + 1) - 2 ^ byteAt body (o + 2) else 0
    here ||| fmtOpen body typ n

end Sys2Proof.Machine

namespace Sys2Proof
open Sys2Proof.Machine

/-! The cell header (R36). -/

/-- A field of the header. -/
def Cell.f (c : Cell) (lo w : Nat) : Nat := field c.hdr.toNat lo w

def Cell.typ (c : Cell) : Nat := c.f 124 4
def Cell.vc (c : Cell) : Nat := c.f 121 3
def Cell.epoch (c : Cell) : Nat := c.f 119 2
def Cell.cm (c : Cell) : Bool := bit c.hdr.toNat 118
def Cell.spray (c : Cell) : Bool := bit c.hdr.toNat 117
def Cell.last (c : Cell) : Bool := bit c.hdr.toNat 116
def Cell.hops (c : Cell) : Nat := c.f 113 3
def Cell.color (c : Cell) : Nat := c.f 111 2
def Cell.dst (c : Cell) : Nat := c.f 91 20
def Cell.src (c : Cell) : Nat := c.f 71 20
def Cell.tag (c : Cell) : Nat := c.f 59 12
/-- The type-specific bits 58:0. -/
def Cell.ts (c : Cell) : Nat := c.f 0 59
/-- FLOW, PEAL or ID: bits 58:47. -/
def Cell.flow (c : Cell) : Nat := c.f 47 12
/-- SEQ of DATA and ECHO. -/
def Cell.seq (c : Cell) : Nat := c.f 15 32
/-- ROUND of the peal types. -/
def Cell.round (c : Cell) : Nat := c.f 45 2
/-- CELL of the peal types. -/
def Cell.index (c : Cell) : Nat := c.f 21 24
/-- FMT of the peal types. -/
def Cell.fmt (c : Cell) : Nat := c.f 17 4
/-- SIDE of the peal types. -/
def Cell.side (c : Cell) : Nat := c.f 1 16
/-- MGID of multicast cells. -/
def Cell.mgid (c : Cell) : Nat := c.f 43 16
/-- TMSG of TIMING. -/
def Cell.tmsgT (c : Cell) : Nat := c.f 56 3
/-- TMSG of TWIN. -/
def Cell.tmsg (c : Cell) : Nat := c.f 51 8
/-- TSEQ of TWIN. -/
def Cell.tseq (c : Cell) : Nat := c.f 19 32

/-- Set a header field. -/
def Cell.set (c : Cell) (lo w x : Nat) : Cell := { c with hdr := BitVec.ofNat 128 (setField c.hdr.toNat lo w x) }

/-- The CRC-32C a cell must carry (R37): CM, HOPS and COLOR count as zero. -/
def Cell.crcOf (c : Cell) : Nat :=
  crc32c (toBE 16 (setField (setField c.hdr.toNat 118 1 0) 111 5 0) ++ c.payload)

/-- The CRC-32C is good. -/
def Cell.crcOk (c : Cell) : Bool := c.crc.toNat == c.crcOf

/-- The peal types 0x4 to 0x7. -/
def Cell.isPeal (c : Cell) : Bool := decide (4 ≤ c.typ ∧ c.typ ≤ 7)

/-- MCAST_ROW or MCAST_COL. -/
def Cell.isMcast (c : Cell) : Bool := c.typ == tRow || c.typ == tCol

/-- The link-local types of the fabric (R101). -/
def Cell.linkLocal (c : Cell) : Bool := decide (10 ≤ c.typ ∧ c.typ ≤ 13)

/-- The header carries a reserved bit or a reserved encoding (R6, R38); `fmt` is the body of LAST_CELLFMT in force. -/
def Cell.reserved (c : Cell) (fmt : Bytes) : Bool :=
  let (_, n) := reservedLow c.typ
  let opened := fmtOpen fmt c.typ (fmt.length / 8)
  (field c.hdr.toNat 0 n &&& (2 ^ 59 - 1 - opened)) != 0
    || (c.typ == tTiming && decide (3 ≤ c.tmsgT))
    || (c.typ == tFence && decide (5 ≤ c.f 56 3))
    || (c.typ == tTwin && (c.tmsg == 0 || decide (0x13 ≤ c.tmsg)))
    || (c.isPeal && decide (13 ≤ c.fmt))
    || (c.typ == tIdle && c.hdr.toNat != 0)

end Sys2Proof

namespace Sys2Proof.Machine

/-- Build a cell with its CRC-32C. Uncoloured, unmarked, no hops yet. (DEDUCED, log entry 42). -/
def mkCell (typ vc epoch : Nat) (spray last : Bool) (dst src tag ts : Nat) (payload : Bytes) : Cell :=
  let h : BitVec 128 := BitVec.ofNat 4 typ ++ BitVec.ofNat 3 vc ++ BitVec.ofNat 2 epoch ++ (0 : BitVec 1) ++ BitVec.ofBool spray ++ BitVec.ofBool last
    ++ (0 : BitVec 3) ++ (3 : BitVec 2) ++ BitVec.ofNat 20 dst ++ BitVec.ofNat 20 src ++ BitVec.ofNat 12 tag ++ BitVec.ofNat 59 ts
  let c : Cell := { hdr := h, payload := fit 64 payload, crc := 0 }
  { c with crc := BitVec.ofNat 32 c.crcOf }

end Sys2Proof.Machine
end

