-- ==== Sys2Proof/Machine/TypesFabric.lean ====
section
/-! DEFINITION. Machine/TypesFabric.lean: the state of lanes, ports, blocks, the scheduler, the route tables and the cabling plan (chapters 02 to 05). -/
namespace Sys2Proof.Machine

/-- The port states (R58), in the order of their codes. -/
inductive PState where
  | down | training | check | quarantine | up | damped | fenced | absent
  deriving DecidableEq, Repr, Inhabited

/-- Why a DAMPED port stays DAMPED (R60, R62). -/
inductive Hold where
  /-- not held -/
  | free
  /-- the hold of R62, in ms -/
  | timed (ms : Nat)
  /-- past DAMP_LIMIT: until PORT_DAMP release (R62) -/
  | limit
  /-- PORT_DAMP DAMP: until RELEASE (R60) -/
  | host
  /-- its block or region is fenced or the chip is DAMPED (R60) -/
  | condition
  deriving DecidableEq, Repr, Inhabited

/-- Where a buffered cell entered: the lane, the LSN of its link block and its slot, or the chip itself. -/
structure Origin where
  port : Option Nat
  vc   : Nat
  lane : Nat
  lsn  : BitVec 16
  slot : Nat
  deriving DecidableEq, Repr, Inhabited

/-- How the port of a buffered cell was chosen, for R116. -/
inductive Route where
  /-- a member of a route entry: table (0 GROUP_ROUTE, 1 LEAF_ROUTE), bank, entry index, member -/
  | entry (tbl bank idx mem : Nat)
  /-- a PORT override (R108) -/
  | port
  /-- a copy made at replication (R89), toward this group -/
  | copy (group : Nat)
  /-- the chip itself or a peal port -/
  | chip
  deriving DecidableEq, Repr, Inhabited

/-- A cell in a block's buffer. `ent` identifies what its buffer entry holds; copies of one cell share it (R89). `shared` says the
entry lies in the shared pool, otherwise in the credited allocation of its input port (R70). -/
structure BufCell where
  cell   : Cell
  org    : Origin
  route  : Route
  ent    : Nat
  shared : Bool
  deriving DecidableEq, Repr, Inhabited

/-- A slot of a link block as sent: what it carried and whether a STOMP has named it since. -/
structure TxSlot where
  cell    : Option BufCell
  stomped : Bool
  deriving DecidableEq, Repr, Inhabited

/-- A link block sent and not yet acknowledged (R48). -/
structure TxBlock where
  lsn     : BitVec 16
  attempt : Nat
  slots   : List TxSlot
  deriving DecidableEq, Repr, Inhabited

/-- A received slot: the LSN of its link block, its slot there, the number of that block since the lane gained lock
(from which R31 gives its codewords), and the cell. The fate records of R46 are such. -/
structure RxCell where
  lsn  : BitVec 16
  slot : Nat
  blk  : Nat
  cell : Cell
  deriving DecidableEq, Repr, Inhabited

/-- A fabric lane (0 to 1,023) or Welt lane (1,024 to 1,055).

Sending: the LSN and slots of the block being filled, blocks not acknowledged, blocks acknowledged whose cells are still kept
for a stomp (R46), the last LCW sent, the bytes of the superframe being sent, the scrambler's last 58 bits and the codewords
of the superframe sent last (R30, R31). Receiving: the block expected (`rxLsn`), the next slot of it (`rxSlot`) and the first
slot of it not yet taken (`rxFrom`), the link blocks (`rxBlk`) and codeword verdicts (`rxCw`) since lock, codewords that could
not be corrected (`rxUe`), blocks ended whose verdicts are out (`ended`), cells in the lane's receive buffer (`rxq`, with
whether their verdicts are known or not waited for), the cells of a block that may be the one awaited (`stage`), and the
fate records (R35, R44 to R48). `pos` is the LANE_IDX the peer sends with. Credits are counted as R43 says; `crHold` counts
returns to withhold because a resend that debits nothing follows a return already made. `eq` is the LAST_EQ entry in use
(R57). (DESIGN CHOICE, log entry 151). -/
structure Lane where
  locked    : Bool := false
  pos       : Nat := 0
  inverted  : Bool := false
  eq        : Option Bytes := none
  precode   : Bool := false
  txLsn     : BitVec 16 := 0
  txOpen    : List TxSlot := []
  unacked   : List TxBlock := []
  acked     : List TxBlock := []
  attempt   : Nat := 0
  txLcw     : BitVec 128 := 0
  txFrame   : Bytes := []
  scram     : Nat := 0
  txWire    : List (BitVec 5440) := []
  linkStomp : Bool := false
  rxLsn     : BitVec 16 := 0
  rxSlot    : Nat := 0
  rxFrom    : Nat := 0
  rxBlk     : Nat := 0
  rxCw      : Nat := 0
  rxUe      : List Nat := []
  ended     : List (BitVec 16 × Nat) := []
  rxq       : List (RxCell × Bool) := []
  ack       : BitVec 16 := 0xFFFF
  rxBad     : Bool := false
  rxTries   : Nat := 0
  tryLsn    : BitVec 16 := 0
  fates     : List RxCell := []
  nakSeen   : Bool := false
  badNow    : Bool := false
  stage     : List (Nat × Cell) := []
  lostLcws  : Nat := 0
  crSeen    : List Nat := []
  crSent    : List Nat := []
  crOwed    : List Nat := []
  crHold    : List Nat := []
  sent      : Nat := 0
  stomps    : Nat := 0
  stompMax  : Option Nat := none
  specOff   : Bool := false
  deriving DecidableEq, Repr, Inhabited

/-- What a port last heard of its neighbour in DISCOVERY (R132): the cell's own words and the fields judged. -/
structure Heard where
  chip  : W64
  fa    : Nat
  kind  : Nat
  tag   : Nat
  port  : Nat
  width : Nat
  deriving DecidableEq, Repr, Inhabited

/-- A training sequence being run (R55): FULL or WARM, the step records it took from LAST_LINKTRAIN at its start, and
the step reached. -/
structure Train where
  warm  : Bool
  steps : List Bytes
  idx   : Nat
  deriving DecidableEq, Repr, Inhabited

/-- An exchange of TIMING or PROBE stamps under way (R365, R299): sequence number and T1. -/
structure Stamp where
  seq : Nat
  t1  : Nat
  at_ : Nat
  deriving DecidableEq, Repr, Inhabited

/-- What a port last heard in ANNOUNCE (R362, R365). -/
structure Announce where
  gm       : W64
  prio     : Nat
  source   : Nat
  steps    : Nat
  tstate   : Nat
  parent   : W64
  chip     : W64
  at_      : Nat
  deriving DecidableEq, Repr, Inhabited

/-- A fabric port by the number of its first lane, or a Welt port at 1,024, 1,032, 1,040, 1,048 (R33, R298). `damps` holds
the ends of the damp windows of its entries into DAMPED (R62); `checkMax`, `serMax` and `peerMax` are the values of
LAST_PORTSM that the dwell, the symbol-error window and the count under way were started with (R63); `roundW` are the weights
of the round of R142 under way (R147). (DESIGN CHOICE, log entry 152). -/
structure Port where
  width     : Nat := 1
  enabled   : Bool := false
  longReach : Bool := false
  profile   : Nat := 0
  st        : PState := .down
  hold      : Hold := .free
  damps     : List Nat := []
  trained   : Bool := false
  signal    : Bool := false
  train     : Option Train := none
  flight    : Option Int := none
  dwellOk   : Bool := false
  checkMax  : Option Nat := none
  serMax    : Option Nat := none
  peerMax   : Option Nat := none
  refused   : Bool := false
  peerSt    : Nat := 0
  peerOut   : Nat := 0
  heard     : Option Heard := none
  judged    : Option Heard := none
  qos       : Bytes := []
  qosNext   : Option Bytes := none
  qosMbx    : List (Fin 8) := []
  tc        : List Nat := []
  tp        : List Nat := []
  ts        : List Nat := []
  held      : Tbl (List BufCell) := []
  credits   : List Nat := []
  resvCred  : List Nat := []
  inUse     : List Nat := []
  sentRecent : Tbl (List Nat) := []
  store     : Tbl (List BufCell) := []
  resvStore : Nat := 0
  vc0       : List BufCell := []
  stomps    : List Cell := []
  deficit   : List Nat := []
  visit     : Nat := 1
  roundW    : List Nat := []
  slot      : Nat := 0
  localTurn : Bool := false
  debt      : Nat := 0
  upAt      : Nat := 0
  stamps    : List Stamp := []
  dvals     : List Int := []
  tseqs     : List Nat := []
  ann       : Option Announce := none
  deriving DecidableEq, Repr, Inhabited

/-- An outstanding CLAIM of an input block (R75, R84): the engine that matched the blocks (64: the block's local
arbiter), whether its match holds a floor way, the cells asked for, the reply once given, and the train number. `bound` says that the
input block has sent what it sends, so that only an unused reservation is left, `known` that the output block holds the match (R85). -/
structure Claim where
  id     : Nat
  inB    : Nat
  outB   : Nat
  port   : Nat
  vc     : Nat
  engine : Nat
  len    : Nat
  reply  : Option Nat
  number : Nat
  bound  : Bool
  known  : Bool
  deriving DecidableEq, Repr, Inhabited

/-- A train on its way to its output block (R73, R76); no cells: confirmed empty. -/
structure TrainOut where
  id     : Nat
  inB    : Nat
  port   : Nat
  vc     : Nat
  number : Nat
  cells  : List BufCell
  engine : Nat
  early  : Bool
  deriving DecidableEq, Repr, Inhabited

/-- An entry of a block's last-destination cache (R103). -/
structure CacheEnt where
  tag   : Nat
  bank  : Nat
  entry : Nat
  deriving DecidableEq, Repr, Inhabited

/-- A received cell in the credited allocation of its port (R67, R70), routed: the copies to write, each with its output
port (one for a unicast cell). -/
structure Alloc where
  mc     : Bool
  copies : List (Nat × BufCell)
  deriving DecidableEq, Repr, Inhabited

/-- A block (R65 to R90): the cells in the credited allocations of its ports, its virtual output queues, express queues,
copies waiting to be placed (`pend`), the entries among them of which a copy has been written (`wrote`), multicast entries placed that
wait for a free shared entry (`await`), arbitration state, last-destination cache, spray values, the buffer entries in use (entry number to what it holds) and those out of service
(R66), and the cells its internal peal port has delivered (R171) and no handler has taken yet. VOQs are keyed 8 × output
port + VC; the peal port of block b is output port 2,048 + b. (DESIGN CHOICE, log entry 9). -/
structure Block where
  alloc     : List Alloc := []
  voqs      : Tbl (List BufCell) := []
  express   : List (Nat × BufCell) := []
  pend      : List (Nat × BufCell) := []
  wrote     : List Nat := []
  await     : List BufCell := []
  quota     : Tbl Nat := []
  vcPtr     : Tbl Nat := []
  portPtr   : Tbl Nat := []
  trainNo   : Tbl Nat := []
  expectNo  : Tbl Nat := []
  cache     : Tbl CacheEnt := []
  spray     : Tbl Int := []
  entries   : Tbl Nat := []
  retired   : List Nat := []
  ceTimes   : Tbl (List Nat) := []
  pealIn    : List BufCell := []
  deriving DecidableEq, Repr, Inhabited

/-- A wave engine (R78, R81). -/
structure Engine where
  n       : Nat := 0
  g       : List Nat := List.replicate 32 0
  a       : List Nat := List.replicate 32 0
  retired : Bool := false
  deriving DecidableEq, Repr, Inhabited

/-- A match a wave made, whose way is held until its train ends: engine, input block, output block, whether it holds a floor
way; `id` is that of the CLAIM that followed. -/
structure Match where
  id     : Nat
  engine : Nat
  i      : Nat
  j      : Nat
  floor  : Bool
  deriving DecidableEq, Repr, Inhabited

/-- What waits for a hub seam behind the traffic R87 puts before it: a TWIN cell from a region to the Welt ports, a cell for the control
complex held by a region's block, a freeze marker to a region. (DESIGN CHOICE, log entry 159). -/
inductive HubItem where
  | twin (region : Nat) (cell : Cell)
  | control (block : Nat) (cell : BufCell)
  | marker (die : Nat)
  deriving DecidableEq, Repr, Inhabited

/-- The hub's scheduler and express path (R78 to R88), with what waits for a hub seam (R87). (DESIGN CHOICE, log entry 9). -/
structure Sched where
  engines  : Tbl Engine := []
  matches_ : List Match := []
  claims   : List Claim := []
  trains   : List TrainOut := []
  nextId   : Nat := 0
  nextEnt  : Nat := 0
  expPtr   : Tbl Nat := []
  floorPtr : Tbl Nat := []
  hub      : List HubItem := []
  deriving DecidableEq, Repr, Inhabited

/-- One direction of a seam (R10 to R12): lanes lost, spares left, width in eighths, retries made for the frame at the head. -/
structure SeamDir where
  spares   : Nat
  width    : Nat
  attempts : Nat
  retired  : List Nat
  deriving DecidableEq, Repr, Inhabited

/-- A record of the cabling plan (R133). -/
structure PlanRec where
  width     : Nat
  role      : Nat
  peerPort  : Nat
  peerWidth : Nat
  peerGroup : Nat
  peerLeaf  : Nat
  peerChip  : W64
  deriving DecidableEq, Repr, Inhabited

/-- The cabling plan in force (R133); its parameters hold their shipped values until one is loaded. -/
structure Plan where
  loaded      : Bool := false
  selfFa      : Nat := 0
  twinChip    : W64 := 0
  planTag     : Nat := 0
  affOn       : Nat := 75
  affOff      : Nat := 50
  sampleLog2  : Nat := 10
  scoreShift  : Nat := 8
  decayUs     : Nat := 50
  scaleMin    : Nat := 2
  horizonMs   : Nat := 100
  recs        : Tbl PlanRec := []
  circOrder   : List Nat := []
  deriving DecidableEq, Repr, Inhabited

/-- A sample of a sprayed DATA cell (R118); `no` counts the samples recorded, so that the one recorded first is known. -/
structure Sample where
  src : Nat
  dst : Nat
  tag : Nat
  flow : Nat
  seq : Nat
  g   : Nat
  m   : Nat
  no  : Nat
  at_ : Nat
  deriving DecidableEq, Repr, Inhabited

/-- A window this chip holds on a flow or peal of its own (R153 to R155), keyed by the caller; `granted` says that a WINDOW has been
accepted, so that there are a LIMIT and an ACK to compare with. -/
structure HeldWin where
  scope   : Nat
  id      : Nat
  round   : Nat
  grantor : Nat
  granted : Bool
  limit   : Nat
  ack     : Nat
  next    : Nat
  cells   : List Cell
  retries : Nat
  maxTry  : Nat
  stopped : Bool
  path    : Option (Nat × Nat)
  deriving DecidableEq, Repr, Inhabited

/-- Routing state shared by the blocks (chapters 04 and 05). `replicas` lists table words that did not read good, as
(window byte offset of the word, mask of the regions whose replica failed at one lookup + 16 × the time of the lookup); mask 15 is BAD. -/
structure Fabric where
  plan      : Plan := {}
  epoch     : Nat := 0
  open_     : Bool := false
  drain     : Option Nat := none
  drainFrom : Nat := 0
  seamBusy  : List Bool := [false, false, false, false]
  samples   : Tbl (List Sample) := []
  sampleNo  : Nat := 0
  decays    : Nat := 0
  tags      : Tbl (BitVec 1024) := []
  replicas  : Tbl Nat := []
  badSegs   : List Nat := []
  wins      : Tbl HeldWin := []
  learned   : List Bytes := []
  deriving DecidableEq, Repr, Inhabited

/-- The five reference tables "lasts" by LAST_ID (R25 to R28): the copy running and, for LAST_CELLFMT, the one pending. -/
structure Last where
  header  : Bytes
  body    : Bytes
  pending : Option (Bytes × Bytes)
  deriving DecidableEq, Repr, Inhabited

end Sys2Proof.Machine
end

