-- ==== Sys2Proof/Machine/TypesHost.lean ====
section
/-! DEFINITION. Machine/TypesHost.lean: the state of the host interface, the logs and counters, the control complex and the chip level (chapters 01, 14 to 18). -/
namespace Sys2Proof.Machine

/-- The chip states (R434), in the order of their codes. -/
inductive CState where
  | boot | selftest | pairing | service | degraded | damped | safeMonitor
  deriving DecidableEq, Repr, Inhabited

/-- A message taken up and not yet answered: its opcode, what was rung, and whether it has started (it may wait for a core, R387). -/
structure Waiting where
  op      : Nat
  msg     : Msg
  started : Bool
  deriving DecidableEq, Repr, Inhabited

/-- A mailbox (R380, R381): its registers and payload, the saved response for replays (header and body, and where an
indirect body goes), and a message that waits or whose response waits. -/
structure Mailbox where
  busy    : Bool := false
  done    : Bool := false
  overrun : Bool := false
  irqEn   : Bool := false
  lastSeq : W32 := 0
  any     : Bool := false
  payload : Bytes := []
  saved   : Bytes := []
  savedIn : Option Nat := none
  waiting : Option Waiting := none
  deriving DecidableEq, Repr, Inhabited

/-- One write that hardware deferred while a segment was locked (R392): the route-health updates of R117 and the member
entries of R167. -/
inductive Deferred where
  /-- an ECHO matched: MARKS for PATH_HEALTH entry e at time t -/
  | mark (e marks t : Nat)
  /-- a window timeout charged to entry e at time t -/
  | timeout (e t : Nat)
  /-- a decay tick; `sixteenth` on every 16th -/
  | decay (sixteenth : Bool)
  /-- entry e is reset (R121) -/
  | reset (e : Nat)
  /-- FENCED of member entry e is set to v (R167) -/
  | fenced (e : Nat) (v : Bool)
  deriving DecidableEq, Repr, Inhabited

/-- The byte memories of the block: the table window with the staging copies of locked segments (R391, R392), host
memory as DMA sees it, the address ranges where a DMA fails, the PSTORE bytes of peals (R243) and the slices of the
shards' banks (R272), and by digest unit the residues of the words that STM issued and of those that landed (R310). -/
structure Mems where
  tbl     : Memory := []
  stg     : Memory := []
  locked  : List Nat := []
  defer   : Tbl (List Deferred) := []
  host    : Memory := []
  dmaFail : List (Nat × Nat) := []
  pstore  : Memory := []
  bank    : Memory := []
  issued  : Tbl Nat := []
  landed  : Tbl Nat := []
  deriving DecidableEq, Repr, Inhabited

/-- The shadow compare under way (R399, R400). -/
structure Shadow where
  enable   : Bool := false
  tables   : Nat := 0
  passS    : Nat := 60
  addr     : Nat := 0
  maxMbps  : Nat := 100
  suspects : List Nat := []
  drifted  : List Nat := []
  unlocked : List Nat := []
  deriving DecidableEq, Repr, Inhabited

/-- The MSI-X table at reset: every vector masked (the layout and reset values of PCI). (PRESUMED, log entry 6). -/
def msixReset : Bytes := (List.replicate 32 (zeros 12 ++ [1, 0, 0, 0])).flatten

/-- The host interface (R373 to R404) apart from its memories. (PRESUMED, log entry 6). -/
structure HostIf where
  cxlUp     : Bool := false
  busMaster : Bool := false
  session   : Bool := false
  features  : W64 := 0
  mbx       : Tbl Mailbox := []
  eqHead    : Nat := 0
  eqTail    : Nat := 0
  eqOn      : Bool := false
  eqOverflow : Bool := false
  eqDmaErr  : Bool := false
  eqEntries : Nat := 0
  eqAddr    : Nat := 0
  eqPhase   : Bool := true
  eqLost    : Bool := false
  v0Out     : Bool := false
  msix      : Bytes := msixReset
  msixPend  : Nat := 0
  msixSent  : Tbl Nat := []
  dropAt    : Tbl Nat := []
  shadow    : Shadow := {}
  deriving DecidableEq, Repr, Inhabited

/-- An entry of the event log (R401), PHASE apart. -/
structure Event where
  code  : Nat
  valid : Bool
  seq   : W32
  time  : BitVec 80
  data  : Bytes
  deriving DecidableEq, Repr, Inhabited

/-- A counter of class EVENT or ERROR with its sticky bit (R453). -/
structure Ctr where
  val    : Nat
  sticky : Bool
  deriving DecidableEq, Repr, Inhabited

/-- What the summary of a die's ledger in flash holds (R467). -/
structure Summary where
  hours    : Nat := 0
  powerOns : Nat := 0
  fences   : Nat := 0
  spares   : Tbl Nat := []
  coresOut : List Nat := []
  channels : List Nat := []
  seamMap  : List (Nat × Nat) := []
  frames   : Tbl (List Nat) := []
  deriving DecidableEq, Repr, Inhabited

/-- The health ledger of one die (R462 to R467): records of 64 bytes by RECORD_INDEX, those in flash and those still in
LEDGER_CACHE, the log's erase blocks in the order of use with the indices each holds, their wear, and the summary as it is now (`saved`: as it
last reached flash, with its SEQ, and `prior` the copy before it, each with whether its tag holds; `badErase` lists blocks that fail to erase). Seams of the map count 2 × seam + direction. The histograms count samples of 100 µs. -/
structure Ledger where
  next     : Nat := 0
  flash    : Tbl Bytes := []
  cache    : Tbl Bytes := []
  blocks   : List (Nat × List Nat) := []
  erases   : Tbl Nat := []
  wornOut  : List Nat := []
  seq      : Nat := 0
  saved    : Summary := {}
  savedOk  : Bool := true
  prior    : Summary := {}
  priorOk  : Bool := true
  badErase : List Nat := []
  hours    : Nat := 0
  powerOns : Nat := 0
  fences   : Nat := 0
  spares   : Tbl Nat := []
  coresOut : List Nat := []
  channels : List Nat := []
  seamMap  : List (Nat × Nat) := []
  frames   : Tbl (List Nat) := []
  tempHist : Tbl Nat := []
  voltHist : Tbl Nat := []
  lastHour : Tbl Nat := []
  deriving DecidableEq, Repr, Inhabited

/-- A snapshot (R457, R458): its number, freeze stamp and TIME_VALID, the chip state at the cut, the counters and gauges as each die latched
them, and the rows of section 0x10 by peal and CELL. -/
structure Snap where
  num    : Nat := 0
  stamp  : BitVec 80 := 0
  valid  : Bool := false
  chip   : Nat := 0
  cut    : Tbl Ctr := []
  gauges : Tbl Nat := []
  rows   : Tbl Bytes := []
  deriving DecidableEq, Repr, Inhabited

/-- A freeze in progress (R456): the dies that have latched, what they latched, and the mailbox that waits. -/
structure Freeze where
  latched : List Nat
  snap    : Snap
  mbx     : Fin 8
  deriving DecidableEq, Repr, Inhabited

/-- Events, counters, ledgers and snapshots. `mixBase` holds, per die, the slot counts at its last Tj sample (every
100 µs), from which the slot mix of a ledger record is formed (R463). -/
structure Logs where
  evNext  : W32 := 0
  events  : List Event := []
  ctrs    : Tbl Ctr := []
  ledgers : Tbl Ledger := []
  snapSeq : Nat := 0
  freeze  : Option Freeze := none
  slots   : Tbl Snap := []
  mixBase : Tbl (List Nat) := []
  deriving DecidableEq, Repr, Inhabited

/-- A supply warning of one die (R445). -/
structure Warn where
  since  : Nat
  lowest : Nat
  deriving DecidableEq, Repr, Inhabited

/-- The chip level (R8 to R24, R434 to R449, R469 to R489). `lastBad` is the last that failed in both banks, `partBad` one more than the part
invalid in both, `hubBad` a hub item that failed; `tested` says that the self-test items have run, `atTarget` that the
setpoint has reached VSET_TARGET since the boot setpoint, `noSummary` the dies whose ledger had no summary with a good tag at power-up, `warnEnd` when the last supply warning cleared (0: none has). (DESIGN CHOICE, log entry 5). (DEDUCED, log entry 139). -/
structure Chip where
  inReset   : Bool := true
  st        : CState := .boot
  cause     : Nat := 0
  reason    : Nat := 0
  regionFence : Tbl Nat := []
  blockFence  : Tbl Nat := []
  noSpare   : List Nat := []
  tjWarn    : List Nat := []
  thermN    : Bool := false
  warn      : Tbl Warn := []
  warnHeld  : List Nat := []
  warnEnd   : Nat := 0
  lastBad   : Nat := 0
  partBad   : Nat := 0
  hubBad    : Bool := false
  tested    : Bool := false
  noSummary : List Nat := []
  seams     : Tbl SeamDir := []
  ti        : List Nat := [1024, 1024, 1024, 1024]
  monitors  : Tbl Nat := []
  dr        : List Nat := [1024, 1024, 1024, 1024]
  tj        : List Int := [0, 0, 0, 0, 0]
  vdd       : List Nat := [750, 750, 750, 750, 750]
  setpoint  : Nat := 750
  avsStop   : Bool := false
  atTarget  : Bool := false
  stepAt    : Nat := 0
  refLost   : List Nat := []
  cxlClk    : Bool := true
  tref      : Bool := true
  svcLink   : Bool := false
  svcMode   : Bool := false
  deriving DecidableEq, Repr, Inhabited

/-- An image slot of the flash (R415): the manifest header of 128 bytes, whether the vendor's signature verifies, and
whether the payload's SHA-256 is the manifest's. -/
structure Image where
  hdr    : Bytes
  sigOk  : Bool
  hashOk : Bool
  deriving DecidableEq, Repr, Inhabited

/-- The module record (R414). -/
structure ModuleRec where
  ordering : Bytes
  stepping : Bytes
  serial   : Bytes
  date     : Bytes
  dieIds   : List W64
  idKey    : Bytes
  sig      : Bytes
  deriving DecidableEq, Repr, Inhabited

/-- A configuration record (R431). -/
structure CfgRec where
  ver  : Nat
  seq  : Nat
  body : Bytes
  deriving DecidableEq, Repr, Inhabited

/-- What the boot flash holds (R411) apart from the ledgers: the module record, the boot-control record (R418), the
counter record (R419), the image slots keyed 5 × bank + part, the lasts keyed 8 × bank + LAST_ID with whether their
tag or index entry holds, and the two configuration areas keyed 256 × area + type. -/
structure Flash where
  record   : ModuleRec
  recordOk : Bool
  bcrOk    : Bool
  countOk  : Bool
  writeSeq : Nat
  partSel  : Nat
  lastSel  : Nat
  cfgSel   : Nat
  trial    : Nat
  prevPart : Nat
  prevLast : Nat
  prevCfg  : Nat
  ctrSeq   : Nat
  floors   : List Nat
  lmsNext  : Nat
  images   : Tbl Image
  lasts    : Tbl (Bytes × Bytes × Bool)
  cfg      : Tbl CfgRec
  deriving DecidableEq, Repr, Inhabited

/-- A session of the service port (R423): its key, sequence numbers, when it last spoke, whether it wrote a SERVICE_PORT record, and whether
the operator key has changed since its key was formed. -/
structure Svc where
  key    : Bytes
  rxSeq  : Nat
  txSeq  : Nat
  at_    : Nat
  wrote  : Bool
  stale  : Bool
  deriving DecidableEq, Repr, Inhabited

/-- A staging in progress (R425). -/
structure Staging where
  session : Nat
  part    : Nat
  len     : Nat
  chunks  : Tbl Bytes
  deriving DecidableEq, Repr, Inhabited

/-- An activation in progress (R426 to R429). -/
structure Activation where
  part     : Nat
  handover : Bool
  mbx      : Fin 8
  before   : Bytes
  deriving DecidableEq, Repr, Inhabited

/-- A datagram the part sent on the service port. -/
structure SvcOut where
  kind    : Nat
  cmd     : Nat
  session : Nat
  seq     : Nat
  status  : Nat
  body    : Bytes
  mac     : Bytes
  deriving DecidableEq, Repr, Inhabited

/-- The control complex (R405 to R433). `crashAt` and `wardenAt` are times of crashes and of failed warden restarts, `safeTrial` says that
the control firmware in trial was activated in SAFE_MONITOR, `lmsPtr` is the warden's index pointer (R420), `running` the image each part runs, `stageSt` the STATE of R433
from 0 to 3, `out` the datagrams sent in answer to the last one received, `ringOrder` the mailboxes whose messages wait for a core, in the order of
their RINGs. -/
structure Ctl where
  crashed   : List Nat := []
  restarts  : W32 := 0
  crashAt   : List Nat := []
  wardenAt  : List Nat := []
  wardenN   : Nat := 0
  safe      : Bool := false
  safeTrial : Bool := false
  lmsPtr    : Option Nat := none
  quoteAt   : Option Nat := none
  running   : Tbl Image := []
  stageSt   : Tbl Nat := []
  staging   : Option Staging := none
  act       : Option Activation := none
  trialAt   : Nat := 0
  sessions  : Tbl Svc := []
  nextSess  : Nat := 1
  svcAddr   : Bytes := []
  out       : List SvcOut := []
  ringOrder : List (Fin 8) := []
  deriving DecidableEq, Repr, Inhabited

end Sys2Proof.Machine
end

