-- ==== Sys2Proof/Machine/Shipped.lean ====
section
/-! DEFINITION. Machine/Shipped.lean: what the boot flash of the module holds as shipped (R411 to R419, R490). -/
namespace Sys2Proof.Machine

/-! Bodies of the shipped lasts (R490). -/

/-- A step record of LAST_LINKTRAIN (R52). -/
def trainStep (op flags timeout param : Nat) : Bytes := toLE 1 op ++ toLE 1 flags ++ toLE 2 timeout ++ toLE 4 param

/-- LAST_LINKTRAIN as shipped (R55, R490): TIMEOUT in 100 ns, or in 100 µs with UNIT set. Both units can give the shipped limits of CDR_LOCK
and of the steps of 100 µs, and the spec fixes neither; they stand here with UNIT set. (DESIGN CHOICE, log entry 163). -/
def shippedLinktrain : Bytes :=
  [9, 5] ++ zeros 6
    ++ trainStep 1 1 100 0 ++ trainStep 2 2 10 0 ++ trainStep 3 1 3000 1 ++ trainStep 4 1 10 0 ++ trainStep 5 1 200 1024
    ++ trainStep 6 1 1 0 ++ trainStep 7 1 1 0 ++ trainStep 8 1 1 0 ++ trainStep 9 3 1 0
    ++ trainStep 2 0 10 1 ++ trainStep 4 0 60 0 ++ trainStep 6 0 40 0 ++ trainStep 7 0 10 0 ++ trainStep 8 0 10 0

/-- LAST_PORTSM as shipped (R63). -/
def shippedPortsm : Bytes :=
  toLE 4 500 ++ toLE 4 1000 ++ toLE 4 200 ++ toLE 4 1000 ++ toLE 4 100 ++ toLE 4 10000 ++ toLE 4 3 ++ toLE 4 600 ++ toLE 4 2
    ++ toLE 4 1000 ++ toLE 4 10000

/-- START and END of the shipped LAST_MARK for VC v (R150). -/
def markRange (v : Nat) : Nat × Nat :=
  match v with
  | 1 | 2 => (4096, 32768) | 3 | 6 => (8192, 65536) | 4 => (2048, 16384) | _ => (1024, 8192)

/-- A curve of the shipped LAST_MARK: 8 points from START to END, halved for class 1 (R150). -/
def markCurve (v cls : Nat) : Bytes :=
  let (a, b) := markRange v
  let a := a / (cls + 1)
  let b := b / (cls + 1)
  ((List.range 8).map fun k => toLE 4 (a + (b - a) / 7 * k) ++ toLE 2 (65535 * k / 7) ++ zeros 2).flatten

/-- LAST_MARK as shipped (R150). -/
def shippedMark : Bytes := ((List.range 7).map fun i => markCurve (i + 1) 0 ++ markCurve (i + 1) 1).flatten

/-- LAST_VDERATE as shipped (R478). -/
def shippedVderate : Bytes :=
  toLE 2 750 ++ toLE 2 700 ++ toLE 2 800 ++ [5, 0] ++ toLE 2 16 ++ toLE 2 64 ++ toLE 4 6
    ++ ([(600, 640), (620, 730), (640, 810), (660, 880), (680, 945), (700, 1024)].map fun p => toLE 2 p.1 ++ toLE 2 p.2).flatten

/-- LAST_THERMAL as shipped (R479). -/
def shippedThermal : Bytes :=
  [5, 3, 0, 0] ++ ([(840, 1024), (880, 960), (920, 880), (960, 800), (1000, 720)].map fun p => toLE 2 p.1 ++ toLE 2 p.2).flatten
    ++ ([(0, 1), (85, 2), (95, 4)].map fun p => toLE 1 p.1 ++ toLE 1 p.2 ++ zeros 2).flatten

/-- The body of a shipped last (R490). -/
def shippedBody (id : Nat) : Bytes :=
  match id with
  | 1 => shippedLinktrain | 3 => shippedMark | 4 => shippedThermal | 5 => shippedVderate | 6 => shippedPortsm | _ => []

/-- The header of a shipped last (R26). The versions are the model's choice: R490 fixes none. (DESIGN CHOICE, log entry 7). -/
def shippedHeader (id : Nat) : Bytes :=
  let b := shippedBody id
  toLE 1 id ++ [1] ++ zeros 2 ++ toLE 2 1 ++ toLE 4 0 ++ toLE 2 1 ++ toLE 2 15 ++ toLE 4 b.length ++ toLE 4 (crc32c b) ++ zeros 10

/-! Images (R415). Versions, SVN and compatibility ranges are the model's choice. -/

/-- Major, minor and patch of each part of the shipped set. (DESIGN CHOICE, log entry 7). -/
def shippedVer (part : Nat) : Nat × Nat × Nat :=
  match part with | 0 => (7, 2, 0) | 1 => (3, 0, 0) | _ => (1, 0, 0)

/-- The manifest header of a shipped image. -/
def shippedManifest (part : Nat) : Bytes :=
  let (a, b, c) := shippedVer part
  toLE 4 0x4E414D4B ++ [1, BitVec.ofNat 8 part] ++ zeros 2 ++ toLE 2 a ++ toLE 2 b ++ toLE 2 c ++ zeros 2 ++ toLE 4 1 ++ toLE 4 4096 ++ zeros 32
    ++ ((List.range 5).map fun q => if q = part then zeros 4 else toLE 2 0 ++ toLE 2 65535).flatten
    ++ (if part = 0 then toLE 2 0 ++ toLE 2 65535 else zeros 4) ++ zeros 4 ++ zeros 44

/-- The module record of the modelled part (R1, R414): module KS1024-M2 at stepping B0; the identities, serial number and date are the
model's choice. -/
def shippedRecord : ModuleRec :=
  { ordering := [0x4B, 0x53, 0x31, 0x30, 0x32, 0x34, 0x2D, 0x4D, 0x32] ++ zeros 7, stepping := [0x42, 0x30], serial := zeros 12, date := zeros 4
    dieIds := [0x1001, 0x1002, 0x1003, 0x1004, 0x1005], idKey := zeros 56, sig := [] }

/-- The boot flash as shipped: both banks hold the same images and lasts, bank A is selected, no configuration record is
written. -/
def shippedFlash : Flash :=
  { record := shippedRecord, recordOk := true, bcrOk := true, countOk := true, writeSeq := 1, partSel := 0, lastSel := 0, cfgSel := 0, trial := 0
    prevPart := 0, prevLast := 0, prevCfg := 0, ctrSeq := 1, floors := [0, 0, 0, 0, 0], lmsNext := 0
    images := (List.range 10).map fun k => (k, { hdr := shippedManifest (k % 5), sigOk := true, hashOk := true })
    lasts := ([1, 2, 3, 4, 5, 6, 7, 9, 10, 11, 12, 13, 14, 15] : List Nat).map fun k => (k, (shippedHeader (k % 8), shippedBody (k % 8), true))
    cfg := [] }

end Sys2Proof.Machine
end

