-- ==== Sys2Proof/Machine/TypesCirc.lean ====
section
/-! DEFINITION. Machine/TypesCirc.lean: the state of circuit ports (chapter 12). -/
namespace Sys2Proof.Machine

/-- A slot of a circuit schedule (R341). -/
structure Slot where
  lenUs     : Nat
  dark      : Bool
  group     : Nat
  peerPort  : Nat
  peerWidth : Nat
  peerChip  : W64
  deriving DecidableEq, Repr, Inhabited

/-- A circuit schedule (R340). -/
structure Schedule where
  id        : Nat
  start     : Nat
  cycles    : Nat
  stashMib  : Nat
  switchNs  : Nat
  relockUs  : Nat
  dwellUs   : Nat
  failLimit : Nat
  ageMs     : Nat
  slots     : List Slot
  deriving DecidableEq, Repr, Inhabited

/-- A cell in the stash: its record, the record's stamp, and the bank that routed it. -/
structure Stashed where
  cell  : BufCell
  recNo : Nat
  stamp : Nat
  deriving DecidableEq, Repr, Inhabited

/-- A stash queue (port, g) (R346): cells not yet sent, cells sent and not acknowledged, the number of the record being
filled, how many cells it has, and the record last read. -/
structure StashQ where
  wait  : List Stashed := []
  sent  : List Stashed := []
  recNo : Nat := 0
  fill  : Nat := 0
  fails : Nat := 0
  suspect : Bool := false
  readRec : Option Nat := none
  deriving DecidableEq, Repr, Inhabited

/-- A circuit port (R338 to R356). `slot` and `cycle` name the slot that runs, `started` whether an edge has passed
since arming, `edge` the network time in ns of the next edge, `release` and `resend` the phases before an edge, `opened` that the slot has reached UP, `writer` the cells waiting at the stash writer; `full`
says that the slot started with FULL training, `lost` the MiB of the stash that lay on channels since retired (R331). -/
structure Circ where
  sched     : Option Schedule := none
  succ      : Option Schedule := none
  armed     : Bool := false
  disarm    : Bool := false
  started   : Bool := false
  ended     : Bool := false
  suspended : Bool := false
  slot      : Nat := 0
  cycle     : Nat := 0
  edge      : Nat := 0
  release   : Bool := false
  resend    : Bool := true
  opened    : Bool := false
  failed    : Bool := false
  full      : Bool := false
  queues    : Tbl StashQ := []
  writer    : List (Nat × BufCell) := []
  writerAt  : Nat := 0
  darkAt    : Nat := 0
  lost      : Nat := 0
  deriving DecidableEq, Repr, Inhabited

end Sys2Proof.Machine
end

