-- ==== Sys2Proof/Machine/TypesMem.lean ====
section
/-! DEFINITION. Machine/TypesMem.lean: the state of the LPDDR channels (chapter 11). -/
namespace Sys2Proof.Machine

/-- A memory channel (R329 to R336): status code, refresh multiplier and MR4 code, eye figures, times of corrected errors by
frame, times of uncorrectable errors, and tracking steps failed in a row, and the pools of its last 1,024 slots, newest first (R325). The frames it has retired stand in the ledger of its region. -/
structure Chan where
  status   : Nat := 0
  mult     : Nat := 1
  code     : Nat := 0
  rdHeight : Nat := 0
  rdWidth  : Nat := 0
  wrHeight : Nat := 0
  wrWidth  : Nat := 0
  ceAt     : Tbl (List Nat) := []
  ueAt     : List Nat := []
  trackBad : Nat := 0
  x4At     : Nat := 0
  recent   : List Nat := []
  deriving DecidableEq, Repr, Inhabited

end Sys2Proof.Machine
end

