-- ==== Sys2Proof/Machine/TypesTime.lean ====
section
/-! DEFINITION. Machine/TypesTime.lean: the state of the time unit (chapter 13). -/
namespace Sys2Proof.Machine

/-- The time states (R360), in the order of their codes. -/
inductive TState where
  | free | acquiring | locked | holdover | drifting
  deriving DecidableEq, Repr, Inhabited

/-- The grandmaster a chip follows, as it announces it (R365): identity, priority, source, steps from it, and the chip upstream. -/
structure Gm where
  id     : W64 := 0
  prio   : Nat := 0
  source : Nat := 0
  steps  : Nat := 0
  parent : W64 := 0
  deriving DecidableEq, Repr, Inhabited

/-- The time unit (R357 to R372). RATE in units of 2^-48, OFFSET in units of 2^-16 ns; offsets `o` of measurements in
units of 2^-17 ns. `gm` is the grandmaster last followed, kept while no source is selected. -/
structure Time where
  frc     : W64 := 0
  rate    : Int := 0
  offset  : Int := 0
  valid   : Bool := false
  st      : TState := .free
  src     : Nat := 0
  port    : Option Nat := none
  since   : Nat := 0
  f       : Int := 0
  samples : List (Int × Nat) := []
  good20  : Nat := 0
  good100 : Nat := 0
  bad100  : Nat := 0
  lastAt  : Option Nat := none
  lastO   : Int := 0
  step    : Int := 0
  ppsAt   : Option Nat := none
  ppsTod  : Option Nat := none
  ppsOk   : Bool := false
  ptp     : Option (W64 × Nat) := none
  ptpSync : Option (Nat × Nat) := none
  ptpDelay : Option Int := none
  gm      : Gm := {}
  ppsOut  : Bool := false
  mask    : Nat := 1
  prio    : Nat := 128
  holdMs  : Nat := 1000
  tod     : Nat := 0
  inDelay : Nat := 0
  outAdv  : Nat := 0
  domain  : Nat := 0
  localOk : Bool := false
  deriving DecidableEq, Repr, Inhabited

end Sys2Proof.Machine
end

