-- ==== Sys2Proof/Machine/TypesTwin.lean ====
section
/-! DEFINITION. Machine/TypesTwin.lean: the state of the twin pair (chapter 10). -/
namespace Sys2Proof.Machine

/-- The pair states (R306), in the order of their codes. -/
inductive Pair where
  | solo | syncing | paired | takeover | orphan
  deriving DecidableEq, Repr, Inhabited

/-- A sequenced TWIN cell sent and not yet acknowledged (R301). -/
structure TwinTx where
  vc   : Nat
  tseq : W32
  cell : Cell
  deriving DecidableEq, Repr, Inhabited

/-- The digests of one side for a shard's step (R310). -/
structure DigestSet where
  step  : Nat
  units : Tbl W64
  deriving DecidableEq, Repr, Inhabited

/-- The copy of one shard under way in a rebuild (R314): the peal whose opening is held, and the shard if it has one. -/
structure Copying where
  peal  : Nat
  shard : Option Nat
  since : Nat
  deriving DecidableEq, Repr, Inhabited

/-- The twin pair (R298 to R317). `given` names the regions this chip has announced as dying (R15, R321). `due` says that a takeover decision waits for a control core (R408), `isNew` that this chip joins by
rebuild, `rebuild` that it is the survivor of one, `rejoin` that it met its twin again in ORPHAN and no
rebuild has made it the survivor. -/
structure Twin where
  st       : Pair := .solo
  asked    : Bool := false
  quorum   : Nat := 8
  deadUs   : Nat := 50
  holdMs   : Nat := 1000
  heard    : Tbl Bytes := []
  agreed   : Tbl Bytes := []
  peer     : Bytes := []
  agreeFail : Nat := 0
  taken    : Nat := 0
  given    : Nat := 0
  tookOver : Bool := false
  yielded  : Bool := false
  due      : Bool := false
  isNew    : Bool := false
  hbSent   : W32 := 0
  since    : Nat := 0
  txSeq    : List Nat := []
  rxSeq    : List Nat := []
  rxHeld   : List TwinTx := []
  unacked  : List TwinTx := []
  inbox    : Tbl (List Cell) := []
  sprayC   : List Int := []
  reports  : Tbl Nat := []
  rebuild  : Bool := false
  rejoin   : Bool := false
  copying  : Option Copying := none
  moved    : Nat := 0
  mine     : Tbl DigestSet := []
  theirs   : Tbl DigestSet := []
  deriving DecidableEq, Repr, Inhabited

end Sys2Proof.Machine
end

