-- ==== Sys2Proof/Machine/State.lean ====
section
/-! DEFINITION. Machine/State.lean: the state of the block, its reset value, and the reasons a step can stop. -/
namespace Sys2Proof.Machine

/-- The state of the module. (DESIGN CHOICE, log entry 3). -/
structure State where
  lanes   : Tbl Lane := []
  ports   : Tbl Port := []
  blocks  : Tbl Block := []
  sched   : Sched := {}
  fabric  : Fabric := {}
  lasts   : Tbl Last := []
  mem     : Mems := {}
  host    : HostIf := {}
  logs    : Logs := {}
  chip    : Chip := {}
  ctl     : Ctl := {}
  flash   : Flash
  time    : Time := {}
  twin    : Twin := {}
  peals   : Tbl Peal := []
  spine   : Spine := {}
  circ    : Tbl Circ := []
  chans   : Tbl Chan := []
  free    : Nat := 0
  pending : List Instr := []
  deriving DecidableEq, Repr

/-- A Welt port: always present and enabled, 8 lanes, profile 0 (R298, R303). -/
def weltReset : Port := { width := 8, enabled := true }

/-- The module held in reset: RESET_N asserted, nothing configured, every counter zero, the flash as shipped. (DESIGN CHOICE, log entry 4). -/
def State.reset : State :=
  { flash := shippedFlash, ports := [(1024, weltReset), (1032, weltReset), (1040, weltReset), (1048, weltReset)] }

/-- Faults of the model: none is raised; every condition the manual calls a fault is a next state of the block. (DEDUCED, log entry 13). -/
inductive Fault where
  /-- raised by nobody; safe -/
  | none
  deriving DecidableEq, Repr

/-- Refusals of the model. -/
inductive Refusal where
  /-- the command has no meaning yet; raised by its arm of the dispatch; safe -/
  | notModelled (mnemonic : String)
  deriving DecidableEq, Repr

end Sys2Proof.Machine
end

