-- ==== Sys2Proof/Machine/Ops.lean ====
section
/-! DEFINITION. Machine/Ops.lean: the named operations over the state that every chapter uses. -/
namespace Sys2Proof.Machine

/-- The answer of a meaning. -/
abbrev Out := Host.Outcome State Fault Refusal

/-! Geometry (R8, R9, R298). -/

/-- Block of a fabric lane or port. -/
def blockOf (lane : Nat) : Nat := lane / 32

/-- Region of a block. -/
def regionOf (blk : Nat) : Nat := blk / 8

/-- Region of a port; 4 for a Welt port, which belongs to the hub. -/
def regionOfPort (p : Nat) : Nat := if p < 1024 then p / 256 else 4

/-- A Welt port (R298). -/
def isWelt (p : Nat) : Bool := decide (1024 ≤ p)

/-- The Welt port WPn. -/
def weltPort (n : Nat) : Nat := 1024 + 8 * n

/-- The entry of a port in the PORT section of a snapshot (R458). -/
def portEntry (p : Nat) : Nat := if p < 1024 then p else 1024 + (p - 1024) / 8

/-- The code of a port state (R58). -/
def PState.code : PState → Nat
  | .down => 0 | .training => 1 | .check => 2 | .quarantine => 3 | .up => 4 | .damped => 5 | .fenced => 6 | .absent => 7

/-- The code of a chip state (R434). -/
def CState.code : CState → Nat
  | .boot => 0 | .selftest => 1 | .pairing => 2 | .service => 3 | .degraded => 4 | .damped => 5 | .safeMonitor => 6

/-- The code of a pair state (R306). -/
def Pair.code : Pair → Nat
  | .solo => 0 | .syncing => 1 | .paired => 2 | .takeover => 3 | .orphan => 4

/-- The code of a time state (R360). -/
def TState.code : TState → Nat
  | .free => 0 | .acquiring => 1 | .locked => 2 | .holdover => 3 | .drifting => 4

/-! Access by number. -/

/-- Entry `i` of a list of numbers (0 past its end). -/
def nth (l : List Nat) (i : Nat) : Nat := l.getD i 0

/-- Set entry `i` of a list of `n` numbers. -/
def setNth (n : Nat) (l : List Nat) (i v : Nat) : List Nat := (List.range n).map fun k => if k = i then v else nth l k

/-- A lane. -/
def State.lane (s : State) (n : Nat) : Lane := s.lanes.look n {}

/-- A port (its unconfigured values where it is not configured). -/
def State.port (s : State) (p : Nat) : Port := s.ports.look p {}

/-- Whether a port is configured; the Welt ports always are (R298). -/
def State.hasPort (s : State) (p : Nat) : Bool := (s.ports.look? p).isSome

/-- A block. -/
def State.block (s : State) (b : Nat) : Block := s.blocks.look b {}

/-- A mailbox. -/
def State.mbx (s : State) (n : Nat) : Mailbox := s.host.mbx.look n {}

/-- Change a lane. -/
def State.modLane (s : State) (n : Nat) (f : Lane → Lane) : State := { s with lanes := s.lanes.upd n {} f }

/-- Change a configured port. -/
def State.modPort (s : State) (p : Nat) (f : Port → Port) : State := { s with ports := s.ports.mod p f }

/-- Change a block. -/
def State.modBlock (s : State) (b : Nat) (f : Block → Block) : State := { s with blocks := s.blocks.upd b {} f }

/-- Change a mailbox. -/
def State.modMbx (s : State) (n : Nat) (f : Mailbox → Mailbox) : State :=
  { s with host := { s.host with mbx := s.host.mbx.upd n {} f } }

/-- Change the chip level. -/
def State.modChip (s : State) (f : Chip → Chip) : State := { s with chip := f s.chip }

/-- Change the logs. -/
def State.modLogs (s : State) (f : Logs → Logs) : State := { s with logs := f s.logs }

/-- Change the host interface. -/
def State.modHost (s : State) (f : HostIf → HostIf) : State := { s with host := f s.host }

/-- Change the byte memories. -/
def State.modMem (s : State) (f : Mems → Mems) : State := { s with mem := f s.mem }

/-- Change the routing state. -/
def State.modFabric (s : State) (f : Fabric → Fabric) : State := { s with fabric := f s.fabric }

/-- Change the twin pair. -/
def State.modTwin (s : State) (f : Twin → Twin) : State := { s with twin := f s.twin }

/-- Change the control complex. -/
def State.modCtl (s : State) (f : Ctl → Ctl) : State := { s with ctl := f s.ctl }

/-- Change the time unit. -/
def State.modTime (s : State) (f : Time → Time) : State := { s with time := f s.time }

/-- Apply a change for every element of a list, in order. -/
def forAll {α : Type} (l : List α) (s : State) (f : State → α → State) : State := l.foldl f s

/-- Apply a change when a condition holds. -/
def State.iff (s : State) (c : Bool) (f : State → State) : State := if c then f s else s

/-- Advance the counter of free values. (DESIGN CHOICE, log entry 3). -/
def State.draw (s : State) : State := { s with free := s.free + 1 }

/-! Time (R357, R358, R401). -/

/-- The free-running counter, in ns. -/
def State.now (s : State) : Nat := s.time.frc.toNat

/-- Rounded division, ties to even. -/
def rneDiv (a : Int) (d : Nat) : Int :=
  let q := a / (d : Int)
  let r := a % (d : Int)
  if 2 * r < d then q else if 2 * r > d then q + 1 else if q % 2 = 0 then q else q + 1

/-- Network time at a counter value, in units of 2^-16 ns modulo 2^80 (R358). -/
def ntAt (t : Time) (frc : Nat) : Nat :=
  ((frc * 65536 : Int) + rneDiv (frc * t.rate) (2 ^ 32) + t.offset) % ((2 : Int) ^ 80) |>.toNat

/-- Network time now. -/
def State.nt (s : State) : Nat := ntAt s.time s.now

/-- The TIME field of events and records (R401): network time, or FRC × 2^16 while TIME_VALID is clear. -/
def State.stamp (s : State) : Nat := if s.time.valid then s.nt else s.now * 65536

/-! Counters (R453 to R455). -/

/-- The key of a counter: section of R458 (0x20: counts that R458 lists nowhere), entry, index. (DEDUCED, log entry 125). -/
def ctrKey (sec ent idx : Nat) : Nat := (sec * 65536 + ent) * 1024 + idx

/-- Counters of class ERROR (R454), by section and index; the others are EVENT. (DEDUCED, log entry 124). -/
def ctrError (sec idx : Nat) : Bool :=
  match sec with
  | 0x01 => [0, 1, 2, 3, 4, 5, 6, 7, 8, 9, 11, 13].contains idx
  | 0x02 => decide (16 ≤ idx ∧ idx ≤ 23)
  | 0x03 => [3, 4, 8].contains idx
  | 0x04 => [1, 7, 8, 11].contains idx
  | 0x05 => [3, 5, 6, 8].contains idx
  | 0x06 => decide (7 ≤ idx ∧ idx ≤ 15)
  | 0x07 => decide (1 ≤ idx ∧ idx ≤ 6) || idx == 11 || decide (15 ≤ idx ∧ idx ≤ 28) || [36, 39, 41, 42].contains idx || decide (48 ≤ idx)
  | 0x08 => idx == 2
  | 0x09 => [2, 3, 4].contains idx
  | 0x0A => [1, 3, 5, 6].contains idx
  | 0x0C => [2, 3, 5, 10].contains idx
  | 0x0D => [1, 2, 5, 6].contains idx
  | 0x0E => [3, 4].contains idx
  | 0x20 => true
  | _ => false

/-- A counter's value. -/
def State.ctr (s : State) (sec ent idx : Nat) : Nat := (s.logs.ctrs.look (ctrKey sec ent idx) ⟨0, false⟩).val

/-- Add to a counter of its class: EVENT wraps at 2^64, ERROR stays at 2^32 − 1 (R453). (DEDUCED, log entry 124). -/
def Ctr.add (err : Bool) (c : Ctr) (n : Nat) : Ctr :=
  if err then
    if c.val + n < 2 ^ 32 then { c with val := c.val + n } else { val := 2 ^ 32 - 1, sticky := c.sticky || decide (2 ^ 32 - 1 < c.val + n) }
  else { val := (c.val + n) % 2 ^ 64, sticky := c.sticky || decide (2 ^ 64 ≤ c.val + n) }

/-! The health ledger (R463 to R465). -/

/-- Lowest number of a list, or a default for the empty list. -/
def minOf (d : Nat) : List Nat → Nat
  | [] => d
  | a :: t => min a (minOf a t)

/-- The throughput index a die's record carries (R463). -/
def State.tiOfDie (s : State) (die : Nat) : Nat := if die < 4 then s.chip.ti.getD die 1024 else minOf 1024 s.chip.ti

/-- What the ports of a die's region (all ports for the hub) have booked so far: TOTAL, RETIRED, WASTED, FRONT_STARVED and
BACK_STARVED. -/
def slotSums (s : State) (die : Nat) : List Nat :=
  let ps := s.ports.keys.filter fun p => die == 4 || regionOfPort p == die
  let sum (is : List Nat) := (ps.map fun p => (is.map fun i => s.ctr 0x02 (portEntry p) i).foldl (· + ·) 0).foldl (· + ·) 0
  [sum [26], sum [27], sum [28], sum [29], sum [30, 31, 32, 33]]

/-- The slot mix of a record (R463): the shares of what was booked since the die's last Tj sample. -/
def slotMix (s : State) (die : Nat) : Bytes :=
  let base := s.logs.mixBase.look die []
  let d (i : Nat) := (slotSums s die).getD i 0 - nth base i
  (List.range 4).map fun i => BitVec.ofNat 8 (if d 0 = 0 then 0 else min 255 (d (i + 1) * 256 / d 0))

/-- The die's ledger. -/
def State.ledger (s : State) (die : Nat) : Ledger := s.logs.ledgers.look die {}

/-- Change a die's ledger. -/
def State.modLedger (s : State) (die : Nat) (f : Ledger → Ledger) : State :=
  s.modLogs fun l => { l with ledgers := l.ledgers.upd die {} f }

/-- The record types marked critical (R464). -/
def ledgerCritical (typ : Nat) : Bool := [0x09, 0x0A, 0x0D, 0x0E, 0x0F, 0x10, 0x11, 0x12].contains typ

/-- A log record (R463) without its CRC. -/
def ledgerBody (s : State) (die typ : Nat) (payload : Bytes) : Bytes :=
  let l := s.ledger die
  toLE 8 l.next ++ [BitVec.ofNat 8 typ, BitVec.ofNat 8 (b2n s.time.valid + 2 * b2n (ledgerCritical typ))]
    ++ toLE 2 (twos (s.chip.tj.getD die 0) 16) ++ toLE 2 (s.chip.vdd.getD die 0) ++ toLE 2 (s.tiOfDie die)
    ++ toLE 10 s.stamp ++ toLE 2 l.powerOns ++ slotMix s die ++ fit 28 payload

/-- Post a record to a die's ledger: it enters LEDGER_CACHE under the next RECORD_INDEX, and LEDGER_RECORDS counts it. -/
def ledgerAdd (die typ : Nat) (payload : Bytes) (s : State) : State :=
  let body := ledgerBody s die typ payload
  let s := s.modLedger die fun l => { l with next := l.next + 1, cache := l.cache.put l.next (body ++ toLE 4 (crc32c body)) }
  s.modLogs fun l => { l with ctrs := l.ctrs.upd (ctrKey 0x01 0 15) ⟨0, false⟩ fun c => Ctr.add false c 1 }

/-- Add `n` to a counter. A wrap counts one COUNTER_WRAPS and appends COUNTER_WRAP to the hub's ledger (R453). -/
def bumpN (sec ent idx n : Nat) (s : State) : State :=
  let c := s.logs.ctrs.look (ctrKey sec ent idx) ⟨0, false⟩
  let err := ctrError sec idx
  let s := s.modLogs fun l => { l with ctrs := l.ctrs.put (ctrKey sec ent idx) (Ctr.add err c n) }
  if err || decide (c.val + n < 2 ^ 64) then s
  else
    let s := s.modLogs fun l => { l with ctrs := l.ctrs.upd (ctrKey 0x01 0 16) ⟨0, false⟩ fun c => Ctr.add false c 1 }
    ledgerAdd 4 0x14 ([BitVec.ofNat 8 sec] ++ zeros 3 ++ toLE 4 ent ++ toLE 2 idx) s

/-- Count one. (DEDUCED, log entry 125). -/
def bump (sec ent idx : Nat) (s : State) : State := bumpN sec ent idx 1 s

/-- Count one in a PORT counter. -/
def bumpPort (p idx : Nat) (s : State) : State := bump 0x02 (portEntry p) idx s

/-- Count `n` in a PORT counter. -/
def bumpPortN (p idx n : Nat) (s : State) : State := bumpN 0x02 (portEntry p) idx n s

/-- Zero the counters of an object: those of a section and entry (R455). -/
def zeroCtrs (sec ent : Nat) (s : State) : State :=
  s.modLogs fun l => { l with ctrs := l.ctrs.filter fun e => e.1 / 1024 != sec * 65536 + ent }

/-! Discards of R65, in the order the rule lists the causes. -/
def causeHops : Nat := 0
def causeEncoding : Nat := 1
def causeCrc : Nat := 2
def causeAdmission : Nat := 3
def causeStale : Nat := 4
def causeFencedDest : Nat := 5
def causeBuffer : Nat := 6
def causePortState : Nat := 7

/-- Count a discarded cell under a cause of R65: at its ingress port, or, for the chip's own cells, which have no ingress port, in a
count of the chip for that cause. (DEDUCED, log entry 27). -/
def countDiscard (p : Option Nat) (cause : Nat) (s : State) : State :=
  match p with
  | some p => bumpPort p (16 + cause) s
  | none => bump 0x20 8192 cause s

/-! Host memory (DMA). -/

/-- Whether a DMA to a host address range fails. -/
def State.dmaBad (s : State) (a n : Nat) : Bool :=
  !s.host.busMaster || !s.host.cxlUp || s.mem.dmaFail.any fun r => decide (a < r.1 + r.2) && decide (r.1 < a + n)

/-- Read host memory by DMA. (DESIGN CHOICE, log entry 11). -/
def State.hostRead (s : State) (a n : Nat) : Bytes := s.mem.host.reads zeroDefault a n

/-- Write host memory by DMA. (DESIGN CHOICE, log entry 11). -/
def State.hostWrite (s : State) (a : Nat) (b : Bytes) : State := s.modMem fun m => { m with host := m.host.writes zeroDefault a b }

/-! MSI-X (R379). -/

/-- The mask bit of a vector's table entry. -/
def msixMasked (h : HostIf) (v : Nat) : Bool := bit (byteAt h.msix (16 * v + 12)) 0

/-- Signal an MSI-X vector: a masked vector pends in the pending bit array, otherwise the signal is sent. -/
def signal (v : Nat) (s : State) : State :=
  s.modHost fun h =>
    if msixMasked h v then { h with msixPend := h.msixPend ||| 2 ^ v }
    else { h with msixSent := h.msixSent.upd v 0 fun n => (n + 1) % 2 ^ 64 }

/-! Events (R401, R402, R450). -/

/-- An event entry of 32 bytes. -/
def Event.bytes (e : Event) (phase lost : Bool) : Bytes :=
  toLE 2 e.code ++ [BitVec.ofNat 8 (b2n phase + 2 * b2n e.valid + 4 * b2n lost), 0] ++ toLE 4 e.seq.toNat
    ++ toLE 10 e.time.toNat ++ zeros 2 ++ fit 12 e.data

/-- Stop the event queue on a failed write (R402). -/
def eqFail (s : State) : State :=
  let s := s.modHost fun h => { h with eqOn := false, eqDmaErr := true }
  signal 9 s

/-- Write an event into the host's ring, or withhold it when the ring is full (R402). -/
def eqPut (e : Event) (s : State) : State :=
  let h := s.host
  if !h.eqOn then s
  else if (h.eqTail + h.eqEntries - h.eqHead % h.eqEntries) % h.eqEntries = h.eqEntries - 1 then
    let s := bump 0x01 0 2 s
    let s := if h.eqOverflow then s else signal 9 s
    s.modHost fun h => { h with eqOverflow := true, eqLost := true }
  else
    let a := h.eqAddr + 32 * h.eqTail
    if s.dmaBad a 32 then eqFail s
    else
      let s := s.hostWrite a (e.bytes h.eqPhase h.eqLost)
      let wrap := h.eqTail + 1 = h.eqEntries
      let s := s.modHost fun h => { h with
        eqTail := if wrap then 0 else h.eqTail + 1
        eqPhase := if wrap then !h.eqPhase else h.eqPhase
        eqLost := false }
      if s.host.v0Out then s else signal 0 (s.modHost fun h => { h with v0Out := true })

/-- Post an event: it takes the next sequence number, enters the log of the latest 4,096, and goes to the ring. -/
def postEvent (code : Nat) (data : Bytes) (s : State) : State :=
  let e : Event := { code := code, valid := s.time.valid, seq := s.logs.evNext, time := BitVec.ofNat 80 s.stamp, data := fit 12 data }
  let s := s.modLogs fun l => { l with
    evNext := l.evNext + 1
    events := (l.events ++ [e]).drop (l.events.length + 1 - 4096) }
  eqPut e s

/-! Memory of the table window (R391). -/
def wGroup (bank : Nat) : Nat := 0x10000 + 0x10000 * bank
def wLeaf (bank : Nat) : Nat := 0x30000 + 0x4000 * bank
def wPool : Nat := 0x38000
def wHealth : Nat := 0x40000
def wPeal : Nat := 0x60000
def wShard : Nat := 0xA0000
def wMask : Nat := 0xE0000
def wMcast : Nat := 0x400000
def wProg : Nat := 0x800000
def wExc (bank : Nat) : Nat := 0x1000000 + 0x800000 * bank
def wMember : Nat := 0x4000000

/-- The reset values of the pool table's entries (R323): WEIGHT, FLOOR_PCT and CAP_GIB of pools 0 to 5. -/
def poolReset : List (Nat × Nat × Nat) := [(64, 30, 2048), (64, 30, 2048), (48, 0, 256), (32, 0, 512), (16, 0, 4), (2, 0, 1)]

/-- A byte of the pool table segment at reset (R323). -/
def poolByte (o : Nat) : Nat :=
  if o = 0 then 24 else if o = 1 then 16
  else if o < 32 then 0
  else
    let (w, f, c) := poolReset.getD ((o - 32) / 32) (0, 0, 0)
    match (o - 32) % 32 with
    | 0 => w | 1 => f | 4 => c % 256 | 5 => c / 256 | _ => 0

/-- What an unlisted address of the table window reads as: the reset contents of R99, R117, R259 and R323. (DESIGN CHOICE, log entry 10). -/
def tblDefault (a : Nat) : Byte :=
  if wHealth ≤ a ∧ a < wHealth + 0x20000 then (if a % 8 = 0 then 16 else 0)
  else if wPool ≤ a ∧ a < wPool + 0x1000 then BitVec.ofNat 8 (poolByte (a - wPool))
  else if wProg ≤ a ∧ a < wProg + 0x10000 then
    (let p := 0x0100 + (a - wProg) / 64
     match a % 64 with | 0 => BitVec.ofNat 8 p | 1 => BitVec.ofNat 8 (p / 256) | _ => 0)
  else 0

/-- Published bytes of the table window. -/
def State.tbl (s : State) (a n : Nat) : Bytes := s.mem.tbl.reads tblDefault a n

/-- A published little-endian number of the table window. -/
def State.tblN (s : State) (a n : Nat) : Nat := leNat (s.tbl a n)

/-- Write published bytes of the table window: in all four replicas (R100). -/
def State.tblPut (s : State) (a : Nat) (b : Bytes) : State := s.modMem fun m => { m with tbl := m.tbl.writes tblDefault a b }

/-- A table word that has failed in all four replicas (R100). (DEDUCED, log entry 46). -/
def State.wordBad (s : State) (a n : Nat) : Bool :=
  s.fabric.replicas.any fun e => decide (a < e.1 + 8) && decide (e.1 < a + n) && e.2 % 16 == 15

end Sys2Proof.Machine
end

