-- ==== Sys2Proof/Machine/Route.lean ====
section
/-! DEFINITION. Machine/Route.lean: the route lookup, the choice of a port, replication and the entry into queues (chapters 03, 04, 05). -/
namespace Sys2Proof.Machine

/-! Indices of windows. -/

/-- x precedes y, modulo 2^24 (R153). -/
def precedes (x y : Nat) : Bool := let d := (y + 2 ^ 24 - x) % 2 ^ 24; decide (1 ≤ d) && decide (d ≤ 2 ^ 23 - 1)

/-! Output ports. -/

/-- The output-port number of the internal peal port of a block. -/
def pealPort (b : Nat) : Nat := 2048 + b

/-- The block of an output port. -/
def outBlock (p : Nat) : Nat := if p < 2048 then blockOf p else p - 2048

/-- The VOQ key of an output port and VC. -/
def vkey (p vc : Nat) : Nat := 8 * p + vc

/-- A port is UP: its live bit (R115). -/
def State.live (s : State) (p : Nat) : Bool := s.hasPort p && (s.port p).st == .up

/-- The plan record of a configured port: same first lane and width (R135). -/
def planRec (s : State) (p : Nat) : Option PlanRec :=
  match s.fabric.plan.recs.look? p with
  | some r => if r.width = (s.port p).width then some r else none
  | none => none

/-- The port's role: 0 LEAF, 1 GLOBAL, 2 CIRCUIT; 3 without a record. -/
def portRole (s : State) (p : Nat) : Nat := match planRec s p with | some r => r.role | none => 3

/-- This chip's hub die identity (R8). -/
def State.hubId (s : State) : W64 := s.flash.record.dieIds.getD 4 0

/-- This chip's side in its pair (R164). -/
def State.side (s : State) : Nat :=
  if s.fabric.plan.twinChip = 0 then 0 else if s.hubId.toNat < s.fabric.plan.twinChip.toNat then 0 else 1

/-- A peal (the FREE one where nothing is held). -/
def State.peal (s : State) (p : Nat) : Peal := s.peals.look p {}

/-- The group of this chip (R98). -/
def State.ownGroup (s : State) : Nat := s.fabric.plan.selfFa / 4096

/-- The twin's SELF_FA as last heard, 0 when unknown (R302: PAIR_HELLO bytes 8 to 11). -/
def State.twinFa (s : State) : Nat := field (le s.twin.peer 8 4) 0 20

/-- The body of LAST_CELLFMT in force. -/
def State.cellFmt (s : State) : Bytes := match s.lasts.look? 7 with | some l => l.body | none => []

/-! Seams (R10, R12, R79). Pair seams 0 to 5 join regions 0–1, 0–2, 0–3, 1–2, 1–3 and 2–3; hub seams 6 to 9 are by region.
Direction 0 runs from the lower region to the higher, or from the region to the hub. -/

/-- The pair seam of two regions. -/
def pairSeam (a b : Nat) : Nat :=
  let lo := min a b
  let hi := max a b
  if lo = 0 then hi - 1 else if lo = 1 then hi + 1 else 5

/-- The regions a seam joins (the hub is 4). -/
def seamEnds (m : Nat) : Nat × Nat :=
  match m with | 0 => (0, 1) | 1 => (0, 2) | 2 => (0, 3) | 3 => (1, 2) | 4 => (1, 3) | 5 => (2, 3) | _ => (m - 6, 4)

/-- One direction of a seam. -/
def State.seam (s : State) (m dir : Nat) : SeamDir := s.chip.seams.look (2 * m + dir) ⟨if m < 6 then 4 else 2, 8, 0, []⟩

/-- Blocks i and j lie in different regions. -/
def crosses (i j : Nat) : Bool := regionOf i != regionOf j

/-- The direction of the seam that leads from block i to block j. -/
def seamDirOf (i j : Nat) : Nat := if regionOf i < regionOf j then 0 else 1

/-- The matches that hold a way of the seam from block i to block j. -/
def holding (ms : List Match) (i j : Nat) : List Match :=
  ms.filter fun m => regionOf m.i == regionOf i && regionOf m.j == regionOf j

/-- The floor ways and general ways of the seam from block i to block j (R79). (DEDUCED, log entry 32). -/
def seamWays (s : State) (i j : Nat) : Nat × Nat :=
  let w := 12 * (s.seam (pairSeam (regionOf i) (regionOf j)) (seamDirOf i j)).width
  (min 64 w, w - min 64 w)

/-- The floor way of a pair is free (R79): its own, and one of those the narrowed seam still has. (DEDUCED, log entry 32). -/
def floorFree (s : State) (ms : List Match) (i j : Nat) : Bool :=
  let h := (holding ms i j).filter (·.floor)
  !(h.any fun m => m.i == i && m.j == j) && decide (h.length < (seamWays s i j).1)

/-- A general way of the seam is free (R79). -/
def generalFree (s : State) (ms : List Match) (i j : Nat) : Bool :=
  decide (((holding ms i j).filter fun m => !m.floor).length < (seamWays s i j).2)

/-! The home of a peal cell (R170, R171). -/

/-- The hash that splits a twinned peal's chunks by side (R170). -/
def chunkHash (peal chunk : Nat) : Nat := crc32c (toLE 8 (peal + chunk * 4096))

/-- The side of a chunk (R170). -/
def chunkSide (d : BitVec 512) (chunk : Nat) : Nat := if dTwinned d then chunkHash (dPeal d) chunk % 2 else 0

/-- The region of a chunk (R170). -/
def chunkRegion (d : BitVec 512) (chunk : Nat) : Nat :=
  let rs := dRegions d
  rs.getD (chunk % rs.length) 0

/-- The core index within its region that serves a chunk (R170). -/
def chunkCore (d : BitVec 512) (chunk : Nat) : Nat := chunk / (dRegions d).length % 128

/-- The block whose peal port receives cell x of a peal (R170). -/
def homeBlock (d : BitVec 512) (x : Nat) : Nat :=
  let chunk := x / 2 ^ dChunkLog2 d
  8 * chunkRegion d chunk + chunkCore d chunk / 16

/-! Credits per lane of a profile (R68). -/

/-- Credits per VC and lane of a CRED_PROFILE. -/
def profileRow (k : Nat) : List Nat :=
  match k with
  | 0 => [16, 160, 160, 160, 160, 160, 160, 160]
  | 1 => [16, 255, 255, 255, 255, 255, 255, 255]
  | 2 => [16, 255, 255, 96, 96, 96, 96, 96]
  | _ => [16, 96, 96, 255, 160, 64, 160, 32]

/-- The credits a port grants its peer for a VC. -/
def Port.alloc (p : Port) (vc : Nat) : Nat := nth (profileRow p.profile) vc * p.width

/-- The credits of a port over all VCs. -/
def Port.allocAll (p : Port) : Nat := (profileRow p.profile).foldl (· + ·) 0 * p.width

/-! The shared pool of a block (R67, R71, R72). -/

/-- All cells in a block's VOQs. -/
def Block.queued (b : Block) : List BufCell := (b.voqs.map (·.2)).flatten

/-- Entries of the shared pool in use, by the cells in VOQs and by copies that wait for one: copies of one cell share an entry. -/
def sharedUsed (b : Block) : Nat := ((((b.queued ++ b.pend.map (·.2)).filter (·.shared)).map (·.ent)).eraseDups).length

/-- Shared entries that the park queues of homes at block `n` hold (R212). -/
def parkedIn (s : State) (n : Nat) : Nat :=
  (s.peals.map fun e => ((e.2.chunks.filter fun c => homeBlock e.2.desc (c.1 * 2 ^ dChunkLog2 e.2.desc) == n).map fun c => c.2.parked.length).foldl (· + ·) 0).foldl (· + ·) 0

/-- FREE of R71: free shared entries of block `n`. -/
def sharedFree (s : State) (n : Nat) : Nat :=
  let b := s.block n
  let alloc := ((s.ports.filter fun e => decide (e.1 < 1024) && blockOf e.1 == n).map fun e => e.2.allocAll).foldl (· + ·) 0
  199680 - 73728 - alloc - (b.retired.length - 48) - sharedUsed b - parkedIn s n

/-- 4 × α of R71, by VC. -/
def alpha4 (vc : Nat) : Nat := match vc with | 1 => 8 | 2 => 8 | 3 => 4 | 4 => 4 | 5 => 2 | 6 => 4 | _ => 1

/-- The cells of a VOQ. -/
def State.voq (s : State) (b p vc : Nat) : List BufCell := (s.block b).voqs.look (vkey p vc) []

/-- A VOQ is below its limit (R71). -/
def voqOk (s : State) (b p vc : Nat) : Bool :=
  decide (4 * ((s.voq b p vc).filter (·.shared)).length < alpha4 vc * sharedFree s b)

/-! The lanes of a port, and the transmit store (R67). -/

/-- The lanes of a port. -/
def lanesOf (s : State) (p : Nat) : List Nat := (List.range (s.port p).width).map (p + ·)

/-- The configured port that holds a lane. -/
def portOfLane (s : State) (lane : Nat) : Option Nat :=
  (s.ports.find? fun e => decide (e.1 ≤ lane) && decide (lane < e.1 + e.2.width)).map (·.1)

/-- Slots a lane has sent since slot `slot` of block `lsn`. -/
def Lane.since (l : Lane) (lsn : BitVec 16) (slot : Nat) : Nat := (l.txLsn - lsn).toNat * 16 + l.txOpen.length - slot - 1

/-- The blocks whose cells the sender still keeps: the one being filled, those not acknowledged, and those acknowledged less than 128 slots
after the cell left (R46). -/
def Lane.kept (l : Lane) : List TxBlock :=
  { lsn := l.txLsn, attempt := 0, slots := l.txOpen } :: l.unacked
    ++ l.acked.map fun b => { b with slots := b.slots.mapIdx fun i t => if l.since b.lsn i < 128 then t else { t with cell := none } }

/-- Cells a lane keeps for retry and stomp (R67). -/
def Lane.keptCells (l : Lane) : Nat := ((l.kept.map (·.slots)).flatten.filter fun t => t.cell.isSome).length

/-- Free entries of a port's transmit store (R67): cells waiting, cells kept for retry and stomp, and reservations count. -/
def storeFree (s : State) (p : Nat) : Nat :=
  let q := s.port p
  let kept := ((lanesOf s p).map fun l => (s.lane l).keptCells).foldl (· + ·) 0
  2304 * q.width - ((q.store.map fun e => e.2.length).foldl (· + ·) 0) - q.vc0.length - kept - q.resvStore

/-! The hub seams (R86 to R88). -/

/-- A block that forwards nothing (R15, R439). -/
def blockDead (s : State) (b : Nat) : Bool :=
  (s.chip.blockFence.look? b).isSome || (s.chip.regionFence.look? (regionOf b)).isSome

/-- The first VC0 cell of block `i` for output block `j`. -/
def expressHead (s : State) (i j : Nat) : Option (Nat × BufCell) := (s.block i).express.find? fun x => outBlock x.1 == j

/-- An output port has room for a VC0 cell, or no longer takes cells (they are then discarded). -/
def expressRoom (s : State) (p : Nat) : Bool := !s.live p || decide (0 < storeFree s p)

/-- The VC0 cell of block `i` for block `j` that could go now: the head of its express queue has room ahead (R88), and no fence stops the
block (R15). -/
def expressGo (s : State) (i j : Nat) : Option (Nat × BufCell) :=
  if blockDead s i then none else match expressHead s i j with | some x => if expressRoom s x.1 then some x else none | none => none

/-- VC0 cells that could go wait at the hub seam of a region, out of it or into it. -/
def hubVc0 (s : State) (r : Nat) (into : Bool) : Bool :=
  (List.range 32).any fun i => (List.range 32).any fun j => (if into then regionOf j == r else regionOf i == r) && (expressGo s i j).isSome

/-- Where an item waits for a hub seam: region, into it, and its place in the order of R87 after VC0. -/
def HubItem.place : HubItem → Nat × Bool × Nat
  | .twin r _ => (r, false, 1)
  | .control b _ => (regionOf b, false, 2)
  | .marker d => (d, true, 3)

/-- A hub seam takes an item now (R87): no VC0 cell that could go waits there, nor anything before the item in the order of the rule. -/
def hubTakes (s : State) (ahead : List HubItem) (x : HubItem) : Bool :=
  let (r, into, k) := x.place
  !hubVc0 s r into && !ahead.any fun y => y.place.1 == r && y.place.2.1 == into && decide (y.place.2.2 ≤ k)

/-- An item waits for its hub seam. -/
def hubWait (x : HubItem) (s : State) : State := { s with sched := { s.sched with hub := s.sched.hub ++ [x] } }

/-! Credit returns (R42, R43). -/

/-- Owe the peer one credit return on a lane, unless one is to be withheld because a resend that debits nothing has followed a
return already made. (DESIGN CHOICE, log entry 151). -/
def Lane.owe (vc : Nat) (l : Lane) : Lane :=
  if 0 < nth l.crHold vc then { l with crHold := setNth 8 l.crHold vc (nth l.crHold vc - 1) }
  else { l with crOwed := setNth 8 l.crOwed vc (nth l.crOwed vc + 1) }

/-- Free the room a received cell has taken in the allocation of its port and VC. -/
def freeRoom (o : Origin) (s : State) : State :=
  match o.port with
  | none => s
  | some p => s.modPort p fun q => { q with inUse := setNth 8 q.inUse o.vc (nth q.inUse o.vc - 1) }

/-- Return the credit of a received cell to the lane it came in on. -/
def returnCredit (o : Origin) (s : State) : State :=
  match o.port with
  | none => s
  | some _ => (freeRoom o s).modLane o.lane (Lane.owe o.vc)

/-- Some other copy of a buffer entry is still held by its block. -/
def entHeld (b : Block) (ent : Nat) : Bool :=
  b.queued.any (·.ent == ent) || b.pend.any (·.2.ent == ent) || b.alloc.any (fun a => a.copies.any (·.2.ent == ent)) || b.express.any (·.2.ent == ent)

/-- A cell has left block `n`'s buffer: its credit goes back if its entry was still credited and no copy of it remains. -/
def leaveBlock (n : Nat) (c : BufCell) (s : State) : State :=
  if c.shared || entHeld (s.block n) c.ent then s
  else returnCredit c.org (s.modBlock n fun b => { b with await := b.await.filter (·.ent != c.ent) })

/-- Discard a cell that no queue holds: count the cause at its ingress port and return its credit. -/
def dropCell (c : BufCell) (cause : Nat) (s : State) : State :=
  let s := countDiscard c.org.port cause s
  if c.shared then s else returnCredit c.org s

/-! Congestion marking (R148, R149). -/

/-- The types R138 marks. -/
def markable (typ : Nat) : Bool := [1, 2, 3, 4, 5, 7].contains typ

/-- The probability of a LAST_MARK curve at depth d, in units of 1/65,536 (R149). -/
def markProb (body : Bytes) (vc cls d : Nat) : Nat :=
  let o := 64 * (2 * (vc - 1) + cls)
  let dep (k : Nat) := le body (o + 8 * k) 4
  let pr (k : Nat) := le body (o + 8 * k + 4) 2
  if d < dep 0 then 0
  else if dep 7 ≤ d then pr 7
  else
    match (List.range 7).find? fun k => decide (dep k ≤ d) && decide (d < dep (k + 1)) with
    | some k => pr k + (pr (k + 1) - pr k) * (d - dep k) / (dep (k + 1) - dep k)
    | none => pr 7

/-- Draw and mark a cell that joins a VOQ at depth d (R148): the draw is a free value. (DESIGN CHOICE, log entry 14). (DEDUCED, log entry 41). -/
def markCell (c : BufCell) (d : Nat) (s : State) : BufCell × State :=
  if !markable c.cell.typ || c.cell.vc == 0 then (c, s)
  else
    let body := match s.lasts.look? 3 with | some l => l.body | none => []
    let p := markProb body c.cell.vc (if c.cell.color == 1 || c.cell.color == 2 then 1 else 0) d
    let r := (Config.markDraw s.free).toNat
    let s := s.draw
    if p = 0xFFFF ∨ r < p then ({ c with cell := c.cell.set 118 1 1 }, s) else (c, s)

/-- A cell joins the tail of a VOQ of block `n` (R73), marked on the way in. (DEDUCED, log entry 41). -/
def joinVoq (n p : Nat) (c : BufCell) (s : State) : State :=
  let k := vkey p c.cell.vc
  let d := ((s.block n).voqs.look k []).length + 1
  let marked := c.cell.cm
  let (c, s) := markCell c d s
  let s := s.modBlock n fun b => { b with voqs := b.voqs.put k (b.voqs.look k [] ++ [c]) }
  if c.cell.cm && !marked && decide (p < 1024) then bumpPort p 24 s else s

/-- A VC0 cell joins its express queue, or its port's VC0 queue when the port lies in its own block (R86). -/
def joinExpress (n p : Nat) (c : BufCell) (s : State) : State :=
  if outBlock p = n ∧ p < 2048 then s.modPort p fun q => { q with vc0 := q.vc0 ++ [c] }
  else s.modBlock n fun b => { b with express := b.express ++ [(p, c)] }

/-- A cell that holds no credited entry joins the queue of its output port in block `n`: a VC0 cell its express queue, another its
VOQ once that is below its limit (R71), until when it waits in the block. (DEDUCED, log entry 154). -/
def joinQueue (n p : Nat) (c : BufCell) (s : State) : State :=
  if c.cell.vc = 0 ∧ p < 2048 then joinExpress n p c s
  else if voqOk s n p c.cell.vc then joinVoq n p { c with shared := true } s
  else s.modBlock n fun b => { b with pend := b.pend ++ [(p, c)] }

/-! Route entries (R104, R105). -/

/-- Window offset of a route entry: table 0 GROUP_ROUTE, 1 LEAF_ROUTE. -/
def entryAddr (tbl bank idx : Nat) : Nat := (if tbl = 0 then wGroup bank else wLeaf bank) + 256 * idx

/-- The valid members of a route entry as (member, port, BASE_WEIGHT); none when a word of the entry is BAD (R100). -/
def members (s : State) (tbl bank idx : Nat) : List (Nat × Nat × Nat) :=
  let a := entryAddr tbl bank idx
  if s.wordBad a 256 then []
  else
    (List.range (min 64 (field (s.tblN a 1) 0 7))).filterMap fun m =>
      let w := s.tblN (a + 16 + 2 * m) 2
      if bit w 14 then some (m, field w 0 10, field w 10 4) else none

/-- AFFINITY_EN of a route entry. -/
def affinityEn (s : State) (tbl bank idx : Nat) : Bool := bit (s.tblN (entryAddr tbl bank idx) 1) 7

/-- Whether a port lies in an admission mask; VC0 cells have none. -/
def inMask (mask : Option (BitVec 1024)) (p : Nat) : Bool := match mask with | none => true | some m => m.getLsbD p

/-- The mask a cell's port choice is limited by: that of its TAG, and none on VC0 (R159). -/
def maskOf (s : State) (c : Cell) : Option (BitVec 1024) := if c.vc = 0 then none else some (s.fabric.tags.look c.tag 0)

/-- A circuit port serves GROUP_ROUTE[g]: armed, a slot of its schedule with DARK clear names g, and (port, g) is not
SUSPECT (R339). -/
def circServes (s : State) (p g : Nat) : Bool :=
  let c := s.circ.look p {}
  c.armed && (s.port p).enabled && !c.ended && !c.suspended && !(c.queues.look g {}).suspect
    && match c.sched with | some sc => sc.slots.any fun x => !x.dark && x.group == g | none => false

/-- A member's port counts as live in an entry: UP, or for a circuit port in GROUP_ROUTE by R339. -/
def liveIn (s : State) (tbl idx p : Nat) : Bool :=
  if portRole s p = 2 then tbl == 0 && circServes s p idx else s.live p

/-- The live set of an entry (R109). -/
def liveSet (s : State) (tbl idx : Nat) (mask : Option (BitVec 1024)) (ms : List (Nat × Nat × Nat)) : List (Nat × Nat × Nat) :=
  ms.filter fun m => liveIn s tbl idx m.2.1 && inMask mask m.2.1

/-- The hash of R110, with a destination given (peal copies hash with their own DST). -/
def routeHash (c : Cell) (dst : Nat) : Nat :=
  let k := if c.isMcast then field c.mgid 0 12 else c.flow
  crc32c (toLE 8 (c.src + dst * 2 ^ 20 + c.tag * 2 ^ 40 + k * 2 ^ 52))

/-- The member a hash takes from a list of n: (h × n) >> 32. -/
def hashPick (ms : List (Nat × Nat × Nat)) (h : Nat) : Option (Nat × Nat × Nat) := ms[h * ms.length / 2 ^ 32]?

/-- SCALE of PATH_HEALTH entry (g, m) (R117). -/
def healthScale (s : State) (g m : Nat) : Nat := field (s.tblN (wHealth + 8 * (64 * g + m)) 1) 0 5

/-- The key of a spray value: bank, table, entry, member. (DESIGN CHOICE, log entry 43). -/
def sprayKey (tbl bank idx m : Nat) : Nat := ((bank * 2 + tbl) * 256 + idx) * 64 + m

/-- Candidates in descending order of their value, ties by lower member. -/
def insertDesc (x : Int × Nat × Nat) : List (Int × Nat × Nat) → List (Int × Nat × Nat)
  | [] => [x]
  | y :: t => if x.1 > y.1 then x :: y :: t else y :: insertDesc x t

/-- A spray over these candidates needs a PATH_HEALTH word that is BAD (R100). -/
def healthBad (s : State) (tbl idx : Nat) (cand : List (Nat × Nat × Nat)) : Bool :=
  tbl == 0 && cand.any fun c => s.wordBad (wHealth + 8 * (64 * idx + c.1)) 8

/-- The spray choice of R111 in block `n` among candidates (member, port, weight): the chosen member and port, with the
current values moved on. (DESIGN CHOICE, log entry 43). -/
def sprayPick (n tbl bank idx vc : Nat) (cand : List (Nat × Nat × Nat)) (s : State) : Option (Nat × Nat) × State :=
  let w (m wt : Nat) : Nat := wt * (if tbl = 0 then healthScale s idx m else 16)
  let total := (cand.map fun c => w c.1 c.2.2).foldl (· + ·) 0
  let s := forAll cand s fun s c =>
    s.modBlock n fun b => { b with spray := b.spray.upd (sprayKey tbl bank idx c.1) 0 fun v => v + (w c.1 c.2.2 : Nat) }
  let order := cand.foldl (fun l c => insertDesc ((s.block n).spray.look (sprayKey tbl bank idx c.1) 0, c.1, c.2.1) l) []
  let pick := match order.find? fun o => vc == 0 || voqOk s n o.2.2 vc with | some o => some o | none => order.head?
  match pick with
  | none => (none, s)
  | some o => (some (o.2.1, o.2.2),
      s.modBlock n fun b => { b with spray := b.spray.upd (sprayKey tbl bank idx o.2.1) 0 fun v => v - (total : Nat) })

/-- Region affinity (R112): while the ingress region is seam-busy, the candidates in it, if there are any. -/
def affinity (s : State) (n tbl bank idx : Nat) (live : List (Nat × Nat × Nat)) : List (Nat × Nat × Nat) :=
  let near := live.filter fun m => regionOfPort m.2.1 == regionOf n
  if affinityEn s tbl bank idx && s.fabric.seamBusy.getD (regionOf n) false && !near.isEmpty then near else live

/-- What routing decides for a cell. -/
inductive Routed where
  /-- to this output port, chosen this way -/
  | to (p : Nat) (r : Route)
  /-- discarded under a cause of R65 -/
  | drop (cause : Nat)
  /-- consumed here (DATA on VC7 for the control complex) -/
  | consumed
  deriving DecidableEq, Repr

/-- Why a live set is empty: the admission mask when some valid member is UP, otherwise ROUTE_EMPTY among the port-state
discards (R114). (DEDUCED, log entry 27). -/
def emptyCause (s : State) (tbl idx : Nat) (ms : List (Nat × Nat × Nat)) : Nat := if ms.any fun m => liveIn s tbl idx m.2.1 then causeAdmission else causePortState

/-- Choose a port from a route entry in block `n` (R110, R111); an entry that a BAD word of PATH_HEALTH belongs to has no live member for a
spray (R100, R114). -/
def chooseFrom (n tbl bank idx : Nat) (c : Cell) (s : State) : Routed × State :=
  let ms := members s tbl bank idx
  let live := liveSet s tbl idx (maskOf s c) ms
  if live.isEmpty then (.drop (emptyCause s tbl idx ms), s)
  else if c.spray && healthBad s tbl idx (affinity s n tbl bank idx live) then (.drop causePortState, s)
  else if c.spray then
    match sprayPick n tbl bank idx c.vc (affinity s n tbl bank idx live) s with
    | (some (m, p), s) => (.to p (.entry tbl bank idx m), s)
    | (none, s) => (.drop causePortState, s)
  else
    match hashPick live (routeHash c c.dst) with
    | some m => (.to m.2.1 (.entry tbl bank idx m.1), s)
    | none => (.drop causePortState, s)

/-! ENDPOINT_EXCEPTION (R103, R107, R108). -/

/-- Read an exception entry in block `n`: a hit predicts the cached entry, a miss ACTION NONE;
a wrong prediction is counted, the read refreshes. -/
def readException (n bank dst : Nat) (s : State) : Nat × State :=
  let e := s.tblN (wExc bank + 8 * dst) 8
  let good := match (s.block n).cache.look? (dst % 256) with
    | some c => if c.tag = dst / 256 ∧ c.bank = bank then c.entry == e else field e 0 3 == 0
    | none => field e 0 3 == 0
  let s := if good then s else bump 0x04 n 3 s
  (e, s.modBlock n fun b => { b with cache := b.cache.put (dst % 256) ⟨dst / 256, bank, e⟩ })

/-! Peal cells for this chip (R171). -/

/-- The block of the peal port a cell for SELF_FA goes to (R171). -/
def pealPortOf (s : State) (c : Cell) : Nat :=
  let pl := s.peal c.flow
  if c.typ == tEcho || (c.typ == tWindow && !bit c.hdr.toNat 46) || pl.st == .free then 0
  else if c.typ == tContrib || c.typ == tExp then homeBlock pl.desc c.index
  else 8 * (dRegions pl.desc).headD 0

/-- DST names this chip: SELF_FA, or the twin's SELF_FA once its homes are taken over (R312). -/
def forChip (s : State) (dst : Nat) : Bool :=
  dst == s.fabric.plan.selfFa || (s.twin.tookOver && s.twinFa != 0 && dst == s.twinFa)

/-- Steps 3 to 6 of the route lookup for a unicast cell in block `n`, with the bank of its epoch (R102). -/
def routeUnicast (n bank : Nat) (c : Cell) (s : State) : Routed × State :=
  if forChip s c.dst then
    if c.isPeal || c.typ == tWindow || c.typ == tEcho then (.to (pealPort (pealPortOf s c)) .chip, s)
    else if c.typ == tData && c.vc == 7 then (.consumed, s)
    else (.drop causeEncoding, s)
  else if s.twinFa ≠ 0 ∧ c.dst = s.twinFa ∧ s.fabric.plan.twinChip ≠ 0 then (.drop causeEncoding, bump 0x0E 0 4 s)
  else if s.wordBad (wExc bank + 8 * c.dst) 8 then (.drop causePortState, s)
  else
    let (e, s) := readException n bank c.dst s
    let act := field e 0 3
    if act = 1 ∧ c.vc ≠ 0 then (.drop causeFencedDest, s)
    else if act = 2 then
      let p := field e 4 10
      if !inMask (maskOf s c) p then (.drop causeAdmission, s)
      else if s.live p then (.to p .port, s)
      else (.drop causePortState, s)
    else if act = 3 then chooseFrom n 0 bank (field e 16 8) c s
    else if act = 4 then chooseFrom n 1 bank (field e 16 6) c s
    else if c.dst / 4096 ≠ s.ownGroup then chooseFrom n 0 bank (c.dst / 4096) c s
    else chooseFrom n 1 bank (c.dst / 64 % 64) c s

/-! Sampling (R118). -/

/-- Sample a DATA cell sprayed from a GROUP_ROUTE entry: which one of 2^SAMPLE_LOG2 is a free value. (DESIGN CHOICE, log entry 15). -/
def sampleCell (n : Nat) (c : Cell) (r : Route) (s : State) : State :=
  match r with
  | .entry 0 _ g m =>
    if c.typ == tData && c.spray then
      let hit := (Config.sampleDraw s.free).toNat % 2 ^ s.fabric.plan.sampleLog2 = 0
      let s := s.draw
      if hit then
        let x : Sample := { src := c.src, dst := c.dst, tag := c.tag, flow := c.flow, seq := c.seq, g := g, m := m, no := s.fabric.sampleNo, at_ := s.now }
        s.modFabric fun f => { f with sampleNo := f.sampleNo + 1, samples := f.samples.upd (regionOf n) [] fun l => (l ++ [x]).drop (l.length + 1 - 4096) }
      else s
    else s
  | _ => s

/-! Buffer entries (R66, R72). -/

/-- A fresh identity for what a buffer entry holds; 0 stands for cells that take none. (DESIGN CHOICE, log entry 30). -/
def freshId (s : State) : Nat × State := (s.sched.nextEnt + 1, { s with sched := { s.sched with nextEnt := s.sched.nextEnt + 1 } })

/-- What the entries of block `n`'s slice hold: cells received and not gone, in the transmit stores of its ports, and sent cells its lanes
still keep (R66, R67). -/
def entsHeld (s : State) (n : Nat) : List Nat :=
  let b := s.block n
  let sent (l : Lane) : List BufCell := ((l.txOpen ++ ((l.unacked ++ l.acked).map (·.slots)).flatten)).filterMap (·.cell)
  (b.queued ++ b.express.map (·.2) ++ b.pend.map (·.2) ++ b.await ++ b.pealIn ++ (b.alloc.map fun a => a.copies.map (·.2)).flatten
    ++ ((s.ports.filter fun e => blockOf e.1 == n).map fun e => (e.2.held.map (·.2)).flatten ++ (e.2.store.map (·.2)).flatten ++ e.2.vc0).flatten
    ++ ((s.lanes.filter fun e => blockOf e.1 == n).map fun e => sent e.2).flatten
    ++ ((s.sched.trains.filter fun t => outBlock t.port == n).map (·.cells)).flatten
    ++ s.sched.hub.filterMap fun x => match x with | .control b c => if b = n then some c else none | _ => none).map (·.ent)

/-- The lowest number from `k` on that a list does not hold, looking at `n` numbers. -/
def firstFree (l : List Nat) : Nat → Nat → Nat
  | 0, k => k
  | n + 1, k => if l.contains k then firstFree l n (k + 1) else k

/-- What a cell brings takes an entry of block `n`'s slice of 199,728: the lowest that is free and in service. (DESIGN CHOICE, log entry 30). -/
def takeEntry (n id : Nat) (s : State) : State :=
  let b := s.block n
  let held := entsHeld s n
  let live : Tbl Nat := b.entries.filter fun e => held.contains e.2
  let k := firstFree (live.keys ++ b.retired) (live.length + b.retired.length) 0
  s.modBlock n fun b => { b with entries := if k < 199728 then live.put k id else live }

/-- A fresh entry of block `n`'s slice. (DESIGN CHOICE, log entry 30). -/
def newEnt (n : Nat) (s : State) : Nat × State :=
  let (id, s) := freshId s
  (id, takeEntry n id s)

/-- A received cell goes on with one more hop (R37). -/
def hop (c : Cell) : Cell := c.set 113 3 (c.hops + 1)

/-- A cell of output port `p`: the chip's own joins its queue, a received one waits in the credited allocation of its port
(R70); VC0 cells go to the express path at once (R73, R86). -/
def place1 (n p : Nat) (c : BufCell) (s : State) : State :=
  if c.shared || c.org.port.isNone || (c.cell.vc == 0 && decide (p < 2048)) then joinQueue n p c s
  else s.modBlock n fun b => { b with alloc := b.alloc ++ [⟨false, [(p, c)]⟩] }

/-- Count the mark of a cell that ends at this chip and that no peal home echoes (R152). -/
def countEnd (c : Cell) (s : State) : State := if c.cm && c.typ != tContrib && c.typ != tExp then bump 0x20 8192 16 s else s

/-- A cell for the control complex crosses the hub seam of its region, in its place in the order of R87; its entry is free once it has. -/
def toControl (n : Nat) (c : BufCell) (s : State) : State :=
  if hubTakes s s.sched.hub (.control n c) then (if c.shared then s else returnCredit c.org s) else hubWait (.control n c) s

/-- Act on a routing decision for a cell held in block `n`. -/
def applyRoute (n : Nat) (c : BufCell) (r : Routed) (s : State) : State :=
  match r with
  | .drop cause => dropCell c cause s
  | .consumed => toControl n c (countEnd c.cell s)
  | .to p rt =>
    let s := if 2048 ≤ p then countEnd c.cell s else s
    if 2048 ≤ p then place1 n p { c with route := rt } s
    else if c.org.port.isSome && c.cell.hops == 7 then dropCell c causeHops s
    else
      let cell := if c.org.port.isSome then hop c.cell else c.cell
      place1 n p { c with cell := cell, route := rt } (sampleCell n c.cell rt s)

/-! Replication (R89, R90, R122 to R126). -/

/-- MULTICAST entry k: VALID, KIND, TAG, LEAF_MASK, GROUP_MASK (R122). -/
def mcastEntry (s : State) (k : Nat) : Bool × Nat × Nat × Nat × Nat :=
  let a := wMcast + 64 * k
  let w := s.tblN a 8
  (bit w 0, field w 1 1, field w 16 12, s.tblN (a + 8) 8, s.tblN (a + 16) 32)

/-- One target of a replication: table, index, and the DST the copy hashes with and carries (peal copies), if its own. -/
structure McTarget where
  tbl : Nat
  idx : Nat
  dst : Option Nat
  deriving DecidableEq, Repr

/-- Choose the copies of a cell (R89): the targets whose copies were removed, and the copies with their ports. A repeated port
takes one copy unless each copy has a DST of its own. -/
def chooseCopies (n bank : Nat) (c : BufCell) : List McTarget → List Nat → List McTarget → List (Nat × BufCell) → State → List McTarget × List (Nat × BufCell) × State
  | [], _, rem, out, s => (rem, out, s)
  | t :: ts, done, rem, out, s =>
    let ms := members s t.tbl bank t.idx
    let live := liveSet s t.tbl t.idx (maskOf s c.cell) ms
    let dst := t.dst.getD c.cell.dst
    match hashPick live (routeHash c.cell dst) with
    | none =>
      let s := countDiscard c.org.port (emptyCause s t.tbl t.idx ms) (bump 0x04 n 11 s)
      chooseCopies n bank c ts done (rem ++ [t]) out s
    | some m =>
      if t.dst.isNone && done.contains m.2.1 then chooseCopies n bank c ts done rem out s
      else
        let cell := match t.dst with
          | some d => (let c' := c.cell.set 91 20 d; { c' with crc := BitVec.ofNat 32 c'.crcOf })
          | none => if c.org.port.isSome then hop c.cell else c.cell
        chooseCopies n bank c ts (m.2.1 :: done) rem
          (out ++ [(m.2.1, { c with cell := cell, route := .copy (if t.tbl = 0 then t.idx else s.ownGroup) })]) s

/-- The cause of a multicast cell left without any copy (R90): the admission mask when it removed every target, otherwise the copies' ports. (DEDUCED, log entry 28). -/
def noCopyCause (s : State) (bank : Nat) (ts : List McTarget) : Nat :=
  if !ts.isEmpty && ts.all fun t => emptyCause s t.tbl t.idx (members s t.tbl bank t.idx) == causeAdmission then causeAdmission else causeFencedDest

/-- The port a cell waits for still takes it: UP, or a circuit port that serves the copy's group (R89, R339). -/
def copyLive (s : State) (p : Nat) (c : BufCell) : Bool :=
  if 2048 ≤ p then true
  else if portRole s p = 2 then match c.route with | .copy g => circServes s p g | .entry tbl _ g _ => tbl == 0 && circServes s p g | _ => false
  else s.live p

/-- Write the descriptor of one copy into its VOQ (R89). -/
def writeCopy (n p : Nat) (c : BufCell) (s : State) : State := joinVoq n p c (bump 0x04 n 10 s)

/-- The targets of a received multicast cell (R123 to R125); none when it is discarded. -/
def mcastTargets (s : State) (c : Cell) (role : Nat) : Option (List McTarget) :=
  let (valid, kind, tag, leafs, groups) := mcastEntry s c.mgid
  let own := s.ownGroup
  if !valid || s.wordBad (wMcast + 64 * c.mgid) 64 || kind ≠ c.typ - 2 || tag ≠ c.tag then none
  else if c.typ = tRow then
    if role ≠ 0 then none
    else some (((List.range 64).filter fun l => bit leafs l).map fun l => ⟨1, l, none⟩)
  else if role = 0 then some (((List.range 256).filter fun g => bit groups g && g != own).map fun g => ⟨0, g, none⟩)
  else if role = 1 ∨ role = 2 then (if bit groups own then some [⟨1, c.src / 64 % 64, none⟩] else none)
  else none

/-- A received multicast cell in block `n` (step 2 of R102). (DEDUCED, log entry 28). -/
def routeMcast (n bank : Nat) (c : BufCell) (s : State) : State :=
  if s.wordBad (wMcast + 64 * c.cell.mgid) 64 then dropCell c causePortState s
  else match mcastTargets s c.cell (portRole s (c.org.port.getD 0)) with
  | none => dropCell c causeEncoding s
  | some ts =>
    if c.cell.hops = 7 then dropCell c causeHops s
    else
      let (_, out, s) := chooseCopies n bank c ts [] [] [] s
      if out.isEmpty then dropCell c (noCopyCause s bank ts) s
      else s.modBlock n fun b => { b with alloc := b.alloc ++ [⟨true, out⟩] }

/-! The ingress lookup (R102, R129). -/

/-- The bank of a cell's EPOCH, or none when the epoch is not accepted (R129). -/
def epochBank (f : Fabric) (e : Nat) : Option Nat :=
  if e = f.epoch then some (e % 2)
  else if (e + 1) % 4 = f.epoch ∧ f.drain.isSome then some (e % 2)
  else none

/-- The ingress admission check after step 1 (R102, R159). -/
def admitted (s : State) (c : BufCell) : Bool :=
  c.cell.vc == 0 || match c.org.port, s.fabric.tags.look? c.cell.tag with
    | some p, some m => m.getLsbD p
    | none, _ => true
    | _, none => false

/-- Route a cell that has passed its policer, in its ingress block `n`. -/
def ingress (n : Nat) (c : BufCell) (s : State) : State :=
  match epochBank s.fabric c.cell.epoch with
  | none => dropCell c causeStale s
  | some bank =>
    if !admitted s c then dropCell c causeAdmission s
    else if c.cell.isMcast then routeMcast n bank c s
    else
      let (r, s) := routeUnicast n bank c.cell s
      applyRoute n c r s

/-- The origin of the chip's own cells. -/
def ownOrigin (vc : Nat) : Origin := { port := none, vc := vc, lane := 0, lsn := 0, slot := 0 }

/-- Send a cell of the chip's own from block `n` through steps 3 to 6 of R102; answers what routing decided. -/
def originate (n : Nat) (cell : Cell) (s : State) : Routed × State :=
  let (ent, s) := newEnt n s
  let (r, s) := routeUnicast n (s.fabric.epoch % 2) cell s
  (r, applyRoute n { cell := cell, org := ownOrigin cell.vc, route := .chip, ent := ent, shared := false } r s)

/-- Send a cell of the chip's own and forget what routing decided. -/
def sendCell (n : Nat) (cell : Cell) (s : State) : State := (originate n cell s).2

/-- Replicate a cell of the chip's own; answers the targets whose copies were removed (R179, R89, R90). One left without any copy is
counted as discarded (R90). -/
def replicateOwn (n : Nat) (cell : Cell) (ts : List McTarget) (s : State) : List McTarget × State :=
  let (ent, s) := newEnt n s
  let (rem, out, s) := chooseCopies n (s.fabric.epoch % 2) { cell := cell, org := ownOrigin cell.vc, route := .copy 0, ent := ent, shared := false } ts [] [] [] s
  if out.isEmpty then (rem, countDiscard none (noCopyCause s (s.fabric.epoch % 2) ts) s)
  else (rem, forAll out s fun s x =>
    if voqOk s n x.1 x.2.cell.vc then writeCopy n x.1 { x.2 with shared := true } s else s.modBlock n fun b => { b with pend := b.pend ++ [x] })

/-- A result or close copy of this chip's own was discarded in its switching core (R188): kept until the peal is voided. -/
def noteLost (c : BufCell) (s : State) : State :=
  if c.org.port.isNone && c.cell.typ == tResult then { s with spine := { s.spine with lost := s.spine.lost ++ [c.cell] } } else s

/-- A cell chosen again from the entry it was chosen from, or discarded (R116). (DEDUCED, log entry 44). -/
def rechooseCell (n : Nat) (c : BufCell) (s : State) : State :=
  match c.route with
  | .entry tbl bank idx _ =>
    match chooseFrom n tbl bank idx c.cell s with
    | (.to p' r, s) => if c.shared || c.org.port.isNone then joinQueue n p' { c with route := r } s else place1 n p' { c with route := r } s
    | (.drop cause, s) => leaveBlock n c (countDiscard c.org.port cause (noteLost c s))
    | (.consumed, s) => s
  | _ => leaveBlock n c (countDiscard c.org.port causePortState (noteLost c s))

/-- The cells toward an output port that leaves UP (R116): those chosen from an entry are chosen again from the same entry
and bank, the others are discarded; those in VOQs first, then those of the chip's own that wait for a VOQ, then those still in the credited allocations. (DEDUCED, log entry 44). -/
def rechoose (p : Nat) (s : State) : State :=
  forAll (s.blocks.keys) s fun s n =>
    let s := forAll [1, 2, 3, 4, 5, 6, 7] s fun s vc =>
      let q := s.voq n p vc
      let s := if q.isEmpty then s else s.modBlock n fun b => { b with voqs := b.voqs.del (vkey p vc) }
      forAll q s fun s c => rechooseCell n c s
    let own (x : Nat × BufCell) : Bool := x.1 == p && match x.2.route with | .copy _ => false | _ => true
    let wait := (s.block n).pend.filter own
    let s := if wait.isEmpty then s else s.modBlock n fun b => { b with pend := b.pend.filter fun x => !own x }
    let s := forAll wait s fun s c => rechooseCell n c.2 s
    let isP (a : Alloc) : Bool := !a.mc && a.copies.any (·.1 == p)
    let out := (((s.block n).alloc.filter isP).map (·.copies)).flatten
    let s := if out.isEmpty then s else s.modBlock n fun b => { b with alloc := b.alloc.filter fun a => !isP a }
    forAll out s fun s c => rechooseCell n c.2 s

end Sys2Proof.Machine
end

