-- ==== Sys2Proof/Machine/Rows.lean ====
section
/-! DEFINITION. Machine/Rows.lean: members, homes, shards, programs and rows of a peal (chapters 06 to 09), as lookups and plain updates. -/
namespace Sys2Proof.Machine

/-! Fields of the shard descriptor (R270). -/
def shTag (d : BitVec 512) : Nat := field d.toNat 16 12
def shFmt (d : BitVec 512) : Nat := field d.toNat 32 4
def shTwinned (d : BitVec 512) : Bool := bit d.toNat 36
def shNormEn (d : BitVec 512) : Bool := bit d.toNat 39
def shCatchup (d : BitVec 512) : Bool := bit d.toNat 40
def shCells (d : BitVec 512) : Nat := field d.toNat 48 24
def shNormPeal (d : BitVec 512) : Nat := field d.toNat 80 12
def shNormN (d : BitVec 512) : Nat := field d.toNat 96 9
def shFa0 (d : BitVec 512) : Nat := field d.toNat 128 20
def shFa1 (d : BitVec 512) : Nat := field d.toNat 160 20

/-! State access. -/

/-- Change a peal that is not FREE. -/
def State.modPeal (s : State) (p : Nat) (f : Peal → Peal) : State := { s with peals := s.peals.mod p f }

/-- A shard. -/
def State.shard (s : State) (k : Nat) : Shard := s.spine.shards.look k {}

/-- Change the spine. -/
def State.modSpine (s : State) (f : Spine → Spine) : State := { s with spine := f s.spine }

/-- Change a shard. -/
def State.modShard (s : State) (k : Nat) (f : Shard → Shard) : State := s.modSpine fun x => { x with shards := x.shards.upd k {} f }

/-- A core. -/
def State.core (s : State) (c : Nat) : Core := s.spine.cores.look c {}

/-- Change a core. -/
def State.modCore (s : State) (c : Nat) (f : Core → Core) : State := s.modSpine fun x => { x with cores := x.cores.upd c {} f }

/-- Count in the PEAL section. -/
def bumpPeal (p idx n : Nat) (s : State) : State := if n = 0 then s else bumpN 0x07 p idx n s

/-- A KIND 5 peal. -/
def isUpdate (d : BitVec 512) : Bool := dKind d == 5

/-- A KIND 1 or 4 peal: its rows copy. -/
def isCopy (d : BitVec 512) : Bool := dKind d == 1 || dKind d == 4

/-- The accumulator width W. -/
def accW (d : BitVec 512) : Nat := if dAcc128 d then 128 else 64

/-- Elements per contribution cell. -/
def elems (d : BitVec 512) : Nat := eltsPerCell (dFmt d)

/-- Chunks of a step. -/
def chunkCount (d : BitVec 512) : Nat := ceilDiv (dStepCells d) (2 ^ dChunkLog2 d)

/-- The chunk of a cell position. -/
def chunkOf (d : BitVec 512) (x : Nat) : Nat := x / 2 ^ dChunkLog2 d

/-! Homes (R170, R306, R312). -/

/-- This chip homes a chunk: its own side, all sides of a peal it has taken over, or a region its twin has given up; a twinned peal's chunks
in a fenced region, or in one named in a DYING of this chip, have gone to the twin (R15). -/
def isHome (s : State) (pl : Peal) (c : Nat) : Bool :=
  !dTwinned pl.desc || (s.chip.regionFence.look? (chunkRegion pl.desc c)).isNone && !bit s.twin.given (chunkRegion pl.desc c) && (chunkSide pl.desc c == s.side
    || (if s.twin.tookOver || (s.twin.st == .syncing && s.twin.rebuild) then !pl.joined else bit s.twin.taken (chunkRegion pl.desc c)))

/-- The chunks this chip homes, ascending. -/
def homeChunks (s : State) (pl : Peal) : List Nat := (List.range (chunkCount pl.desc)).filter (isHome s pl)

/-- The cell positions of a chunk. -/
def chunkCells (d : BitVec 512) (c : Nat) : List Nat :=
  let n := 2 ^ dChunkLog2 d
  (List.range (min n (dStepCells d - c * n))).map (c * n + ·)

/-- The physical core that serves a chunk, numbered 132 × region + core (R227, R458). -/
def coreOf (s : State) (d : BitVec 512) (c : Nat) : Nat :=
  let i := 132 * chunkRegion d c + chunkCore d c
  s.spine.served.look i i

/-- The cores that home a chunk of a peal at this chip. -/
def homeCores (s : State) (pl : Peal) : List Nat := ((homeChunks s pl).map (coreOf s pl.desc)).eraseDups

/-- The block that speaks for a peal: its lowest region's first. -/
def pealBlock (d : BitVec 512) : Nat := 8 * (dRegions d).headD 0

/-! Members (R166, R168, R176). -/

/-- Window offset of a member entry. -/
def memberAddr (i : Nat) : Nat := wMember + 8 * i

/-- The published entry of a member of a peal. -/
def memberEnt (s : State) (d : BitVec 512) (m : Nat) : Nat := s.tblN (memberAddr (dMemberBase d + m)) 8

/-- Fields of a member entry. -/
def mFa (e : Nat) : Nat := field e 0 20
def mValid (e : Nat) : Bool := bit e 20
def mContrib (e : Nat) : Bool := bit e 21
def mRecv (e : Nat) : Bool := bit e 22
def mFenced (e : Nat) : Bool := bit e 23

/-- The members with CONTRIB, ascending. -/
def contributors (s : State) (d : BitVec 512) : List Nat := (List.range (dMembers d)).filter fun m => mContrib (memberEnt s d m)

/-- The members with RECV, ascending. -/
def receivers (s : State) (d : BitVec 512) : List Nat := (List.range (dMembers d)).filter fun m => mRecv (memberEnt s d m)

/-- The cells [lo, hi) of the step that a member's slice covers. -/
def memberSlice (s : State) (d : BitVec 512) (m : Nat) : Nat × Nat :=
  if dKind d = 4 then
    let k := (contributors s d).idxOf m
    (k * dScatter d, min (dStepCells d) ((k + 1) * dScatter d))
  else (0, dStepCells d)

/-- The first cell of [x, x + n) not in a list. -/
def firstNot (got : List Nat) : Nat → Nat → Option Nat
  | _, 0 => none
  | x, n + 1 => if got.contains x then firstNot got (x + 1) n else some x

/-- The lowest index from `x` on that a member owes this home and is not in `got`; STEP_CELLS when none is (R176). -/
def nextOwed (s : State) (pl : Peal) (m : Nat) (got : List Nat) (x : Nat) : Nat :=
  let d := pl.desc
  let n := 2 ^ dChunkLog2 d
  let (lo, hi) := memberSlice s d m
  (((List.range (chunkCount d)).filter fun c => decide (x / n ≤ c) && isHome s pl c).findSome? fun c =>
    let a := max x (max lo (c * n))
    let b := min hi (min ((c + 1) * n) (dStepCells d))
    if a < b then firstNot got a (b - a) else none).getD (dStepCells d)

/-- A member owes this home cell x. -/
def owes (s : State) (pl : Peal) (m x : Nat) : Bool :=
  let (lo, hi) := memberSlice s pl.desc m
  decide (x < dStepCells pl.desc) && isHome s pl (chunkOf pl.desc x) && mContrib (memberEnt s pl.desc m) && decide (lo ≤ x) && decide (x < hi)

/-- The cells [a, b) of a chunk a member owes. -/
def owedIn (s : State) (d : BitVec 512) (m c : Nat) : Nat × Nat :=
  let n := 2 ^ dChunkLog2 d
  let (lo, hi) := memberSlice s d m
  (max lo (c * n), min hi (min ((c + 1) * n) (dStepCells d)))

/-- The window kept for a member. -/
def Peal.win (pl : Peal) (m : Nat) : MemberWin := pl.wins.look m {}

/-- LIMIT of a member's window (R176). -/
def winLimit (pl : Peal) (m : Nat) : Nat :=
  let d := pl.desc
  min ((pl.win m).ack + 2 ^ dWinLog2 d) (min (if pl.nextOpen < chunkCount d then pl.nextOpen * 2 ^ dChunkLog2 d else dStepCells d) (dStepCells d))

/-- The part's own write of FENCED in a member entry, deferred while its segment is locked (R167). -/
def setFenced (d : BitVec 512) (m : Nat) (s : State) : State :=
  let a := memberAddr (dMemberBase d + m)
  if s.mem.locked.contains (a / 4096) then
    s.modMem fun x => { x with defer := x.defer.upd (a / 4096) [] fun l => l ++ [.fenced (dMemberBase d + m) true] }
  else s.tblPut a (toLE 8 (setField (s.tblN a 8) 23 1 1))

/-! Programs (R233, R234, R258 to R261, R267). -/

/-- A program that the shipped library holds. -/
def libProgram (pid : Nat) : Bool := decide (0x10 ≤ pid ∧ pid ≤ 0x13)

/-- A user program ID. (DEDUCED, log entry 78). -/
def userProgram (pid : Nat) : Bool := decide (0x100 ≤ pid ∧ pid < 0x500)

/-- Window offset of a directory entry. -/
def dirAddr (pid : Nat) : Nat := wProg + 64 * (pid - 0x100)

/-- A directory entry. -/
def dirEnt (s : State) (pid : Nat) : Nat := s.tblN (dirAddr pid) 24

/-- STATE of a directory entry. -/
def progState (s : State) (pid : Nat) : Nat := field (dirEnt s pid) 16 2

/-- Window offset of a user program's image. -/
def imageAddr (s : State) (pid : Nat) : Nat := wProg + 4096 * field (dirEnt s pid) 32 10

/-- A field of a user program's image. -/
def imageN (s : State) (pid off n : Nat) : Nat := s.tblN (imageAddr s pid + off) n

/-- The word index of an entry point of a user program (0 ON_CONTRIB, 1 ON_CHUNK, 2 ON_STEP_END, 3 ON_VOID), or none where it is
absent or the program is not a user program. -/
def userEntry (s : State) (pid e : Nat) : Option Nat :=
  if userProgram pid then
    let w := imageN s pid (16 + 4 * e) 4
    if w = 0xFFFFFFFF then none else some w
  else none

/-- A code word of a user program. -/
def codeWord (s : State) (pid i : Nat) : Nat := imageN s pid (128 + 4 * i) 4

/-- The first instruction of ON_CONTRIB is ACCX CELL (R236): its SQ bit. -/
def leadAccx (s : State) (pid : Nat) : Option Bool :=
  match userEntry s pid 0 with
  | some e => let w := codeWord s pid e; if w / 2 ^ 26 = 0x0A ∧ field w 8 2 = 0 then some (bit w 7) else none
  | none => none

/-- The handler of contributions is the fast path: ACCX CELL alone (R234, R236). -/
def fastPath (s : State) (pid : Nat) : Bool :=
  match userEntry s pid 0 with
  | none => true
  | some e => (leadAccx s pid).isSome && codeWord s pid (e + 1) / 2 ^ 26 == 0x3D

/-- A contribution is accumulated on arrival: no handler, or one that leads with ACCX CELL; answers the SQ it asks for. -/
def accumulates (s : State) (pid : Nat) : Option Bool :=
  match userEntry s pid 0 with | none => some false | some _ => leadAccx s pid

/-! Shards (R272, R273). -/

/-- Bytes of a slice. -/
def sliceBytes (d : BitVec 512) : Nat := 14 * eltsPerCell (shFmt d)

/-- Address of a slice in the model's bank memory. -/
def sliceAddr (s : State) (k bank x : Nat) : Nat := (2 * k + bank) * 2 ^ 34 + sliceBytes (s.shard k).desc * x

/-- Read bytes of a slice. -/
def sliceRead (s : State) (k bank x off n : Nat) : Bytes := s.mem.bank.reads zeroDefault (sliceAddr s k bank x + off) n

/-- Write bytes of a slice. -/
def sliceWrite (k bank x off : Nat) (b : Bytes) (s : State) : State :=
  s.modMem fun m => { m with bank := m.bank.writes zeroDefault (sliceAddr s k bank x + off) b }

/-! Slots of the memory channels (R319, R320, R325). Accesses come one at a time, so a burst is the only request of its channel. -/

/-- A memory channel. -/
def State.chan (s : State) (c : Nat) : Chan := s.chans.look c {}

/-- Change a memory channel. -/
def State.modChan (s : State) (c : Nat) (f : Chan → Chan) : State := { s with chans := s.chans.upd c {} f }

/-- A channel is in service: neither FAILED nor RETIRED (R333). -/
def chanServes (s : State) (c : Nat) : Bool := (s.chan c).status != 3 && (s.chan c).status != 4

/-- A channel serves requests: it is in service, and its region is not fenced (R321). -/
def chanLive (s : State) (c : Nat) : Bool := chanServes s c && (s.chip.regionFence.look? (c / 32)).isNone

/-- The channel of extent i of a shard's bank (R319). -/
def extentChan (start bank i : Nat) : Nat := (i + 64 * bank + start) % 128

/-- Where the extents of a region-local allocation begin to rotate over the region's channels: R319 does not say. (DESIGN CHOICE, log entry 16). -/
def poolStart (pool key : Nat) : Nat := Config.choice (pool * 4294967296 + key) % 32

/-- Count in the CHANNEL section. -/
def bumpChan (c idx n : Nat) (s : State) : State := bumpN 0x0A c idx n s

/-- A step is in progress on this chip (R325). -/
def stepRuns (s : State) : Bool :=
  s.spine.shards.any fun e => e.2.st == .bound && ((s.peal e.2.peal).st == .running || (s.peal e.2.peal).st == .sealed)

/-- A pool that had `share` of a channel's last 1,024 slots is below its floor (R323, R325). (DEDUCED, log entry 94). -/
def belowFloor (s : State) (pool share : Nat) : Bool :=
  match pool with
  | 0 | 1 => stepRuns s && decide (100 * share < 1024 * s.tblN (wPool + 33 + 32 * pool) 1)
  | 4 => decide (256 * share < 1024 * s.tblN (wPool + 1) 1)
  | _ => false

/-- A channel serves one burst of 64 bytes to a pool (R318, R325, R337): the pool's bytes count, and a channel in service counts the slot, under
the pool's floor or not. A fenced region's channels serve no request (R321). (DEDUCED, log entry 94). (DESIGN CHOICE, log entry 95). -/
def burstServed (write : Bool) (pool c : Nat) (s : State) : State :=
  if (s.chip.regionFence.look? (c / 32)).isSome then s
  else
  let s := bumpN 0x0B pool (b2n write) 64 s
  if !chanServes s c then s
  else
    let under := belowFloor s pool ((s.chan c).recent.filter (· == pool)).length
    let s := bumpChan c (8 + pool) 1 s
    let s := if under then bumpChan c (14 + pool) 1 s else s
    s.modChan c fun x => { x with recent := (pool :: x.recent).take 1024 }

/-- The pool of an access to a position of a shard (R320): RESIDENT for an LDM or STM (`core`) of a position this chip homes, MIRROR for every
other shard access. -/
def accessPool (core : Bool) (s : State) (k x : Nat) : Nat :=
  let sh := s.shard k
  let pl := s.peal sh.peal
  if core && sh.st == .bound && isHome s pl (chunkOf pl.desc x) then 0 else 1

/-- The bursts of an access to `n` bytes of a bank from byte `off` of slice x on, each on the channel of its extent (R319). -/
def sliceServed (core write : Bool) (k bank x off n : Nat) (s : State) : State :=
  let sh := s.shard k
  let sb := sliceBytes sh.desc
  let a := sb * x + off
  forAll ((List.range (ceilDiv (a + n) 64 - a / 64)).map (a / 64 + ·)) s fun s b =>
    burstServed write (accessPool core s k (max x (64 * b / sb))) (extentChan sh.start bank (b / 32768)) s

/-- The 21 bursts of a stash record of a circuit port, written or read (R346); on which channel of its region the record lies is open. -/
def recordServed (write : Bool) (p g rec : Nat) (s : State) : State :=
  forAll (List.range 21) s fun s _ => burstServed write 2 (32 * regionOfPort p + poolStart 6 ((p * 256 + g) * 65536 + rec)) s

/-- Write whole slices outside the cores and count their bursts. -/
def sliceStore (k bank x off : Nat) (b : Bytes) (s : State) : State := sliceServed false true k bank x off b.length (sliceWrite k bank x off b s)

/-- The key of a digest unit of a bank (R309). -/
def unitKey (k bank u : Nat) : Nat := (2 * k + bank) * 2 ^ 20 + u

/-- The residue modulo 65,535 of bytes that a store puts at an address, as 16-bit words (R310). -/
def storeResidue (a : Nat) (b : Bytes) : Nat := (b.foldl (fun (n : Nat × Nat) x => (n.1 + 1, n.2 + x.toNat * 256 ^ (n.1 % 2))) (a, 0)).2 % 65535

/-- Note what STM issues to a bank and what lands of it, unit by unit (R310). -/
def noteStores (k bank a : Nat) (b : Bytes) (s : State) : State :=
  let us := if b.isEmpty then [] else (List.range ((a + b.length - 1) / 65536 - a / 65536 + 1)).map (a / 65536 + ·)
  forAll us s fun s u =>
    let lo := max a (65536 * u)
    let v := storeResidue lo ((b.drop (lo - a)).take (65536 * (u + 1) - lo))
    let add (t : Tbl Nat) : Tbl Nat := t.upd (unitKey k bank u) 0 fun n => (n + v) % 65535
    s.modMem fun m => { m with issued := add m.issued, landed := add m.landed }

/-- A unit's words landed as STM issued them (R310). -/
def unitSound (s : State) (k bank u : Nat) : Bool := s.mem.issued.look (unitKey k bank u) 0 == s.mem.landed.look (unitKey k bank u) 0

/-- The residues of a bank start again as the bank is bound to SHARD_N. -/
def clearResidues (k bank : Nat) (s : State) : State :=
  let keep (t : Tbl Nat) : Tbl Nat := t.filter fun e => e.1 / 2 ^ 20 != 2 * k + bank
  s.modMem fun m => { m with issued := keep m.issued, landed := keep m.landed }

/-- STM of bytes of a slice (R247, R310). -/
def sliceStm (k bank x off : Nat) (b : Bytes) (s : State) : State :=
  noteStores k bank (sliceBytes (s.shard k).desc * x + off) b (sliceWrite k bank x off b s)

/-- The bank SHARD_N is bound to. -/
def nBank (sh : Shard) : Nat := 1 - sh.live

/-- Discard the contents of a bank. -/
def clearBank (k bank : Nat) (s : State) : State :=
  s.modMem fun m => { m with bank := m.bank.clear ((2 * k + bank) * 2 ^ 34) (2 ^ 34) }

/-- Digest unit u of a bank (R309). -/
def unitDigest (s : State) (k bank u : Nat) : W64 :=
  let d := (s.shard k).desc
  let len := sliceBytes d * shCells d
  crc64 (s.mem.bank.reads zeroDefault ((2 * k + bank) * 2 ^ 34 + 65536 * u) (min 65536 (len - 65536 * u)))

/-- Digest units of a bank. -/
def unitCount (d : BitVec 512) : Nat := ceilDiv (sliceBytes d * shCells d) 65536

/-- The bank digest (R309). -/
def bankDigest (s : State) (k bank : Nat) : W64 :=
  crc64 (((List.range (unitCount (s.shard k).desc)).map fun u => toLE 8 (unitDigest s k bank u).toNat).flatten)

/-- Address of a byte of a peal's program store window in a region. (DEDUCED, log entry 12). -/
def pstoreAddr (p r off : Nat) : Nat := (4 * p + r) * 2 ^ 26 + off

/-- The parameter block held for a step. -/
def paramsOf (pl : Peal) (step : Nat) : Option Params := pl.params.look? step

/-- CRC-32C of PARAMS and TRAIN_STEP for ROUND_CTL OPEN (R302). -/
def paramsCrc (pl : Peal) : Nat :=
  match paramsOf pl pl.step with | some q => crc32c (q.block ++ toLE 8 q.train) | none => 0

/-! Rows (R199 to R204, R218). -/

/-- A lane of a row's accumulators. -/
def Row.at (r : Row) (i : Nat) : Int := r.acc.getD i 0

/-- Add integers to a row's accumulators from lane `lo` on. -/
def Row.addInts (r : Row) (e w lo : Nat) (ns : List Int) : Row :=
  { r with acc := (List.range e).map fun i => if lo ≤ i ∧ i < lo + ns.length then accAdd w (r.at i) (ns.getD (i - lo) 0) else r.at i }

/-- One input on the grid: its integer, whether it was replaced, whether it was lost, its lane state. -/
structure GridIn where
  n    : Int
  sats : Bool
  lost : Bool
  lane : Nat
  deriving DecidableEq, Repr

/-- An input onto the grid of a row. -/
def gridIn (w : Nat) (anchor : Int) (x : Elt) : GridIn :=
  match x with
  | .fin n m e => let (v, o, l) := toGrid n m e anchor w; ⟨v, o, l, 0⟩
  | x => ⟨0, false, false, x.lane⟩

/-- Commit inputs to a row's state (R201, R202, R216, R218): lanes, flags, LOSS and RES_IN. -/
def Row.commit (r : Row) (e lo : Nat) (gs : List GridIn) : Row :=
  { r with
    lane := (List.range e).map fun i => laneJoin (r.lane.getD i 0) (if lo ≤ i then ((gs[i - lo]?).map (·.lane)).getD 0 else 0)
    resIn := (gs.foldl (fun a g => a + res16 g.n) r.resIn) % 65535
    sat := r.sat || gs.any (·.sats)
    nan := r.nan || gs.any (·.lane == 3)
    inf := r.inf || gs.any fun g => g.lane == 1 || g.lane == 2
    loss := r.loss + (gs.filter (·.lost)).length }

/-- Inputs of a MAX or MIN row (R203). -/
def Row.extreme (r : Row) (isMax : Bool) (e lo : Nat) (xs : List Elt) : Row :=
  let new (i : Nat) : Option Elt := if lo ≤ i then xs[i - lo]? else none
  { r with
    ext := (List.range e).map fun i => match new i, (r.ext.getD i none) with
      | none, o => o
      | some .nan, o => o
      | some x, none => some x
      | some x, some y => if (if isMax then y.less x else x.less y) then some x else some y
    lane := (List.range e).map fun i => if new i = some .nan then 3 else r.lane.getD i 0
    nan := r.nan || xs.contains .nan
    inf := r.inf || xs.any fun x => match x with | .inf _ => true | _ => false }

/-- The row of an op has anchored accumulators: SUM, SUMSQ, PROGRAM. -/
def sums (d : BitVec 512) : Bool := !isCopy d && (dOp d == 0 || dOp d == 3 || dOp d == 4)

/-- The inputs of a contribution on the grid: squared for SUMSQ, or for PROGRAM when SQ asks for it. -/
def gridCell (d : BitVec 512) (sq : Bool) (anchor : Int) (xs : List Elt) : List GridIn :=
  xs.map fun x => gridIn (accW d) anchor (if dOp d = 3 ∨ (dOp d = 4 ∧ sq) then x.square else x)

/-- The elements of a contribution. -/
def cellElts (d : BitVec 512) (c : Cell) : List Elt := decodeCell (dFmt d) c.side (dInScale d) c.payload

/-- Accumulate a committed contribution into a row. -/
def Row.accumulate (r : Row) (d : BitVec 512) (sq : Bool) (anchor : Int) (c : Cell) : Row :=
  if isCopy d then { r with copy := c.payload, copySide := c.side }
  else
    let xs := cellElts d c
    if sums d then
      let gs := gridCell d sq anchor xs
      (r.addInts (elems d) (accW d) 0 (gs.map (·.n))).commit (elems d) 0 gs
    else r.extreme (dOp d == 1) (elems d) 0 xs

/-- The residue of a row's accumulators (R218). -/
def Row.residue (r : Row) : Nat := (r.acc.foldl (fun a v => a + res16 v) 0) % 65535

/-- The residue check of a row passes: rows without a residue pass at once (R218, R219). -/
def rowOk (d : BitVec 512) (r : Row) : Bool := !sums d || r.residue == r.resIn

/-- The exact value of each lane of a row (R205). -/
def rowElts (d : BitVec 512) (r : Row) (anchor : Int) : List Elt :=
  (List.range (elems d)).map fun i =>
    if sums d then laneElt (r.at i) (r.lane.getD i 0) anchor
    else if r.lane.getD i 0 = 3 then .nan else (r.ext.getD i none).getD (.fin false 0 0)

/-- A number that stands for an element, to name a free value by. -/
def eltKey : Elt → Nat
  | .nan => 0
  | .inf n => 1 + b2n n
  | .fin n m e => 3 + b2n n + 2 * (twos e 16 + 65536 * m)

/-- The accumulator bytes of a row as the ROW window shows them; the layout of a MAX or MIN lane is a free value. -/
def accBytes (d : BitVec 512) (r : Row) : Bytes :=
  if isCopy d then fit 64 r.copy
  else ((List.range (elems d)).map fun i =>
    if sums d then toLE (accW d / 8) (twos (r.at i) (accW d))
    else match r.ext.getD i none with
      | some x => toLE (accW d / 8) (Config.rowBits (eltKey x)).toNat
      | none => zeros (accW d / 8)).flatten

/-- The 32 bytes of row state (R204). -/
def rowState (r : Row) (anchor : Option Int) : Bytes :=
  let lanes := (r.lane.mapIdx fun i l => l * 4 ^ i).foldl (· + ·) 0
  toLE 16 lanes ++ toLE 2 r.resIn
    ++ toLE 2 (b2n r.sat + 2 * b2n r.nan + 4 * b2n r.inf + 8 * b2n anchor.isSome + place r.spec 4 5)
    ++ toLE 4 r.loss ++ toLE 2 (twos (anchor.getD 0) 10) ++ zeros 6

/-- The ROW window of a row (R243). (DESIGN CHOICE, log entry 19). -/
def rowBytes (d : BitVec 512) (r : Row) (anchor : Option Int) : Bytes := accBytes d r ++ rowState r anchor

/-- The bytes of a row that spot duplication digests (R220): the accumulators, 16 bytes of lane states, a byte of flags, 4 of LOSS and 2 of anchor; R220
lists the fields and not how they are packed. (DESIGN CHOICE, log entry 166). -/
def rowDigestBytes (d : BitVec 512) (r : Row) (anchor : Option Int) : Bytes :=
  let lanes := ((List.range (elems d)).map fun i => r.lane.getD i 0 * 4 ^ i).foldl (· + ·) 0
  accBytes d r ++ toLE 16 lanes ++ toLE 1 (b2n r.sat + 2 * b2n r.nan + 4 * b2n r.inf) ++ toLE 4 r.loss ++ toLE 2 (twos (anchor.getD 0) 10)

/-- The digest of a chunk (R220). -/
def chunkDigest (d : BitVec 512) (c : Nat) (ch : Chunk) : W64 :=
  crc64 (((chunkCells d c).map fun x => rowDigestBytes d (ch.rows.look x {}) ch.anchor).flatten)

/-- Spot duplication selects a chunk (R220). (DEDUCED, log entry 67). -/
def spotSelected (d : BitVec 512) (c : Nat) : Bool :=
  dTwinned d && dSpotShift d != 0 && chunkHash (dPeal d) c / 2 % 2 ^ dSpotShift d == 0

/-- A chunk as it opens (R204, R211). -/
def newChunk (s : State) (d : BitVec 512) (c : Nat) : Chunk :=
  { anchor := if dAnchorAuto d then none else some (dAnchorLsb d)
    spot := if spotSelected d c && s.twin.st == .paired then .waiting else .none
    supply := (s.chip.warn.look? (chunkRegion d c)).isSome || (s.chip.warn.look? 4).isSome }

end Sys2Proof.Machine
end

