-- ==== Sys2Proof/Machine/PealOps.lean ====
section
/-! DEFINITION. Machine/PealOps.lean: Welt sending, window and result cells, round openings, voids and replays (chapters 06, 09, 10). -/
namespace Sys2Proof.Machine

/-! Sending TWIN messages (R300, R301, R302). -/

/-- A cell put at the tail of a Welt port's queues. -/
def weltPut (p : Nat) (c : Cell) (s : State) : State :=
  let b : BufCell := { cell := c, org := ownOrigin c.vc, route := .chip, ent := 0, shared := true }
  if c.vc = 0 then s.modPort p fun q => { q with vc0 := q.vc0 ++ [b] }
  else s.modPort p fun q => { q with store := q.store.upd c.vc [] fun l => l ++ [b] }

/-- Spray a TWIN cell over the UP Welt ports with equal weights (R300, R111); with no port UP it waits for its resend. -/
def sprayTwin (c : Cell) (s : State) : State :=
  let up := (List.range 4).filter fun n => s.live (weltPort n)
  let cur (n : Nat) : Int := s.twin.sprayC.getD n 0
  let raised (n : Nat) : Int := if up.contains n then cur n + 1 else cur n
  match up.foldl (fun (b : Option Nat) n => match b with | some m => if raised m < raised n then some n else b | none => some n) none with
  | none => s
  | some k =>
    let s := s.modTwin fun t => { t with sprayC := (List.range 4).map fun n => if n = k then raised n - (up.length : Nat) else raised n }
    weltPut (weltPort k) c s

/-- The cells of a sequenced TWIN message: the head cell and the data cells, LAST on the last. -/
def twinCells (s : State) (tmsg vc tag : Nat) (head data : Bytes) : List Cell :=
  let n := 1 + ceilDiv data.length 64
  let seq0 := nth s.twin.txSeq vc
  (List.range n).map fun i =>
    mkCell tTwin vc 0 true (i + 1 == n) s.twinFa s.fabric.plan.selfFa tag (place tmsg 51 8 + place ((seq0 + i) % 2 ^ 32) 19 32)
      (if i = 0 then head else (data.drop (64 * (i - 1))).take 64)

/-- Twin cells carry EPOCH, HOPS and COLOR zero (R300). (DEDUCED, log entry 42). -/
def plainColor (c : Cell) : Cell := (let c' := c.set 111 2 0; { c' with crc := BitVec.ofNat 32 c'.crcOf })

/-- A TWIN cell on its way to the Welt ports: one that a region die sends crosses its hub seam in the order of R87. -/
def twinOut (die : Option Nat) (c : Cell) (s : State) : State :=
  match die with
  | some r => if hubTakes s s.sched.hub (.twin r c) then sprayTwin c s else hubWait (.twin r c) s
  | none => sprayTwin c s

/-- Send a sequenced TWIN message from a region die, or from the hub, and keep its cells until they are acknowledged. (DEDUCED, log entry 88). -/
def sendTwinFrom (die : Option Nat) (tmsg vc tag : Nat) (head data : Bytes) (s : State) : State :=
  let cells := (twinCells s tmsg vc tag head data).map plainColor
  let seq0 := nth s.twin.txSeq vc
  let s := s.modTwin fun t => { t with
    txSeq := setNth 8 t.txSeq vc ((seq0 + cells.length) % 2 ^ 32)
    unacked := t.unacked ++ cells.map fun c => ⟨vc, BitVec.ofNat 32 c.tseq, c⟩ }
  forAll cells s fun s c => twinOut die c s

/-- Send a sequenced TWIN message from the hub. -/
def sendTwin (tmsg vc tag : Nat) (head data : Bytes) (s : State) : State := sendTwinFrom none tmsg vc tag head data s

/-- The pair states in which a peal's homes are split with the twin: PAIRED, or SYNCING once the peal has joined (R306). -/
def pairedFor (s : State) (pl : Peal) : Bool := dTwinned pl.desc && (s.twin.st == .paired || (s.twin.st == .syncing && pl.joined))

/-- ROUND_CTL (R302): 0 OPEN, 1 VOID, 2 ROLLBACK, 3 COMMIT. (DEDUCED, log entry 87). -/
def sendRoundCtl (pl : Peal) (action round cause : Nat) (hold : Bool) (step crc : Nat) (s : State) : State :=
  sendTwin 0x04 0 (dTag pl.desc)
    (toLE 2 (dPeal pl.desc) ++ toLE 1 action ++ toLE 1 round ++ toLE 1 cause ++ toLE 1 (b2n hold) ++ zeros 2 ++ toLE 8 step ++ toLE 4 crc) [] s

/-! Peal cells. -/

/-- The type-specific bits of the peal types (R38). -/
def pealTs (peal round cell fmt side : Nat) : Nat :=
  place peal 47 12 + place round 45 2 + place cell 21 24 + place fmt 17 4 + place side 1 16

/-- The type-specific bits of a WINDOW (R38, R153). -/
def windowTs (id scope round limit : Nat) : Nat := place id 47 12 + place scope 46 1 + place round 44 2 + place limit 20 24

/-- A cell of the chip's own for a destination is stopped by the FENCE action there (R108). -/
def fencedDst (s : State) (dst : Nat) : Bool :=
  !forChip s dst && field (s.tblN (wExc (s.fabric.epoch % 2) + 8 * dst) 8) 0 3 == 1

/-- Send a WINDOW to a member (R153, R176); answers whether the FENCE action discarded it (R188). -/
def sendWindow (p m : Nat) (s : State) : Bool × State :=
  let pl := s.peal p
  let fa := mFa (memberEnt s pl.desc m)
  let w := pl.win m
  let lim := winLimit pl m
  let c := mkCell tWindow 5 s.fabric.epoch false false fa s.fabric.plan.selfFa (dTag pl.desc) (windowTs p 1 pl.round lim) (toLE 4 w.ack)
  let s := bumpPeal p 13 1 (s.modPeal p fun q => { q with wins := q.wins.put m { w with sentAck := w.ack, sentLim := lim } })
  let (r, s) := originate (pealBlock pl.desc) c s
  (match r with | .drop _ => fencedDst s fa | _ => false, s)

/-- Send WINDOWs to members; answers those whose WINDOW the FENCE action discarded. -/
def sendWindows (p : Nat) (ms : List Nat) (s : State) : List Nat × State :=
  ms.foldl (fun a m => let (f, s) := sendWindow p m a.2; (if f then a.1 ++ [m] else a.1, s)) ([], s)

/-- The members whose ACK or LIMIT has moved by 2^(WIN_LOG2 − 2) since their last WINDOW (R176). -/
def movedWindows (pl : Peal) : List Nat :=
  let q := 2 ^ (dWinLog2 pl.desc - 2)
  (pl.wins.filter fun e => decide (e.2.sentAck + q ≤ e.2.ack) || decide (e.2.sentLim + q ≤ winLimit pl e.1)).map (·.1)

/-! Chunk openings (R176). -/

/-- The next chunk this home opens. -/
def nextHome (s : State) (pl : Peal) (c : Nat) : Nat := ((homeChunks s pl).find? fun k => decide (c ≤ k)).getD (chunkCount pl.desc)

/-- Slots of a region in use. -/
def slotsUsed (pl : Peal) (r : Nat) : Nat := (pl.chunks.filter fun e => chunkRegion pl.desc e.1 == r && !e.2.released).length

/-- Open the next chunk if its region has a free slot. -/
def openOne (p : Nat) (s : State) : State :=
  let pl := s.peal p
  let c := pl.nextOpen
  if chunkCount pl.desc ≤ c || dSlots pl.desc ≤ slotsUsed pl (chunkRegion pl.desc c) then s
  else s.modPeal p fun q => { q with chunks := q.chunks.put c (newChunk s pl.desc c), nextOpen := nextHome s pl (c + 1) }

/-- Open chunks in ascending order while slots are free. -/
def openChunks (p : Nat) : Nat → State → State
  | 0, s => s
  | n + 1, s =>
    let s' := openOne p s
    if (s'.peal p).nextOpen = (s.peal p).nextOpen then s else openChunks p n s'

/-! Results (R179, R180, R188). -/

/-- What became of the copies of a result or close cell: members fenced on the way (R108), and whether a copy was lost with a
receiver behind it (R188, cause 4), with the member concerned. -/
structure Sent where
  fenced : List Nat := []
  lost   : Bool := false
  member : Option Nat := none
  count  : Nat := 0
  deriving DecidableEq, Repr

def Sent.join (a b : Sent) : Sent := ⟨a.fenced ++ b.fenced, a.lost || b.lost, if a.member.isSome then a.member else b.member, a.count + b.count⟩

/-- Send a result to one member from block `n`. -/
def sendToMember (n p m : Nat) (mk : Nat → Cell) (s : State) : Sent × State :=
  let pl := s.peal p
  let fa := mFa (memberEnt s pl.desc m)
  let (r, s) := originate n (mk fa) s
  match r with
  | .drop _ =>
    let s := bumpPeal p 11 1 s
    if fencedDst s fa then ({ fenced := [m] }, s) else ({ lost := true, member := some m }, s)
  | _ => ({ count := 1 }, s)

/-- The MGID entry of a peal passes the checks of R169: VALID, KIND, TAG. -/
def mgidOk (s : State) (d : BitVec 512) (mgid kind : Nat) : Bool :=
  let (v, k, t, _, _) := mcastEntry s mgid
  v && k == kind && t == dTag d && !s.wordBad (wMcast + 64 * mgid) 64

/-- Row targets (R179): one copy per leaf of LEAF_MASK to (OWN_GROUP, l, 0). -/
def rowTargets (s : State) (mgid : Nat) : List McTarget :=
  let (_, _, _, leafs, _) := mcastEntry s mgid
  ((List.range 64).filter fun l => bit leafs l).map fun l => ⟨1, l, some (s.ownGroup * 4096 + l * 64)⟩

/-- Column targets (R179): one copy per other group of GROUP_MASK to (g, LEAF(SELF_FA), 0). -/
def colTargets (s : State) (mgid : Nat) : List McTarget :=
  let (_, _, _, _, groups) := mcastEntry s mgid
  ((List.range 256).filter fun g => bit groups g && g != s.ownGroup).map fun g => ⟨0, g, some (g * 4096 + s.fabric.plan.selfFa / 64 % 64 * 64)⟩

/-- The receivers behind a target (R188): those of the leaf of a row copy, or of the group of a column copy. -/
def behind (s : State) (d : BitVec 512) (tbl dst : Nat) : List Nat :=
  (receivers s d).filter fun m =>
    let fa := mFa (memberEnt s d m)
    if tbl = 1 then fa / 64 == dst / 64 else fa / 4096 == dst / 4096

/-- The cause of R65 of a cell whose multicast entry fails, as for a received multicast cell. -/
def mgidCause (s : State) (mgid : Nat) : Nat := if s.wordBad (wMcast + 64 * mgid) 64 then causePortState else causeEncoding

/-- Replicate a result through one multicast entry. An entry that fails the checks makes no copy, and the cell counts one removed copy, in
COPIES_REMOVED and under `why` of R65 (R126, R188). -/
def sendReplicated (n p : Nat) (ts : List McTarget) (ok : Bool) (why : Nat) (c : Cell) (s : State) : Sent × State :=
  let d := (s.peal p).desc
  if !ok then ({ lost := true }, countDiscard none why (bumpPeal p 11 1 (bump 0x04 n 11 s)))
  else
    let (rem, s) := replicateOwn n c ts s
    let s := bumpPeal p 11 rem.length s
    let hit := (rem.map fun t => behind s d t.tbl (t.dst.getD 0)).flatten
    ({ lost := !hit.isEmpty, member := hit.head?, count := ts.length - rem.length }, s)

/-- The receivers of UNICAST cell x (R168). -/
def unicastTo (s : State) (d : BitVec 512) (x : Nat) : List Nat :=
  let rs := receivers s d
  if dKind d = 3 then (match rs[x / dScatter d]? with | some m => [m] | none => []) else rs

/-- Send a result or close cell to every destination that R168 and R179 name, with `rs` the receivers of UNICAST. -/
def sendResult (n p : Nat) (rs : List Nat) (mk : Nat → Cell) (s : State) : Sent × State :=
  let d := (s.peal p).desc
  let row (s : State) := sendReplicated n p (rowTargets s (dRowMgid d)) (mgidOk s d (dRowMgid d) 0) (mgidCause s (dRowMgid d)) (mk 0) s
  let col (s : State) := sendReplicated n p (colTargets s (dColMgid d)) (mgidOk s d (dColMgid d) 1) (mgidCause s (dColMgid d)) (mk 0) s
  match dResMode d with
  | 0 => rs.foldl (fun a m => let (b, s) := sendToMember n p m mk a.2; (a.1.join b, s)) ({}, s)
  | 1 => row s
  | 2 => let (a, s) := row s; let (b, s) := col s; (a.join b, s)
  | _ => col s

/-- A PEAL_RESULT cell of a round (R179). -/
def resultCell (s : State) (d : BitVec 512) (round cell side : Nat) (last : Bool) (payload : Bytes) (dst : Nat) : Cell :=
  mkCell tResult 1 s.fabric.epoch true last dst s.fabric.plan.selfFa (dTag d) (pealTs (dPeal d) round cell (dResFmt d) side) payload

/-- The payload of a close cell (R180). -/
def closeBody (s : State) (step cells : Nat) (sat nan inf : Bool) (loss : Nat) : Bytes :=
  toLE 8 step ++ toLE 4 cells ++ [BitVec.ofNat 8 (b2n sat + 2 * b2n nan + 4 * b2n inf + 8 * s.side)] ++ zeros 3 ++ toLE 8 loss

/-! Catch-up (R287, R293). -/

/-- The 32-bit words of a byte string. -/
def words32 (b : Bytes) (n : Nat) : List W32 := (List.range n).map fun i => BitVec.ofNat 32 (le b (4 * i) 4)

/-- The image of a list of masters in RES_FMT (R287), part q: payload and SIDE. -/
def imagePart (d : BitVec 512) (q : Nat) (ms : List W32) : Bytes × Nat :=
  let (b, sd, _) := encodePart (dFmt d) (dResFmt d) 0 q (ms.map fval)
  (b, sd)

/-- The members catch-up is due to at this opening. (DEDUCED, log entry 86). -/
def dueMembers (s : State) (pl : Peal) : List Nat :=
  if !isUpdate pl.desc then []
  else if pl.catchAll then receivers s pl.desc
  else (receivers s pl.desc).filter fun m => pl.due.contains m

/-- Send catch-up to a member: the image of MASTER in SHARD_P of every position homed here, then the catch-up close cell. (DEDUCED, log entry 86). -/
def sendCatchup (p m : Nat) (s : State) : Sent × State :=
  let pl := s.peal p
  let d := pl.desc
  let k := dShard d
  let e := elems d
  let xs := ((homeChunks s pl).map fun c => (chunkCells d c).map fun x => (c, x)).flatten
  let parts := List.range (partsOf (dFmt d) (dResFmt d))
  let one (a : Sent × State) (cx : Nat × Nat) : Sent × State :=
    let s := a.2
    let ms := words32 (sliceRead s k (s.shard k).live cx.2 0 (4 * e)) e
    let s := sliceServed false false k (s.shard k).live cx.2 0 (4 * e) s
    parts.foldl (fun a q =>
      let (b, sd) := imagePart d q ms
      let (r, s) := sendToMember (homeBlock d cx.2) p m (resultCell a.2 d pl.round cx.2 sd false b) (bumpN 0x08 k 6 1 a.2)
      (a.1.join r, s)) (a.1, s)
  let (a, s) := xs.foldl one ({}, s)
  let n := xs.length * parts.length
  let (b, s) := sendToMember (pealBlock d) p m (resultCell s d pl.round 0xFFFFFE 0 true (closeBody s pl.step n false false false 0)) s
  (a.join b, s)

/-! Voids (R184 to R188). -/

/-- Causes that always hold (R184). -/
def alwaysHolds (c : Nat) : Bool := [3, 4, 6, 12, 13].contains c

/-- A PEAL_VOID cell to a member (R185). -/
def voidCell (s : State) (pl : Peal) (cause : Nat) (hold : Bool) (member : Option Nat) (fa : Nat) : Cell :=
  mkCell tVoid 1 s.fabric.epoch false false fa s.fabric.plan.selfFa (dTag pl.desc) (pealTs (dPeal pl.desc) pl.round 0 0 0)
    (toLE 8 pl.step ++ [BitVec.ofNat 8 cause, BitVec.ofNat 8 (if hold then 4 else (pl.round + 1) % 4)] ++ zeros 2
      ++ toLE 4 (if cause = 3 ∨ cause = 4 then member.getD 0xFFFFFFFF else 0xFFFFFFFF))

/-! The event queue of a core (R226, R228, R237). -/

/-- Every ON_CONTRIB and ON_CHUNK invocation of the round has ended on every core of the peal at this chip. -/
def chunksRan (s : State) (pl : Peal) : Bool :=
  (homeChunks s pl).all fun c => match pl.chunks.look? c with | some ch => ch.complete && (chunkCells pl.desc c).all ch.ended.contains | none => false

/-- Events of a peal that wait for a core or run on it beside its contributions: one for each complete chunk with a row whose ON_CHUNK has not
ended, one for its step end. (DESIGN CHOICE, log entry 59). -/
def pealEvents (s : State) (core : Nat) (pl : Peal) : Nat :=
  let mine (c : Nat) : Bool := coreOf s pl.desc c == core
  let rows := (pl.chunks.filter fun e => e.2.complete && mine e.1 && !(chunkCells pl.desc e.1).all e.2.ended.contains).length
  let steps := if isUpdate pl.desc then (homeChunks s pl).any fun c => mine c && !(chunkCells pl.desc c).all pl.ended.contains
    else (userEntry s (dProgram pl.desc) 2).isSome && (homeCores s pl).contains core && !pl.ended.contains core
  if !pl.isOpen then 0 else rows + b2n (steps && chunksRan s pl)

/-- The events in a core's event queue (R226): contributions for ON_CONTRIB, chunks, step ends and voids. (DESIGN CHOICE, log entry 59). -/
def coreEvents (s : State) (core : Nat) : Nat :=
  (s.core core).queue.length + (s.core core).voids.length + (s.peals.map fun e => pealEvents s core e.2).foldl (· + ·) 0

/-- A core's event queue is full (R226). -/
def eventsFull (s : State) (core : Nat) : Bool := decide (64 ≤ coreEvents s core)

/-- A peal has no ON_VOID due on a core (R237). (DEDUCED, log entry 65). -/
def noVoid (s : State) (core p : Nat) : Bool := (s.core core).voids.all fun v => v.1 != p

/-- What a void or a retire does to the cores of a peal (R217, R237): running invocations are abandoned, an ON_VOID among them, queued events
and ring entries dropped. A void makes ON_VOID due on every core that homes a chunk, when the program has one; a retire drops those still
due. -/
def clearCores (p cause : Nat) (void : Bool) (s : State) : State :=
  let pl := s.peal p
  let due := if void && (userEntry s (dProgram pl.desc) 3).isSome then homeCores s pl else []
  let s := forAll s.spine.cores.keys s fun s c =>
    let k := s.core c
    let hit := match k.inv with | some i => i.peal == p | none => false
    let old := match k.inv with | some i => (if i.peal = p ∧ i.entry = 3 then k.voids.find? (·.1 == p) else none) | none => none
    let s := if hit then bump 0x06 c 6 s else s
    s.modCore c fun k => { k with
      inv := if hit then none else k.inv
      ring := k.ring.filter fun u => u.peal != p
      queue := k.queue.filter fun q => q.1 != p
      voids := if void then (match old with | some v => k.voids.erase v | none => k.voids) else k.voids.filter fun v => v.1 != p }
  forAll due s fun s c => s.modCore c fun k => { k with voids := k.voids ++ [(p, cause, pl.round, pl.step)] }

/-- Drop what a round holds (R185): open chunks, rows, parked cells, results not yet released. -/
def Peal.dropRound (q : Peal) : Peal :=
  { q with isOpen := false, chunks := [], wins := [], spotRows := [], outs := [], closers := [], ended := [], landed := [], mirEnded := [], linkNew := []
           sat := false, nan := false, inf := false, loss := 0, agreed := false }

/-- Count inputs lost in the chunks a round leaves incomplete (R225): those of a complete chunk were counted as it completed. -/
def countLoss (p : Nat) (s : State) : State :=
  let open_ := (s.peal p).chunks.filter fun e => !e.2.complete
  bumpPeal p 31 ((open_.map fun e => (e.2.rows.map (·.2.loss)).foldl (· + ·) 0).foldl (· + ·) 0) s

/-! What delays an opening (R183, R276), counted by R194 and R297. -/

/-- The guard of the ROUND value (R183). -/
def guardMet (s : State) (pl : Peal) : Bool :=
  match pl.openAt.look? pl.round with | some t => decide (t + dWatchdogMs pl.desc * 1000000 ≤ s.now) | none => true

/-- STEP_PARAMS of the round's step is held (R276). -/
def paramsMet (pl : Peal) : Bool := !isUpdate pl.desc || (paramsOf pl pl.step).isSome

/-- The commit the opening needs has been made, on the twin too (R276). -/
def commitMet (s : State) (pl : Peal) : Bool :=
  let sh := s.shard (dShard pl.desc)
  !(isUpdate pl.desc && sh.pending && !pl.wasAdmitted) || (sh.committed && (!pairedFor s pl || pl.twinCommit == some sh.pendStep))

/-- Book the time a delay has lasted: ROUND_DELAY_US, PARAMS_WAIT_US or COMMIT_WAIT_US. -/
def bookWait (p why ns : Nat) (s : State) : State :=
  match why with
  | 0 => bumpPeal p 30 (ns / 1000) s
  | 1 => bumpN 0x08 (dShard (s.peal p).desc) 0 (ns / 1000) s
  | _ => bumpN 0x08 (dShard (s.peal p).desc) 1 (ns / 1000) s

/-- A reason delays the opening no longer. -/
def waitOver (s : State) (pl : Peal) (why : Nat) : Bool :=
  match why with | 0 => guardMet s pl | 1 => paramsMet pl | _ => commitMet s pl

/-- Book the delays of an opening that are over, or all of them (`all`) when the opening itself is. The guard ends when its time has passed,
whenever that is looked at. -/
def endWaits (all : Bool) (p : Nat) (s : State) : State :=
  let pl := s.peal p
  let gone := pl.waits.filter fun e => all || waitOver s pl e.1
  let until_ (why : Nat) : Nat :=
    if why = 0 then (match pl.openAt.look? pl.round with | some t => min s.now (t + dWatchdogMs pl.desc * 1000000) | none => s.now) else s.now
  forAll gone (s.modPeal p fun q => { q with waits := q.waits.filter fun e => !(gone.any fun g => g.1 == e.1) }) fun s e =>
    bookWait p e.1 (until_ e.1 - e.2) s

/-- Void the round of a peal and leave it VOIDED, held or not (R174, R175, R185): every cause is counted, the lowest is
recorded. -/
def voidCore (causes : List Nat) (hold : Bool) (member : Option Nat) (remote : Bool) (p : Nat) (s : State) : State :=
  let pl := s.peal p
  let cause := minOf 14 causes
  let s := forAll causes s fun s c => bumpPeal p (14 + c) 1 s
  let s := clearCores p cause true (endWaits true p (countLoss p s))
  let s := s.modPeal p fun q => { q.dropRound with
    st := .voided, cause := cause, waiting := false, ready := false
    twinReady := q.twinReady.filter fun t => t.1 != pl.round }
  let s := forAll (List.range (dMembers pl.desc)) s fun s m =>
    let e := memberEnt s pl.desc m
    if mFenced e || !mValid e then s else sendCell (pealBlock pl.desc) (voidCell s pl cause hold member (mFa e)) s
  if pairedFor s pl && !remote then sendRoundCtl pl 1 pl.round cause hold pl.step 0 s else s

/-- A void holds: one of its causes always does, it was asked to, or the shard is LOST (R296). (DEDUCED, log entry 64). -/
def voidHolds (s : State) (pl : Peal) (causes : List Nat) (hold : Bool) : Bool :=
  hold || causes.any alwaysHolds || (isUpdate pl.desc && (s.shard (dShard pl.desc)).st == .lost)
    || decide (dMaxReplay pl.desc ≤ pl.replays)

/-- Post PEAL_HELD (R187). -/
def postHeld (p : Nat) (s : State) : State :=
  let pl := s.peal p
  postEvent 0x3004 (zeros 2 ++ toLE 2 p ++ [BitVec.ofNat 8 pl.cause] ++ zeros 3 ++ toLE 4 pl.step) s

/-- Void and hold. -/
def voidHeld (causes : List Nat) (member : Option Nat) (p : Nat) (s : State) : State := postHeld p (voidCore causes true member false p s)

/-! Round openings (R182, R183, R276). -/

/-- A round is open, being opened or sealed: what a void acts on. -/
def roundLive (pl : Peal) : Bool := pl.st == .armed || pl.st == .running || pl.st == .sealed

/-- Why an opening must wait (R183, R276, R306): 0 the guard of the ROUND value, 1 STEP_PARAMS, 2 the commit, 3 the shard, the
pair or a rebuild, 4 the twin, 5 the twin's parameters differ. (DEDUCED, log entry 68). -/
def waitReason (s : State) (pl : Peal) : Option Nat :=
  let d := pl.desc
  let sh := s.shard (dShard d)
  let pair := !dTwinned d || (match s.twin.st with | .paired => true | .syncing => pl.joined || s.twin.tookOver || s.twin.rebuild | .solo => s.twin.tookOver | _ => false)
  firstOf [
    need (guardMet s pl) 0,
    need (paramsMet pl) 1,
    need (commitMet s pl) 2,
    need (pair && !(isUpdate d && (sh.st == .lost || !sh.badSlices.isEmpty))) 3,
    (if pairedFor s pl && !pl.heldRebuild then
      match pl.twinReady with
      | none => some 4
      | some (r, st, c) => if r ≠ pl.round ∨ st ≠ pl.step then some 4 else need (s.side == 1 || pl.rejoins || !isUpdate d || c == paramsCrc pl) 5
    else none)]

/-- Commit the pending step at an opening (R276). -/
def applyCommit (k : Nat) (s : State) : State :=
  s.modShard k fun sh => if sh.pending && sh.committed then
    { sh with live := 1 - sh.live, pending := false, committed := false, step := BitVec.ofNat 64 sh.pendStep, train := BitVec.ofNat 64 sh.pendTrain } else sh

/-- The opening proper: windows, chunks, commit, program store, catch-up and WINDOWs in the order of R276; answers what sending
them met. -/
def openCore (p : Nat) (s : State) : Sent × State :=
  let pl := s.peal p
  let d := pl.desc
  let s := endWaits true p s
  let due := dueMembers s pl
  let owing := (contributors s d).filter fun m => decide (nextOwed s pl m [] 0 < dStepCells d)
  let s := s.modPeal p fun q => { q.dropRound with
    isOpen := true, waiting := false, wasAdmitted := false, ready := false, twinReady := none, heldRebuild := false, rejoins := false, mismatch := false
    openAt := q.openAt.put q.round s.now
    params := q.params.filter fun e => decide (q.step ≤ e.1)
    nextOpen := nextHome s pl 0
    wins := owing.foldl (fun t m => t.put m { ack := nextOwed s pl m [] 0, heardAt := s.now }) []
    due := [], catchAll := false, fasOpen := q.fas, opened := some q.step }
  let s := if isUpdate d then
      let s := applyCommit (dShard d) s
      let s := clearResidues (dShard d) (nBank (s.shard (dShard d))) s
      let s := s.modTwin fun t => { t with mine := t.mine.del (dShard d), theirs := t.theirs.del (dShard d) }
      forAll (dRegions d) s fun s r => s.modMem fun m => { m with pstore := m.pstore.clear (pstoreAddr p r 0) 256 }
    else s
  let s := openChunks p (chunkCount d) s
  let (a, s) := due.foldl (fun a m => let (b, s) := sendCatchup p m a.2; (a.1.join b, s)) (({} : Sent), s)
  let (f, s) := sendWindows p owing s
  ({ a with fenced := a.fenced ++ f }, s)

/-- Void for what sending met: fenced members first get their bit (R188). -/
def voidSent (a : Sent) (p : Nat) (s : State) : State :=
  let d := (s.peal p).desc
  let s := forAll a.fenced s fun s m => setFenced d m s
  if !roundLive (s.peal p) then s
  else
    let causes := (if a.fenced.isEmpty then [] else [3]) ++ (if a.lost then [4] else [])
    if causes.isEmpty then s else voidHeld causes (if a.fenced.isEmpty then a.member else a.fenced.head?) p s

/-! Sealing (R174, R180). -/

/-- Every ON_STEP_END invocation of the round at this chip has ended (R235, R308). -/
def stepEndsDone (s : State) (pl : Peal) : Bool :=
  let d := pl.desc
  if isUpdate d then
    (List.range (chunkCount d)).all fun c => (chunkCells d c).all fun x =>
      if isHome s pl c then pl.ended.contains x else !pairedFor s pl || pl.mirEnded.contains x
  else (userEntry s (dProgram d) 2).isNone || (homeCores s pl).all pl.ended.contains

/-- Every chunk of this home has had its results released. -/
def allSent (s : State) (pl : Peal) : Bool := (homeChunks s pl).all fun c => (pl.chunks.look c {}).sent

/-- Close cells go out and the peal is SEALED (R180). -/
def sealRound (p : Nat) (s : State) : State :=
  let pl := s.peal p
  let d := pl.desc
  let rs := if dResMode d = 0 then receivers s d else []
  let close (m : Nat) (n : Nat) (dst : Nat) : Cell :=
    mkCell tResult 1 s.fabric.epoch true true dst s.fabric.plan.selfFa (dTag d) (pealTs p pl.round 0xFFFFFF (dResFmt d) 0)
      (closeBody s pl.step (pl.closers.look m n) pl.sat pl.nan pl.inf pl.loss)
  let s := s.modPeal p fun q => { q with st := .sealed, closeAt := s.now, replays := 0, linkStep := some q.step, linkRes := q.linkNew }
  let (a, s) := if dResMode d = 0 then
      rs.foldl (fun a m => let (b, s) := sendToMember (pealBlock d) p m (close m 0) a.2; (a.1.join b, s)) (({} : Sent), s)
    else sendResult (pealBlock d) p [] (close 1048576 0) s
  voidSent a p (bumpPeal p 10 a.count s)

/-- Seal the round once nothing of it is left to do. -/
def trySeal (p : Nat) (s : State) : State :=
  let pl := s.peal p
  if pl.isOpen && (pl.st == .running || pl.st == .armed && (homeChunks s pl).isEmpty) && allSent s pl && stepEndsDone s pl then sealRound p s else s

/-- Open the round now; side 0, or a survivor, tells the twin, but for a round the survivor has opened for it. -/
def openRound (p : Nat) (s : State) : State :=
  let pl := s.peal p
  let s := if pairedFor s pl && (s.side == 0 && !pl.rejoins || pl.heldRebuild) then sendRoundCtl pl 0 pl.round 0 false pl.step (paramsCrc pl) s else s
  let (a, s) := openCore p s
  trySeal p (voidSent a p s)

/-! Rebuild (R314). -/

/-- The twinned peals still to copy: those with a shard by SHARD_ID, then the others by PEAL. -/
def rebuildOrder (s : State) : List Nat :=
  let open_ := s.peals.filter fun e => dTwinned e.2.desc && !e.2.joined && e.2.st != .free && e.2.st != .retiring
  let withShard := (open_.filter fun e => isUpdate e.2.desc).foldl (fun (t : Tbl Nat) e => t.put (dShard e.2.desc) e.1) []
  withShard.map (·.2) ++ ((open_.filter fun e => !isUpdate e.2.desc).map (·.1))

/-- COPY_CTL (R302): 0 BEGIN, 1 END, 2 ABORT, 3 COPIED. -/
def sendCopyCtl (k action : Nat) (s : State) : State :=
  let sh := s.shard k
  sendTwin 0x0D 0 (shTag sh.desc) (toLE 2 k ++ toLE 1 action ++ toLE 1 sh.live ++ zeros 4 ++ toLE 8 sh.step.toNat ++ toLE 8 sh.train.toNat) [] s

/-- The region whose channels hold the start of a slice (R319). -/
def sliceDie (s : State) (k bank x : Nat) : Nat := extentChan (s.shard k).start bank (sliceBytes (s.shard k).desc * x / 2097152) / 32

/-- COPY_DATA of one slice (R302): PURPOSE 0 rebuild, 1 repair. -/
def sendCopyData (k bank purpose x : Nat) (s : State) : State :=
  let d := (s.shard k).desc
  let b := sliceRead s k bank x 0 (sliceBytes d)
  let s := (sliceServed false false k bank x 0 b.length s).modTwin fun t => { t with moved := if purpose = 0 then t.moved + b.length else t.moved }
  sendTwinFrom (some (sliceDie s k bank x)) 0x0C 4 (shTag d) (toLE 2 k ++ toLE 1 bank ++ toLE 1 purpose ++ toLE 4 x ++ toLE 4 1 ++ toLE 4 (crc32c b)) b s

/-- The survivor holds an opening and copies the peal's shard (step 1 of R314); a commit that is due is applied first, so that
LIVE_BANK is the state the round will read. -/
def startCopy (p : Nat) (s : State) : State :=
  let pl := s.peal p
  let k := dShard pl.desc
  let has := isUpdate pl.desc
  let s := s.modPeal p fun q => { q with heldRebuild := true }
  let s := s.modTwin fun t => { t with copying := some ⟨p, if has then some k else none, s.now⟩ }
  if !has then s
  else
    let s := sendCopyCtl k 0 (applyCommit k s)
    let s := forAll (List.range (shCells (s.shard k).desc)) s fun s x => sendCopyData k (s.shard k).live 0 x s
    sendCopyCtl k 3 s

/-- Open a round if nothing keeps it waiting; otherwise note why, tell side 0 that side 1 is ready, or count a mismatch (R276,
R314). (DEDUCED, log entry 68). -/
def tryOpen (p : Nat) (s : State) : State :=
  let pl := s.peal p
  if pl.st != .armed || pl.isOpen || !pl.waiting then s
  else
    let s := endWaits false p s
    let pl := s.peal p
    match waitReason s pl with
    | none =>
      if s.twin.rebuild && s.twin.st == .syncing && dTwinned pl.desc && !pl.joined then
        if pl.heldRebuild then s
        else if s.twin.copying.isNone && (rebuildOrder s).head? == some p then startCopy p s
        else openRound p s
      else openRound p s
    | some 4 =>
      if s.side = 1 ∧ !pl.ready ∧ !pl.rejoins then
        (sendRoundCtl pl 0 pl.round 0 false pl.step (paramsCrc pl) s).modPeal p fun q => { q with ready := true }
      else s
    | some 5 =>
      if pl.mismatch then s
      else
        let s := s.modPeal p fun q => { q with mismatch := true }
        postEvent 0x400F (zeros 2 ++ toLE 2 p ++ toLE 8 pl.step) (bump 0x08 (dShard pl.desc) 2 s)
    | some _ => s

/-- The peal becomes ARMED and its next round is to be opened, with this ROUND value. -/
def armNext (p round : Nat) (s : State) : State :=
  let s := s.modPeal p fun q => { q with st := .armed, isOpen := false, waiting := true, round := round }
  let pl := s.peal p
  tryOpen p (s.modPeal p fun q => { q with waits := (([0, 1, 2].filter fun w => !waitOver s pl w).map fun w => (w, s.now)) })

/-- Void the round of a peal (R184, R185) and replay it or hold it (R187). (DEDUCED, log entry 64). -/
def voidPeal (causes : List Nat) (hold : Bool) (member : Option Nat) (remote : Bool) (p : Nat) (s : State) : State :=
  let pl := s.peal p
  if !roundLive pl || causes.isEmpty then s
  else
    let held := voidHolds s pl causes hold
    let s := voidCore causes held member remote p s
    if held then postHeld p s
    else armNext p ((pl.round + 1) % 4) (bumpPeal p 29 1 (s.modPeal p fun q => { q with replays := q.replays + 1 }))

/-- The part voids for a cause of its own. -/
def voidFor (cause p : Nat) (s : State) : State := voidPeal [cause] false none false p s

/-- Act on result copies that this chip's switching core has discarded (R188): COPIES_REMOVED, and cause 4 for the open round
when a receiver lies behind the copy. -/
def settleLost (s : State) : State :=
  let cs := s.spine.lost
  let s := if cs.isEmpty then s else s.modSpine fun x => { x with lost := [] }
  forAll cs s fun s c =>
    let p := c.flow
    let pl := s.peal p
    if pl.st == .free || pl.st == .retiring || dTag pl.desc ≠ c.tag then s
    else
      let s := bumpPeal p 11 1 s
      let dst := c.dst
      let uni := dResMode pl.desc == 0 || (receivers s pl.desc).any fun m => mFa (memberEnt s pl.desc m) == dst
      let hit := if uni then (receivers s pl.desc).filter fun m => mFa (memberEnt s pl.desc m) == dst
        else behind s pl.desc (if dst / 4096 = s.ownGroup then 1 else 0) dst
      if hit.isEmpty || !roundLive pl || pl.round ≠ c.round then s
      else voidPeal [4] true hit.head? false p s

/-! Homes that are fenced or taken over (R15, R174). -/

/-- A home region was fenced with no twin to take its homes: the peal is VOIDED, held with cause REGION_FENCED; without an
open round no PEAL_VOID cells are sent. `more` are causes that coincide with it (R175). -/
def holdFenced (more : List Nat) (p : Nat) (s : State) : State :=
  let pl := s.peal p
  match pl.st with
  | .free | .retiring => s
  | .admitted | .voided => postHeld p (s.modPeal p fun q => { q with st := .voided, cause := 13 })
  | _ => (voidPeal (more ++ [13]) true none false p s).modPeal p fun q => { q with cause := 13 }

end Sys2Proof.Machine
end

