-- ==== Sys2Proof/Machine/Pools.lean ====
section
/-! DEFINITION. Machine/Pools.lean: where pool allocations lie in LPDDR and what capacity is reserved (R190, R319 to R323). -/
namespace Sys2Proof.Machine

/-- Bytes of an extent. -/
def extentBytes : Nat := 2097152

/-- Extents of one bank of a shard. -/
def shardExtents (d : BitVec 512) : Nat := ceilDiv (sliceBytes d * shCells d) extentBytes

/-- How many of a bank's first `n` extents lie in a region. (DEDUCED, log entry 12). -/
def bankOn (start bank n r : Nat) : Nat := 32 * (n / 128) + ((List.range (n % 128)).filter fun i => extentChan start bank i / 32 == r).length

/-- How many of a bank's first `n` extents lie on a channel. -/
def bankChan (start bank n c : Nat) : Nat := n / 128 + ((List.range (n % 128)).filter fun i => extentChan start bank i == c).length

/-- Extents of both banks of a shard in a region. -/
def shardOn (start n r : Nat) : Nat := bankOn start 0 n r + bankOn start 1 n r

/-- Extents of a region-local allocation on a channel of its region. -/
def localOn (pool key n c : Nat) : Nat := n / 32 + b2n (decide ((c % 32 + 32 - poolStart pool key) % 32 < n % 32))

/-- The MEMBER bytes of a peal (R190). -/
def memberBytes (d : BitVec 512) : Nat := dMembers d * (48 + 2 ^ dWinLog2 d / 8)

/-- The lowest region of a peal. -/
def lowRegion (d : BitVec 512) : Nat := (dRegions d).headD 0

/-- B of R190: bytes of the peal store for one cell position. -/
def rowSpace (d : BitVec 512) : Nat := if isCopy d then 96 else 32 + elems d * (accW d / 8)

/-- S_r of R190, in granules of 64 KiB, for a program with a store window of `win` bytes. -/
def granulesFor (d : BitVec 512) (win : Nat) : Nat := ceilDiv (dSlots d * 2 ^ dChunkLog2 d * rowSpace d + win) 65536

/-- A pool's reservation by peals: SPILL of spilled ones. -/
def spillBytes (pl : Peal) (r : Nat) : Nat := if pl.spilled && bit (dRegionMask pl.desc) r then granulesFor pl.desc pl.storeWin * 65536 else 0

/-- A sum over a list. -/
def sumOf {α : Type} (l : List α) (f : α → Nat) : Nat := l.foldl (fun a x => a + f x) 0

/-- The peals that hold reservations. -/
def heldPeals (s : State) : List Peal := (s.peals.map (·.2)).filter fun q => q.st != .free

/-- The shards that hold reservations. -/
def heldShards (s : State) : List (Nat × Shard) := s.spine.shards.filter fun e => e.2.st != .free

/-- STASH extents of a circuit port's schedule. -/
def stashExtents (c : Circ) : Nat := match c.sched with | some sc => (sc.stashMib - c.lost) / 2 | none => 0

/-- Extents each pool holds in a region; RESIDENT and MIRROR together under 0. -/
def poolOn (s : State) (pool r : Nat) : Nat :=
  match pool with
  | 0 => sumOf (heldShards s) fun e => shardOn e.2.start (shardExtents e.2.desc) r
  | 2 => sumOf (s.circ.filter fun e => regionOfPort e.1 == r) fun e => stashExtents e.2
  | 3 => sumOf (heldPeals s) fun q => ceilDiv (spillBytes q r) extentBytes
  | 4 => 32 + sumOf ((heldPeals s).filter fun q => lowRegion q.desc == r) fun q => ceilDiv (memberBytes q.desc) extentBytes
  | 5 => 32
  | _ => 0

/-- Extents that lie on a channel as they were placed (R319): both banks of the shards; the stashes, the SPILL and the MEMBER allocations of its
region, each rotating on its own; one of the member-table replica and one of the ledger cache. (DEDUCED, log entry 97). -/
def chanExtents (s : State) (c : Nat) : Nat :=
  let r := c / 32
  sumOf (heldShards s) (fun e => let n := shardExtents e.2.desc; bankChan e.2.start 0 n c + bankChan e.2.start 1 n c)
    + sumOf (s.circ.filter fun e => regionOfPort e.1 == r) (fun e => localOn 2 e.1 (stashExtents e.2) c)
    + sumOf s.peals (fun e => if e.2.st == .free then 0 else
        localOn 3 e.1 (ceilDiv (spillBytes e.2 r) extentBytes) c
          + if lowRegion e.2.desc == r then localOn 4 e.1 (ceilDiv (memberBytes e.2.desc) extentBytes) c else 0)
    + 2

/-- Extents in use in a region. -/
def regionUsed (s : State) (r : Nat) : Nat := sumOf [0, 2, 3, 4, 5] fun p => poolOn s p r

/-- Frames a channel has retired: kept in the ledger of its region's die (R330). -/
def retiredFrames (s : State) (c : Nat) : List Nat := (s.ledger (c / 32)).frames.look c []

/-- Usable frames of a region: the channels that serve requests (R321) less their retired frames. -/
def regionFrames (s : State) (r : Nat) : Nat :=
  sumOf ((List.range 32).map (32 * r + ·)) fun c => if chanLive s c then 4194304 - (retiredFrames s c).length else 0

/-- A free frame exists anywhere (R330). -/
def anyFrame (s : State) : Bool := [0, 1, 2, 3].any fun r => decide (512 * regionUsed s r < regionFrames s r)

/-- More extents in a region leave it 8,192 free frames (R322). -/
def roomIn (s : State) (r n : Nat) : Bool := n == 0 || decide (512 * (regionUsed s r + n) + 8192 ≤ regionFrames s r)

/-- Bytes a pool has reserved, chip-wide (R320: a twinned shard is booked half to each pool). -/
def poolBytes (s : State) (pool : Nat) : Nat :=
  match pool with
  | 0 => sumOf (heldShards s) fun e => 2 * (sliceBytes e.2.desc * shCells e.2.desc) / (if shTwinned e.2.desc then 2 else 1)
  | 1 => sumOf (heldShards s) fun e => if shTwinned e.2.desc then sliceBytes e.2.desc * shCells e.2.desc else 0
  | 2 => sumOf s.circ fun e => stashExtents e.2 * extentBytes
  | 3 => sumOf [0, 1, 2, 3] fun r => sumOf (heldPeals s) fun q => spillBytes q r
  | 4 => 4 * 67108864 + sumOf (heldPeals s) fun q => memberBytes q.desc
  | 5 => 4 * 67108864
  | _ => 0

/-- CAP_GIB of a pool, as published in the pool table. -/
def capGib (s : State) (pool : Nat) : Nat := s.tblN (wPool + 32 + 32 * pool + 4) 4

/-- A pool can take more bytes under its cap. -/
def capOk (s : State) (pool n : Nat) : Bool := n == 0 || decide (poolBytes s pool + n ≤ capGib s pool * 1073741824)

/-- RESERVED_MIB of a pool, rounded up (R323). -/
def reservedMib (s : State) (pool : Nat) : Nat := ceilDiv (poolBytes s pool) 1048576

/-- REGION_MIB of a pool in a region (R323). -/
def regionMib (s : State) (pool r : Nat) : Nat :=
  if pool ≤ 1 then
    sumOf (heldShards s) fun e =>
      let n := shardOn e.2.start (shardExtents e.2.desc) r
      if shTwinned e.2.desc then n else if pool = 0 then 2 * n else 0
  else 2 * poolOn s pool r

end Sys2Proof.Machine
end

