-- ==== Sys2Proof/Machine/Clock.lean ====
section
/-! DEFINITION. Machine/Clock.lean: the selection of the time source and the transitions it causes (R360 to R362), and the servo's writes (R359, R364). -/
namespace Sys2Proof.Machine

/-- Count in the TIME section. -/
def bumpTime (idx : Nat) (s : State) : State := bump 0x0D 0 idx s

/-- Move to a time state: chip-level event, and the counts of what the transition means (R361). (DEDUCED, log entry 112). -/
def timeTo (st : TState) (s : State) : State :=
  let before := s.time.st
  let s := s.modTime fun t => { t with st := st, since := if before = st then t.since else s.now, good20 := 0, good100 := 0, bad100 := 0 }
  let s := match before, st with
    | .holdover, .holdover => s
    | _, .holdover => bumpTime 4 s
    | .drifting, .drifting => s
    | .locked, .drifting => bumpTime 5 s
    | .holdover, .drifting => bumpTime 5 s
    | _, _ => s
  postEvent 0x4010 [BitVec.ofNat 8 before.code, BitVec.ofNat 8 st.code, BitVec.ofNat 8 s.time.src] s

/-- A source of order 2 to 4 is enabled and selectable (R362): 2 PPS_IN, 3 PTP, 4 LOCAL. -/
def ownSource (t : Time) : Option Nat :=
  if bit t.mask 1 && t.ppsOk && t.ppsTod.isSome then some 2
  else if bit t.mask 2 && t.ptp.isSome then some 3
  else if bit t.mask 3 && t.localOk then some 4
  else none

/-- One grandmaster ranks better than another: priority, then identity, lower first. -/
def ranks (a b : Nat × W64) : Bool := decide (a.1 < b.1) || (a.1 == b.1 && decide (a.2.toNat < b.2.toNat))

/-- A port's neighbour can be the PEER source (R362). -/
def peerOk (s : State) (p : Nat) : Bool :=
  match (s.port p).ann with
  | none => false
  | some a =>
    !isWelt p && s.live p && decide (s.now ≤ a.at_ + 300000) && (a.tstate == 2 || a.tstate == 3) && decide (a.steps ≤ 14)
      && a.gm != s.hubId && a.parent != s.hubId && ((ownSource s.time).isNone || ranks (a.prio, a.gm) (s.time.prio, s.hubId))

/-- The order among eligible peers: grandmaster, steps, neighbour, port. -/
def peerBetter (a b : Announce × Nat) : Bool :=
  if a.1.prio != b.1.prio then decide (a.1.prio < b.1.prio)
  else if a.1.gm != b.1.gm then decide (a.1.gm.toNat < b.1.gm.toNat)
  else if a.1.steps != b.1.steps then decide (a.1.steps < b.1.steps)
  else if a.1.chip != b.1.chip then decide (a.1.chip.toNat < b.1.chip.toNat)
  else decide (a.2 < b.2)

/-- The best peer port. -/
def bestPeer (s : State) : Option Nat :=
  let cs := (s.ports.keys.filter (peerOk s)).filterMap fun p => (s.port p).ann.map fun a => (a, p)
  (cs.foldl (fun (b : Option (Announce × Nat)) c => match b with | some x => if peerBetter c x then some c else b | none => some c) none).map (·.2)

/-- The source R362 selects now, and the port of a peer. (DEDUCED, log entry 107). -/
def chooseSource (s : State) : Nat × Option Nat :=
  match (if bit s.time.mask 0 then bestPeer s else none) with
  | some p => (1, some p)
  | none => ((ownSource s.time).getD 0, none)

/-- The grandmaster this chip follows: its upstream's, itself, or the one it followed last. (DEDUCED, log entry 111). -/
def gmNow (s : State) : Gm :=
  match s.time.src, s.time.port.bind fun p => (s.port p).ann with
  | 1, some a => { id := a.gm, prio := a.prio, source := a.source, steps := a.steps + 1, parent := a.chip }
  | 0, _ => s.time.gm
  | 1, none => s.time.gm
  | k, _ => { id := s.hubId, prio := s.time.prio, source := k }

/-- Write RATE at the present count (R359): OFFSET takes up what the change would move. -/
def setRate (r : Int) (s : State) : State :=
  s.modTime fun t => { t with rate := r, offset := signed (twos (t.offset - rneDiv ((s.now : Int) * (r - t.rate)) (2 ^ 32)) 80) 80 }

/-- Clamp to ±m. -/
def clampTo (m x : Int) : Int := max (-m) (min m x)

/-- Reselect the source (R361, R362): f is kept, OFFSET is never stepped. (DEDUCED, log entry 107). (DEDUCED, log entry 112). -/
def reselect (s : State) : State :=
  let (k, p) := chooseSource s
  let t := s.time
  if t.src = k ∧ t.port = p then s
  else
    let old := gmNow s
    let s := if t.src ≠ 0 ∧ k ≠ 0 then bumpTime 3 s else s
    let s := s.modTime fun t => { t with src := k, port := p, gm := old, lastAt := none, samples := [], good20 := 0, good100 := 0, bad100 := 0 }
    match t.st with
    | .free => if k ≠ 0 then timeTo .acquiring s else s
    | .acquiring => if k = 0 then timeTo .free s else s
    | .locked => if k ≠ 0 then timeTo .locked s else setRate t.f (timeTo .holdover s)
    | _ => s

end Sys2Proof.Machine
end

