-- ==== Sys2Proof/Machine/Pcs.lean ====
section
/-! DEFINITION. Machine/Pcs.lean: the bytes of a link block, the scrambled and framed superframe and its RS(544,514) codewords (R29 to R31, R36, R40). -/
namespace Sys2Proof.Machine

/-! Link blocks (R31, R36). -/

/-- The 84 bytes of a cell on the wire: header bit 127 first, payload, CRC-32C with its least significant byte first (R31). -/
def cellBytes (c : Cell) : Bytes := toBE 16 c.hdr.toNat ++ fit 64 c.payload ++ toLE 4 c.crc.toNat

/-- The IDLE cell: every header field but TYPE, and the payload, zero (R38). -/
def idleCell : Cell := (let c : Cell := { hdr := 0, payload := zeros 64, crc := 0 }; { c with crc := BitVec.ofNat 32 c.crcOf })

/-- The 1,360 bytes of a link block: slot s in bytes 84·s to 84·s + 83, the LCW in bytes 1,344 to 1,359 (R31). -/
def blockBytes (slots : List (Option Cell)) (lcw : BitVec 128) : Bytes :=
  fit 1344 (slots.map fun c => cellBytes (c.getD idleCell)).flatten ++ toBE 16 lcw.toNat

/-! Scrambling and transcoding (R30). -/

/-- The bits of a byte string, each byte most significant bit first (R31). -/
def bitStream (b : Bytes) : List Bool := (b.map fun x => (List.range 8).map fun i => bit x.toNat (7 - i)).flatten

/-- A number spelt by bits, the first most significant. -/
def natOfBits (l : List Bool) : Nat := l.foldl (fun n b => 2 * n + b2n b) 0

/-- One bit through the self-synchronous scrambler 1 + x^39 + x^58: what is sent is the bit plus what was sent 39 and 58 bits
before; `st` holds the last 58 bits sent, the latest lowest (R30). -/
def scrambleBit (st : Nat) (b : Bool) : Bool × Nat :=
  let o := (b != bit st 38) != bit st 57
  (o, (2 * st + b2n o) % 2 ^ 58)

/-- Bits through the scrambler. -/
def scramble (st : Nat) (l : List Bool) : List Bool × Nat :=
  l.foldl (fun a b => let (o, st) := scrambleBit a.2 b; (a.1 ++ [o], st)) ([], st)

/-- The bits of a scrambled stream as they were before it (R30). -/
def descramble (st : Nat) (l : List Bool) : List Bool × Nat :=
  l.foldl (fun a b => (a.1 ++ [(b != bit a.2 38) != bit a.2 57], (2 * a.2 + b2n b) % 2 ^ 58)) ([], st)

/-- A 257-bit transcoded block: the unscrambled framing bit, then a scrambled data block of 32 bytes (R30). -/
def transcode (frame : Bool) (data : Bytes) (st : Nat) : List Bool × Nat :=
  let (l, st) := scramble st (bitStream (fit 32 data))
  (frame :: l, st)

/-- `n` transcoded blocks of a superframe from block `k` on: the framing bit is 1 in the first block only (R30). -/
def transcodes : Nat → Nat → Bytes → Nat → List Bool × Nat
  | 0, _, _, st => ([], st)
  | n + 1, k, b, st =>
    let (l, st) := transcode (k == 0) (b.take 32) st
    let (t, st) := transcodes n (k + 1) (b.drop 32) st
    (l ++ t, st)

/-! RS(544,514) over GF(2^10) with the generator polynomial of Clause 91 (R29, R30). (PRESUMED, log entry 153). -/

/-- x times a field element, modulo x^10 + x^3 + 1. (PRESUMED, log entry 153). -/
def gfX (a : Nat) : Nat := if 512 ≤ a then (2 * a) ^^^ 0x409 else 2 * a

/-- The product of two field elements over the lowest `n` bits of the second. -/
def gfMul : Nat → Nat → Nat → Nat
  | 0, _, _ => 0
  | n + 1, a, b => (if b % 2 = 1 then a else 0) ^^^ gfMul n (gfX a) (b / 2)

/-- A polynomial, its highest coefficient first, times (x − r). -/
def polyTimes (r : Nat) (p : List Nat) : List Nat := List.zipWith (· ^^^ ·) (p ++ [0]) (0 :: p.map fun c => gfMul 10 c r)

/-- The generator polynomial: the product of (x − α^i) for i from 0 to 29, its highest coefficient first. (PRESUMED, log entry 153). -/
def rsGen : List Nat := ((List.range 30).foldl (fun (a : List Nat × Nat) _ => (polyTimes a.2 a.1, gfX a.2)) ([1], 1)).1

/-- One message symbol into the 30 parity registers. -/
def rsStep (g : List Nat) (reg : List Nat) (m : Nat) : List Nat :=
  let fb := m ^^^ nth reg 0
  List.zipWith (fun r c => r ^^^ gfMul 10 c fb) (reg.drop 1 ++ [0]) (g.drop 1)

/-- The 30 parity symbols of a message of 514 symbols. -/
def rsParity (ms : List Nat) : List Nat := ms.foldl (rsStep rsGen) (List.replicate 30 0)

/-- Ten bits as a symbol: the first bit sent is its bit 0. (PRESUMED, log entry 153). -/
def symbolOf (l : List Bool) : Nat := natOfBits l.reverse

/-- The bits of a symbol in the order sent. (PRESUMED, log entry 153). -/
def symbolBits (m : Nat) : List Bool := (List.range 10).map fun i => bit m i

/-- A list cut into `n` pieces of `k`. -/
def pieces {α : Type} (k : Nat) : Nat → List α → List (List α)
  | 0, _ => []
  | n + 1, l => l.take k :: pieces k n (l.drop k)

/-- The codeword of a message of 5,140 bits, the first bit sent most significant. -/
def codeword (msg : List Bool) : BitVec 5440 :=
  BitVec.ofNat 5440 (natOfBits (msg ++ ((rsParity ((pieces 10 514 msg).map symbolOf)).map symbolBits).flatten))

/-- The 17 codewords of a superframe of 10,880 bytes, twenty transcoded blocks each, and the scrambler after it (R30). -/
def superframe (b : Bytes) (st : Nat) : List (BitVec 5440) × Nat :=
  let (l, st) := transcodes 340 0 b st
  ((pieces 5140 17 l).map codeword, st)

/-- A lane sends the bytes of one link block: the eighth completes a superframe (R30). -/
def Lane.emit (b : Bytes) (l : Lane) : Lane :=
  let f := l.txFrame ++ b
  if f.length < 10880 then { l with txFrame := f }
  else
    let (w, st) := superframe (f.take 10880) l.scram
    { l with txFrame := f.drop 10880, scram := st, txWire := w }

/-! Where a slot lies in the codewords of a lane (R30, R31): a codeword carries 640 bytes, a link block 1,360. -/

/-- The last codeword, counted since lock, that slot `slot` of link block `blk` touches (slot 16: the LCW). -/
def lastCw (blk slot : Nat) : Nat := (1360 * blk + min 1359 (84 * slot + 83)) / 640

/-- The first codeword that slot touches. -/
def firstCw (blk slot : Nat) : Nat := (1360 * blk + 84 * slot) / 640

/-- The link block and the first slot that codeword `cw` touches. -/
def cwSlot (cw : Nat) : Nat × Nat := (640 * cw / 1360, 640 * cw % 1360 / 84)

/-! The link control word (R40). -/

/-- An LCW with its CRC16. `cr` are the eight cumulative credit counts. -/
def mkLcw (lsn ack : BitVec 16) (cr : List Nat) (nak refuse : Bool) (attempt pstate pos width : Nat) : BitVec 128 :=
  let v := place lsn.toNat 112 16 + place ack.toNat 96 16 + place (nth cr 0) 88 8
    + ((List.range 7).map fun i => place (nth cr (i + 1)) (80 - 8 * i) 8).foldl (· + ·) 0
    + place (b2n nak) 31 1 + place (b2n refuse) 30 1 + place attempt 27 3 + place pstate 24 3 + place pos 21 3 + place width 19 2
  BitVec.ofNat 128 (v + crc16Bits 0x1021 0xFFFF 112 (v / 65536))

end Sys2Proof.Machine
end

