-- ==== Sys2Proof/WellFormed.lean ====
section
/-! DEFINITION. WellFormed.lean: the operand ranges the manual gives the commands. -/
namespace Sys2Proof

/-- A cell on the wire has a payload of 64 bytes (R36). -/
def Cell.ok (c : Cell) : Bool := c.payload.length == 64

/-- A mailbox message's body lies within PAYLOAD behind the 16-byte header (R380, R382). -/
def Msg.ok (m : Msg) : Bool := m.body.length ≤ 4016

/-- A datagram carries a 32-byte MAC (R423). -/
def Dgram.ok (d : Dgram) : Bool := d.mac.length == 32

/-- A TWIN message: a first payload of 64 bytes and whole further cells (R302). -/
def TwinMsg.ok (m : TwinMsg) : Bool := m.head.length == 64 && m.data.length % 64 == 0 && decide (m.tmsg < 256)

/-- A fabric or Welt lane (R9). -/
def laneOk (n : Nat) : Bool := decide (n < 1056)

/-- A fabric port number, or a Welt port (R33, R298). -/
def portOk (n : Nat) : Bool := decide (n < 1024) || [1024, 1032, 1040, 1048].contains n

/-- A core index of the 528 (R226, R458). -/
def coreOk (n : Nat) : Bool := decide (n < 528)

/-- A peal or shard identifier of 12 bits (R164, R270). -/
def idOk (n : Nat) : Bool := decide (n < 4096)

end Sys2Proof
end

