-- ==== Sys2Proof/Machine/Link.lean ====
section
/-! DEFINITION. Machine/Link.lean: port states, training, lanes, link control words, retry and stomps (chapter 02), and the chip state that follows from conditions (R435, R437). -/
namespace Sys2Proof.Machine

/-! The chip state (R435, R437). -/

/-- Wave engines retired (R85). -/
def enginesRetired (s : State) : Nat := (s.sched.engines.filter (·.2.retired)).length

/-- A degrading condition holds (R435). -/
def degrading (s : State) : Bool :=
  !s.chip.regionFence.isEmpty || !s.chip.blockFence.isEmpty || decide (8 < enginesRetired s) || !s.chip.noSpare.isEmpty
    || !s.fabric.badSegs.isEmpty || !s.chip.tjWarn.isEmpty || !s.chip.warnHeld.isEmpty

/-- The state the conditions in force call for, in the order of R437. -/
def calledFor (s : State) : CState :=
  if s.ctl.safe then .safeMonitor else if degrading s then .degraded else if s.twin.st == .syncing then .pairing else .service

/-- Set the chip state and post event 0x4001 when it changes (R435). -/
def setChip (c : CState) (cause : Nat) (s : State) : State :=
  if s.chip.st = c then s
  else
    let before := s.chip.st.code
    let s := s.modChip fun k => { k with st := c, cause := cause }
    postEvent 0x4001 [BitVec.ofNat 8 before, BitVec.ofNat 8 c.code, BitVec.ofNat 8 cause] s

/-- Bring the chip state in line with the conditions, while the chip serves. (DEDUCED, log entry 140). -/
def settle (cause : Nat) (s : State) : State :=
  match s.chip.st with
  | .boot | .selftest | .damped => s
  | _ => setChip (calledFor s) cause s

/-! Lasts in force. -/

/-- The body of a last in force. -/
def State.lastBody (s : State) (id : Nat) : Bytes := match s.lasts.look? id with | some l => l.body | none => []

/-- A field of LAST_PORTSM (R63). -/
def sm (s : State) (off n : Nat) : Nat := le (s.lastBody 6) off n

/-! Ports and lanes. -/

/-- The port's block or region is fenced or the chip is DAMPED (R60). -/
def condemned (s : State) (p : Nat) : Bool :=
  s.chip.st == .damped || (decide (p < 1024) && ((s.chip.blockFence.look? (blockOf p)).isSome || (s.chip.regionFence.look? (regionOfPort p)).isSome))

/-- A circuit port (R338). -/
def isCircuit (s : State) (p : Nat) : Bool := portRole s p == 2

/-- The circuit state of a port. -/
def State.circOf (s : State) (p : Nat) : Circ := s.circ.look p {}

/-- Change the circuit state of a port. -/
def State.modCirc (s : State) (p : Nat) (f : Circ → Circ) : State := { s with circ := s.circ.upd p {} f }

/-- The slot a circuit port runs. -/
def curSlot (c : Circ) : Option Slot := match c.sched with | some sc => if c.started && !c.ended then sc.slots[c.slot]? else none | none => none

/-- The entry of a circuit port in the CIRCUIT section (R458). -/
def circEntry (s : State) (p : Nat) : Nat := s.fabric.plan.circOrder.idxOf p

/-- Count in the CIRCUIT section. -/
def bumpCirc (p idx n : Nat) (s : State) : State := bumpN 0x0C (circEntry s p) idx n s

/-! Conformance (R134, R341). -/

/-- How a heard neighbour compares with the plan. (DEDUCED, log entry 140). -/
inductive Judged where
  | conforms | unlisted | miswired
  deriving DecidableEq, Repr

/-- Judge a neighbour (R134; a circuit port against its slot). (DEDUCED, log entry 54). -/
def judge (s : State) (p : Nat) (h : Heard) : Judged :=
  match planRec s p with
  | none => .unlisted
  | some r =>
    let ok :=
      if r.role = 2 then
        match curSlot (s.circOf p) with
        | some x => !x.dark && h.chip == x.peerChip && h.port == x.peerPort && h.width == x.peerWidth && h.kind == 0 && h.fa / 4096 == x.group
        | none => false
      else
        h.chip == r.peerChip && h.port == r.peerPort && h.width == r.peerWidth && h.kind == (if r.role = 0 then 1 else 0)
          && h.fa / 4096 == r.peerGroup && (r.role != 0 || h.fa / 64 % 64 == r.peerLeaf)
    if ok then .conforms else .miswired

/-- The port conforms: a judged neighbour that matches; on a Welt port two identical PAIR_HELLO that name TWIN_CHIP (R298). -/
def conforms (s : State) (p : Nat) : Bool :=
  if isWelt p then
    s.fabric.plan.twinChip != 0 && match s.twin.agreed.look? p with | some b => BitVec.ofNat 64 (le b 0 8) == s.fabric.plan.twinChip | none => false
  else match (s.port p).judged with | some h => judge s p h == .conforms | none => false

/-- The status code of R136: a port without a record that is linked and not yet judged is PENDING. -/
def planCode (s : State) (p : Nat) : Nat :=
  let q := s.port p
  match planRec s p, q.judged with
  | none, none => if q.st == .check || q.st == .quarantine || q.st == .up then 5 else 4
  | none, some _ => 2
  | some _, none => if q.st == .absent then 1 else 5
  | some _, some h =>
    if q.st == .absent then 1
    else match judge s p h with
      | .conforms => if h.tag = s.fabric.plan.planTag then 0 else 6
      | _ => 3

/-! Circuit queues that lose service (R354). -/

/-- A stash cell that has outlived its age limit (R349). -/
def aged (s : State) (c : Circ) (x : Stashed) : Bool :=
  let lim := match c.sched with | some sc => sc.ageMs | none => 0
  (x.cell.cell.isPeal || (x.cell.cell.typ == tWindow && bit x.cell.cell.hdr.toNat 46)) && decide (x.stamp + lim * 1000000 < s.now)

/-- Discard a stash cell as stale (R349). -/
def dropAged (p : Nat) (x : Stashed) (s : State) : State :=
  bumpCirc p 10 1 (countDiscard (some (x.cell.org.port.getD p)) causeStale s)

/-- Read back the cells of queue (port, g) that lost service, those at the stash writer last: chosen again from GROUP_ROUTE[g] of their bank, or discarded; a result copy lost so voids its round (R188). -/
def loseService (p g : Nat) (s : State) : State :=
  let c := s.circOf p
  let q := c.queues.look g {}
  let n := blockOf p
  let late := (c.writer.filter (·.1 == g)).map fun x => Stashed.mk x.2 0 s.now
  let s := forAll ((q.sent ++ q.wait).map (·.recNo)).eraseDups s fun s r => recordServed false p g r s
  let s := s.modCirc p fun c => { c with queues := c.queues.put g { q with wait := [], sent := [], fill := 0, readRec := none }, writer := c.writer.filter (·.1 != g) }
  settleLost <| forAll (q.sent ++ q.wait ++ late) s fun s x =>
    if aged s c x then dropAged p x s
    else
      match x.cell.route with
      | .entry tbl bank idx _ =>
        match chooseFrom n tbl bank idx x.cell.cell s with
        | (.to p' r, s) => joinQueue n p' { x.cell with route := r } (bumpCirc p 9 1 s)
        | (.drop cause, s) => bumpCirc p 10 1 (countDiscard (some (x.cell.org.port.getD p)) cause (noteLost x.cell s))
        | (.consumed, s) => s
      | _ => bumpCirc p 10 1 (countDiscard (some (x.cell.org.port.getD p)) causePortState (noteLost x.cell s))

/-- Every queue of a circuit port loses service (R354). -/
def loseAll (p : Nat) (s : State) : State := forAll (((s.circOf p).queues.keys ++ (s.circOf p).writer.map (·.1)).eraseDups) s fun s g => loseService p g s

/-- A circuit port is disarmed: queues read back, reservation and schedule released (R345). -/
def disarmNow (p : Nat) (s : State) : State :=
  let s := if (s.circOf p).armed && (s.port p).st != .up then bumpCirc p 12 (s.now - (s.circOf p).darkAt) s else s
  let s := s.modCirc p fun c => { c with armed := false, disarm := false, started := false, ended := false, suspended := false, release := false, failed := false }
  let s := loseAll p s
  s.modCirc p fun c => { c with sched := none, succ := none, lost := 0 }

/-! Transitions (R60 to R62). -/

/-- Entries into DAMPED within DAMP_WINDOW_S: each keeps the end of its window, as it was when it began (R62, R63). -/
def dampsIn (s : State) (p : Nat) : Nat := ((s.port p).damps.filter fun t => decide (s.now ≤ t)).length

/-- Post PORT_STATE (R452). -/
def portEvent (p before after cause : Nat) (s : State) : State :=
  postEvent 0x1001 (toLE 2 p ++ [BitVec.ofNat 8 before, BitVec.ofNat 8 after, BitVec.ofNat 8 cause] ++ zeros 3 ++ toLE 4 (dampsIn s p)) s

/-- A lane at the start of a link (LCW_SYNC, R53): LSN 0 and nothing outstanding. What training and the PCS have found stays: lock,
position, polarity, equalisation, where the codewords lie, and what is being sent. -/
def Lane.restart (l : Lane) : Lane :=
  { locked := l.locked, pos := l.pos, inverted := l.inverted, eq := l.eq, precode := l.precode, txLcw := l.txLcw, txFrame := l.txFrame
    scram := l.scram, txWire := l.txWire, rxBlk := l.rxBlk, rxCw := l.rxCw, rxUe := l.rxUe, stompMax := l.stompMax }

/-- Nothing is being received any more: the lane's receive buffer, what it keeps of blocks under way, and its fate records are gone. -/
def Lane.quiet (l : Lane) : Lane := { l with rxq := [], stage := [], ended := [], fates := [], rxBad := false, badNow := false, rxTries := 0, rxSlot := 0, rxFrom := 0 }

/-- Hand over the whole allocation and zero the counts (R43), for the port's lanes. -/
def openCredits (p : Nat) (s : State) : State :=
  let row := profileRow (s.port p).profile
  let s := s.modPort p fun q => { q with credits := [], resvCred := [], inUse := [], sentRecent := [] }
  forAll (lanesOf s p) s fun s l => s.modLane l fun x => { x with crSeen := [], crSent := [], crOwed := row, crHold := [] }

/-- Discard and count what a port still holds for sending (R59, R116): the transmit store, and the VC0 cells that are not its own. -/
def dropStore (p cause : Nat) (s : State) : State :=
  let q := s.port p
  let fwd (c : BufCell) : Bool := c.ent != 0
  let cells := (q.store.map (·.2)).flatten ++ q.vc0.filter fwd
  let n := cells.length
  let s := forAll cells s fun s c => noteLost c (if c.shared then s else returnCredit c.org s)
  let s := s.modPort p fun q => { q with store := [], vc0 := q.vc0.filter fun c => !fwd c, deficit := [], resvStore := 0, resvCred := [] }
  bumpPortN p (16 + cause) n s

/-- The cells of blocks sent and not acknowledged, the block being filled included. -/
def Lane.unackedCells (l : Lane) : Nat := ((((l.unacked.map (·.slots)).flatten ++ l.txOpen).filter fun t => t.cell.isSome)).length

/-- Discard and count the cells sent and not acknowledged (R49); those of a circuit port stay in its stash (R351). The blocks that held
them stay in the window while the lane goes on sending, so that the link's order is kept; `stop` says that it does not. (DESIGN CHOICE, log entry 151). -/
def dropUnacked (p : Nat) (stop : Bool) (s : State) : State :=
  let blank (t : TxSlot) : TxSlot := { t with cell := none }
  let s := if stop then s.modPort p fun q => { q with slot := 0 } else s
  forAll (lanesOf s p) s fun s l =>
    let n := (s.lane l).unackedCells
    bumpPortN p (16 + causePortState) (if isCircuit s p then 0 else n) (s.modLane l fun x =>
      if stop then { x.quiet with unacked := [], acked := [], txOpen := [], attempt := 0, nakSeen := false, linkStomp := false }
      else { x with unacked := x.unacked.map fun b => { b with slots := b.slots.map blank }, acked := [], txOpen := x.txOpen.map blank, linkStomp := false })

/-- The port a spray value's member names. -/
def sprayPort (s : State) (key : Nat) : Nat :=
  field (s.tblN (entryAddr (key / 16384 % 2) (key / 32768) (key / 64 % 256) + 16 + 2 * (key % 64)) 2) 0 10

/-- Zero the spray values of every member that names a port, in every block (R111: the port's live bit is set again). -/
def zeroSpray (p : Nat) (s : State) : State :=
  { s with blocks := s.blocks.map fun e => (e.1, { e.2 with spray := e.2.spray.filter fun k => sprayPort s k.1 != p }) }

/-- What leaving UP does (R115, R116, R59). -/
def leaveUp (p : Nat) (s : State) : State :=
  let s := if isWelt p || isCircuit s p then s else rechoose p s
  dropStore p (causePortState) s

/-- An armed circuit port leaves or enters UP: DARK_NS runs in between (R356). (DEDUCED, log entry 102). -/
def darkEdge (p : Nat) (was is_ : Bool) (s : State) : State :=
  let c := s.circOf p
  if !c.armed || was == is_ then s
  else if is_ then bumpCirc p 12 (s.now - c.darkAt) s
  else s.modCirc p fun c => { c with darkAt := s.now }

/-- Move a port to another state: what leaving and entering do, the event, and the time source chosen
again, since only UP ports hold a PEER. -/
def enter (p : Nat) (new : PState) (cause : Nat) (s : State) : State :=
  let old := (s.port p).st
  if old = new ∨ !s.hasPort p then s
  else
    let s := s.modPort p fun q => { q with st := new, upAt := s.now }
    let s := darkEdge p (old == .up) (new == .up) s
    let s := if old == .up then leaveUp p s else s
    let s := match new with
      | .damped => bumpPort p 35 (dropUnacked p false (s.modPort p fun q => { q with damps := (q.damps.filter fun t => decide (s.now ≤ t)) ++ [s.now + sm s 0x1C 4 * 1000000000], stomps := [] }))
      | .fenced => dropUnacked p false (s.modPort p fun q => { q with stomps := [] })
      | .check => openCredits p (s.modPort p fun q => { q with dwellOk := false, checkMax := some (sm s 0x08 4), serMax := some (sm s 0x0C 4), flight := none, dvals := [], stamps := [], heard := none, judged := none, peerOut := 0, peerMax := none, hold := .free })
      | .up => zeroSpray p s
      | .down => dropUnacked p true (s.modPort p fun q => { q with trained := false, train := none, hold := .free, heard := none, judged := none, stomps := [], refused := false })
      | .training => dropUnacked p true (s.modPort p fun q => { q with trained := false, hold := .free, heard := none, judged := none, stomps := [], refused := false })
      | .absent => dropUnacked p true (s.modPort p fun q => { q with trained := false, train := none, heard := none, judged := none })
      | _ => s
    let s := if isWelt p && new == .check then s.modTwin fun t => { t with heard := t.heard.del p, agreed := t.agreed.del p } else s
    let s := settleLost (portEvent p old.code new.code cause s)
    if new == .check || new == .quarantine then reselect s
    else if new == .up then reselect s
    else reselect (s.modPort p fun q => { q with ann := none })

/-- The step records of a sequence in LAST_LINKTRAIN (R52). -/
def trainSteps (body : Bytes) (warm : Bool) : List Bytes :=
  let nf := byteAt body 0
  let nw := byteAt body 1
  if warm then (List.range nw).map fun i => (body.drop (8 + 8 * nf + 8 * i)).take 8
  else (List.range nf).map fun i => (body.drop (8 + 8 * i)).take 8

/-- Start a training sequence from the LAST_LINKTRAIN in force (R54, R55). -/
def startSeq (p : Nat) (warm : Bool) (s : State) : State :=
  s.modPort p fun q => { q with train := some ⟨warm, trainSteps (s.lastBody 1) warm, 0⟩ }

/-- A port starts training with the FULL sequence; a Welt port stays DOWN while TWIN_CHIP is zero (R298). (DEDUCED, log entry 38). (DEDUCED, log entry 104). -/
def startTraining (p cause : Nat) (s : State) : State :=
  if isWelt p && s.fabric.plan.twinChip == 0 then enter p .down cause s else startSeq p false (enter p .training cause s)

/-- Take a port to DAMPED with a hold; a FENCED port counts the trigger and stays (R61). -/
def damp (p cause : Nat) (h : Hold) (s : State) : State :=
  let q := s.port p
  if !s.hasPort p then s
  else if q.st == .fenced then bump 0x20 (portEntry p) 1 s
  else if q.st == .damped then (if h == .host || h == .condition then s.modPort p fun q => { q with hold := if q.hold == .host then .host else h } else s)
  else (enter p .damped cause s).modPort p fun q => { q with hold := h }

/-- A fault at lane or port level takes the port to DAMPED with the hold of R62, and past DAMP_LIMIT holds it. -/
def dampFault (p cause : Nat) (s : State) : State :=
  let was := (s.port p).st
  let s := damp p cause .free s
  if was == .fenced || was == .damped || !s.hasPort p then s
  else
    let n := dampsIn s p
    if sm s 0x18 2 < n then postEvent 0x1002 (toLE 2 p) (s.modPort p fun q => { q with hold := .limit })
    else s.modPort p fun q => { q with hold := .timed (min (sm s 0x10 4 * 2 ^ (n - 1)) (sm s 0x14 4)) }

/-- A slot of a circuit port fails (R353): counted, event with the reason, (port, g) SUSPECT after FAIL_LIMIT. -/
def failSlot (p reason : Nat) (ident : W64) (s : State) : State :=
  let c := s.circOf p
  if c.failed then s
  else
    let g := match curSlot c with | some x => x.group | none => 0
    let s := s.modCirc p fun c => { c with failed := true, release := false }
    let s := postEvent 0x1004 (toLE 2 p ++ [BitVec.ofNat 8 reason, BitVec.ofNat 8 g] ++ toLE 8 ident.toNat) (bumpCirc p 2 1 s)
    let n := (c.queues.look g {}).fails + 1
    let lim := match c.sched with | some sc => sc.failLimit | none => 0
    let s := s.modCirc p fun c => { c with queues := c.queues.upd g {} fun q => { q with fails := n, suspect := q.suspect || decide (lim ≤ n) } }
    if lim ≤ n then loseService p g s else s

/-- A fault of R60 on a port: DAMPED, or for an armed circuit port a failed slot that waits in DOWN (R353). -/
def portFault (p cause : Nat) (s : State) : State :=
  if isCircuit s p && (s.circOf p).armed && (s.port p).st != .fenced then
    if (s.port p).st == .up || (s.port p).st == .check || (s.port p).st == .quarantine then failSlot p 4 0 (enter p .down cause s) else s
  else dampFault p cause s

/-- A trigger into DAMPED meets a FENCED port: it is counted, and the port stays FENCED (R61). -/
def countFenced (p : Nat) (s : State) : State := if (s.port p).st == .fenced then bump 0x20 (portEntry p) 1 s else s

/-- The port states in which R60 lets a link fault take a port to DAMPED. -/
def faultable (st : PState) : Bool := st == .up || st == .check || st == .quarantine

/-- A link fault that R60 gives UP, CHECK and QUARANTINE: DAMPED, or counted on a FENCED port (R61); nothing in the other states. -/
def linkFault (p cause : Nat) (s : State) : State := if faultable (s.port p).st then portFault p cause s else countFenced p s

/-- Enter UP when every condition of CHECK holds (R60, R298). (DEDUCED, log entry 37). -/
def tryUp (p : Nat) (s : State) : State :=
  let q := s.port p
  if q.st == .check && q.dwellOk && conforms s p && (q.peerSt == 2 || q.peerSt == 4) && !condemned s p then
    let s := enter p .up 4 s
    match curSlot (s.circOf p) with
    | some x =>
      if isCircuit s p && !(s.circOf p).opened then
        bumpCirc p 0 1 (s.modCirc p fun c => { c with release := true, opened := true, queues := c.queues.upd x.group {} fun q => { q with fails := 0, suspect := false } })
      else s
    | none => s
  else s

/-- PORT_FENCE (R60, R61). -/
def fencePort (p : Nat) (s : State) : State :=
  if (s.port p).st == .fenced then s
  else
    let s := enter p .fenced 0 s
    let s := s.modPort p fun q => { q with hold := .free }
    if isCircuit s p && (s.circOf p).armed then loseAll p (s.modCirc p fun c => { c with suspended := true, release := false }) else s

/-- PORT_UNFENCE (R61). -/
def unfencePort (p : Nat) (s : State) : State :=
  let q := s.port p
  if !q.enabled || isCircuit s p then enter p .down 0 s
  else if condemned s p then (enter p .damped 0 s).modPort p fun q => { q with hold := .condition }
  else if q.trained then enter p .check 0 s
  else startTraining p 0 s

/-- A port starts training on a signal or an interval when it may (R60; circuit ports are excepted by R338, Welt ports while
TWIN_CHIP is zero by R298). -/
def mayTrain (s : State) (p : Nat) : Bool :=
  let q := s.port p
  s.hasPort p && q.enabled && (q.st == .down || q.st == .absent) && !condemned s p && !isCircuit s p
    && !(isWelt p && s.fabric.plan.twinChip == 0) && !(s.chip.st == .boot || s.chip.st == .selftest)

/-- A signal is detected on a port (R60). -/
def execSignalDetect (port : Nat) (s : State) : Out :=
  let s := s.modPort port fun q => { q with signal := true }
  .next (if mayTrain s port then startTraining port 1 s else s)

/-- RETRAIN_INTERVAL_MS has elapsed for a port (R60). (DEDUCED, log entry 2). -/
def execRetrainInterval (port : Nat) (s : State) : Out := .next (if mayTrain s port then startTraining port 1 s else s)

/-- TRAIN_TIMEOUT_MS has elapsed in TRAINING (R60, R135). (DEDUCED, log entry 2). -/
def execTrainTimeout (port : Nat) (s : State) : Out :=
  .next (if (s.port port).st == .training && !(isCircuit s port && (s.circOf port).armed) then
    (if (planRec s port).isSome then enter port .absent 3 s else enter port .down 3 s) else s)

/-! Training (R55 to R57). -/

/-- The peer a port expects: chip, port, width (R57). -/
def expectedPeer (s : State) (p : Nat) : W64 × Nat :=
  if isCircuit s p then match curSlot (s.circOf p) with | some x => (x.peerChip, x.peerPort) | none => (0, 0)
  else if isWelt p then (s.fabric.plan.twinChip, p)
  else match planRec s p with | some r => (r.peerChip, r.peerPort) | none => (0, 0)

/-- The key of a LAST_EQ entry, in the order of R56: LOCAL_LANE, PEER_CHIP, PEER_PORT, PEER_LANE. -/
def eqKey (b : Bytes) : Nat :=
  let pp := le b 8 2
  ((field (le b 10 2) 0 11 * 2 ^ 64 + le b 0 8) * 2 ^ 10 + field pp 0 10) * 8 + field pp 10 3

/-- Put an entry into a list kept in the order of R56. -/
def eqInsert (e : Bytes) : List Bytes → List Bytes
  | [] => [e]
  | x :: t => if eqKey e < eqKey x then e :: x :: t else if eqKey e = eqKey x then e :: t else x :: eqInsert e t

/-- The entries of a LAST_EQ body. -/
def eqEntries (body : Bytes) : List Bytes := (List.range (body.length / 32)).map fun i => (body.drop (32 * i)).take 32

/-- The loaded entries merged with the learned ones (R57). (DEDUCED, log entry 128). -/
def eqMerged (s : State) : List Bytes := s.fabric.learned.foldl (fun l e => eqInsert e l) (eqEntries (s.lastBody 2))

/-- The valid LAST_EQ entry for a lane and the peer expected (R57). (DEDUCED, log entry 38). -/
def eqFor (s : State) (p lane : Nat) : Option Bytes :=
  let (chip, pp) := expectedPeer s p
  (eqMerged s).find? fun e => field (le e 10 2) 0 11 == lane && bit (le e 10 2) 11 && le e 0 8 == chip.toNat && field (le e 8 2) 0 10 == pp

/-- A learned LAST_EQ entry (R56). -/
def eqEntry (s : State) (p lane : Nat) (r : EqResult) : Bytes :=
  let (chip, pp) := expectedPeer s p
  toLE 8 chip.toNat ++ toLE 2 (place pp 0 10 + place r.peerLane 10 3)
    ++ toLE 2 (place lane 0 11 + place 1 11 1 + place (b2n r.precode) 12 1 + place 1 13 1) ++ toLE 5 r.taps.toNat ++ zeros 3
    ++ toLE 4 r.preset.toNat ++ toLE 4 r.eye.toNat ++ toLE 4 (s.nt / 65536 / 1000000000)

/-- LAST_EQ holds a valid entry for a lane and the peer expected (R57). -/
def eqHas (s : State) (p lane : Nat) : Bool := (eqFor s p lane).isSome

/-- What a completed step leaves behind: the entry or the default preset in use (EQ_LOAD), precoding as negotiated (PMD_TRAIN), lane order
and polarity (DESKEW), learned entries (EQ_STORE). (DEDUCED, log entry 38). -/
def stepEffect (p op : Nat) (r : TrainRes) (s : State) : State :=
  match op with
  | 2 => forAll (lanesOf s p) s fun s l => s.modLane l fun x => { x with eq := eqFor s p l, precode := match eqFor s p l with | some e => bit (le e 10 2) 12 | none => false }
  | 3 => forAll (List.range (s.port p).width) s fun s i =>
      match r.eq[i]? with | some e => s.modLane (p + i) fun l => { l with precode := e.precode } | none => s
  | 7 => forAll (List.range (s.port p).width) s fun s i =>
      s.modLane (p + i) fun l => { l with pos := nth r.order i, inverted := r.polarity.getD i false }
  | 9 => forAll (List.range (s.port p).width) s fun s i =>
      match r.eq[i]? with
      | some e => s.modFabric fun f => { f with learned := eqInsert (eqEntry s p (p + i) e) f.learned }
      | none => s
  | _ => s

/-- What a step needs to end well: an entry for every lane where EQ_LOAD asks for one (PARAM bit 0, R53); for DESKEW, an order that gives
each lane a position of its own, and a skew of at most 40 ns (R34). -/
def stepOk (s : State) (p : Nat) (step : Bytes) (r : TrainRes) : Bool :=
  match byteAt step 0 with
  | 2 => !bit (byteAt step 4) 0 || (lanesOf s p).all (eqHas s p)
  | 7 => decide (r.skewNs ≤ 40) && (List.range (s.port p).width).all fun k => ((List.range (s.port p).width).map fun i => nth r.order i).contains k
  | _ => true

/-- What starting a step does: LCW_SYNC sets LSN to 0 (R53). -/
def stepStart (p : Nat) (step : Bytes) (s : State) : State :=
  if byteAt step 0 = 8 then forAll (lanesOf s p) (s.modPort p fun q => { q with slot := 0 }) fun s l => s.modLane l Lane.restart else s

/-- Go to the next step of a sequence, or complete it: the port enters CHECK (R60). -/
def nextStep (p : Nat) (t : Train) (s : State) : State :=
  if t.idx + 1 < t.steps.length then stepStart p (t.steps.getD (t.idx + 1) []) (s.modPort p fun q => { q with train := some { t with idx := t.idx + 1 } })
  else
    let s := s.modPort p fun q => { q with train := none, trained := true }
    let s := forAll (lanesOf s p) s fun s l => bump 0x03 l (if t.warm then 10 else 9) s
    (enter p .check 2 s).modPort p fun q => { q with trained := true }

/-- A step that did not end well: an OPTIONAL step is passed over, otherwise the sequence starts again; a failed WARM sequence is
followed by FULL except on an armed circuit port (R52, R55). -/
def failStep (p : Nat) (t : Train) (s : State) : State :=
  if bit (byteAt (t.steps.getD t.idx []) 1) 1 then nextStep p t s
  else startSeq p (t.warm && isCircuit s p && (s.circOf p).armed) s

/-- A training step completes (R55), unless what it found makes it fail (R34, R53). -/
def execTrainingStepDone (port : Nat) (res : TrainRes) (s : State) : Out :=
  match (s.port port).st, (s.port port).train with
  | .training, some t =>
    let step := t.steps.getD t.idx []
    .next (if stepOk s port step res then nextStep port t (stepEffect port (byteAt step 0) res s) else failStep port t s)
  | _, _ => .next s

/-- A training step fails or runs out of time (R52, R55). -/
def execTrainingStepFail (port : Nat) (s : State) : Out :=
  match (s.port port).st, (s.port port).train with
  | .training, some t => .next (failStep port t s)
  | _, _ => .next s

/-! PCS lock (R32). -/

/-- The framing bit was found in 4 consecutive superframes: link blocks and codewords count from here. -/
def execPcsLock (lane : Nat) (s : State) : Out :=
  .next (if laneOk lane then s.modLane lane fun l => if l.locked then l else { l with locked := true, rxBlk := 0, rxCw := 0, rxUe := [], ended := [] } else s)

/-- A lane lost lock: a port that is UP goes to DAMPED with cause 12; a FENCED port counts it (R61). -/
def loseLock (lane : Nat) (s : State) : State :=
  let had := (s.lane lane).locked
  let s := s.modLane lane fun l => { l with locked := false }
  let s := if had then bump 0x03 lane 8 s else s
  match portOfLane s lane with
  | some p =>
    let s := s.modPort p fun q => { q with trained := false }
    if (s.port p).st == .up then portFault p 12 s else countFenced p s
  | none => s

/-- Three consecutive superframes missed the framing bit. -/
def execPcsLossOfLock (lane : Nat) (s : State) : Out := .next (if laneOk lane then loseLock lane s else s)

/-! CHECK and DAMPED timers (R60, R62). -/

/-- The flight limit of a port's reach, in units of 2^-17 ns (R51). -/
def reachLimit (s : State) (p : Nat) : Int := (if (s.port p).longReach && !isWelt p then 2500 else 50) * 131072

/-- The end of the CHECK dwell: symbol error ratio first, then flight time (R60), against CHECK_SER_MAX_PPM as it was when the dwell
began (R63). (DEDUCED, log entry 37). (DESIGN CHOICE, log entry 152). -/
def execCheckDwellEnd (port serPpm : Nat) (s : State) : Out :=
  let q := s.port port
  if q.st ≠ .check then .next s
  else if q.checkMax.getD (sm s 0x08 4) < serPpm then .next (portFault port 10 s)
  else
    match q.flight with
    | some f => if reachLimit s port < f then .next (portFault port 11 s) else .next (tryUp port (s.modPort port fun q => { q with dwellOk := true }))
    | none => .next s

/-- The hold of R62 has elapsed. -/
def execDampHoldExpiry (port : Nat) (s : State) : Out :=
  match (s.port port).st, (s.port port).hold with
  | .damped, .timed _ => if condemned s port || !(s.port port).enabled then .next s else .next (startTraining port 14 s)
  | _, _ => .next s

/-- The symbol error ratio over 10 ms (R60), against SER_DAMP_PPM as it was when those 10 ms began (R63). (DESIGN CHOICE, log entry 152). -/
def execSerDamp (port serPpm : Nat) (s : State) : Out :=
  let max := (s.port port).serMax.getD (sm s 0x0C 4)
  let s := s.modPort port fun q => { q with serMax := some (sm s 0x0C 4) }
  .next (if max < serPpm then linkFault port 10 s else s)

/-- The stomps of the last 1 ms exceed STOMP_OFF_PPM, as it was when that 1 ms began (R63), of the cells sent: the lane stops speculating
(R47). (DESIGN CHOICE, log entry 152). -/
def execStompRateLimit (lane : Nat) (s : State) : Out :=
  let l := s.lane lane
  if !laneOk lane then .next s
  else
    let tooMany := decide (l.stompMax.getD (sm s 0x28 4) * l.sent < l.stomps * 1000000)
    let s := s.modLane lane fun l => { l with stomps := 0, sent := 0, stompMax := some (sm s 0x28 4), specOff := l.specOff || tooMany }
    .next (if tooMany && !l.specOff then postEvent 0x1003 (toLE 2 lane) s else s)

end Sys2Proof.Machine
end

