-- ==== Sys2Proof/Machine/Mailbox.lean ====
section
/-! DEFINITION. Machine/Mailbox.lean: mailboxes, the checks every message passes, responses and replays (R380 to R387, R390, R404, R436, R449). -/
namespace Sys2Proof.Machine

/-! Status codes (R385). -/
def eOk : Nat := 0
def eBadVer : Nat := 1
def eBadOp : Nat := 2
def eBadLen : Nat := 3
def eRange : Nat := 4
def eState : Nat := 5
def eBusy : Nat := 6
def eNoStore : Nat := 7
def eLocked : Nat := 8
def eAuth : Nat := 9
def eFeature : Nat := 10
def eAborted : Nat := 11
def eEpoch : Nat := 12
def ePlan : Nat := 13
def eTwin : Nat := 14
def eLost : Nat := 15

/-- A reply: status, detail, response body, and whether the body comes with every status. -/
structure Reply where
  status : Nat
  detail : Nat := 0
  body   : Bytes := []
  always : Bool := false
  deriving DecidableEq, Repr, Inhabited

/-- OK with a body. -/
def Reply.ok (b : Bytes) : Reply := { status := eOk, body := b }

/-- E_RANGE at a byte offset of the body. -/
def Reply.range (off : Nat) : Reply := { status := eRange, detail := off }

/-- A status without body. -/
def Reply.err (st : Nat) : Reply := { status := st }

/-! The rows of R404. -/

/-- The opcodes, with fixed body lengths (none: checked by `lenOk`), the largest response (0 for LAST_QUERY, which has a bound of its own) and
the feature each needs (64: none). -/
def opRows : List (Nat × Option Nat × Nat × Nat) :=
  [(0x01, some 32, 32, 64), (0x02, some 0, 0, 64), (0x10, some 8, 8176, 64), (0x20, none, 0, 64), (0x21, some 0, 16400, 64)]
  ++ [(0x30, some 8, 8, 64), (0x31, some 8, 16, 64), (0x32, some 0, 0, 64), (0x33, some 24, 8, 64)]
  ++ [(0x40, some 208, 0, 64), (0x41, some 4, 4, 64), (0x42, some 4, 4, 64), (0x43, some 4, 4, 64), (0x50, some 136, 0, 64), (0x51, some 4, 0, 64)]
  ++ [(0x60, some 64, 8, 64), (0x61, some 4, 16, 64), (0x62, some 4, 0, 64), (0x63, some 4, 496, 64), (0x64, some 4, 0, 64)]
  ++ [(0x70, none, 0, 1), (0x71, some 288, 0, 1), (0x72, some 16, 0, 1), (0x73, some 32, 24, 1), (0x74, some 40, 0, 1)]
  ++ [(0x80, some 32, 0, 3), (0x81, some 0, 64, 3), (0x82, some 16, 0, 3), (0x83, some 16, 0, 3), (0x90, none, 0, 2), (0x91, some 8, 0, 2)]
  ++ [(0xA0, some 32, 0, 12), (0xA1, some 0, 80, 64), (0xB0, some 8, 32, 64), (0xB1, some 32, 24, 64), (0xB2, some 24, 16, 64)]
  ++ [(0xC0, some 0, 320, 64), (0xC1, some 16, 8, 64), (0xC2, some 40, 8192, 64), (0xD0, none, 8, 64), (0xD1, some 8, 0, 64), (0xE0, some 32, 0, 9)]

/-- The row of an opcode. -/
def opRow (op : Nat) : Option (Option Nat × Nat × Nat) := (opRows.find? (·.1 == op)).map (·.2)

/-- The longest body R25 allows a last. -/
def lastMax (id : Nat) : Nat :=
  match id with | 1 => 16384 | 2 => 1048576 | 3 => 8192 | 4 => 4096 | 5 => 4096 | 6 => 8192 | 7 => 4096 | _ => 0

/-- LEN lies within the bounds of the opcode; where the length depends on a field, it is the length that field implies. -/
def lenOk (s : State) (op len : Nat) (body : Bytes) : Bool :=
  match opRow op with
  | some (some n, _, _) => len == n
  | _ =>
    match op with
    | 0x20 => decide (64 ≤ len) && len == 64 + 16 * le body 4 4
    | 0x70 =>
      let d := le body 0 64
      let self := s.fabric.plan.selfFa
      decide (64 ≤ len) && len == 64 + (if field d 128 20 = self ∨ field d 160 20 = self then 8 * field d 96 9 else 0)
    | 0x90 => decide (64 ≤ len) && len == 64 + 16 * le body 2 2
    | _ => decide (32 ≤ len) && len == 32 + le body 14 4

/-- The largest possible response (R383). -/
def respMax (op : Nat) (body : Bytes) : Nat :=
  if op = 0xD1 then 32 + lastMax (byteAt body 0) else match opRow op with | some (_, n, _) => n | none => 0

/-! Which messages are served (R386, R390, R436, R449). -/

/-- PORT_FENCE, PORT_DAMP and TAKEOVER_GRANT. -/
def mbx0Op (op : Nat) : Bool := op == 0x41 || op == 0x43 || op == 0x82

/-- Opcodes served before a session opens, those of MBX0 apart. -/
def earlyOp (op : Nat) : Bool := [0x01, 0x10, 0xC0, 0xC2].contains op

/-- Opcodes served in SELFTEST. -/
def selftestOp (op : Nat) : Bool := [0x01, 0x02, 0x10, 0xC0, 0xC2, 0xD0, 0xD1, 0xB2, 0xB1].contains op

/-- Opcodes served in SAFE_MONITOR and DAMPED; what they may do there is judged by the opcode. -/
def safeOp (op : Nat) : Bool :=
  [0x01, 0x02, 0x10, 0x21, 0x33, 0x41, 0x42, 0x43, 0x51, 0x62, 0x63, 0x64, 0x71, 0x72, 0x73, 0x81, 0x82, 0x91, 0xA1, 0xB0, 0xB1, 0xB2, 0xC0, 0xC1, 0xC2, 0xD1, 0xE0].contains op

/-- The chip is in SAFE_MONITOR or DAMPED. -/
def restricted (s : State) : Bool := s.chip.st == .safeMonitor || s.chip.st == .damped

/-- The session rule of R390 and the chip states of R436 and R449 allow an opcode. -/
def sessionOk (s : State) (mbx op : Nat) : Bool :=
  (s.host.session || earlyOp op || (mbx == 0 && (op == 0x41 || op == 0x43)))
    && (match s.chip.st with
        | .boot => false
        | .selftest => selftestOp op
        | .safeMonitor => safeOp op
        | .damped => safeOp op && op != 0xC1
        | _ => true)

/-! Responses (R381, R382, R383). -/

/-- A response header. -/
def respHdr (w : Waiting) (lost : Bool) (len status detail : Nat) : Bytes :=
  [1, BitVec.ofNat 8 (w.msg.flags.toNat % 2 + 2 + 4 * b2n lost)] ++ toLE 2 w.op ++ toLE 4 w.msg.seqid.toNat ++ toLE 4 len ++ toLE 2 status ++ toLE 2 detail

/-- Where an INDIRECT message wants its response body. -/
def respAddr (m : Msg) : Option Nat := if m.flags.getLsbD 0 then some (le m.body 8 8) else none

/-- The part writes the response of a message and completes it: DONE, MBX_LAST_SEQ, the saved response, and the vector. -/
def answer (w : Waiting) (r : Reply) (s : State) : State :=
  let n := w.msg.mbx.val
  let body := if r.status = eOk ∨ r.always then r.body else []
  let ind := respAddr w.msg
  let bad := match ind with | some a => decide (0 < body.length) && s.dmaBad a body.length | none => false
  let s := match ind with | some a => if bad then s else s.hostWrite a body | none => s
  let hdr := respHdr w bad body.length r.status r.detail
  let s := s.modMbx n fun x => { x with
    busy := false, done := true, lastSeq := w.msg.seqid, any := true, waiting := none
    payload := putBytes (fit 4032 x.payload) 0 (hdr ++ (if ind.isSome then [] else body))
    saved := respHdr w false body.length r.status r.detail ++ body
    savedIn := ind }
  if (s.mbx n).irqEn then signal (1 + n) s else s

/-- A replay: the saved response is written again (R381). (DEDUCED, log entry 117). -/
def replay (n : Nat) (s : State) : State :=
  let x := s.mbx n
  let hdr := x.saved.take 16
  let body := x.saved.drop 16
  let bad := match x.savedIn with | some a => decide (0 < body.length) && s.dmaBad a body.length | none => false
  let s := match x.savedIn with | some a => if bad then s else s.hostWrite a body | none => s
  let hdr := if bad then putBytes hdr 1 [BitVec.ofNat 8 (byteAt hdr 1 + 4)] else hdr
  let s := s.modMbx n fun x => { x with
    busy := false, done := true, waiting := none
    payload := putBytes (fit 4032 x.payload) 0 (hdr ++ (if x.savedIn.isSome then [] else body)) }
  if (s.mbx n).irqEn then signal (1 + n) s else s

/-! Taking a message up (R381, R384, R387). -/

/-- The bytes of a message as the host wrote them into PAYLOAD. -/
def msgBytes (op : Nat) (m : Msg) : Bytes :=
  [m.ver, m.flags] ++ toLE 2 op ++ toLE 4 m.seqid.toNat ++ toLE 4 m.len.toNat ++ toLE 4 m.rsvd.toNat ++ m.body

/-- RING: DONE is cleared and BUSY set. -/
def ring (op : Nat) (m : Msg) (s : State) : State :=
  s.modMbx m.mbx.val fun x => { x with busy := true, done := false, payload := putBytes (fit 4032 x.payload) 0 ((msgBytes op m).take 4032) }

/-- The request body: in PAYLOAD, or in host memory. -/
def reqBody (s : State) (m : Msg) : Bytes :=
  if m.flags.getLsbD 0 then s.hostRead (le m.body 0 8) (min m.len.toNat 2097152) else fit (min m.len.toNat 4016) m.body

/-- Checks 1 to 6 of R384: the answer of the first that fails. (DEDUCED, log entry 116). -/
def msgCheck (s : State) (op : Nat) (m : Msg) : Option Reply :=
  let ind := m.flags.getLsbD 0
  let body := reqBody s m
  let len := m.len.toNat
  let feat := match opRow op with | some (_, _, f) => f | none => 64
  firstOf [
    need (m.ver == 1) (.err eBadVer),
    need ((opRow op).isSome && (m.mbx.val != 0 || mbx0Op op) && decide (m.flags.toNat < 2)) (.err eBadOp),
    need (m.rsvd == 0) (.range 0xFFFF),
    need (sessionOk s m.mbx.val op) (.err eState),
    need (decide (len ≤ (if ind then 2097152 else 4016)) && lenOk s op len body) (.err eBadLen),
    need (ind || decide (respMax op body ≤ 4016)) (.err eBadLen),
    need (!ind || decide (respMax op body ≤ le m.body 16 4)) (.err eBadLen),
    need (!ind || s.host.busMaster) (.err eState),
    need (!ind || (zeroAt m.body 20 12 && le m.body 8 8 % 64 == 0 && (len == 0 || le m.body 0 8 % 64 == 0))) (.range 0xFFFF),
    need (!ind || len == 0 || !s.dmaBad (le m.body 0 8) len) (.range 0xFFFE),
    need (feat == 64 || s.host.features.getLsbD feat) (.err eFeature)]

/-- A control core restarts, or a PAUSE activation restarts the cores: the control plane stands (R408, R428). (DEDUCED, log entry 115). -/
def coresDown (s : State) : Bool := !s.ctl.crashed.isEmpty || (match s.ctl.act with | some a => !a.handover && a.part == 0 | none => false)

/-- Messages wait while a control core restarts or a PAUSE activation restarts the cores, but for PORT_FENCE and PORT_DAMP on MBX0
(R387, R408, R409). (DEDUCED, log entry 115). -/
def msgHeld (s : State) (op mbx : Nat) : Bool :=
  coresDown s && !(mbx == 0 && (op == 0x41 || op == 0x43))

/-- The response body of a message that the checks of R384 turn away, for the messages whose body comes with every status (R395, R403). (DEDUCED, log entry 116). -/
def turnedAway (op : Nat) (m : Msg) (s : State) (r : Reply) : Reply :=
  if m.flags.getLsbD 0 then r
  else if op = 0x33 then { r with body := zeros 4 ++ toLE 4 0xFFFFFFFF, always := true }
  else if op = 0x31 then { r with body := toLE 1 s.fabric.epoch ++ zeros 15, always := true }
  else r

/-- A message is rung: refused by a BUSY mailbox, replayed, held, answered by the checks of R384, or run; `f` answers none when the response
comes later. CXL out of operation means that no RING arrives. -/
def runMsg (op : Nat) (m : Msg) (s : State) (f : Bytes → State → Option Reply × State) : Out :=
  let n := m.mbx.val
  if !s.host.cxlUp || s.chip.inReset then .next s
  else if (s.mbx n).busy then .next (s.modMbx n fun x => { x with overrun := true })
  else
    let s := ring op m s
    if (s.mbx n).any && (s.mbx n).lastSeq == m.seqid then .next (replay n s)
    else if msgHeld s op n then
      .next ((s.modCtl fun c => { c with ringOrder := c.ringOrder ++ [m.mbx] }).modMbx n fun x => { x with waiting := some ⟨op, m, false⟩ })
    else
      match msgCheck s op m with
      | some r => .next (answer ⟨op, m, true⟩ (turnedAway op m s r) s)
      | none =>
        match f (reqBody s m) s with
        | (some r, s) => .next (answer ⟨op, m, true⟩ r s)
        | (none, s) => .next (s.modMbx n fun x => { x with waiting := some ⟨op, m, true⟩ })

/-- Run a message whose effect is its answer's condition: the checks give the first failure, otherwise the effect is applied and OK
answered with a body. -/
def checked (checks : List (Option Reply)) (body : Bytes) (s s' : State) : Option Reply × State :=
  match firstOf checks with
  | some r => (some r, s)
  | none => (some (.ok body), s')

/-- The request body with its ACTION byte set at an offset: the commands of one opcode that differ in ACTION. (DEDUCED, log entry 118). -/
def withAction (off a : Nat) (b : Bytes) : Bytes := putBytes b off [BitVec.ofNat 8 a]

/-- Answer every message that waits for a condition on its opcode and body. (DEDUCED, log entry 72). -/
def answerWaiting (p : Waiting → Bool) (r : Waiting → Reply) (s : State) : State :=
  forAll (List.range 8) s fun s n =>
    match (s.mbx n).waiting with
    | some w => if w.started && p w then answer w (r w) s else s
    | none => s

/-- Answer the message that waits in a mailbox. (DEDUCED, log entry 72). -/
def answerAt (n : Nat) (r : Reply) (s : State) : State :=
  match (s.mbx n).waiting with
  | some w => answer w r s
  | none => s

/-- Answer the started message of an opcode that waits in a mailbox. -/
def answerOp (op n : Nat) (r : Reply) (s : State) : State :=
  match (s.mbx n).waiting with
  | some w => if w.started && w.op == op then answer w r s else s
  | none => s

/-- A RING whose SEQID equals MBX_LAST_SEQ (R381). (DEDUCED, log entry 117). -/
def execMessageReplay (m : Msg) (s : State) : Out :=
  let x := s.mbx m.mbx.val
  if !s.host.cxlUp || s.chip.inReset || !x.any || x.lastSeq != m.seqid then .next s
  else if x.busy then .next (s.modMbx m.mbx.val fun x => { x with overrun := true })
  else .next (replay m.mbx.val (ring (le x.saved 2 2) m s))

/-- A RING that arrives while BUSY (R380). -/
def execMailboxOverrun (mbx : Nat) (s : State) : Out :=
  .next (if (s.mbx mbx).busy then s.modMbx mbx fun x => { x with overrun := true } else s)

/-- A field of a request that must be zero: E_RANGE at the offset of the field. (DEDUCED, log entry 51). -/
def rsvd (b : Bytes) (off n : Nat) : Option Reply := need (zeroAt b off n) (.range off)

/-- A 2-byte PEAL or TAG field: bits 15:12 reserved. -/
def id12 (b : Bytes) (off : Nat) : Option Reply := need (decide (le b off 2 < 4096)) (.range off)

end Sys2Proof.Machine
end

