-- ==== Sys2Proof/Machine/Lanes.lean ====
section
/-! DEFINITION. Machine/Lanes.lean: what a lane receives and sends: link control words, retry, stomps, verdicts, cells, slots (chapters 02, 03, 05). -/
namespace Sys2Proof.Machine

/-! The link control word (R40). -/
def lcwF (w : BitVec 128) (lo n : Nat) : Nat := field w.toNat lo n

/-- CRC16 of an LCW is good (R40). -/
def lcwOk (w : BitVec 128) : Bool := crc16Bits 0x1021 0xFFFF 112 (w.toNat / 65536) == lcwF w 0 16

/-- Lane count as the 2-bit WIDTH code (R38, R40). -/
def widthCode (w : Nat) : Nat := if w = 8 then 3 else if w = 4 then 2 else if w = 2 then 1 else 0

/-- A lane sends a link block: its LCW is built as things stand (R41), with at most 63 more returns per VC (R43), and the block's bytes go to
the PCS (R31). LANE_IDX is the lane's place in the port (R34). -/
def sendBlock (lane p attempt : Nat) (lsn : BitVec 16) (slots : List TxSlot) (s : State) : State :=
  let q := s.port p
  s.modLane lane fun l =>
    let n (v : Nat) := min 63 (nth l.crOwed v)
    let cr := (List.range 8).map fun v => (nth l.crSent v + n v) % 256
    let w := mkLcw lsn l.ack cr l.rxBad (q.st == .damped || q.st == .fenced) attempt q.st.code (lane - p) (widthCode q.width)
    Lane.emit (blockBytes (slots.map fun t => t.cell.map (·.cell)) w) { l with crSent := cr, crOwed := (List.range 8).map fun v => nth l.crOwed v - n v, txLcw := w }

/-- A STOMP cell (R38, R46): target LSN, slot, lane position, LINK and TAIL. (DEDUCED, log entry 36). -/
def stompCell (vc lsn slot pos : Nat) (link tail : Bool) : Cell :=
  mkCell tStomp vc 0 false false 0 0 0
    (place lsn 43 16 + place slot 39 4 + place pos 36 3 + place (b2n link) 35 1 + place (b2n tail) 34 1) []

/-! Booking of slots (R459 to R461). -/

/-- Book a slot of a port under a kind (an index of the PORT section). -/
def book (p kind n : Nat) (s : State) : State :=
  if n = 0 then s else bumpPortN p kind n (bumpPortN p 26 n s)

/-- Book the slots of an acknowledged block: RETIRED, or WASTED where a STOMP named the cell or the slot carried one (R460). -/
def bookBlock (p : Nat) (b : TxBlock) (s : State) : State :=
  let cells := b.slots.filter fun t => t.cell.isSome
  let waste := cells.filter fun t => t.stomped || (match t.cell with | some c => c.cell.typ == tStomp | none => false)
  book p 28 waste.length (book p 27 (cells.length - waste.length) s)

/-! Stamps (R365, R366). -/

/-- Keep the latest T1 of a sequence number; older than 10 µs is of no use any more (R365). -/
def noteStamp (seq t1 now : Nat) (l : List Stamp) : List Stamp :=
  (l.filter fun x => x.seq != seq && decide (now ≤ x.at_ + 10000)) ++ [⟨seq, t1, now⟩]

/-- A cell whose stamp bytes the transmit PCS writes: TIMING REQ and RESP, PROBE and PROBE_ECHO (R366, R299). -/
def stamped (c : Cell) : Bool := (c.typ == tTiming && (c.tmsgT == 1 || c.tmsgT == 2)) || (c.typ == tTwin && (c.tmsg == 0x0F || c.tmsg == 0x10))

/-- The transmit stamp: network time into bytes 0 to 9 and a new CRC-32C; a request's T1 is recorded. -/
def stampTx (p : Nat) (c : BufCell) (s : State) : BufCell × State :=
  if !stamped c.cell then (c, s)
  else
    let body := putBytes c.cell.payload 0 (toLE 10 s.nt)
    let x : Cell := { c.cell with payload := body }
    let x := { x with crc := BitVec.ofNat 32 x.crcOf }
    let req := if x.typ = tTiming then (if x.tmsgT = 1 then some (x.f 40 16) else none) else if x.tmsg = 0x0F then some (le x.payload 10 2) else none
    let s := match req with | some q => s.modPort p fun y => { y with stamps := noteStamp q s.nt s.now y.stamps } | none => s
    ({ c with cell := x }, s)

/-- The slots of a block that is sent again, with fresh stamps (R366). -/
def restampSlots (p : Nat) (ts : List TxSlot) (s : State) : List TxSlot × State :=
  ts.foldl (fun a t => match t.cell with
    | some c => let (c, s) := stampTx p c a.2; (a.1 ++ [{ t with cell := some c }], s)
    | none => (a.1 ++ [t], a.2)) ([], s)

/-- The blocks of a lane that are sent again, with fresh stamps and LCWs built again (R41, R366). -/
def resend (lane p attempt : Nat) (again : List TxBlock) (s : State) : State :=
  forAll again s fun s b =>
    let (ts, s) := restampSlots p b.slots s
    sendBlock lane p attempt b.lsn ts (s.modLane lane fun l => { l with unacked := l.unacked.map fun x => if x.lsn = b.lsn then { x with slots := ts, attempt := attempt } else x })

/-! Retry on the sending side (R48, R49). -/

/-- Start an attempt for the blocks from `lsn` on: they are sent again with the next ATTEMPT, and their earlier slots are
WASTED (R460). A fifth attempt does not exist: the port enters DAMPED (R49). None starts
in the last 0.5 µs before a circuit edge (R350). -/
def startAttempt (lane p : Nat) (lsn : BitVec 16) (s : State) : State :=
  let l := s.lane lane
  if isCircuit s p && (s.circOf p).armed && !(s.circOf p).resend then s else
  let again := l.unacked.filter fun b => decide ((b.lsn - lsn).toNat < 128)
  match again.head? with
  | none => s.modLane lane fun l => { l with nakSeen := true }
  | some b =>
    if 4 ≤ b.attempt then linkFault p 7 s
    else
      let n := ((again.map fun b => (b.slots.filter fun t => t.cell.isSome).length).foldl (· + ·) 0)
      let s := resend lane p (b.attempt + 1) again (s.modLane lane fun l => { l with nakSeen := true, attempt := b.attempt + 1 })
      book p 28 n (bump 0x03 lane 7 s)

/-- An LCW asks for a resend (R48): the first NAK starts an attempt. One for a block sent with ATTEMPT 4 takes the port to DAMPED (R49). -/
def onNak (lane p : Nat) (lsn : BitVec 16) (s : State) : State :=
  let l := s.lane lane
  if l.unacked.any fun b => b.lsn == lsn && decide (4 ≤ b.attempt) then linkFault p 7 s
  else if l.nakSeen then s
  else startAttempt lane p lsn s

/-! Stomps (R45, R46). -/

/-- A buffered cell came in at a lane, block and slot. -/
def cameFrom (lane : Nat) (lsn : BitVec 16) (slot : Nat) (c : BufCell) : Bool :=
  c.org.port.isSome && c.org.lane == lane && c.org.lsn == lsn && c.org.slot == slot

/-- A slot a cell has left in: output port, lane, LSN, slot, and the cell. -/
structure SentAt where
  out  : Nat
  lane : Nat
  lsn  : BitVec 16
  slot : Nat
  cell : BufCell
  deriving DecidableEq, Repr

/-- Where cells matching `f` have been sent and not stomped since. -/
def sentPlaces (s : State) (f : BufCell → Bool) : List SentAt :=
  (s.lanes.map fun e => (e.2.kept.map fun b => (b.slots.mapIdx fun i t => (i, t)).filterMap fun x => match x.2.cell with
    | some c => if !x.2.stomped && f c then some ⟨(portOfLane s e.1).getD e.1, e.1, b.lsn, x.1, c⟩ else none
    | none => none).flatten).flatten

/-- The cells matching `f` still in a buffer and not started on any output: in VOQs, express queues, pending lists, at
policers, in transmit stores, at peal ports' queues and in stashes. -/
def bufferedCells (s : State) (f : BufCell → Bool) : List BufCell :=
  ((s.blocks.map fun e => e.2.queued ++ e.2.express.map (·.2) ++ e.2.pend.map (·.2) ++ e.2.pealIn ++ ((e.2.alloc.map fun a => a.copies.map (·.2)).flatten)).flatten
    ++ (s.ports.map fun e => (e.2.held.map (·.2)).flatten ++ (e.2.store.map (·.2)).flatten ++ e.2.vc0).flatten
    ++ (s.sched.trains.map (·.cells)).flatten ++ s.sched.hub.filterMap (fun x => match x with | .control _ c => some c | _ => none)
    ++ (s.circ.map fun e => (e.2.queues.map fun q => q.2.wait.map (·.cell)).flatten ++ e.2.writer.map (·.2)).flatten).filter f

/-- Change every buffered cell matching `f` by `g`; `none` removes it. A cell taken out of a transmit store, or of a train on its way there,
gives back the credit and, for the train, the store entry reserved for it (R83, R84). -/
def editBuffered (f : BufCell → Bool) (g : BufCell → Option BufCell) (s : State) : State :=
  let ed (c : BufCell) : Option BufCell := if f c then g c else some c
  let edL (l : List BufCell) : List BufCell := l.filterMap ed
  let edT (t : Tbl (List BufCell)) : Tbl (List BufCell) := t.map fun e => (e.1, edL e.2)
  let lost (l : List BufCell) : Nat := l.length - (edL l).length
  let inTrains (p v : Nat) : Nat := ((s.sched.trains.filter fun t => t.port == p && t.vc == v).map fun t => lost t.cells).foldl (· + ·) 0
  let gone (p : Nat) (q : Port) (v : Nat) : Nat := if isCircuit s p then 0 else lost (q.store.look v []) + inTrains p v
  { s with
    blocks := s.blocks.map fun e => (e.1, { e.2 with
      voqs := edT e.2.voqs
      express := e.2.express.filterMap fun x => (ed x.2).map fun c => (x.1, c)
      pend := e.2.pend.filterMap fun x => (ed x.2).map fun c => (x.1, c)
      await := edL e.2.await
      pealIn := edL e.2.pealIn
      alloc := (e.2.alloc.map fun a => { a with copies := a.copies.filterMap fun x => (ed x.2).map fun c => (x.1, c) }).filter fun a => !a.copies.isEmpty })
    ports := s.ports.map fun e => (e.1, { e.2 with
      held := edT e.2.held, store := edT e.2.store, vc0 := edL e.2.vc0
      resvCred := (List.range 8).map fun v => nth e.2.resvCred v - gone e.1 e.2 v
      resvStore := e.2.resvStore - (if isCircuit s e.1 then 0 else ((List.range 8).map (inTrains e.1)).foldl (· + ·) 0) })
    sched := { s.sched with
      trains := s.sched.trains.map fun t => { t with cells := edL t.cells }
      hub := s.sched.hub.filterMap fun x => match x with | .control b c => (ed c).map fun c => .control b c | _ => some x }
    circ := s.circ.map fun e => (e.1, { e.2 with
      queues := e.2.queues.map fun q => (q.1, { q.2 with wait := q.2.wait.filterMap fun x => (ed x.cell).map fun c => { x with cell := c } })
      writer := e.2.writer.filterMap fun x => (ed x.2).map fun c => (x.1, c) }) }

/-- Two cells are the same but for CM, HOPS and COLOR. -/
def sameCell (a b : Cell) : Bool :=
  a.crc == b.crc && a.payload == b.payload && setField (setField a.hdr.toNat 118 1 0) 111 5 0 == setField (setField b.hdr.toNat 118 1 0) 111 5 0

/-- A STOMP names a contribution that a home of this chip has taken (R216): one not yet committed fails its verdict, one
committed counts LATE_STOMP, one that was never accepted counts nothing. -/
def stompContrib (c : Cell) (s : State) : State :=
  if c.typ != tContrib || !forChip s c.dst || (s.peal c.flow).st == .free then s
  else
    let pl := s.peal c.flow
    let hit (u : Undo) : Bool := sameCell u.cell c
    if s.spine.cores.any fun e => e.2.ring.any hit then
      { s with spine := { s.spine with cores := s.spine.cores.map fun e => (e.1, { e.2 with ring := e.2.ring.map fun u => if hit u then { u with bad := true } else u }) } }
    else
      let w := pl.win ((pl.fas.look? c.src).getD 0)
      let committed := pl.isOpen && c.round == pl.round && (pl.fas.look? c.src).isSome && (decide (c.index < w.ack) || w.got.contains c.index)
      if committed then bumpPeal c.flow 38 1 s else s

/-- A cell a stash queue has sent goes back to its head. -/
def StashQ.again (c : BufCell) (q : StashQ) : StashQ :=
  match q.sent.find? fun x => x.cell.ent == c.ent with
  | some x => { q with wait := { x with cell := c } :: q.wait, sent := q.sent.filter fun y => y.cell.ent != c.ent }
  | none => q

/-- A cell waits again at the head of its queue toward an output it had been sent on (R45): its VOQ, the port's VC0 queue, or the
wait queue of a circuit's stash. (DESIGN CHOICE, log entry 155). -/
def requeueOut (out : Nat) (c : BufCell) (s : State) : State :=
  if isCircuit s out then
    s.modCirc out fun k => { k with queues := k.queues.map fun e => (e.1, e.2.again c) }
  else if c.cell.vc = 0 ∨ isWelt out then
    s.modPort out fun q => if c.cell.vc = 0 then { q with vc0 := c :: q.vc0 }
      else { q with store := q.store.upd c.cell.vc [] fun l => c :: l, resvCred := setNth 8 q.resvCred c.cell.vc (nth q.resvCred c.cell.vc + 1) }
  else
    let n := match c.org.port with | some p => blockOf p | none => blockOf out
    let (id, s) := newEnt n s
    s.modBlock n fun b => { b with voqs := b.voqs.upd (vkey out c.cell.vc) [] fun l => { c with ent := id, shared := true } :: l }

/-- Mark a slot as named by a STOMP. -/
def markStomped (g : SentAt) (s : State) : State :=
  let mark (ts : List TxSlot) : List TxSlot := ts.mapIdx fun i t => if i = g.slot then { t with stomped := true } else t
  let markB (l : List TxBlock) : List TxBlock := l.map fun b => if b.lsn = g.lsn then { b with slots := mark b.slots } else b
  s.modLane g.lane fun l => { l with txOpen := if l.txLsn = g.lsn then mark l.txOpen else l.txOpen, unacked := markB l.unacked, acked := markB l.acked }

/-- Queue a STOMP on the output that sent a cell (R46), and count it on the lane. TARGET_LANE is the lane's place in the port. (DEDUCED, log entry 36). -/
def stompSent (tail : Bool) (g : SentAt) (s : State) : State :=
  let s := s.modLane g.lane fun l => { l with stomps := l.stomps + 1 }
  bump 0x03 g.lane 5 (s.modPort g.out fun q => { q with stomps := q.stomps ++ [stompCell g.cell.cell.vc g.lsn.toNat g.slot (g.lane - g.out) false tail] })

/-- The cells of a VC that left a port after a place, in port-slot order (R35), that no STOMP has named: the next hop discards them on a
STOMP with TAIL = 1. -/
def followers (s : State) (g : SentAt) : List SentAt :=
  let base := g.lsn
  let key (x : SentAt) : Nat := ((x.lsn - base).toNat * 16 + x.slot) * 8 + (x.lane - g.out)
  let xs := (sentPlaces s fun c => c.cell.vc == g.cell.cell.vc && c.cell.typ != tStomp).filter fun x =>
    x.out == g.out && decide ((x.lsn - base).toNat < 32768) && decide (key g < key x)
  xs.foldl (fun l x => (l.takeWhile fun y => decide (key y ≤ key x)) ++ x :: l.dropWhile fun y => decide (key y ≤ key x)) []

/-- STOMPs for the places cells have left at (R45, R46). With TAIL = 1 the cells of the VC sent after them are discarded by the next hop too:
they wait again at the heads of their queues, in their order. -/
def stompPlaces (gs : List SentAt) (tail : Bool) (s : State) : State :=
  let s := forAll gs s fun s g => markStomped g s
  let s := forAll gs s fun s g => stompSent tail g s
  if !tail then s
  else
    let rest := (gs.map (followers s)).flatten.eraseDups
    let s := forAll rest s fun s g => markStomped g s
    forAll rest.reverse s fun s g => requeueOut g.out g.cell s

/-- A slot that takes a credit (R38). -/
def credited (c : Cell) : Bool := c.typ != tIdle && c.typ != tStomp

/-- Take a received cell out of the chip: out of the lane's receive buffer and of every buffer, counted; answers where it had been sent.
`again` says that a resend which debits nothing will bring it once more: its credit is then not returned, and where it has been, a
later return is withheld. (DESIGN CHOICE, log entry 151). -/
def withdraw (lane : Nat) (again : Bool) (x : RxCell) (s : State) : List SentAt × State :=
  let l := s.lane lane
  let mine (y : RxCell × Bool) : Bool := y.1.lsn == x.lsn && y.1.slot == x.slot
  if l.rxq.any mine then
    let s := s.modLane lane fun l => { l with rxq := l.rxq.filter fun y => !mine y }
    let s := if credited x.cell && !again then s.modLane lane (Lane.owe x.cell.vc) else s
    ([], if again && x.cell.crcOk then s else countDiscard (portOfLane s lane) causeCrc s)
  else
    let f := cameFrom lane x.lsn x.slot
    let here := bufferedCells s f
    let gone := sentPlaces s f
    let s := if here.isEmpty && gone.isEmpty then stompContrib x.cell s else s
    let s := editBuffered f (fun _ => none) s
    let s := if here.isEmpty && x.cell.crcOk then s else countDiscard (portOfLane s lane) causeCrc s
    let s := match here.find? fun c => !c.shared with
      | some c => if again then freeRoom c.org s else returnCredit c.org s
      | none => if again && credited x.cell then s.modLane lane fun l => { l with crHold := setNth 8 l.crHold x.cell.vc (nth l.crHold x.cell.vc + 1) } else s
    (gone, s)

/-- Withdraw several received cells, and stomp those already sent (R46). -/
def withdrawAll (again tail : Bool) (xs : List (Nat × RxCell)) (s : State) : State :=
  let (gs, s) := xs.foldl (fun (a : List SentAt × State) x => let (g, s) := withdraw x.1 again x.2 a.2; (a.1 ++ g, s)) ([], s)
  stompPlaces gs tail s

/-- The received cells of a port after a slot, in port-slot order: LSN after the target's, then slot, then lane position. Those still in
their lanes' receive buffers have not come to the STOMP yet. -/
def laterOn (s : State) (p : Nat) (lsn : BitVec 16) (slot pos : Nat) : List (Nat × RxCell) :=
  ((lanesOf s p).map fun l => ((s.lane l).fates.map fun f => (l, f))).flatten.filter fun x =>
    let d := (x.2.lsn - lsn).toNat
    !((s.lane x.1).rxq.any fun y => y.1.lsn == x.2.lsn && y.1.slot == x.2.slot)
      && decide (d < 32768) && (decide (0 < d) || decide (slot < x.2.slot) || (x.2.slot == slot && decide (pos < (s.lane x.1).pos)))

/-- A STOMP names a cell received on the port of this lane (R46). -/
def onStomp (lane : Nat) (c : Cell) (s : State) : State :=
  match portOfLane s lane with
  | none => s
  | some p =>
    let s := bump 0x03 lane 6 s
    let lsn := BitVec.ofNat 16 (c.f 43 16)
    let slot := c.f 39 4
    let pos := c.f 36 3
    let tail := bit c.hdr.toNat 34
    let tl := ((lanesOf s p).find? fun l => (s.lane l).pos == pos).getD lane
    match (s.lane tl).fates.find? fun f => f.lsn == lsn && f.slot == slot with
    | none => linkFault p 9 s
    | some f =>
      let rest := if tail then (laterOn s p lsn slot pos).filter fun x => x.2.cell.vc == f.cell.vc && credited x.2.cell else []
      withdrawAll false tail ((tl, f) :: rest) s

/-- A LINK STOMP: rewind and resend from the LSN it names (R48). -/
def onLinkStomp (lane : Nat) (c : Cell) (s : State) : State :=
  match portOfLane s lane with
  | none => s
  | some p => startAttempt lane p (BitVec.ofNat 16 (c.f 43 16)) (bump 0x03 lane 6 s)

/-- A STOMP the link may act on (R38, R39): no reserved bits, and VC0 where LINK is set. -/
def stompOk (s : State) (c : Cell) : Bool := !c.reserved s.cellFmt && (!bit c.hdr.toNat 35 || c.vc == 0)

/-- A STOMP or LINK STOMP in a slot of a port (R39, R46, R48, R59): acted on in UP, CHECK and QUARANTINE, discarded and counted in DAMPED
and FENCED and where its encoding is reserved, nothing in the other states. -/
def takeStomp (lane p : Nat) (c : Cell) (s : State) : State :=
  let st := (s.port p).st
  if st == .damped || st == .fenced then countDiscard (some p) causePortState s
  else if !faultable st then s
  else if !stompOk s c then countDiscard (some p) causeEncoding s
  else if bit c.hdr.toNat 35 then onLinkStomp lane c s
  else onStomp lane c s

/-- A STOMP arrives (R46). -/
def execStompReceive (lane : Nat) (cell : Cell) (s : State) : Out :=
  match portOfLane s lane with
  | none => .next s
  | some p => .next (if cell.typ == tStomp && !bit cell.hdr.toNat 35 && Cell.ok cell && cell.crcOk then takeStomp lane p cell s else s)

/-- A LINK STOMP arrives (R48). -/
def execLinkStompReceive (lane : Nat) (cell : Cell) (s : State) : Out :=
  match portOfLane s lane with
  | none => .next s
  | some p => .next (if cell.typ == tStomp && bit cell.hdr.toNat 35 && Cell.ok cell && cell.crcOk then takeStomp lane p cell s else s)

/-- Neither ACK nor NAK came within 250 ns + 2F (R48). -/
def execRetryTimeout (lane : Nat) (s : State) : Out :=
  match portOfLane s lane, (s.lane lane).unacked.head? with
  | some p, some b => .next (startAttempt lane p b.lsn s)
  | _, _ => .next s

/-! Policing (R144, R145). -/

/-- Fields of POLICER[v] in a QoS record (R140): CIR, PIR, CBS, PBS and the flags. -/
def polF (qos : Bytes) (v : Nat) : Nat × Nat × Nat × Nat × Nat :=
  let o := 8 + 16 * v
  (le qos o 3, le qos (o + 4) 3, field (le qos (o + 8) 4) 0 20, field (le qos (o + 12) 4) 0 20, byteAt qos (o + 3))

/-- The meter of R144 and its verdict (R145): the colour to write and the buckets after it, or none to hold. -/
def meter (flags tc tp color : Nat) : Option (Nat × Nat × Nat) :=
  let aware := bit flags 1
  let redPass := bit flags 2
  if aware && color == 2 then
    if redPass then some (2, tc, tp) else if 256 ≤ tp then some (2, tc, tp - 256) else none
  else
    let out := if aware && color == 1 then (if 256 ≤ tp then 1 else 2) else if tp < 256 then 2 else if tc < 256 then 1 else 0
    if out = 0 then some (0, tc - 256, tp - 256)
    else if out = 1 then some (1, tc, tp - 256)
    else if redPass then some (2, tc, tp) else none

/-- A cell that has passed its policer goes on: a link-local cell is consumed by its port (R101), another is looked up in its block. -/
def passCell (n : Nat) (c : BufCell) (s : State) : State := if c.cell.linkLocal then returnCredit c.org s else ingress n c s

/-- Meter a cell at its port: it goes on, or waits in the policer's queue. -/
def meterCell (p : Nat) (c : BufCell) (s : State) : Option State :=
  let q := s.port p
  let vc := c.org.vc
  let (_, _, _, _, flags) := polF q.qos vc
  if !bit flags 0 then some (passCell (blockOf p) c s)
  else
    match meter flags (nth q.tc vc) (nth q.tp vc) c.cell.color with
    | none => none
    | some (col, tc, tp) =>
      let s := s.modPort p fun q => { q with tc := setNth 8 q.tc vc tc, tp := setNth 8 q.tp vc tp }
      some (passCell (blockOf p) { c with cell := c.cell.set 111 2 col } s)

/-- A cell that passed the link checks meets its policer; behind a held cell of its VC it waits (R145). -/
def police (p : Nat) (c : BufCell) (s : State) : State :=
  let hold (s : State) : State := bumpPort p 25 (s.modPort p fun q => { q with held := q.held.upd c.org.vc [] fun l => l ++ [c] })
  if !((s.port p).held.look c.org.vc []).isEmpty then hold s
  else match meterCell p c s with | some s => s | none => hold s

/-- Meter the held cells of a VC from the head until one must still wait. -/
def releaseHeld (p vc : Nat) : Nat → State → State
  | 0, s => s
  | n + 1, s =>
    match (s.port p).held.look vc [] with
    | [] => s
    | c :: rest =>
      match meterCell p c (s.modPort p fun q => { q with held := q.held.put vc rest }) with
      | some s => releaseHeld p vc n s
      | none => s

/-- Refill the policer and shaper buckets of a port (R144, R146). -/
def refill (p : Nat) (s : State) : State :=
  s.modPort p fun q =>
    let pol (v : Nat) := polF q.qos v
    { q with
      tc := (List.range 8).map fun v => let (cir, _, cbs, _, fl) := pol v; if bit fl 0 then min (cbs * 256) (nth q.tc v + cir) else nth q.tc v
      tp := (List.range 8).map fun v => let (_, pir, _, pbs, fl) := pol v; if bit fl 0 then min (pbs * 256) (nth q.tp v + pir) else nth q.tp v
      ts := (List.range 8).map fun v =>
        let o := 136 + 8 * (v - 1)
        if v ≠ 0 ∧ bit (byteAt q.qos (o + 3)) 0 then min (field (le q.qos (o + 4) 4) 0 20 * 256) (nth q.ts v + le q.qos o 3) else nth q.ts v }

/-- The refill boundary of a port: buckets refill, then held cells are metered again (R144, R145). -/
def refillBoundary (p : Nat) (s : State) : State :=
  let s := refill p s
  forAll (List.range 8) s fun s v => releaseHeld p v ((s.port p).held.look v []).length s

/-- The bucket levels of a port under a new record (R147): clipped to the new burst where the bucket stays enabled, full where it is newly
enabled. -/
def rebucket (old new : Bytes) (q : Port) : Port :=
  let on (b : Bytes) (v : Nat) : Bool := bit (polF b v).2.2.2.2 0
  let son (b : Bytes) (v : Nat) : Bool := v != 0 && bit (byteAt b (136 + 8 * (v - 1) + 3)) 0
  let level (was is_ : Bool) (burst l : Nat) : Nat := if !is_ then l else if was then min burst l else burst
  let pol (v : Nat) := polF new v
  { q with
    qos := new, qosNext := none
    tc := (List.range 8).map fun v => level (on old v) (on new v) ((pol v).2.2.1 * 256) (nth q.tc v)
    tp := (List.range 8).map fun v => level (on old v) (on new v) ((pol v).2.2.2.1 * 256) (nth q.tp v)
    ts := (List.range 8).map fun v => level (son old v) (son new v) (field (le new (136 + 8 * (v - 1) + 4) 4) 0 20 * 256) (nth q.ts v) }

/-- Install the record that waits for the refill boundary and answer the messages that brought it (R147); a port has only the actions of a
boundary left after it. -/
def installQos (p : Nat) (s : State) : State :=
  match (s.port p).qosNext with
  | some rec =>
    let ms := (s.port p).qosMbx
    let s := s.modPort p fun q => { rebucket q.qos rec q with qosMbx := [] }
    forAll ms s fun s n => answerAt n.val (.ok []) s
  | none => s

/-- The 1,024 ns boundary (R144). (DEDUCED, log entry 40). -/
def execPolicerRefill (port : Nat) (s : State) : Out := .next (if s.hasPort port && !isWelt port then refillBoundary port (installQos port s) else s)

/-- The first refill boundary after a PORT_CONFIG was accepted (R147). (DEDUCED, log entry 40). -/
def execQosRecordInstall (port : Nat) (s : State) : Out :=
  .next (if s.hasPort port && !isWelt port && (s.port port).qosNext.isSome then refillBoundary port (installQos port s) else s)

/-! Receiving cells. -/

/-- The types a fabric port consumes itself in a state (R59). -/
def acceptsIn (st : PState) (welt : Bool) (c : Cell) : Bool :=
  match st with
  | .up => true
  | .check | .quarantine =>
    if welt then c.typ == tTwin && [0x01, 0x0F, 0x10, 0x11].contains c.tmsg
    else c.typ == tDiscovery || c.typ == tTiming
  | _ => false

/-- Release from the held TWIN cells of a VC those that follow in order: the next TSEQ, the cells in order, those still held. -/
def drainTwin (vc : Nat) : Nat → W32 → List Cell → List TwinTx → W32 × List Cell × List TwinTx
  | 0, n, got, held => (n, got, held)
  | k + 1, n, got, held =>
    match held.find? fun h => h.vc == vc && h.tseq == n with
    | some h => drainTwin vc k (n + 1) (got ++ [h.cell]) (held.filter fun x => !(x.vc == vc && x.tseq == n))
    | none => (n, got, held)

/-- Order the sequenced TWIN cells of a VC by TSEQ (R300): one already accepted is discarded, one ahead waits. -/
def acceptTwin (c : Cell) (s : State) : State :=
  let vc := c.vc
  let nxt := BitVec.ofNat 32 (nth s.twin.rxSeq vc)
  let d := (BitVec.ofNat 32 c.tseq - nxt).toNat
  if d = 0 then
    let (n, got, held) := drainTwin vc s.twin.rxHeld.length (nxt + 1) [c] s.twin.rxHeld
    s.modTwin fun t => { t with rxSeq := setNth 8 t.rxSeq vc n.toNat, rxHeld := held, inbox := t.inbox.upd vc [] fun l => l ++ got }
  else if d < 2 ^ 31 then
    if s.twin.rxHeld.any fun h => h.vc == vc && h.tseq == BitVec.ofNat 32 c.tseq then s
    else s.modTwin fun t => { t with rxHeld := t.rxHeld ++ [TwinTx.mk vc (BitVec.ofNat 32 c.tseq) c] }
  else s

/-- A cell that its port accepts (R37, R39, R59): the checks of its encoding and of the port's state, then the policer (or the Welt
ordering). A cell that CHECK or QUARANTINE does not accept is dropped, its credit returned and no cause counted. (DESIGN CHOICE, log entry 156). -/
def judgeCell (p : Nat) (o : Origin) (c : Cell) (s : State) : State :=
  let q := s.port p
  let drop (cause : Nat) : State := returnCredit o (countDiscard (some p) cause s)
  if q.st == .damped || q.st == .fenced then drop causePortState
  else if !vcAllowed c.typ c.vc || (isWelt p) != (c.typ == tTwin) || c.reserved s.cellFmt then drop causeEncoding
  else if !acceptsIn q.st (isWelt p) c then returnCredit o s
  else if isWelt p then
    let s := returnCredit o s
    if [0x01, 0x0F, 0x10, 0x11].contains c.tmsg then s else acceptTwin c s
  else
    let (ent, s) := newEnt (blockOf p) s
    police p { cell := c, org := o, route := .chip, ent := ent, shared := false } s

/-- Take up one slot of a lane, in port-slot order: IDLE carries nothing (a nonzero one is a reserved encoding, R38, R39), a STOMP is
acted on, any other cell takes a place in the credited allocation of its port (R43). -/
def acceptCell (lane p : Nat) (x : RxCell) (s : State) : State :=
  let q := s.port p
  let c := x.cell
  let o : Origin := { port := some p, vc := c.vc, lane := lane, lsn := x.lsn, slot := x.slot }
  if q.st == .down || q.st == .training || q.st == .absent then s
  else if c.typ = tIdle then (if c.hdr == 0 && zeroAt c.payload 0 64 then s else countDiscard (some p) causeEncoding s)
  else if c.typ = tStomp then takeStomp lane p c s
  else
    let s := bumpPort p c.vc s
    let room := q.alloc c.vc + ((lanesOf s p).map fun l => nth (s.lane l).crHold c.vc).foldl (· + ·) 0
    if faultable q.st && decide (room ≤ nth q.inUse c.vc) then linkFault p 8 (bump 0x20 (portEntry p) 0 s)
    else judgeCell p o c (s.modPort p fun q => { q with inUse := setNth 8 q.inUse c.vc (nth q.inUse c.vc + 1) })

/-! The merge of a port's lanes (R35). -/

/-- Slot `(lsn, slot, pos)` comes before another in port-slot order. -/
def slotBefore (a b : BitVec 16 × Nat × Nat) : Bool :=
  let d := (b.1 - a.1).toNat
  if d = 0 then decide (a.2.1 < b.2.1) || (a.2.1 == b.2.1 && decide (a.2.2 < b.2.2)) else decide (d < 32768)

/-- The slot a lane brings next: the first cell in its receive buffer, else the next one it is to receive; while it is in retry, the slot it
waits for. -/
def Lane.next (l : Lane) : BitVec 16 × Nat × Nat :=
  match l.rxq.head? with
  | some x => (x.1.lsn, x.1.slot, l.pos)
  | none => (l.rxLsn, l.rxSlot, l.pos)

/-- The next cell of a port in port-slot order, if it is there and its verdicts are known or not waited for (R35, R44): every other lane has
come past it. -/
def mergeHead (s : State) (p : Nat) : Option (Nat × RxCell) :=
  (lanesOf s p).findSome? fun n =>
    match (s.lane n).rxq.head? with
    | some (x, true) => if (lanesOf s p).any fun m => slotBefore (s.lane m).next (x.lsn, x.slot, (s.lane n).pos) then none else some (n, x)
    | _ => none

/-- Take up the cells of a port in port-slot order as far as they are there; at most `n`. -/
def mergePort (p : Nat) : Nat → State → State
  | 0, s => s
  | n + 1, s =>
    match mergeHead s p with
    | none => s
    | some (lane, x) => mergePort p n (acceptCell lane p x (s.modLane lane fun l => { l with rxq := l.rxq.drop 1 }))

/-- The merge of a port's lanes, as far as it goes. -/
def merge (p : Nat) (s : State) : State := mergePort p (((lanesOf s p).map fun l => (s.lane l).rxq.length).foldl (· + ·) 0) s

/-! Bad blocks (R45, R48, R49). -/

/-- Received slot `x` lies at or after slot `slot` of block `lsn`. -/
def fromSlot (lsn : BitVec 16) (slot : Nat) (x : RxCell) : Bool :=
  let d := (x.lsn - lsn).toNat
  decide (d < 32768) && (decide (0 < d) || decide (slot ≤ x.slot))

/-- The receiver asks for a resend (R48): by NAK in its LCWs until the block arrives, and by a LINK STOMP in the lane's next slot; after
attempt 4 for one LSN the port enters DAMPED (R49). -/
def askResend (lane p : Nat) (s : State) : State :=
  let l := s.lane lane
  let tries := if l.tryLsn = l.rxLsn then l.rxTries else 0
  if 4 ≤ tries then linkFault p 7 s
  else s.modLane lane fun l => { l with rxBad := true, badNow := true, rxTries := tries + 1, tryLsn := l.rxLsn, stage := [], linkStomp := true }

/-- Block `lsn` of a lane is bad from a slot on (R45, R48): what was received from there on is taken back, stomped with TAIL = 1 where it has
gone on, and the block is asked for again. (DESIGN CHOICE, log entry 151). -/
def badFrom (lane p : Nat) (lsn : BitVec 16) (slot : Nat) (s : State) : State :=
  let xs := (s.lane lane).fates.filter (fromSlot lsn slot)
  let s := withdrawAll true true (xs.map fun x => (lane, x)) s
  askResend lane p (s.modLane lane fun l => { l with
    fates := l.fates.filter fun x => !fromSlot lsn slot x
    ended := l.ended.filter fun e => decide (32768 ≤ (e.1 - lsn).toNat)
    rxLsn := lsn, rxFrom := slot, rxSlot := slot })

/-- A codeword that could not be corrected touches a slot. -/
def Lane.ueAt (l : Lane) (blk slot : Nat) : Bool := l.rxUe.any fun w => decide (firstCw blk slot ≤ w) && decide (w ≤ lastCw blk slot)

/-- FEC_SPECULATION is in force on a lane: negotiated, and not given up for too many stomps (R44, R47). -/
def speculating (s : State) (lane : Nat) : Bool := s.host.features.getLsbD 10 && !(s.lane lane).specOff

/-- A cell in a slot of the block a lane is receiving: it goes to the merge at once when the lane speculates, otherwise once the verdicts of
every codeword it touches are known (R44); a CRC-32C that fails then makes the block bad (R45). A slot taken before the block was found
bad is not taken again. -/
def arrive (lane p slot : Nat) (c : Cell) (s : State) : State :=
  let l := s.lane lane
  if slot < l.rxFrom then s
  else
    let x : RxCell := ⟨l.rxLsn, slot, l.rxBlk, c⟩
    let known := decide (lastCw l.rxBlk slot < l.rxCw)
    let near (f : RxCell) : Bool := decide ((l.rxLsn - f.lsn).toNat * 16 + slot < 128 + f.slot) && !(f.lsn == l.rxLsn && f.slot == slot)
    if known && (!c.crcOk || l.ueAt l.rxBlk slot) then badFrom lane p l.rxLsn slot (countDiscard (some p) causeCrc s)
    else merge p (s.modLane lane fun l => { l with rxSlot := slot + 1, fates := l.fates.filter near ++ [x], rxq := l.rxq ++ [(x, known || speculating s lane)] })

/-- The states in which a port receives link blocks. -/
def linked (st : PState) : Bool := faultable st || st == .damped || st == .fenced

/-- A lane out of lock: every block on it is bad (R32). -/
def badUnlocked (lane p : Nat) (s : State) : State :=
  let l := s.lane lane
  if !linked (s.port p).st || l.badNow then s
  else match l.ended.head? with
    | some e => badFrom lane p e.1 0 s
    | none => if l.rxBad then askResend lane p s else badFrom lane p l.rxLsn l.rxSlot s

/-- A cell received in a slot of a lane (R102): while a resend is awaited the cells of each block are kept until its LCW says which
block it is. (DEDUCED, log entry 29). (DESIGN CHOICE, log entry 151). -/
def execCellReceive (lane slot : Nat) (cell : Cell) (s : State) : Out :=
  match portOfLane s lane with
  | none => .next s
  | some p =>
    let l := s.lane lane
    if !laneOk lane || !Cell.ok cell || decide (16 ≤ slot) then .next s
    else if !l.locked then .next (badUnlocked lane p s)
    else if !linked (s.port p).st then .next s
    else if l.rxBad then .next (if l.badNow then s else s.modLane lane fun l => { l with stage := l.stage ++ [(slot, cell)] })
    else .next (arrive lane p slot cell s)

/-! Link control words (R41 to R43, R48, R49). -/

/-- Acknowledge the blocks up to ACK: book their slots; their cells are kept until 128 slots have passed (R46). -/
def ackBlocks (lane p : Nat) (ack : BitVec 16) (s : State) : State :=
  let done := (s.lane lane).unacked.filter fun b => decide ((ack - b.lsn).toNat < 128)
  if done.isEmpty then s
  else
    let s := s.modLane lane fun l => { l with attempt := 0, nakSeen := false, acked := l.acked ++ done, unacked := l.unacked.filter fun b => !decide ((ack - b.lsn).toNat < 128) }
    let ents := ((done.map fun b => b.slots.filterMap fun t => t.cell.map (·.ent)).flatten)
    let s := { s with circ := s.circ.mod p fun c => { c with queues := c.queues.map fun q => (q.1, { q.2 with sent := q.2.sent.filter fun x => !ents.contains x.cell.ent }) } }
    forAll done s fun s b => bookBlock p b s

/-- Take the credits an LCW returns: the differences from the counts last seen, modulo 256 (R43). -/
def takeCredits (lane p : Nat) (w : BitVec 128) (s : State) : State :=
  let now := (List.range 8).map fun v => lcwF w (if v = 0 then 88 else 32 + 8 * (7 - v)) 8
  let old := (s.lane lane).crSeen
  let s := s.modLane lane fun l => { l with crSeen := now }
  s.modPort p fun q => { q with credits := (List.range 8).map fun v => nth q.credits v + (nth now v + 256 - nth old v) % 256 }

/-- The blocks whose verdicts are all in are whole: ACK names the last (R40). -/
def Lane.confirm (l : Lane) : Lane :=
  let whole (e : BitVec 16 × Nat) : Bool := decide (lastCw e.2 16 < l.rxCw)
  match (l.ended.takeWhile whole).getLast? with
  | some e => { l with ack := e.1, ended := l.ended.dropWhile whole, rxTries := if decide ((e.1 - l.tryLsn).toNat < 32768) then 0 else l.rxTries }
  | none => l

/-- The block expected has ended: the next one follows; a codeword that could not be corrected in its LCW makes it bad. -/
def finishBlock (lane p : Nat) (s : State) : State :=
  let l := s.lane lane
  if l.ueAt l.rxBlk 16 then badFrom lane p l.rxLsn 16 s
  else s.modLane lane fun l => Lane.confirm { l with ended := l.ended ++ [(l.rxLsn, l.rxBlk)], rxLsn := l.rxLsn + 1, rxSlot := 0, rxFrom := 0, linkStomp := false }

/-- The cells of a block that proves to be one received before are taken back: a resend that debits nothing has brought them. (DESIGN CHOICE, log entry 151). -/
def dropRepeat (lane : Nat) (s : State) : State :=
  let l := s.lane lane
  let mine (x : RxCell) : Bool := x.lsn == l.rxLsn
  let s := withdrawAll true true ((l.fates.filter mine).map fun x => (lane, x)) s
  s.modLane lane fun l => { l with fates := l.fates.filter fun x => !mine x, rxSlot := 0 }

/-- The receive side at the end of a link block: it is the block expected, the block awaited after a bad one, one received before, or one
too far ahead, which shows that a block was lost (R48). -/
def endBlock (lane p : Nat) (lsn : BitVec 16) (attempt : Nat) (s : State) : State :=
  let l := s.lane lane
  let next (s : State) : State := s.modLane lane fun l => { l with rxBlk := l.rxBlk + 1, badNow := false, stage := [], rxUe := l.rxUe.filter fun w => decide (1360 * (l.rxBlk + 1) / 640 ≤ w) }
  next <|
    if l.rxBad then
      if l.badNow || lsn != l.rxLsn then s
      else
        let s := s.modLane lane fun l => { l with rxBad := false, stage := [], rxSlot := l.rxFrom, rxTries := max l.rxTries attempt }
        let s := forAll l.stage s fun s x => if (s.lane lane).rxBad then s else arrive lane p x.1 x.2 s
        if (s.lane lane).rxBad then s else merge p (finishBlock lane p s)
    else if lsn = l.rxLsn then merge p (finishBlock lane p s)
    else if (l.rxLsn - lsn).toNat < 32768 then dropRepeat lane s
    else badFrom lane p l.rxLsn 0 s

/-- The peer's state in an LCW: an UP port whose peer is not UP in PEER_STATE_LCWS consecutive ones goes to CHECK (R60). The good LCWs of
all lanes of the port count together, those in CHECK too; the value is the one in force when the count began (R63). (DESIGN CHOICE, log entry 157). -/
def peerState (p code : Nat) (s : State) : State :=
  let s := s.modPort p fun q => { q with
    peerSt := code
    peerOut := if code = 4 then 0 else q.peerOut + 1
    peerMax := if code = 4 then none else if q.peerOut = 0 then some (sm s 0x20 2) else q.peerMax }
  let q := s.port p
  if q.st == .up && decide (q.peerMax.getD (sm s 0x20 2) ≤ q.peerOut) then enter p .check 13 s
  else tryUp p s

/-- An LCW is lost: its CRC16 fails, or its lane is out of lock. The fourth in a row is as retry exhaustion (R43). (DEDUCED, log entry 35). -/
def loseLcw (lane p : Nat) (s : State) : State :=
  let s := s.modLane lane fun l => { l with lostLcws := l.lostLcws + 1 }
  if 4 ≤ (s.lane lane).lostLcws then linkFault p 8 s else s

/-- In TRAINING a lane takes from an LCW where the peer's sequence stands, and which lane of the port it is (R34). (DEDUCED, log entry 35). -/
def syncLane (lane p : Nat) (w : BitVec 128) (s : State) : State :=
  let lsn := BitVec.ofNat 16 (lcwF w 112 16)
  s.modLane lane fun l => { l with
    rxLsn := lsn + 1, ack := lsn, rxSlot := 0, rxFrom := 0, rxBlk := l.rxBlk + 1
    pos := if lcwF w 19 2 = widthCode (s.port p).width then lcwF w 21 3 else l.pos }

/-- A link control word arrives (R41): one whose CRC16 is good acts whatever became of the cells of its block; one whose CRC16 fails counts
as lost, and its block as the one expected. (DEDUCED, log entry 35). -/
def execLcwReceive (lane : Nat) (lcw : BitVec 128) (s : State) : Out :=
  match portOfLane s lane with
  | none => .next s
  | some p =>
    let st := (s.port p).st
    if st == .down || st == .absent then .next s
    else if !(s.lane lane).locked then .next (loseLcw lane p (badUnlocked lane p s |>.modLane lane fun l => { l with badNow := false }))
    else if !lcwOk lcw then
      let s := bump 0x03 lane 4 s
      let s := if st == .training then s else endBlock lane p (s.lane lane).rxLsn 0 s
      .next (loseLcw lane p s)
    else
      let s := s.modLane lane fun l => { l with lostLcws := 0 }
      let s := if st == .training then syncLane lane p lcw s else endBlock lane p (BitVec.ofNat 16 (lcwF lcw 112 16)) (lcwF lcw 27 3) s
      let s := ackBlocks lane p (BitVec.ofNat 16 (lcwF lcw 96 16)) s
      let s := takeCredits lane p lcw s
      let s := if bit lcw.toNat 31 then onNak lane p (BitVec.ofNat 16 (lcwF lcw 96 16 + 1)) s else s.modLane lane fun l => { l with nakSeen := false }
      let s := s.modPort p fun q => { q with refused := bit lcw.toNat 30 }
      .next (peerState p (lcwF lcw 24 3) s)

/-- Four consecutive LCWs of a lane are lost: as retry exhaustion (R43). (DEDUCED, log entry 35). -/
def execLcwLoss (lane : Nat) (s : State) : Out :=
  match portOfLane s lane with
  | some p => .next (linkFault p 8 (s.modLane lane fun l => { l with lostLcws := 4 }))
  | none => .next s

/-! FEC verdicts (R44, R45). -/

/-- The corrected header of a cell that has gone on is routed again, and the cell waits at the head of its queue (R45). -/
def rerouteHead (p : Nat) (o : Origin) (c : Cell) (s : State) : State :=
  let n := blockOf p
  let s := s.modPort p fun q => { q with inUse := setNth 8 q.inUse o.vc (nth q.inUse o.vc + 1) }
  match epochBank s.fabric c.epoch with
  | none => returnCredit o (countDiscard (some p) causeStale s)
  | some bank =>
    let (ent, s) := newEnt n s
    let b : BufCell := { cell := c, org := o, route := .chip, ent := ent, shared := false }
    if c.isMcast || !admitted s b then ingress n b s
    else
      match routeUnicast n bank c s with
      | (.to out r, s) => requeueOut out { b with cell := hop c, route := r } (returnCredit o s)
      | (r, s) => applyRoute n b r s

/-- Replace a TWIN cell already taken in order (R300). -/
def patchTwin (old c : Cell) (s : State) : State :=
  s.modTwin fun t => { t with
    inbox := t.inbox.map fun e => (e.1, e.2.map fun x => if x = old then c else x)
    rxHeld := t.rxHeld.map fun h => if h.cell = old then { h with cell := c } else h }

/-- A verdict changed bytes of a received cell (R45). One still in the lane's receive buffer, or not sent yet and with its header right, is
patched. One with a changed header is withdrawn and routed again. Where it has been sent, each output sends a STOMP, with TAIL = 1
if the header changed or SPRAY is clear, and the corrected cell waits again at the head of its queue. A cell the chip had consumed is
taken again. (DESIGN CHOICE, log entry 155). -/
def verdictCell (lane p blk slot : Nat) (c : Cell) (s : State) : State :=
  let l := s.lane lane
  match l.fates.find? fun x => x.blk == blk && x.slot == slot with
  | none => if l.rxBad && blk == l.rxBlk then s.modLane lane fun l => { l with stage := l.stage.map fun x => if x.1 = slot then (slot, c) else x } else s
  | some old =>
    let same (x : RxCell) : Bool := x.blk == blk && x.slot == slot
    let s := s.modLane lane fun l => { l with fates := l.fates.map fun x => if same x then { x with cell := c } else x }
    if l.rxq.any fun x => same x.1 then
      s.modLane lane fun l => { l with rxq := l.rxq.map fun x => if same x.1 then ({ x.1 with cell := c }, x.2) else x }
    else
      let f := cameFrom lane old.lsn slot
      let gone := sentPlaces s f
      let here := bufferedCells s f
      let o : Origin := { port := some p, vc := c.vc, lane := lane, lsn := old.lsn, slot := slot }
      if old.cell.hdr != c.hdr || (here.isEmpty && gone.isEmpty) then
        if isWelt p && old.cell.hdr == c.hdr then patchTwin old.cell c s
        else if c.linkLocal && old.cell.hdr == c.hdr then s
        else
          let (gs, s) := withdraw lane true old s
          if gs.isEmpty then acceptCell lane p { old with cell := c } s
          else rerouteHead p o c (stompPlaces gs true s)
      else
        let patch (b : BufCell) : BufCell := { b with cell := { b.cell with payload := c.payload, crc := c.crc } }
        let s := stompPlaces gone (!c.spray) (editBuffered f (fun b => some (patch b)) s)
        forAll gone s fun s g => requeueOut g.out (patch g.cell) s

/-- Where a codeword that could not be corrected makes a block bad: the block it begins in, or else the one it ends in, if the lane still
holds either for good. -/
def ueSlot (l : Lane) (cw : Nat) : Option (BitVec 16 × Nat) :=
  let lsnOf (blk : Nat) : Option (BitVec 16) := if blk = l.rxBlk then (if l.rxBad then none else some l.rxLsn) else (l.ended.find? fun e => e.2 == blk).map (·.1)
  let (blk, slot) := cwSlot cw
  match lsnOf blk with
  | some n => some (n, slot)
  | none => if blk < (640 * cw + 639) / 1360 then (lsnOf (blk + 1)).map fun n => (n, 0) else none

/-- The verdict on a lane's next codeword (R44, R45): what it corrected is patched, withdrawn or stomped; then the CRC-32C of every cell
whose verdicts are now complete is judged, cells that waited go on, and whole blocks are acknowledged. -/
def execCodewordVerdict (lane : Nat) (v : Verdict) (s : State) : Out :=
  match portOfLane s lane with
  | none => .next s
  | some p =>
    let s := bump 0x03 lane 0 s
    let s := if v.symbols ≠ 0 then bumpN 0x03 lane 2 v.symbols (bump 0x03 lane 1 s) else s
    let cw := (s.lane lane).rxCw
    let s := s.modLane lane fun l => { l with rxCw := cw + 1 }
    let s := if v.uncorrectable then
        let s := bump 0x03 lane 3 (s.modLane lane fun l => { l with rxUe := l.rxUe ++ [cw] })
        match ueSlot (s.lane lane) cw with
        | some (n, slot) => if linked (s.port p).st then badFrom lane p n slot s else s
        | none => s
      else forAll v.changed s fun s x => verdictCell lane p ((cwSlot cw).1 + x.1) x.2.1 x.2.2 s
    let s := match (s.lane lane).fates.find? fun x => decide (lastCw x.blk x.slot = cw) && !x.cell.crcOk with
      | some x => badFrom lane p x.lsn x.slot s
      | none => s
    .next (merge p (s.modLane lane fun l => Lane.confirm { l with rxq := l.rxq.map fun x => (x.1, x.2 || decide (lastCw x.1.blk x.1.slot < l.rxCw)) }))

/-! Sending (R86, R142, R303, R348, R461). -/

/-- WEIGHT[v] of a port (R139); the fixed weights of Welt ports (R303). (DESIGN CHOICE, log entry 34). -/
def portWeight (p : Nat) (q : Port) (v : Nat) : Nat :=
  if isWelt p then nth [0, 16, 128, 32, 48, 8, 1, 8] v else byteAt q.qos (v - 1)

/-- The weights of a port now, by VC. -/
def portWeights (p : Nat) (q : Port) : List Nat := (List.range 8).map fun v => if v = 0 then 0 else portWeight p q v

/-- The weight of a VC in the round under way: new weights count from the next round (R147). -/
def roundWeight (p : Nat) (q : Port) (v : Nat) : Nat := if q.roundW.isEmpty then portWeight p q v else nth q.roundW v

/-- A shaped VC has a token, or is not shaped (R146). -/
def shaperOk (q : Port) (v : Nat) : Bool := !bit (byteAt q.qos (136 + 8 * (v - 1) + 3)) 0 || decide (256 ≤ nth q.ts v)

/-- A VC takes part in R142. -/
def vcReady (p : Nat) (q : Port) (v : Nat) : Bool :=
  !(q.store.look v []).isEmpty && decide (1 ≤ nth q.credits v) && (isWelt p || shaperOk q v)

/-- Deficit-weighted round robin (R142): stay on the VC being visited while its deficit lasts, else visit the next; a round begins with
VC1 and takes the weights then in force (R147). (DESIGN CHOICE, log entry 34). -/
def wdrr (p : Nat) : Nat → Port → Option (Nat × Port)
  | 0, _ => none
  | n + 1, q =>
    let v := q.visit
    if vcReady p q v && decide (1 ≤ nth q.deficit v) then some (v, { q with deficit := setNth 8 q.deficit v (nth q.deficit v - 1) })
    else
      let w := if v ≥ 7 then 1 else v + 1
      let q := if w = 1 then { q with roundW := portWeights p q } else q
      let d := if vcReady p q w then min (2 * roundWeight p q w) (nth q.deficit w + roundWeight p q w) else nth q.deficit w
      wdrr p n { q with visit := w, deficit := setNth 8 q.deficit w d }

/-- VC deficits of VCs without a cell in the store are 0 (R142). -/
def clearDeficits (q : Port) : Port :=
  { q with deficit := (List.range 8).map fun v => if (q.store.look v []).isEmpty then 0 else nth q.deficit v }

/-- The VC0 cell a state lets a port send (R59). -/
def vc0Ready (st : PState) (welt : Bool) (c : BufCell) : Bool :=
  match st with
  | .up => true
  | .check | .quarantine => acceptsIn st welt c.cell
  | .damped | .fenced => if welt then c.cell.tmsg == 0x11 else c.cell.typ == tFence
  | _ => false

/-- A time lies within the credit loop T_loop = 2F + 200 ns of a port before now (R69). F is held in units of 2^-17 ns. -/
def inLoop (s : State) (q : Port) (t : Nat) : Bool :=
  decide ((s.now : Int) * 131072 ≤ (t : Int) * 131072 + 2 * q.flight.getD 0 + 200 * 131072)

/-- EXPECT of R83: what is on its way back. -/
def expectCred (s : State) (p vc : Nat) : Nat :=
  let q := s.port p
  min (16 * q.width) ((q.sentRecent.look vc []).filter (inLoop s q)).length

/-- CRED of R83: credits held less those reserved to CLAIMs. -/
def freeCred (s : State) (p vc : Nat) : Nat := nth (s.port p).credits vc - nth (s.port p).resvCred vc

/-- The ports a multicast cell would be copied to from its input port (R124, R125, R110). -/
def mcastPorts (s : State) (c : BufCell) (bank : Nat) : List Nat :=
  match mcastTargets s c.cell (portRole s (c.org.port.getD 0)) with
  | none => []
  | some ts => ts.filterMap fun t => (hashPick (liveSet s t.tbl t.idx (maskOf s c.cell) (members s t.tbl bank t.idx)) (routeHash c.cell (t.dst.getD c.cell.dst))).map (·.2.1)

/-- VCs of cells held by a port's policers that are bound for a port (R145). -/
def heldFor (s : State) (p : Nat) (e : Nat × Port) : List Nat :=
  (((e.2.held.map (·.2)).flatten).filter fun c =>
    match epochBank s.fabric c.cell.epoch with
    | some bank =>
      if c.cell.linkLocal then false
      else if c.cell.isMcast then (mcastPorts s c bank).contains p
      else (match (routeUnicast (blockOf e.1) bank c.cell s).1 with | .to q _ => q == p | _ => false)
    | none => false).map (·.cell.vc)

/-- VCs of cells for a port that a policer holds, or that an end-to-end window of the chip's own holds back (R93, R145, R154). -/
def heldBack (s : State) (p : Nat) : List Nat :=
  (s.ports.map fun e => heldFor s p e).flatten
    ++ (s.fabric.wins.map fun e => (e.2.cells.filter fun c => !(e.2.granted && precedes c.index e.2.limit)
        && (match (routeUnicast (outBlock p) (s.fabric.epoch % 2) c s).1 with | .to q _ => q == p | _ => false)).map (·.vc)).flatten

/-- VCs with a cell for a port that waits for a queue: in a credited allocation, or a copy pending. -/
def waitingFor (s : State) (p : Nat) : List Nat :=
  (s.blocks.map fun e => ((e.2.alloc.map (·.copies)).flatten ++ e.2.pend).filterMap fun x => if x.1 = p then some x.2.cell.vc else none).flatten

/-- VCs with a cell for a port in a VOQ, an express queue, the port's own queues or the stash. -/
def queuedFor (s : State) (p : Nat) : List Nat :=
  let q := s.port p
  let voqVcs := (s.blocks.map fun e => [1, 2, 3, 4, 5, 6, 7].filter fun v => !(e.2.voqs.look (vkey p v) []).isEmpty).flatten
  let st := [1, 2, 3, 4, 5, 6, 7].filter fun v => !(q.store.look v []).isEmpty
  let x := if q.vc0.isEmpty && s.blocks.all (fun e => !e.2.express.any (·.1 == p)) then [] else [0]
  let c := ((s.circOf p).queues.map fun e => e.2.wait.map fun w => w.cell.cell.vc).flatten
  voqVcs ++ st ++ x ++ c

/-- Some input holds a cell for a port (R461): the VCs of such cells. -/
def offered (s : State) (p : Nat) : List Nat := queuedFor s p ++ waitingFor s p ++ heldBack s p

/-- An input block holds a VOQ for a port behind a seam with no way free (R93). -/
def seamFull (s : State) (p : Nat) : Bool :=
  let j := outBlock p
  s.blocks.any fun e => crosses e.1 j && (e.2.voqs.any fun q => q.1 / 8 == p && !q.2.isEmpty)
    && !floorFree s s.sched.matches_ e.1 j && !generalFree s s.sched.matches_ e.1 j

/-- The region of a block that holds a cell for a port runs below full rate (R18, R93). -/
def belowRate (s : State) (p : Nat) : Bool :=
  s.blocks.any fun e => decide (s.chip.ti.getD (regionOf e.1) 1024 < 1024)
    && (e.2.voqs.any (fun q => q.1 / 8 == p && !q.2.isEmpty) || e.2.express.any (·.1 == p) || e.2.pend.any (·.1 == p) || e.2.alloc.any fun a => a.copies.any (·.1 == p))

/-- The level of a BACK_STARVED slot (R93): 0 lane, 1 block, 2 region, 3 chip; the first cause found, in the order of the table. Peal dispatch
holds back cells for internal peal ports only, which have no slots. (DEDUCED, log entry 126). -/
def starvedLevel (s : State) (p : Nat) : Nat :=
  let q := s.port p
  let vcs := queuedFor s p ++ waitingFor s p
  if vcs.any fun v => freeCred s p v + expectCred s p v == 0 then 0
  else if storeFree s p == 0 || vcs.any (fun v => v != 0 && (!shaperOk q v || s.blocks.any fun e => !(e.2.voqs.look (vkey p v) []).isEmpty && !voqOk s e.1 p v))
      || !(waitingFor s p).isEmpty || !(heldBack s p).isEmpty then 1
  else if seamFull s p || belowRate s p then 2
  else 3

/-- Book a slot that carries no cell (R461, R355). (DEDUCED, log entry 126). -/
def bookEmpty (p : Nat) (s : State) : State :=
  let q := s.port p
  let armed := isCircuit s p && (s.circOf p).armed
  if q.st != .up && !armed then s
  else if 0 < q.debt then book p 28 1 (s.modPort p fun q => { q with debt := q.debt - 1 })
  else if (offered s p).isEmpty then book p 29 1 s
  else if q.st != .up then book p 30 1 s
  else book p (30 + starvedLevel s p) 1 s

/-- A port's wasted-slot debt, capped at 256 per lane; the excess is forgiven (R461). -/
def addDebt (p n : Nat) (s : State) : State :=
  let cap := 256 * (s.port p).width
  let d := (s.port p).debt + n
  let s := s.modPort p fun q => { q with debt := min cap d }
  if cap < d then bumpPortN p 34 (d - cap) s else s

/-- Close a lane's link block when its 16 slots are filled: it goes out with its LCW and waits for its ACK (R48). In TRAINING the window only
keeps the latest 128. -/
def closeBlock (lane p : Nat) (s : State) : State :=
  let l := s.lane lane
  if l.txOpen.length < 16 then s
  else
    (sendBlock lane p 0 l.txLsn l.txOpen s).modLane lane fun l =>
      let un := l.unacked ++ [{ lsn := l.txLsn, attempt := 0, slots := l.txOpen }]
      let l := { l with unacked := un.drop (un.length - 128), txLsn := l.txLsn + 1, txOpen := [] }
      { l with acked := l.acked.filter fun b => decide (l.since b.lsn 15 < 128) }

/-- Put a cell or nothing into the next slot of a port's lane. -/
def putSlot (p lane : Nat) (c : Option BufCell) (s : State) : State :=
  let s := s.modLane lane fun l => { l with txOpen := l.txOpen ++ [{ cell := c, stomped := false }], sent := l.sent + b2n c.isSome }
  closeBlock lane p (s.modPort p fun q => { q with slot := q.slot + 1 })

/-- A cell takes a slot and a credit of its VC. -/
def sendSlot (p lane : Nat) (c : BufCell) (s : State) : State :=
  let vc := c.cell.vc
  let s := s.modPort p fun q => { q with
    credits := setNth 8 q.credits vc (nth q.credits vc - 1)
    sentRecent := q.sentRecent.upd vc [] fun l => (l ++ [s.now]).drop (l.length + 1 - 16 * q.width) }
  putSlot p lane (some c) (bumpPort p (8 + vc) s)

/-- The wait queue a circuit port releases now (R348): its first cell, if it holds credit; aged cells are discarded first. -/
def circHead (s : State) (p : Nat) : Option (Nat × Stashed) :=
  let c := s.circOf p
  match curSlot c with
  | some x => if c.release then (c.queues.look x.group {}).wait.head?.map fun h => (x.group, h) else none
  | none => none

/-- A STOMP in a slot: it takes no credit (R38). -/
def sendStomp (p lane : Nat) (c : Cell) (s : State) : State :=
  putSlot p lane (some { cell := c, org := ownOrigin 0, route := .chip, ent := 0, shared := true }) s

/-- A slot with nothing to carry: IDLE. -/
def idleSlot (p lane : Nat) (s : State) : State := bookEmpty p (putSlot p lane none s)

/-- Choose and send the cell of a port's next slot: a LINK STOMP of the lane, STOMPs, VC0, then the other VCs. A VC0 cell that waits without
credit leaves the slot empty. (DESIGN CHOICE, log entry 158). -/
def fillSlot (p lane : Nat) (s : State) : State :=
  let s := s.modPort p clearDeficits
  let q := s.port p
  let l := s.lane lane
  if q.st == .up && l.linkStomp then
    sendStomp p lane (stompCell 0 (l.ack.toNat + 1) 0 l.pos true false) (s.modLane lane fun l => { l with linkStomp := false })
  else match (if q.st == .up then q.stomps else []) with
  | st :: rest => sendStomp p lane st (s.modPort p fun q => { q with stomps := rest })
  | [] =>
    match q.vc0.find? (vc0Ready q.st (isWelt p)) with
    | some c =>
      if nth q.credits 0 = 0 then idleSlot p lane s
      else
        let s := s.modPort p fun q => { q with vc0 := q.vc0.erase c }
        let s := if c.shared then s else returnCredit c.org s
        let (c, s) := stampTx p c s
        sendSlot p lane { c with shared := true } s
    | none =>
      if q.st != .up || q.refused then idleSlot p lane s
      else if isCircuit s p then
        match circHead s p with
        | some (g, x) =>
          if aged s (s.circOf p) x then
            idleSlot p lane (dropAged p x (s.modCirc p fun c => { c with queues := c.queues.upd g {} fun y => { y with wait := y.wait.drop 1 } }))
          else if nth q.credits x.cell.cell.vc = 0 then idleSlot p lane s
          else
            let s := if ((s.circOf p).queues.look g {}).readRec == some x.recNo then s else recordServed false p g x.recNo s
            let s := s.modCirc p fun c => { c with queues := c.queues.upd g {} fun y => { y with wait := y.wait.drop 1, sent := y.sent ++ [x], readRec := some x.recNo } }
            sendSlot p lane x.cell (bumpCirc p 7 1 (takeEntry (blockOf p) x.cell.ent s))
        | none => idleSlot p lane s
      else
        match wdrr p 9 q with
        | some (v, q') =>
          match q'.store.look v [] with
          | c :: rest =>
            let q' := { q' with
              store := q'.store.put v rest
              resvCred := setNth 8 q'.resvCred v (nth q'.resvCred v - 1)
              ts := if isWelt p || !bit (byteAt q'.qos (136 + 8 * (v - 1) + 3)) 0 then q'.ts else setNth 8 q'.ts v (nth q'.ts v - 256) }
            sendSlot p lane c { s with ports := s.ports.mod p fun _ => q' }
          | [] => s
        | none => idleSlot p lane s

/-- The lane that carries the next slot of a port: the one whose LANE_IDX, its place in the port, is the slot number modulo the width (R34, R35). -/
def nextLane (s : State) (p : Nat) : Nat := p + (s.port p).slot % (s.port p).width

/-- The training step a port has reached sends link blocks: PCS_LOCK and those after it (R53, R59). (DEDUCED, log entry 35). -/
def sendsBlocks (q : Port) : Bool :=
  match q.train with | some t => decide (6 ≤ byteAt (t.steps.getD t.idx []) 0) | none => false

/-- An output port fills its next slot (R142). A port in TRAINING sends IDLE once its step sends link blocks; ports that send none, and
lanes with 128 blocks unacknowledged, fill no slot. -/
def execTransmitSlot (port : Nat) (s : State) : Out :=
  let q := s.port port
  let lane := nextLane s port
  if !s.hasPort port then .next s
  else if q.st == .down || q.st == .absent || q.st == .training then
    let s := if q.st == .training && sendsBlocks q then putSlot port lane none s else s
    .next (if isCircuit s port && (s.circOf port).armed then bookEmpty port s else s)
  else if 128 ≤ (s.lane lane).unacked.length then .next s
  else .next (fillSlot port lane s)

/-! DISCOVERY (R132, R134). -/

/-- A link-local cell of the chip's own waits for a VC0 slot of a port. -/
def sendLinkCell (p : Nat) (c : Cell) (s : State) : State :=
  s.modPort p fun q => { q with vc0 := q.vc0 ++ [{ cell := c, org := ownOrigin 0, route := .chip, ent := 0, shared := true }] }

/-- A link-local fabric cell of this chip. -/
def linkCell (s : State) (typ ts : Nat) (payload : Bytes) : Cell :=
  mkCell typ 0 s.fabric.epoch false false 0 s.fabric.plan.selfFa 0 ts payload

/-- The DISCOVERY cell of a port (R132). -/
def discoveryCell (s : State) (p : Nat) : Cell :=
  linkCell s tDiscovery (place p 49 10 + place (widthCode (s.port p).width) 47 2)
    (toLE 8 s.hubId.toNat ++ toLE 4 s.fabric.plan.selfFa ++ toLE 4 s.fabric.plan.planTag)

/-- A port sends DISCOVERY (R132). -/
def execDiscoverySend (port : Nat) (s : State) : Out :=
  let st := (s.port port).st
  .next (if !isWelt port && (st == .check || st == .quarantine || st == .up) then sendLinkCell port (discoveryCell s port) s else s)

/-- What a DISCOVERY cell says (R132), or none where its payload breaks the rules (R6). -/
def heardOf (c : Cell) : Option Heard :=
  let w := le c.payload 8 4
  if field w 24 8 ≠ 0 ∨ 1 < field w 20 4 ∨ !zeroAt c.payload 16 48 then none
  else some { chip := BitVec.ofNat 64 (le c.payload 0 8), fa := field w 0 20, kind := field w 20 4, tag := le c.payload 12 4, port := c.f 49 10, width := 2 ^ c.f 47 2 }

/-- Act on a judged neighbour in CHECK (R60), or on a circuit port's wrong neighbour (R353). -/
def onJudged (p : Nat) (h : Heard) (s : State) : State :=
  if (s.port p).st != .check then s
  else match judge s p h with
    | .conforms => tryUp p s
    | _ =>
      let s := enter p .quarantine 5 s
      if isCircuit s p && (s.circOf p).armed then bumpCirc p 3 1 (failSlot p 3 h.chip s) else s

/-- A DISCOVERY cell arrives (R132): the neighbour is judged on two consecutive identical ones. -/
def execDiscoveryReceive (port : Nat) (cell : Cell) (s : State) : Out :=
  let q := s.port port
  if isWelt port || !(q.st == .check || q.st == .quarantine || q.st == .up) || !cell.crcOk || cell.typ ≠ tDiscovery then .next s
  else
    match heardOf cell with
    | none => .next (countDiscard (some port) causeEncoding s)
    | some h =>
      if q.heard = some h then .next (onJudged port h (s.modPort port fun q => { q with judged := some h }))
      else .next (s.modPort port fun q => { q with heard := some h })

end Sys2Proof.Machine
end

