-- ==== Sys2Proof/Machine/Sched.lean ====
section
/-! DEFINITION. Machine/Sched.lean: the shared pool, the wave engines, claims, trains, the circuit stash as an output, the express path and the seams (chapters 01, 03, 12). -/
namespace Sys2Proof.Machine

/-! The shared pool and replication (R70, R71, R89, R90). -/

/-- A cell of the credited allocation can move now: its VOQ is below its limit and a shared entry is free; a multicast cell
waits only while the replication stage still holds copies of its VC (R90). -/
def movable (s : State) (n vc : Nat) (a : Alloc) : Bool :=
  decide (0 < sharedFree s n) &&
    if a.mc then !((s.block n).pend.any fun x => x.2.cell.vc == vc)
    else match a.copies with | [(p, _)] => voqOk s n p vc | _ => false

/-- A multicast entry lies in the shared pool now (R70): its copies in the VOQs of block `n` count there, and its credit goes back. -/
def enterPool (n : Nat) (c : BufCell) (s : State) : State :=
  let s := s.modBlock n fun b => { b with voqs := b.voqs.map fun e => (e.1, e.2.map fun x => if x.ent = c.ent then { x with shared := true } else x) }
  returnCredit c.org s

/-- Write or hold the copies of a multicast cell (R89, R90); the copy of a port that has left UP is removed. -/
def writeCopies (n : Nat) (cs : List (Nat × BufCell)) (s : State) : State :=
  forAll cs s fun s x =>
    if !copyLive s x.1 x.2 then countDiscard x.2.org.port causePortState (bump 0x04 n 11 (noteLost x.2 s))
    else if voqOk s n x.1 x.2.cell.vc then writeCopy n x.1 x.2 (s.modBlock n fun b => { b with wrote := insertNat x.2.ent b.wrote })
    else s.modBlock n fun b => { b with pend := b.pend ++ [x] }

/-- Every copy of a multicast cell has been placed or removed (R70, R90): with copies in VOQs its entry moves into the shared pool, or waits
for a free entry there; with none left the credit goes back, and the cell counts as discarded if none was ever written. -/
def settleCopies (n : Nat) (c : BufCell) (s : State) : State :=
  let b := s.block n
  if b.pend.any (·.2.ent == c.ent) then s
  else
    let wrote := b.wrote.contains c.ent
    let s := s.modBlock n fun b => { b with wrote := b.wrote.erase c.ent }
    if b.queued.any (·.ent == c.ent) then
      if c.org.port.isNone || decide (0 < sharedFree s n) then enterPool n c s else s.modBlock n fun b => { b with await := b.await ++ [c] }
    else returnCredit c.org (if wrote then s else countDiscard c.org.port causePortState s)

/-- The first entry of an input port and VC that waits for the shared pool with all its copies placed. -/
def awaiting (s : State) (n port vc : Nat) : Option BufCell := (s.block n).await.find? fun c => c.org.port == some port && c.org.vc == vc

/-- A cell moves from the credited allocation into the shared pool and its credit is returned (R70): the first cell of an
input port and VC that can move. (DEDUCED, log entry 29). -/
def execSharedPoolMove (block port vc : Nat) (s : State) : Out :=
  match awaiting s block port vc with
  | some c => .next (if 0 < sharedFree s block then enterPool block c (s.modBlock block fun b => { b with await := b.await.erase c }) else s)
  | none =>
    let mine (a : Alloc) : Bool := a.copies.any fun x => x.2.org.port == some port && x.2.org.vc == vc
    match (s.block block).alloc.find? fun a => mine a && movable s block vc a with
    | none => .next s
    | some a =>
      let s := s.modBlock block fun b => { b with alloc := b.alloc.erase a }
      match a.copies with
      | [] => .next s
      | (p, c) :: _ =>
        if a.mc then .next (settleLost (settleCopies block c (writeCopies block a.copies s)))
        else .next (returnCredit c.org (joinVoq block p { c with shared := true } s))

/-- A copy made at replication. -/
def isCopyCell (c : BufCell) : Bool := match c.route with | .copy _ => true | _ => false

/-- A cell waiting in the pending list is placed once its VOQ is below its limit (R90): a copy made at replication, or a cell of the chip's
own. One whose port has left UP is removed or, where its port was chosen from a route entry, chosen again (R89, R116). (DEDUCED, log entry 154). -/
def execReplicationPendingPlace (block : Nat) (s : State) : Out :=
  match (s.block block).pend.find? fun x => !copyLive s x.1 x.2 || voqOk s block x.1 x.2.cell.vc with
  | none => .next s
  | some x =>
    let s := s.modBlock block fun b => { b with pend := b.pend.erase x }
    .next <| settleLost <|
      if isCopyCell x.2 then settleCopies block x.2 (writeCopies block [x] s)
      else if copyLive s x.1 x.2 then joinVoq block x.1 { x.2 with shared := true } s
      else rechooseCell block x.2 s

/-! The circuit stash as an output (R339, R346, R347). -/

/-- Records a stash queue holds: those of cells not yet freed, and the one being filled. -/
def StashQ.records (q : StashQ) : List Nat :=
  (((q.wait ++ q.sent).map (·.recNo)) ++ (if q.fill = 0 then [] else [q.recNo])).eraseDups

/-- Free records of a circuit port's stash: 1,344 bytes each out of STASH_MIB (R346). -/
def freeRecords (c : Circ) : Nat :=
  let mib := match c.sched with | some sc => sc.stashMib | none => 0
  (mib - c.lost) * 1048576 / 1344 - (c.queues.map fun q => q.2.records.length).foldl (· + ·) 0

/-- A queue takes a cell: into the record being filled, or a new one while its occupancy is below the free records. -/
def stashTake (s : State) (p g : Nat) (c : BufCell) : Option State :=
  let ci := s.circOf p
  let q := ci.queues.look g {}
  let put (q : StashQ) (stamp : Nat) : State :=
    let full := q.fill + 1 = 16
    let q := { q with wait := q.wait ++ [⟨c, q.recNo, stamp⟩], fill := if full then 0 else q.fill + 1, recNo := if full then q.recNo + 1 else q.recNo }
    let s := bumpCirc p 6 1 (s.modCirc p fun x => { x with queues := x.queues.put g q })
    if full then recordServed true p g (q.recNo - 1) s else s
  if q.fill ≠ 0 then
    let stamp := match (q.wait ++ q.sent).find? (·.recNo == q.recNo) with | some x => x.stamp | none => s.now
    some (put q stamp)
  else if q.records.length < freeRecords ci then some (put q s.now)
  else none

/-- A cell at the stash writer joins its queue, or waits (R347). -/
def stashCell (p g : Nat) (c : BufCell) (s : State) : State :=
  let hold : State := s.modCirc p fun x => { x with writer := x.writer ++ [(g, c)], writerAt := if x.writer.isEmpty then s.now else x.writerAt }
  if !(s.circOf p).writer.isEmpty then hold
  else match stashTake s p g c with | some s => s | none => hold

/-- The group of a cell bound for a circuit port (R339). -/
def stashGroup (s : State) (p : Nat) (c : BufCell) : Nat :=
  match c.route with
  | .entry _ _ g _ => g
  | .copy g => g
  | _ => match curSlot (s.circOf p) with | some x => x.group | none => 0

/-! Eligibility and the choice of a VOQ (R74, R77, R83, R143). -/

/-- A port and VC is ELIGIBLE (R83); a circuit port while no cell waits at its stash writer (R347); an internal peal port has
no next hop and no transmit store. (DEDUCED, log entry 106). -/
def eligible (s : State) (p vc : Nat) : Bool :=
  if 2048 ≤ p then !blockDead s (p - 2048)
  else if isCircuit s p then (s.circOf p).writer.isEmpty
  else s.live p && decide (1 ≤ freeCred s p vc + expectCred s p vc) && decide (16 ≤ storeFree s p)

/-- Input block `i` holds a cell in the VOQ of a port and VC. -/
def hasCell (s : State) (i p vc : Nat) : Bool := !(s.voq i p vc).isEmpty

/-- The local arbiter and a hub train both wait for a port (R77). -/
def bothWait (s : State) (p : Nat) : Bool :=
  let w (i : Nat) : Bool := (List.range 8).any fun vc => hasCell s i p vc && eligible s p vc
  decide (p < 2048) && w (outBlock p) && s.blocks.any fun e => e.1 != outBlock p && w e.1

/-- The alternation of R77 leaves a port to this side. (DEDUCED, log entry 31). -/
def turnOk (s : State) (isLocal : Bool) (p : Nat) : Bool := !bothWait s p || (s.port p).localTurn == isLocal

/-- The eligible VOQs of input block `i` for output block `j`, as (port, VC) (R83). The local arbiter takes a port in its turn only (R77);
a hub train meets the turn at its CLAIM. -/
def eligibleVoqs (s : State) (i j : Nat) : List (Nat × Nat) :=
  if blockDead s i then []
  else
    ((s.block i).voqs.filter fun e => outBlock (e.1 / 8) == j && !e.2.isEmpty && eligible s (e.1 / 8) (e.1 % 8) && (i != j || turnOk s true (e.1 / 8))).map
      fun e => (e.1 / 8, e.1 % 8)

/-- W_j[v] of R143: the largest WEIGHT[v] among the configured ports of block j. -/
def blockWeight (s : State) (j v : Nat) : Nat :=
  ((s.ports.filter fun e => decide (e.1 < 1024) && blockOf e.1 == j).map fun e => portWeight e.1 e.2 v).foldl max 0

/-- The trains each VC is given in a new round (R143). A block whose configured ports give no weight (it has none, only its peal port) gives
each VC one train. (DESIGN CHOICE, log entry 160). -/
def roundQuota (s : State) (j : Nat) (vcs : List Nat) : Tbl Nat :=
  let sum := (vcs.map fun v => blockWeight s j v).foldl (· + ·) 0
  vcs.foldl (fun t v => t.put v (1 + (if sum = 0 then 0 else 25 * blockWeight s j v / sum))) []

/-- Where a port stands in the port round robin of its block: its lane, the peal port last. -/
def portPlace (p : Nat) : Nat := if p < 2048 then p % 32 else 32

/-- The first port at or after a pointer, cyclically. -/
def nextPort (ptr : Nat) (ps : List Nat) : Option Nat :=
  (List.range 33).findSome? fun k => ps.find? fun p => portPlace p == (ptr + k) % 33

/-- The VC a round robin takes: the one it stands at while its quota lasts, else the next after it that has quota left. -/
def nextVc (ptr : Nat) (ok : Nat → Bool) : Option Nat :=
  ((List.range 7).map fun k => (ptr + 6 + k) % 7 + 1).find? ok

/-- Input block `i` selects a VOQ for output block `j` (R74): a VC by deficit-weighted round robin, staying while its quota of the round
lasts, then a port by round robin. A new round starts when no eligible VC has quota left. -/
def selectVoq (i j : Nat) (s : State) : Option (Nat × Nat) × State :=
  let vs := eligibleVoqs s i j
  let vcs := [1, 2, 3, 4, 5, 6, 7].filter fun v => vs.any (·.2 == v)
  if vcs.isEmpty then (none, s)
  else
    let left (b : Block) (v : Nat) : Nat := b.quota.look (8 * j + v) 0
    let s := if vcs.any fun v => 0 < left (s.block i) v then s
      else
        let q := roundQuota s j vcs
        s.modBlock i fun b => { b with quota := [1, 2, 3, 4, 5, 6, 7].foldl (fun t v => t.put (8 * j + v) (q.look v 0)) b.quota }
    match nextVc ((s.block i).vcPtr.look j 1) fun v => vcs.contains v && decide (0 < left (s.block i) v) with
    | none => (none, s)
    | some v =>
      match nextPort ((s.block i).portPtr.look j 0) ((vs.filter (·.2 == v)).map (·.1)) with
      | none => (none, s)
      | some p => (some (p, v), s.modBlock i fun b => { b with
          quota := b.quota.put (8 * j + v) (left b v - 1)
          vcPtr := b.vcPtr.put j v
          portPtr := b.portPtr.put j ((portPlace p + 1) % 33) })

/-! Claims (R75, R84, R85). -/

/-- Change the scheduler. -/
def State.modSched (s : State) (f : Sched → Sched) : State := { s with sched := f s.sched }

/-- The key of a train sequence at an output block: port, VC and input block. -/
def trainKey (inB p vc : Nat) : Nat := vkey p vc * 32 + inB

/-- Input block `i` sends a CLAIM for the VOQ it has selected for block `j` (R75, R76). -/
def makeClaim (engine i j p vc : Nat) (known : Bool) (s : State) : Claim × State :=
  let n := (s.block i).trainNo.look (vkey p vc) 0
  let c : Claim := { id := s.sched.nextId, inB := i, outB := j, port := p, vc := vc, engine := engine, len := min 16 (s.voq i p vc).length, reply := none, number := n, bound := false, known := known }
  let s := s.modBlock i fun b => { b with trainNo := b.trainNo.put (vkey p vc) ((n + 1) % 4096) }
  (c, s.modSched fun x => { x with nextId := x.nextId + 1, claims := x.claims ++ [c] })

/-- The match a CLAIM followed ends and its ways are free. -/
def endMatch (id : Nat) (s : State) : State := s.modSched fun x => { x with matches_ := x.matches_.filter fun m => m.id != id }

/-- A result cell delivered to this chip (R171, R243): it joins the LINKRES image of its peal's round, the open one or the sealed one; a result
of a peal that is not here counts as NO_PEAL. -/
def keepResult (c : Cell) (s : State) : State :=
  let pl := s.peal c.flow
  if pl.st == .free || dTag pl.desc != c.tag then bump 0x01 0 0 s
  else if c.round ≠ pl.round || 64 ≤ c.index || (partsOf (dFmt pl.desc) (dResFmt pl.desc) != 1 && c.side % 16 != 0) then s
  else if pl.st == .sealed then s.modPeal c.flow fun q => { q with linkRes := q.linkRes.put c.index c.payload }
  else if pl.isOpen then s.modPeal c.flow fun q => { q with linkNew := q.linkNew.put c.index c.payload }
  else s

/-- A cell of a train enters its output (R67, R171, R339). -/
def enterOutput (p : Nat) (c : BufCell) (s : State) : State :=
  if 2048 ≤ p then
    if c.cell.typ = tResult then keepResult c.cell s else s.modBlock (p - 2048) fun b => { b with pealIn := b.pealIn ++ [c] }
  else if isCircuit s p then
    let (id, s) := freshId s
    if (s.circOf p).armed then stashCell p (stashGroup s p c) { c with ent := id } s else bumpPort p (16 + causePortState) (noteLost c s)
  else if s.live p then
    s.modPort p fun q => { q with store := q.store.upd c.cell.vc [] fun l => l ++ [c], resvStore := q.resvStore - 1 }
  else bumpPort p (16 + causePortState) (noteLost c s)

/-- Enter the trains of one sequence that have arrived in number order (R76). -/
def enterTrains (outB inB p vc : Nat) : Nat → State → State
  | 0, s => s
  | n + 1, s =>
    let k := trainKey inB p vc
    let want := (s.block outB).expectNo.look k 0
    match s.sched.trains.find? fun t => t.inB == inB && t.port == p && t.vc == vc && t.number == want && t.early with
    | none => s
    | some t =>
      let s := s.modSched fun x => { x with trains := x.trains.erase t }
      let s := forAll t.cells s fun s c => enterOutput p c s
      enterTrains outB inB p vc n (s.modBlock outB fun b => { b with expectNo := b.expectNo.put k ((want + 1) % 4096) })

/-- A train has arrived, or was confirmed empty: it enters in its turn, and those that waited for it follow. -/
def trainHere (outB inB p vc number : Nat) (s : State) : State :=
  let s := s.modSched fun x => { x with trains := x.trains.map fun t => if t.inB = inB ∧ t.port = p ∧ t.vc = vc ∧ t.number = number then { t with early := true } else t }
  settleLost (enterTrains outB inB p vc (s.sched.trains.length) s)

/-- A train's number is confirmed empty (R76, R84). -/
def emptyTrain (c : Claim) (s : State) : State :=
  let t : TrainOut := { id := c.id, inB := c.inB, port := c.port, vc := c.vc, number := c.number, cells := [], engine := c.engine, early := true }
  let s := endMatch c.id (s.modSched fun x => { x with trains := x.trains ++ [t] })
  trainHere c.outB c.inB c.port c.vc c.number (bump 0x04 c.inB 6 s)

/-- A cell waits for its peal core (R228): the core's event queue, with what its peal port has delivered for it, is full, its undo ring
has no room, or an ON_VOID of the peal is due there (R237). -/
def dispatchFull (s : State) (c : Cell) : Bool :=
  let d := (s.peal c.flow).desc
  let core (x : Cell) : Nat := coreOf s (s.peal x.flow).desc (chunkOf (s.peal x.flow).desc x.index)
  let contrib (x : Cell) : Bool := (x.typ == tContrib || x.typ == tExp) && (s.peal x.flow).st != .free
  let n := ((s.block (homeBlock d c.index)).pealIn.filter fun b => contrib b.cell && core b.cell == core c).length
  let events := if fastPath s (dProgram d) then 0 else coreEvents s (core c)
  contrib c && (decide (64 ≤ events + n) || decide (16 ≤ (s.core (core c)).ring.length) || !noVoid s (core c) c.flow)

/-- The cells the output block grants a CLAIM (R84): none when it forwards nothing, or when it is the local arbiter's turn at the port
(R77); for a peal port those ahead of the first whose core has no room (R228). -/
def claimGrant (s : State) (c : Claim) : Nat :=
  if blockDead s c.outB || (c.engine != 64 && !turnOk s false c.port) then 0
  else if 2048 ≤ c.port then (((s.voq c.inB c.port c.vc).take c.len).takeWhile fun x => !dispatchFull s x.cell).length
  else if isCircuit s c.port then (if (s.circOf c.port).writer.isEmpty then c.len else 0)
  else min c.len (min (freeCred s c.port c.vc) (storeFree s c.port))

/-- The output block answers a CLAIM: C cells and credits are reserved, the hold-back is booked, and C = 0 makes the train empty
(R84). -/
def answerClaim (c : Claim) (s : State) : State :=
  let g := claimGrant s c
  let s := if c.port < 1024 ∧ c.len ≠ g then addDebt c.port (c.len - g) s else s
  if g = 0 then emptyTrain c (s.modSched fun x => { x with claims := x.claims.filter (·.id != c.id) })
  else
    let s := s.modSched fun x => { x with claims := x.claims.map fun y => if y.id = c.id then { y with reply := some g } else y }
    if c.port < 1024 ∧ !isCircuit s c.port then
      s.modPort c.port fun q => { q with
        resvCred := setNth 8 q.resvCred c.vc (nth q.resvCred c.vc + g), resvStore := q.resvStore + g, localTurn := c.engine != 64 }
    else s

/-- Release what a CLAIM reserved and no cell used (R85). -/
def releaseReserve (c : Claim) (n : Nat) (s : State) : State :=
  if c.port < 1024 ∧ !isCircuit s c.port then
    s.modPort c.port fun q => { q with resvCred := setNth 8 q.resvCred c.vc (nth q.resvCred c.vc - n), resvStore := q.resvStore - n }
  else s

/-- A cell of a train takes an entry of the slice of the block it goes to; the stash of a circuit port has none. -/
def trainCell (inB p : Nat) (c : BufCell) (s : State) : BufCell × State :=
  if outBlock p = inB ∨ isCircuit s p then (c, s) else let (id, s) := newEnt (outBlock p) s; ({ c with ent := id }, s)

/-- The input block binds cells to the train from the head of the VOQ and sends them (R75); fewer than C leave an unused
reservation. A block that forwards nothing sends none (R15). -/
def bindTrain (c : Claim) (g : Nat) (s : State) : State :=
  let q := if blockDead s c.inB then [] else s.voq c.inB c.port c.vc
  let k := (q.take g).length
  let s := if q.isEmpty then s else s.modBlock c.inB fun b => { b with voqs := if q.length ≤ g then b.voqs.del (vkey c.port c.vc) else b.voqs.put (vkey c.port c.vc) (q.drop g) }
  let s := forAll (q.take g) s fun s x => leaveBlock c.inB x s
  let s := s.modSched fun x => { x with claims := (x.claims.filter (·.id != c.id)) ++ (if k < g then [{ c with reply := some (g - k), bound := true }] else []) }
  if k = 0 then emptyTrain c s
  else
    let (cells, s) := (q.take g).foldl (fun (a : List BufCell × State) x => let (x, s) := trainCell c.inB c.port { x with shared := true } a.2; (a.1 ++ [x], s)) ([], s)
    let t : TrainOut := { id := c.id, inB := c.inB, port := c.port, vc := c.vc, number := c.number, cells := cells, engine := c.engine, early := false }
    bump 0x04 c.inB (if c.engine = 64 then 4 else 5) (s.modSched fun x => { x with trains := x.trains ++ [t] })

/-- An open CLAIM of a block that forwards no more ends (R15): what it reserved is released, and its train is empty. -/
def dropClaim (c : Claim) (s : State) : State :=
  let s := match c.reply with | some g => releaseReserve c g s | none => s
  let s := s.modSched fun x => { x with claims := x.claims.filter (·.id != c.id) }
  if c.bound then s else emptyTrain c s

/-- The open CLAIMs of blocks that forward no more end (R15). -/
def dropClaims (s : State) : State :=
  forAll (s.sched.claims.filter fun c => blockDead s c.inB || blockDead s c.outB) s fun s c => dropClaim c s

/-- The claim an output block holds for what a CLAIM names. -/
def findClaim (s : State) (block port vc len engine inBlock : Nat) : Option Claim :=
  s.sched.claims.find? fun c => c.outB == block && c.port == port && c.vc == vc && c.len == len && c.engine == engine && c.inB == inBlock && c.reply == none

/-- The slots of a train the output block refuses become WASTED slots of the port (R84). -/
def refuseSlots (port len : Nat) (s : State) : State := if decide (port < 1024) && s.hasPort port then addDebt port (min 16 len) s else s

/-- A CLAIM reaches the output block (R84). One on a way with no match is answered C = 0 and counted (R85). -/
def execClaim (block port vc len engine inBlock : Nat) (s : State) : Out :=
  match findClaim s block port vc len engine inBlock with
  | some c =>
    if c.known then .next (answerClaim c s)
    else .next (emptyTrain c (refuseSlots port len (bump 0x20 (4096 + block) 10 (s.modSched fun x => { x with claims := x.claims.filter (·.id != c.id) }))))
  | none => .next (if outBlock port = block then refuseSlots port len (bump 0x20 (4096 + block) 10 s) else bump 0x20 (4096 + block) 10 s)

/-- The CLAIM reply reaches the input block (R75), which handles the CLAIMs of one VOQ in the order it sent them. -/
def execClaimReply (inBlock claim : Nat) (s : State) : Out :=
  match s.sched.claims.find? fun c => c.id == claim && c.inB == inBlock && !c.bound with
  | none => .next s
  | some c =>
    match c.reply with
    | none => .next s
    | some g =>
      if s.sched.claims.any fun d => d.inB == inBlock && d.port == c.port && d.vc == c.vc && !d.bound && decide (d.id < c.id) then .next s
      else .next (bindTrain c g s)

/-- No reply came within 200 ns (R85): the input block sends nothing on that way; what the output block reserved stays until it
expires. (DEDUCED, log entry 150). -/
def execClaimNoReply (inBlock claim : Nat) (s : State) : Out :=
  match s.sched.claims.find? fun c => c.id == claim && c.inB == inBlock && !c.bound with
  | none => .next s
  | some c =>
    let s := s.modSched fun x => { x with claims := (x.claims.filter (·.id != c.id)) ++ (if c.reply.isSome then [{ c with bound := true }] else []) }
    .next (emptyTrain c (bump 0x04 inBlock 8 s))

/-- A reservation no cell has used within 1 µs is released (R85). (DEDUCED, log entry 150). -/
def execReservationExpiry (block claim : Nat) (s : State) : Out :=
  match s.sched.claims.find? fun c => c.id == claim && c.outB == block with
  | none => .next s
  | some c =>
    match c.reply with
    | none => .next s
    | some g =>
      let s := releaseReserve c g (bump 0x04 block 9 (s.modSched fun x => { x with claims := x.claims.filter (·.id != c.id) }))
      .next (if c.bound then s else emptyTrain c s)

/-- The way of a train is not free yet (R80): an earlier train of its engine still runs on the way out of its input block or into its
output block. -/
def wayBusy (s : State) (t : TrainOut) : Bool :=
  s.sched.trains.any fun x => !x.early && x.engine == t.engine && decide (x.id < t.id) && (x.inB == t.inB || outBlock x.port == outBlock t.port)

/-- Change one direction of a seam. -/
def State.modSeam (s : State) (m dir : Nat) (f : SeamDir → SeamDir) : State :=
  s.modChip fun c => { c with seams := c.seams.put (2 * m + dir) (f (s.seam m dir)) }

/-- Cells have crossed a seam: the frame at its head got through, and the retries of the next are counted anew (R11). -/
def seamPassed (m dir : Nat) (s : State) : State := if (s.seam m dir).attempts = 0 then s else s.modSeam m dir fun d => { d with attempts := 0 }

/-- A train reaches its output block and enters in train-number order, or waits (R76); it arrives after those that ran on its way before
it (R80). -/
def execTrainArrival (block inBlock port vc number : Nat) (s : State) : Out :=
  if outBlock port ≠ block then .next s
  else
    match s.sched.trains.find? fun t => t.inB == inBlock && t.port == port && t.vc == vc && t.number == number && !t.early with
    | none => .next s
    | some t =>
      if wayBusy s t then .next s
      else
        let s := if crosses inBlock block then seamPassed (pairSeam (regionOf inBlock) (regionOf block)) (seamDirOf inBlock block) s else s
        .next (trainHere block inBlock port vc number (endMatch t.id s))

/-- The block's local arbiter serves one VOQ for its own ports, as one train under the same CLAIM check (R77). (DEDUCED, log entry 31). -/
def execLocalArbitration (block : Nat) (s : State) : Out :=
  match selectVoq block block s with
  | (none, s) => .next s
  | (some (p, vc), s) =>
    let (c, s) := makeClaim 64 block block p vc true s
    let s := answerClaim c s
    match s.sched.claims.find? (·.id == c.id) with
    | some c' =>
      match c'.reply with
      | some g => .next (trainHere block block p vc c.number (bindTrain c' g s))
      | none => .next s
    | none => .next s

/-! Waves (R78 to R82). -/

/-- A wave under way: which inputs and outputs are unmatched, the pointers, the matches made, and those that hold ways. -/
structure Wave where
  inFree  : List Nat
  outFree : List Nat
  g       : List Nat
  a       : List Nat
  made    : List Match
  held    : List Match
  ptr     : Tbl Nat
  deriving DecidableEq, Repr

/-- Record a match. -/
def Wave.take (w : Wave) (m : Match) : Wave :=
  { w with inFree := w.inFree.erase m.i, outFree := w.outFree.erase m.j, made := w.made ++ [m], held := w.held ++ [m] }

/-- The number of a pair among those that cross its seam in its direction. -/
def pairNo (i j : Nat) : Nat := i % 8 * 8 + j % 8

/-- The key of the seam direction from block i to block j. -/
def seamKey (i j : Nat) : Nat := 2 * pairSeam (regionOf i) (regionOf j) + seamDirOf i j

/-- The inputs of a diagonal in the order in which they are handed floor ways (R79): rotating over the pairs of each seam direction. -/
def floorOrder (w : Wave) (d : Nat) : List Nat :=
  ((List.range 64).map fun k => (List.range 32).filter fun i =>
    let j := (i + d) % 32
    (pairNo i j + 64 - w.ptr.look (seamKey i j) 0) % 64 == k).flatten

/-- The floor diagonal of plane 0 (R81); while a seam has fewer than 64 floor ways, they go round the pairs that request (R79). (DEDUCED, log entry 32). -/
def floorWave (s : State) (req : Nat → Nat → Bool) (e n : Nat) (w : Wave) : Wave :=
  let d := (n + e % 32) % 32
  (floorOrder w d).foldl (fun w i =>
    let j := (i + d) % 32
    if req i j && (!crosses i j || floorFree s w.held i j) then
      let w := w.take ⟨0, e, i, j, crosses i j⟩
      if crosses i j && decide ((seamWays s i j).1 < 64) then { w with ptr := w.ptr.put (seamKey i j) ((pairNo i j + 1) % 64) } else w
    else w) w

/-- The input each free output grants in an iteration (R81). -/
def grants (req : Nat → Nat → Bool) (w : Wave) : List (Nat × Nat) :=
  w.outFree.filterMap fun j =>
    match ((List.range 32).map fun k => (nth w.g j + k) % 32).find? fun i => w.inFree.contains i && req i j with
    | some i => some (j, i)
    | none => none

/-- One iteration of grant and accept (R81); pointers move only in the first. (DEDUCED, log entry 33). -/
def iterWave (s : State) (req : Nat → Nat → Bool) (e : Nat) (first : Bool) (w : Wave) : Wave :=
  let gr := grants req w
  (List.range 32).foldl (fun w i =>
    if !w.inFree.contains i then w
    else
      match ((List.range 32).map fun k => (nth w.a i + k) % 32).find? fun j => gr.contains (j, i) && (!crosses i j || generalFree s w.held i j) with
      | none => w
      | some j =>
        let w := w.take ⟨0, e, i, j, false⟩
        if first then { w with g := setNth 32 w.g j ((i + 1) % 32), a := setNth 32 w.a i ((j + 1) % 32) } else w) w

/-- One wave of engine e (R81) whose requests arrive but for those `bad` (R85): the wave with its matches, and the engine after it. (DEDUCED, log entry 33). (DEDUCED, log entry 147). -/
def runWave (s : State) (e : Nat) (bad : List (Nat × Nat)) (en : Engine) : Wave × Engine :=
  let reqs := (List.range 32).map fun i => (List.range 32).map fun j => i != j && !bad.contains (i, j) && !(eligibleVoqs s i j).isEmpty
  let req (i j : Nat) : Bool := (reqs.getD i []).getD j false
  let w : Wave := { inFree := List.range 32, outFree := List.range 32, g := en.g, a := en.a, made := [], held := s.sched.matches_, ptr := s.sched.floorPtr }
  let w := if e < 32 then floorWave s req e en.n w else w
  let w := iterWave s req e false (iterWave s req e false (iterWave s req e true w))
  (w, { en with n := (en.n + 1) % 32, g := w.g, a := w.a })

/-- A wave engine computes one matching over the requests that arrived whole; each matched input block that has its copy of the match
selects its VOQ and sends its CLAIM (R74, R75, R81, R85). Each word whose CRC-8 fails counts SIDEBAND_CRC at the input block of a request and
at the block that receives a copy of a match. (DEDUCED, log entry 147). -/
def execSchedulerWave (engine : Nat) (lost : SideLoss) (s : State) : Out :=
  let en := s.sched.engines.look engine {}
  if 64 ≤ engine || en.retired then .next s
  else
    let (w, en) := runWave s engine lost.requests en
    let s := s.modSched fun x => { x with engines := x.engines.put engine en, floorPtr := w.ptr }
    let s := forAll (lost.requests.filter fun r => r.1 < 32) s fun s r => bump 0x04 r.1 7 s
    .next (forAll w.made s fun s m =>
      let s := if lost.outCopies.contains (m.i, m.j) then bump 0x04 m.j 7 s else s
      if lost.inCopies.contains (m.i, m.j) then bump 0x04 m.i 7 s
      else
        match selectVoq m.i m.j s with
        | (none, s) => s
        | (some (p, vc), s) =>
          let (c, s) := makeClaim engine m.i m.j p vc (!(lost.outCopies.contains (m.i, m.j))) s
          s.modSched fun x => { x with matches_ := x.matches_ ++ [{ m with id := c.id }] })

/-- Retire a wave engine (R85, R439): its way stays idle; past 8 the chip is DEGRADED. -/
def retireEngine (engine : Nat) (s : State) : State :=
  let en := s.sched.engines.look engine {}
  if 64 ≤ engine || en.retired then s
  else
    let s := s.modSched fun x => { x with engines := x.engines.put engine { en with retired := true } }
    settle 4 (postEvent 0x4007 [BitVec.ofNat 8 engine, BitVec.ofNat 8 (enginesRetired s)] s)

/-- An engine completed no wave within 10 µs (R85). -/
def execEngineStall (engine : Nat) (s : State) : Out := .next (retireEngine engine s)

/-! Seam retry (R11). -/

/-- The region whose counters hold a seam's: the sender's, the region of a hub seam. -/
def seamRegion (m dir : Nat) : Nat :=
  let (a, b) := seamEnds m
  if 4 ≤ b then a else if dir = 0 then a else b

/-- A seam frame fails its CRC (R11): it is tried again, at most four times; then the lane the syndrome names is retired and a
spare is mapped in its place, while the direction still has one, and the frame is sent anew. (DEDUCED, log entry 25). -/
def execSeamFrameCrcFail (m dir lane : Nat) (s : State) : Out :=
  if 10 ≤ m || 2 ≤ dir then .next s
  else
    let d := s.seam m dir
    let s := bump 0x05 (seamRegion m dir) 0 s
    if d.attempts < 4 then .next (s.modSeam m dir fun d => { d with attempts := d.attempts + 1 })
    else if d.spares = 0 then .next (s.modSeam m dir fun d => { d with attempts := 0 })
    else
      let spare := (if m < 6 then 4 else 2) - d.spares
      let s := s.modSeam m dir fun d => { d with attempts := 0, spares := d.spares - 1, retired := d.retired ++ [lane] }
      let s := s.modLedger (seamRegion m dir) fun l => { l with seamMap := l.seamMap ++ [(2 * m + dir, lane)] }
      .next (ledgerAdd (seamRegion m dir) 0x12 [BitVec.ofNat 8 m, BitVec.ofNat 8 lane, BitVec.ofNat 8 spare] (bump 0x05 (seamRegion m dir) 1 s))

end Sys2Proof.Machine
end

