-- ==== Sys2Proof/Machine/Fence.lean ====
section
/-! DEFINITION. Machine/Fence.lean: fencing of blocks and regions, the chip DAMPED, seams that narrow, ECC errors and residue faults (chapters 01, 03, 04, 07, 16). -/
namespace Sys2Proof.Machine

/-- Damp the ports of a list that are not DOWN, held by the condition (R60); a FENCED one counts it (R61). -/
def dampPorts (ps : List Nat) (cause : Nat) (s : State) : State :=
  forAll ps s fun s p => if (s.port p).st == .down then s else damp p cause .condition s

/-- The configured fabric ports of a region. -/
def portsOfRegion (s : State) (r : Nat) : List Nat := s.ports.keys.filter fun p => decide (p < 1024) && regionOfPort p == r

/-- The configured fabric ports of a block. -/
def portsOfBlock (s : State) (b : Nat) : List Nat := s.ports.keys.filter fun p => decide (p < 1024) && blockOf p == b

/-- DYING (R302): SCOPE 0 chip, 1 regions. -/
def sendDying (scope regions code : Nat) (s : State) : State :=
  sendTwin 0x03 0 0 (toLE 8 s.hubId.toNat ++ toLE 1 scope ++ toLE 1 regions ++ toLE 2 code) [] s

/-- Set a shard LOST (R271, R296, R316). (DEDUCED, log entry 26). -/
def loseShard (k : Nat) (s : State) : State := s.modShard k fun sh => if sh.st == .free then sh else { sh with st := .lost }

/-- The chip holds the only current copy of positions in a region (R316). -/
def onlyCopy (s : State) (pl : Peal) (r : Nat) : Bool := !pairedFor s pl || bit s.twin.taken r

/-- The shards with an extent in a region (R321). -/
def shardsIn (s : State) (r : Nat) : List (Nat × Shard) := (heldShards s).filter fun e => decide (0 < shardOn e.2.start (shardExtents e.2.desc) r)

/-- The regions a scoped DYING names when a region is fenced (R15, R321): the region, and every region that homes a chunk of a peal whose
twinned shard has an extent there. (DEDUCED, log entry 100). -/
def dyingMask (s : State) (r : Nat) : Nat :=
  (shardsIn s r).foldl (fun m e => if shTwinned e.2.desc && e.2.st == .bound then m ||| dRegionMask (s.peal e.2.peal).desc else m) (2 ^ r)

/-- What fencing a region does to a peal (R15, R184, R316, R321): the SPILL extents and the member state it held there are uncorrectable errors
(R332, cause STORE_ERROR), beside the fence's own cause; with the regions announced to the twin (0: none) and void causes that coincide (R175). (DEDUCED, log entry 57). -/
def fencePeal (r mask : Nat) (more : List Nat) (p : Nat) (s : State) : State :=
  let pl := s.peal p
  let names := bit (dRegionMask pl.desc) r
  let lost := more ++ if names && pl.spilled || lowRegion pl.desc == r then [14] else []
  if pl.st == .free || pl.st == .retiring then s
  else if dTwinned pl.desc && mask != 0 then
    if (dRegionMask pl.desc &&& mask) = 0 then s
    else voidPeal (10 :: lost) false none false p s
  else if names then
    let s := if isUpdate pl.desc && onlyCopy s pl r then loseShard (dShard pl.desc) s else s
    holdFenced lost p s
  else s

/-- Fence a region (R15, R439): its ports are DAMPED, its homes go to the twin or its peals hold, shards it held part of are LOST unless the
twin has them, and the chip is DEGRADED; `more` gives the void causes of a peal that coincide with the fence (R175). (DEDUCED, log entry 26). -/
def fenceRegionWith (more : Option (Nat × List Nat)) (r cause seam : Nat) (s : State) : State :=
  if (s.chip.regionFence.look? r).isSome then s
  else
    let s := s.modChip fun c => { c with regionFence := c.regionFence.put r cause }
    let s := postEvent 0x3001 [BitVec.ofNat 8 r, BitVec.ofNat 8 cause, BitVec.ofNat 8 seam] s
    let s := ledgerAdd r 0x0E [2, BitVec.ofNat 8 r, BitVec.ofNat 8 cause] s
    let s := if cause = 1 then s.modLedger r fun l => { l with fences := l.fences + 1 } else s
    let mask := if s.twin.st == .paired then dyingMask s r else 0
    let s := if mask ≠ 0 then s.modTwin fun t => { t with given := t.given ||| mask } else s
    let s := if mask ≠ 0 ∧ cause ≠ 8 then sendDying 1 mask 0x3001 s else s
    let s := dropClaims (dampPorts (portsOfRegion s r) 15 s)
    let s := forAll (shardsIn s r) s fun s e => if shTwinned e.2.desc && (mask != 0 || e.2.st == .bound && pairedFor s (s.peal e.2.peal)) && !bit s.twin.taken r then s else loseShard e.1 s
    let s := forAll s.peals.keys s fun s p => fencePeal r mask (match more with | some (q, cs) => (if q = p then cs else []) | none => []) p s
    settle 2 s

/-- Fence a region. -/
def fenceRegion (r cause seam : Nat) (s : State) : State := fenceRegionWith none r cause seam s

/-- An admitted peal homes a chunk at a core of this block's peal port. -/
def homesAt (s : State) (b : Nat) : Bool :=
  s.peals.any fun e => e.2.st != .free && e.2.st != .retiring && (homeChunks s e.2).any fun c => homeBlock e.2.desc (c * 2 ^ dChunkLog2 e.2.desc) == b

/-- Fence a block for an uncorrectable error in its memory (R439). -/
def fenceBlock (b mem : Nat) (s : State) : State :=
  if (s.chip.blockFence.look? b).isSome then s
  else if homesAt s b then fenceRegion (regionOf b) 7 255 s
  else
    let s := s.modChip fun c => { c with blockFence := c.blockFence.put b mem }
    let s := postEvent 0x2001 [BitVec.ofNat 8 b, BitVec.ofNat 8 mem] s
    let s := ledgerAdd (regionOf b) 0x0E [1, BitVec.ofNat 8 b, BitVec.ofNat 8 mem] s
    settle 3 (dropClaims (dampPorts (portsOfBlock s b) 15 s))

/-- Take the chip to DAMPED (R438). -/
def dampChip (cause : Nat) (s : State) : State :=
  if s.chip.st == .damped then s
  else
    let s := setChip .damped cause s
    let s := if (List.range 4).any fun n => s.live (weltPort n) then sendDying 0 0 0x4001 s else s
    let s := dampPorts (s.ports.keys.filter (· < 1024)) 16 s
    let s := forAll [0, 1, 2, 3] s fun s r => fenceRegion r 8 255 s
    forAll s.circ.keys s fun s p => if (s.circOf p).armed then disarmNow p s else s

/-! Seams (R12). -/

/-- A seam at full width in both directions. -/
def seamHealthy (s : State) (m : Nat) : Bool := (s.seam m 0).width == 8 && (s.seam m 1).width == 8

/-- Healthy seams of a region. -/
def healthySeams (s : State) (r : Nat) : Nat :=
  ((List.range 10).filter fun m => (let (a, b) := seamEnds m; a == r || b == r) && seamHealthy s m).length

/-- The region to fence for a seam below one half (R12). -/
def seamVictim (s : State) (m : Nat) : Nat :=
  let (a, b) := seamEnds m
  if 4 ≤ b then a else if healthySeams s a < healthySeams s b then a else b

/-- A seam without spares loses a lane (R12): it narrows by one eighth down to one half, below which a region is fenced. (DEDUCED, log entry 25). -/
def execSeamLaneLoss (m dir : Nat) (s : State) : Out :=
  let d := s.seam m dir
  if 10 ≤ m || 2 ≤ dir || d.spares ≠ 0 then .next s
  else if d.width ≤ 4 then .next (fenceRegion (seamVictim s m) 0 m (s.modSeam m dir fun d => { d with width := 0 }))
  else .next (postEvent 0x3002 [BitVec.ofNat 8 m, BitVec.ofNat 8 (d.width - 1)] (s.modSeam m dir fun d => { d with width := d.width - 1 }))

/-! Residue faults (R219). -/

/-- Times of the last 24 hours, with this one. -/
def lastDay (s : State) (ts : List Nat) : List Nat := (ts.filter fun t => decide (s.now ≤ t + 86400000000000)) ++ [s.now]

/-- A residue fault of a peal's chunk in its home region is counted and recorded; answers whether it is the third in 24 hours. -/
def residueFault (p c : Nat) (s : State) : Bool × State :=
  let r := chunkRegion (s.peal p).desc c
  let ts := lastDay s (s.spine.residue.look r [])
  let s := s.modSpine fun x => { x with residue := x.residue.put r ts }
  let s := bump 0x05 r 6 (bumpPeal p 39 1 s)
  let s := ledgerAdd r 0x09 (toLE 2 p ++ zeros 2 ++ toLE 4 c ++ [BitVec.ofNat 8 ts.length]) s
  (decide (3 ≤ ts.length), postEvent 0x3003 ([BitVec.ofNat 8 r, 0] ++ toLE 2 p ++ toLE 4 c ++ [BitVec.ofNat 8 ts.length]) s)

/-- Void a round for causes of which a residue fault of chunk c is one (R219): the third fault in 24 hours fences the region, whose own
void of the peal then coincides with this one (R175). -/
def residueVoid (causes : List Nat) (p c : Nat) (s : State) : State :=
  let r := chunkRegion (s.peal p).desc c
  let (fence, s) := residueFault p c s
  if fence && (s.chip.regionFence.look? r).isNone then fenceRegionWith (some (p, causes)) r 1 255 s
  else voidPeal causes false none false p s

/-! ECC errors (R72, R100, R439). -/

/-- Retire a buffer entry of a block: a spare replaces it while there are any (48). -/
def retireEntry (b e : Nat) (s : State) : State :=
  let s := bump 0x04 b 2 (s.modBlock b fun k => { k with retired := insertNat e k.retired })
  if (s.block b).retired.length = 48 then postEvent 0x2004 [BitVec.ofNat 8 b] s else s

/-- Take the cells matching `f` out of what the lanes keep for retry and stomp (R67). -/
def dropSent (f : BufCell → Bool) (s : State) : State :=
  let ed (t : TxSlot) : TxSlot := match t.cell with | some c => if f c then { t with cell := none } else t | none => t
  let edB (b : TxBlock) : TxBlock := { b with slots := b.slots.map ed }
  { s with lanes := s.lanes.map fun e => (e.1, { e.2 with txOpen := e.2.txOpen.map ed, unacked := e.2.unacked.map edB, acked := e.2.acked.map edB }) }

/-- Discard the cell of a buffer entry and every copy that shares it, wherever it lies in the block's slice (R66, R67, R72, R65). -/
def dropEntry (b e : Nat) (s : State) : State :=
  let mine (c : BufCell) : Bool := match (s.block b).entries.look? e with | some id => c.ent == id | none => false
  let here := bufferedCells s mine ++ (sentPlaces s mine).map (·.cell)
  match here.head? with
  | none => s
  | some c =>
    let s := forAll here s fun s c => noteLost c s
    settleLost (dropCell c causeBuffer (dropSent mine (editBuffered mine (fun _ => none) s)))

/-- A word of a region's table memory fails (R100). -/
def tableError (r off : Nat) (ue : Bool) (s : State) : State :=
  let w := off / 8 * 8
  if !ue then bump 0x05 r 4 s
  else
    let s := bump 0x05 r 5 s
    let old := s.fabric.replicas.look w 0
    if old % 16 = 15 then s
    else
      let mask := (if old / 16 = s.now then old % 16 else 0) ||| 2 ^ r
      let s := s.modFabric fun f => { f with replicas := f.replicas.put w (mask + 16 * s.now) }
      if mask = 15 then
        let s := s.modFabric fun f => { f with badSegs := insertNat (w / 4096) f.badSegs }
        settle 6 (postEvent 0x4008 (toLE 4 (w / 4096)) s)
      else s

/-- A memory of a die or of the hub reports an ECC error (R72, R100, R439). (DESIGN CHOICE, log entry 30). -/
def execBufferEccError (e : EccError) (s : State) : Out :=
  match e with
  | .buffer b n ue =>
    if 199728 ≤ n || (s.block b).retired.contains n then .next s
    else if ue then .next (retireEntry b n (dropEntry b n (bump 0x04 b 1 s)))
    else
      let ts := lastDay s ((s.block b).ceTimes.look n [])
      let s := bump 0x04 b 0 (s.modBlock b fun k => { k with ceTimes := k.ceTimes.put n ts })
      .next (if 3 ≤ ts.length then retireEntry b n s else s)
  | .control b m ue => .next (if ue then fenceBlock b m s else s)
  | .table r off ue => .next (tableError r off ue s)
  | .store r ue => .next (if ue then fenceRegion r 2 255 (bump 0x05 r 3 s) else bump 0x05 r 2 s)
  | .engine n ue => .next (if ue then retireEngine n (bump 0x01 0 11 s) else bump 0x01 0 10 s)
  | .express b ue =>
    if !ue then .next (bump 0x01 0 10 s)
    else
      let s := bump 0x01 0 11 s
      match (List.range 32).findSome? fun i => (expressHead s i b).map fun x => (i, x) with
      | none => .next s
      | some (i, x) => .next (dropCell x.2 causeBuffer (s.modBlock i fun k => { k with express := k.express.erase x }))
  | .learnedEq lane ue =>
    if !ue then .next (bump 0x01 0 10 s)
    else .next ((bump 0x01 0 11 s).modFabric fun f => { f with learned := f.learned.filter fun b => field (le b 10 2) 0 11 != lane })
  | .complex => .next (bump 0x01 0 10 s)

end Sys2Proof.Machine
end

