-- ==== Sys2Proof/Machine/PealCmds.lean ====
section
/-! DEFINITION. Machine/PealCmds.lean: contributions, chunks, results, rounds and spot duplication at a peal home (chapters 05, 06, 07). -/
namespace Sys2Proof.Machine

/-! Cells at the peal ports. -/

/-- Take a cell from the peal port that R171 gives it, if it stands there. (DESIGN CHOICE, log entry 59). -/
def takeIn (c : Cell) (s : State) : Option BufCell × State :=
  let n := pealPortOf s c
  match (s.block n).pealIn.find? (·.cell == c) with
  | some b => (some b, s.modBlock n fun k => { k with pealIn := k.pealIn.erase b })
  | none => (none, s)

/-- The fabric port a cell taken from a peal port entered by. -/
def portOf (b : Option BufCell) : Option Nat := match b with | some c => c.org.port | none => none

/-- SPEC_ACCUM is in force (R23). -/
def specAccum (s : State) : Bool := s.host.features.getLsbD 11

/-! Marks (R152). -/

/-- An ECHO for the marks of a member. -/
def sendEcho (p m : Nat) (s : State) : State :=
  let pl := s.peal p
  let w := pl.marks.look m {}
  if w.n = 0 then s
  else
    let c := mkCell tEcho 5 s.fabric.epoch false false (mFa (memberEnt s pl.desc m)) s.fabric.plan.selfFa (dTag pl.desc)
      (place p 47 12 + place w.cell 15 32 + place (min 63 w.n) 9 6) []
    sendCell (pealBlock pl.desc) c (s.modPeal p fun q => { q with marks := q.marks.del m })

/-- Count a mark of an accepted cell; the 16th sends the ECHO. -/
def countMark (p m : Nat) (c : Cell) (s : State) : State :=
  if !c.cm then s
  else
    let s := s.modPeal p fun q => { q with marks := q.marks.upd m {} fun w => { n := w.n + 1, cell := c.index, at_ := if w.n = 0 then s.now else w.at_ } }
    if 16 ≤ ((s.peal p).marks.look m {}).n then sendEcho p m s else s

/-- 2 µs after the first mark not yet echoed (R152). -/
def execMarkEchoTimer (peal member : Nat) (s : State) : Out := .next (sendEcho peal member s)

/-! The verdict of a contribution (R177). -/

/-- The first of checks 1 to 7 of R177 that a cell fails, as the index of its PEAL counter (0: NO_PEAL, counted per chip); `exp` for
a PEAL_EXP cell, which has no check 7 here and whose CELL must be the first of its chunk: another counts as RANGE. (DEDUCED, log entry 58).
(DESIGN CHOICE, log entry 161). -/
def judgeContrib (s : State) (c : Cell) (exp : Bool) : Option Nat :=
  let pl := s.peal c.flow
  let d := pl.desc
  let m := pl.fas.look? c.src
  let e := memberEnt s d (m.getD 0)
  let w := pl.win (m.getD 0)
  firstOf [
    need (pl.st != .free && dTag d == c.tag) 0,
    need ((pl.st == .armed || pl.st == .running || pl.st == .sealed) && pl.isOpen && c.round == pl.round) 1,
    need (m.isSome && mContrib e && !mFenced e) 2,
    need (c.fmt == dFmt d && (if exp then c.side == 0 && dAnchorAuto d else sideOk (dFmt d) c.side)) 3,
    need (owes s pl (m.getD 0) c.index && !(exp && c.index % 2 ^ dChunkLog2 d != 0)) 4,
    need (decide (c.index < winLimit pl (m.getD 0))) 5,
    need (exp || (decide (w.ack ≤ c.index) && !w.got.contains c.index)) 6]

/-- Count a contribution that failed a check, and its mark as that of a cell no home accepts (R152); a duplicate, of either kind of cell, has the WINDOW sent again
(check 7 of R177, R210). -/
def rejectContrib (c : Cell) (why : Nat) (s : State) : State :=
  let s := if c.cm then bump 0x20 8192 16 s else s
  if why = 0 then bump 0x01 0 0 s
  else
    let p := c.flow
    let s := bumpPeal p why 1 s
    match (s.peal p).fas.look? c.src with
    | some m =>
      if why = 6 then
        let (f, s) := sendWindow p m (bumpPeal p 14 1 s)
        voidSent { fenced := if f then [m] else [] } p s
      else s
    | none => s

/-- Change a chunk of a peal. -/
def State.modChunk (s : State) (p c : Nat) (f : Chunk → Chunk) : State := s.modPeal p fun q => { q with chunks := q.chunks.mod c f }

/-- Change a row of a chunk. -/
def Chunk.modRow (ch : Chunk) (x : Nat) (f : Row → Row) : Chunk := { ch with rows := ch.rows.upd x {} f }

/-- The core that serves a cell position. -/
def cellCore (s : State) (d : BitVec 512) (x : Nat) : Nat := coreOf s d (chunkOf d x)

/-- SPOT_FWD of a committed contribution of a selected chunk (R220, R302). -/
def spotForward (p m : Nat) (c : Cell) (s : State) : State :=
  let pl := s.peal p
  match pl.chunks.look? (chunkOf pl.desc c.index) with
  | some ch =>
    if ch.spot == .waiting && s.twin.st == .paired then
      sendTwinFrom (some (chunkRegion pl.desc (chunkOf pl.desc c.index))) 0x0A 3 (dTag pl.desc) (toLE 2 p ++ toLE 1 pl.round ++ zeros 1 ++ toLE 4 c.index
        ++ toLE 4 ((contributors s pl.desc).idxOf m) ++ toLE 1 c.fmt ++ zeros 1 ++ toLE 2 c.side) c.payload s
    else s
  | none => s

/-- An accepted contribution moves its member's window, starts the round, and counts (R174, R176, R177). -/
def acceptWindow (p m : Nat) (c : Cell) (s : State) : State :=
  let pl := s.peal p
  let w := pl.win m
  let got := insertNat c.index w.got
  let ack := nextOwed s pl m got w.ack
  let w := { w with ack := ack, got := got.filter fun x => decide (ack ≤ x), heardAt := s.now }
  let s := s.modPeal p fun q => { q with
    wins := q.wins.put m w
    st := if q.st == .armed then .running else q.st
    runAt := if q.st == .armed then s.now else q.runAt }
  countMark p m c (bumpPeal p 0 1 s)

/-- Send the WINDOWs that are due because ACK or LIMIT has moved. -/
def refreshWindows (p : Nat) (s : State) : State :=
  let (f, s) := sendWindows p (movedWindows (s.peal p)) s
  voidSent { fenced := f } p s

/-- Queue a contribution for the program's ON_CONTRIB (R233, R236). (DESIGN CHOICE, log entry 59). -/
def queueContrib (p m : Nat) (c : Cell) (s : State) : State :=
  if fastPath s (dProgram (s.peal p).desc) then s
  else s.modCore (cellCore s (s.peal p).desc c.index) fun k => { k with queue := k.queue ++ [(p, m, c)] }

/-- Accumulate a contribution whose verdict is good, or commit the flags of one already added (R199 to R203, R216, R218). -/
def accumulateNow (p : Nat) (c : Cell) (added : Bool) (s : State) : State :=
  let d := (s.peal p).desc
  let x := c.index
  match accumulates s (dProgram d), ((s.peal p).chunks.look? (chunkOf d x)).bind (·.anchor) with
  | some sq, some a =>
    let s := s.modChunk p (chunkOf d x) fun ch => ch.modRow x fun r =>
      if added then { r.commit (elems d) 0 (gridCell d sq a (cellElts d c)) with spec := r.spec - 1 } else r.accumulate d sq a c
    if fastPath s (dProgram d) then bump 0x06 (cellCore s d x) 1 s else s
  | _, _ => s

/-- A contribution that a spilled peal without a place for its rows has met voids again (R332). (DEDUCED, log entry 66). -/
def noPlaceVoid (p : Nat) (s : State) : State := if (s.peal p).noPlace then voidFor 14 p s else s

/-- A contribution with a good verdict: accepted, added, forwarded and queued for its handler, or parked while the anchor is open: each chunk has
a park queue of its own, below twice the free shared entries of its block (R71, R212). -/
def commitContrib (p m : Nat) (c : Cell) (added : Bool) (s : State) : State :=
  let d := (s.peal p).desc
  let k := chunkOf d c.index
  let open_ := (((s.peal p).chunks.look? k).bind (·.anchor)).isSome
  noPlaceVoid p <| if open_ then
    let s := accumulateNow p c added (acceptWindow p m c s)
    refreshWindows p (queueContrib p m c (spotForward p m c s))
  else
    let n := homeBlock d c.index
    if (((s.peal p).chunks.look k {}).parked.length) < 2 * sharedFree s n then
      let s := bumpPeal p 35 1 (acceptWindow p m c s)
      refreshWindows p (spotForward p m c (s.modChunk p k fun ch => { ch with parked := ch.parked ++ [⟨c, m⟩] }))
    else bumpPeal p 36 1 s

/-- A contribution can be added before its verdict (R214): SPEC_ACCUM, a SUM or SUMSQ row of an open chunk with its anchor that is not complete
(R217), and a handler that accumulates on arrival. -/
def speculates (s : State) (c : Cell) : Bool :=
  let pl := s.peal c.flow
  let d := pl.desc
  specAccum s && pl.st != .free && pl.isOpen && c.round == pl.round && sums d && c.fmt == dFmt d && sideOk (dFmt d) c.side
    && (match pl.chunks.look? (chunkOf d c.index) with | some ch => ch.anchor.isSome && !ch.complete | none => false) && (accumulates s (dProgram d)).isSome
    && isHome s pl (chunkOf d c.index)

/-- The integers a contribution adds to its row. -/
def contribInts (s : State) (c : Cell) : List Int :=
  let d := (s.peal c.flow).desc
  match accumulates s (dProgram d), ((s.peal c.flow).chunks.look? (chunkOf d c.index)).bind (·.anchor) with
  | some sq, some a => (gridCell d sq a (cellElts d c)).map (·.n)
  | _, _ => []

/-- Add a contribution speculatively: an undo-ring entry, the integers, SPEC + 1 (R214, R215). (DEDUCED, log entry 60). -/
def specAdd (c : Cell) (s : State) : State :=
  let p := c.flow
  let d := (s.peal p).desc
  let ns := contribInts s c
  let s := s.modChunk p (chunkOf d c.index) fun ch => ch.modRow c.index fun r => { r.addInts (elems d) (accW d) 0 ns with spec := r.spec + 1 }
  s.modCore (cellCore s d c.index) fun k => { k with ring := k.ring ++ [⟨c, p, c.round, !c.crcOk⟩] }

/-- Subtract what a speculative entry added (R216). (DEDUCED, log entry 60). -/
def specUndo (u : Undo) (s : State) : State :=
  let d := (s.peal u.peal).desc
  let ns := (contribInts s u.cell).map fun n => -n
  let s := s.modChunk u.peal (chunkOf d u.cell.index) fun ch => ch.modRow u.cell.index fun r => { r.addInts (elems d) (accW d) 0 ns with spec := r.spec - 1 }
  bumpPeal u.peal 7 1 s

/-- The core of a contribution takes it (R228, R237): its event queue has room where the program's handler is to run, and no ON_VOID of the peal
is due there. -/
def coreTakes (s : State) (c : Cell) : Bool :=
  let d := (s.peal c.flow).desc
  let core := cellCore s d c.index
  (fastPath s (dProgram d) || !eventsFull s core) && noVoid s core c.flow

/-- A contribution reaches its home (R177): judged and accepted or discarded, or added ahead of its verdict (R214). A full event
queue or undo ring, or an ON_VOID still due, leaves it waiting (R228, R22, R237). -/
def execPealContribReceive (cell : Cell) (s : State) : Out :=
  let p := cell.flow
  if (s.peal p).st != .free && !coreTakes s cell then .next s
  else if speculates s cell then
    let core := cellCore s (s.peal p).desc cell.index
    if 16 ≤ (s.core core).ring.length then .next (bumpPeal p 37 1 s)
    else .next (specAdd cell (takeIn cell s).2)
  else
    let s := (takeIn cell s).2
    if !cell.crcOk then .next s
    else
      match judgeContrib s cell false with
      | some why => .next (rejectContrib cell why s)
      | none => .next (commitContrib p (((s.peal p).fas.look? cell.src).getD 0) cell false s)

/-- The verdict of the oldest entry of a core's undo ring (R216): CRC and STOMP come with the command, checks 1 to 7 are made
now. It waits while the handler it would start finds the event queue full. -/
def execVerdictArrival (core : Nat) (good : Bool) (s : State) : Out :=
  match (s.core core).ring with
  | [] => .next s
  | u :: rest =>
    if !fastPath s (dProgram (s.peal u.peal).desc) && eventsFull s core then .next s
    else
    let s := s.modCore core fun k => { k with ring := rest }
    match judgeContrib s u.cell false with
    | some why => .next (rejectContrib u.cell why (specUndo u s))
    | none =>
      if good && !u.bad then .next (commitContrib u.peal (((s.peal u.peal).fas.look? u.cell.src).getD 0) u.cell true s)
      else .next (specUndo u s)

/-! Anchors (R210 to R213). -/

/-- Every contributor that owes this home cells of chunk c has sent its PEAL_EXP. -/
def allExps (s : State) (pl : Peal) (c : Nat) (ch : Chunk) : Bool :=
  (contributors s pl.desc).all fun m => (let (a, b) := owedIn s pl.desc m c; decide (b ≤ a)) || (ch.exps.look? m).isSome

/-- The anchor that a chunk's MAXEXP values give (R211); −32,768 is "none". -/
def autoAnchor (d : BitVec 512) (es : List Int) : Int :=
  match (es.filter (· != -32768)) with
  | [] => dAnchorLsb d
  | e :: t => min 511 (max (dAnchorLsb d) (t.foldl max e - ((accW d : Int) - 20)))

/-- Accumulate the parked cells of a chunk whose anchor has resolved, in park order, as far as the core's event queue takes their handlers (R212,
R228). -/
def unpark (p c : Nat) : List Parked → State → State
  | [], s => s
  | k :: ks, s =>
    if !fastPath s (dProgram (s.peal p).desc) && eventsFull s (coreOf s (s.peal p).desc c) then s
    else
      let s := s.modChunk p c fun ch => { ch with parked := ks }
      unpark p c ks (queueContrib p k.member k.cell (accumulateNow p k.cell false s))

/-- Accumulate what can be of a chunk's park queue. -/
def unparkChunk (p c : Nat) (s : State) : State :=
  match (s.peal p).chunks.look? c with
  | some ch => if ch.anchor.isSome then unpark p c ch.parked s else s
  | none => s

/-- Resolve the anchor of a chunk and accumulate its parked cells in park order. -/
def resolveAnchor (p c : Nat) (s : State) : State :=
  let pl := s.peal p
  match pl.chunks.look? c with
  | none => s
  | some ch =>
    if ch.anchor.isSome || !allExps s pl c ch then s
    else unparkChunk p c (s.modChunk p c fun ch => { ch with anchor := some (autoAnchor pl.desc (ch.exps.map (·.2))) })

/-- A member's MAXEXP for a chunk arrives (R210). (DEDUCED, log entry 58). -/
def execPealExpReceive (cell : Cell) (s : State) : Out :=
  let p := cell.flow
  let (b, s) := takeIn cell s
  if !cell.crcOk then .next s
  else
    match judgeContrib s cell true with
    | some why => .next (rejectContrib cell why s)
    | none =>
      if !zeroAt cell.payload 2 62 then .next (countDiscard (portOf b) causeEncoding s)
      else
        let m := ((s.peal p).fas.look? cell.src).getD 0
        let c := chunkOf (s.peal p).desc cell.index
        if ((s.peal p).win m).exps.contains c then .next (rejectContrib cell 6 s)
        else
          let s := s.modPeal p fun q => { q with
            wins := q.wins.upd m {} fun w => { w with exps := insertNat c w.exps, heardAt := s.now }
            chunks := q.chunks.mod c fun ch => { ch with exps := ch.exps.put m (signed (le cell.payload 0 2) 16) } }
          .next (resolveAnchor p c (countMark p m cell s))

/-! Windows and chunks (R156, R176, R178). -/

/-- The grantor repeats its WINDOW to a holder whose window is open (R156). -/
def execWindowRepeat (peal member : Nat) (s : State) : Out :=
  let pl := s.peal peal
  if !pl.isOpen || (pl.wins.look? member).isNone || decide (winLimit pl member ≤ (pl.win member).ack) then .next s
  else
    let (f, s) := sendWindow peal member (bumpPeal peal 14 1 s)
    .next (voidSent { fenced := if f then [member] else [] } peal s)

/-- The next chunk opens once its region has a free slot (R176). -/
def execChunkOpen (peal : Nat) (s : State) : Out :=
  .next (if (s.peal peal).isOpen then refreshWindows peal (openOne peal s) else s)

/-- Every contributor's ACK lies beyond its last cell of chunk c. -/
def allIn (s : State) (pl : Peal) (c : Nat) : Bool :=
  (contributors s pl.desc).all fun m => let (a, b) := owedIn s pl.desc m c; decide (b ≤ a) || decide (b ≤ (pl.win m).ack)

/-- No contribution of chunk c waits for its handler or its verdict. -/
def chunkQuiet (s : State) (p c : Nat) : Bool :=
  let d := (s.peal p).desc
  s.spine.cores.all fun e =>
    !(e.2.queue.any fun q => q.1 == p && chunkOf d q.2.2.index == c)
      && !(match e.2.inv with | some i => i.peal == p && i.entry == 0 && chunkOf d i.x == c | none => false)

/-- Chunk c is complete (R178): all owed cells in, the anchor resolved, nothing parked, queued or speculative. -/
def chunkReady (s : State) (p c : Nat) : Bool :=
  let pl := s.peal p
  match pl.chunks.look? c with
  | none => false
  | some ch => pl.isOpen && pl.st == .running && !ch.complete && allIn s pl c && ch.anchor.isSome && ch.parked.isEmpty
      && ch.rows.all (fun r => r.2.spec == 0) && chunkQuiet s p c

/-- Flags join the round's; answers whether VOID_POLICY names one (R209). -/
def addFlags (p : Nat) (sat nan inf : Bool) (s : State) : Bool × State :=
  let pol := dVoidPolicy (s.peal p).desc
  (sat && bit pol 0 || nan && bit pol 1 || inf && bit pol 2,
    s.modPeal p fun q => { q with sat := q.sat || sat, nan := q.nan || nan, inf := q.inf || inf })

/-- A row of a chunk fails its residue check; one with a speculative input is not checked (R217). -/
def badRows (d : BitVec 512) (ch : Chunk) : Bool := ch.rows.any fun r => r.2.spec == 0 && !rowOk d r.2

/-- Compare the twin's digest of a selected chunk (R221). (DEDUCED, log entry 67). -/
def compareSpot (p c : Nat) (s : State) : State :=
  let pl := s.peal p
  match pl.chunks.look? c with
  | none => s
  | some ch =>
    match ch.spot, ch.digest, ch.twinDig with
    | .waiting, some a, some b =>
      if a = b then bumpPeal p 40 1 (s.modChunk p c fun ch => { ch with spot := .passed })
      else
        let s := bumpPeal p 41 1 s
        let s := postEvent 0x300A (zeros 2 ++ toLE 2 p ++ toLE 4 c) (ledgerAdd (chunkRegion pl.desc c) 0x0B (toLE 2 p ++ zeros 2 ++ toLE 4 c) s)
        if badRows pl.desc ch then residueVoid [8] p c s else voidFor 8 p s
    | _, _, _ => s

/-- No supply warning holds a chunk: none on its home region's die, none on the hub (R445). -/
def supplyClear (s : State) (d : BitVec 512) (c : Nat) : Bool := (s.chip.warn.look? (chunkRegion d c)).isNone && (s.chip.warn.look? 4).isNone

/-- A chunk completes (R178): its residues are checked, its flags and LOSS join the round's, and ON_CHUNK may run (R209, R219). -/
def execChunkComplete (peal chunk : Nat) (s : State) : Out :=
  if !chunkReady s peal chunk then .next s
  else
    let d := (s.peal peal).desc
    let ch := (s.peal peal).chunks.look chunk {}
    let rows := ch.rows.map (·.2)
    let loss := (rows.map (·.loss)).foldl (· + ·) 0
    let (sat, nan, inf) := (rows.any (·.sat), rows.any (·.nan), rows.any (·.inf))
    let dig := if ch.spot == .waiting then some (chunkDigest d chunk ch) else none
    let s := s.modChunk peal chunk fun ch => { ch with complete := true, doneAt := s.now, digest := dig, satted := sat }
    let s := s.modPeal peal fun q => { q with loss := min (2 ^ 64 - 1) (q.loss + loss) }
    let s := bumpPeal peal 31 loss (bumpPeal peal 8 1 s)
    let s := bumpPeal peal 34 (b2n inf) (bumpPeal peal 33 (b2n nan) (bumpPeal peal 32 (b2n sat) s))
    let (stop, s) := addFlags peal sat nan inf s
    let bad := badRows d ch
    let recheck := ch.supply && supplyClear s d chunk
    let s := if recheck && !bad then s.modChunk peal chunk fun ch => { ch with supply := false } else s
    let causes := (if stop then [6] else []) ++ (if bad then [if recheck then 11 else 7] else [])
    .next (compareSpot peal chunk (if bad then residueVoid causes peal chunk s else voidPeal causes false none false peal s))

/-! Release (R178 to R180). -/

/-- A cell position's results may go: its handler has ended (ON_CHUNK, or ON_STEP_END for KIND 5). -/
def positionsDone (s : State) (pl : Peal) (c : Nat) (ch : Chunk) : Bool :=
  let xs := chunkCells pl.desc c
  xs.all ch.ended.contains && (!isUpdate pl.desc || (stepEndsDone s pl && xs.all pl.ended.contains))

/-- No entry of an undo ring touches a row of chunk c (R22). -/
def ringClear (s : State) (p c : Nat) : Bool :=
  s.spine.cores.all fun e => !(e.2.ring.any fun u => u.peal == p && chunkOf (s.peal p).desc u.cell.index == c)

/-- Results of chunk c may be released (R178), with no speculative input in its rows (R22). -/
def releasable (s : State) (p c : Nat) : Bool :=
  let pl := s.peal p
  match pl.chunks.look? c with
  | none => false
  | some ch => pl.isOpen && pl.st == .running && ch.complete && !ch.sent && ch.spot != .waiting && !ch.supply && positionsDone s pl c ch
      && ch.rows.all (fun r => r.2.spec == 0) && ringClear s p c

/-- Send the parts of one cell position. -/
def releaseCell (p x : Nat) (a : Sent × State) : Sent × State :=
  let pl := a.2.peal p
  let d := pl.desc
  let rs := if dResMode d = 0 then unicastTo a.2 d x else []
  let mine := rs.any fun m => mFa (memberEnt a.2 d m) == a.2.fabric.plan.selfFa
  (pl.outs.look x []).foldl (fun a q =>
    let (r, s) := sendResult (homeBlock d x) p rs (resultCell a.2 d pl.round x q.side false q.payload) a.2
    let s := s.modPeal p fun y => { y with
      closers := (if dResMode d = 0 then rs else [1048576]).foldl (fun t m => t.upd m 0 (· + 1)) y.closers
      linkNew := if mine && q.part == 0 && decide (x < 64) then y.linkNew.put x q.payload else y.linkNew }
    (a.1.join r, bumpPeal p 9 r.count s)) a

/-- The results of a complete chunk are handed to the switching core; its slot is free, and the last one seals the round (R178 to
R180). -/
def execResultRelease (peal chunk : Nat) (s : State) : Out :=
  if !releasable s peal chunk then .next s
  else
    let d := (s.peal peal).desc
    let (a, s) := (chunkCells d chunk).foldl (fun a x => releaseCell peal x a) (({} : Sent), s)
    let s := voidSent a peal s
    if !(s.peal peal).isOpen then .next s
    else
      let s := s.modChunk peal chunk fun ch => { ch with sent := true, released := true, rows := [] }
      let s := s.modPeal peal fun q => { q with outs := q.outs.filter fun e => chunkOf d e.1 != chunk }
      .next (trySeal peal (refreshWindows peal (openChunks peal (chunkCount d) s)))

/-! The life of a round (R174, R181, R183, R184). -/

/-- A KIND 5 step becomes pending as its peal leaves SEALED (R289, R290). -/
def makePending (p : Nat) (s : State) : State :=
  let pl := s.peal p
  if !isUpdate pl.desc then s
  else s.modShard (dShard pl.desc) fun sh => { sh with
    pending := true, pendStep := pl.step, pendTrain := ((paramsOf pl pl.step).map (·.train)).getD 0
    committed := sh.early == some pl.step, early := none }

/-- 2 × WINDOW_TIMEOUT_US after the last close cell (R174): the step advances and its next round is to be opened. A twinned
REDUCE_UPDATE peal waits for agreeing digests. -/
def execSealedExpiry (peal : Nat) (s : State) : Out :=
  let pl := s.peal peal
  if pl.st != .sealed || (isUpdate pl.desc && pairedFor s pl && !pl.agreed) then .next s
  else
    let s := makePending peal s
    let s := s.modPeal peal fun q => { q.dropRound with step := q.step + 1, replays := 0 }
    .next (armNext peal ((pl.round + 1) % 4) s)

/-- A delayed round opens once its guards are met (R183, R276). -/
def execRoundOpen (peal : Nat) (s : State) : Out := .next (tryOpen peal s)

/-- Count row 6 of R256 for each invocation of a peal that a WAIT LINK has kept (R269). -/
def countStuck (p : Nat) (s : State) : State :=
  forAll s.spine.cores.keys s fun s c =>
    match (s.core c).inv with
    | some i => if i.peal = p ∧ i.stuck then bump 0x06 c 13 (bumpPeal p 54 1 s) else s
    | none => s

/-- STEP_WATCHDOG_MS has elapsed in RUNNING (R184): a WAIT LINK not satisfied is a fault of row 6 (R256). -/
def execStepWatchdogExpiry (peal : Nat) (s : State) : Out :=
  .next (if (s.peal peal).st == .running then voidFor 2 peal (countStuck peal s) else s)

/-- A repair request (R181). -/
def execRepairRequestReceive (cell : Cell) (s : State) : Out :=
  let p := cell.flow
  let pl := s.peal p
  let (b, s) := takeIn cell s
  if !zeroAt cell.payload 3 61 then .next (countDiscard (portOf b) causeEncoding s)
  else if pl.st == .free || dTag pl.desc != cell.tag then .next (bump 0x01 0 0 s)
  else if pl.st == .sealed && pl.round == cell.f 44 2 then .next (voidFor 5 p (bumpPeal p 12 1 s))
  else .next (bumpPeal p 12 1 s)

/-! Spot duplication at the twin and at the home (R220, R221). -/

/-- Take the cells of a TWIN message from the queue it arrived in. (DEDUCED, log entry 92). -/
def takeTwin (vc : Nat) (m : TwinMsg) (s : State) : State :=
  let q := s.twin.inbox.look vc []
  match q with
  | c :: _ => if c.tmsg = m.tmsg ∧ c.payload = m.head then
      s.modTwin fun t => { t with inbox := t.inbox.put vc (q.drop (1 + m.data.length / 64)) } else s
  | [] => s

/-- The first cell of a TWIN message keeps its fields in range and its unnamed bytes zero, and the data end where its count says (R302, R6). -/
def twinOk (tmsg : Nat) (m : TwinMsg) : Bool :=
  let h := m.head
  let le1 (off n : Nat) : Bool := decide (byteAt h off ≤ n)
  let z (off n : Nat) : Bool := zeroAt h off n
  match tmsg with
  | 0x01 => le1 12 4 && le1 13 1 && le1 34 15 && le1 35 3 && z 36 28
  | 0x02 => le1 8 4 && le1 9 15 && z 10 2 && z 16 48
  | 0x03 => le1 8 1 && le1 9 15 && z 12 52
  | 0x04 => le1 2 3 && le1 3 3 && le1 5 1 && z 6 2 && (byteAt h 2 == 0 || z 16 4) && z 20 44
  | 0x05 => le1 2 1 && z 3 5 && z 24 40
  | 0x06 => z 32 32
  | 0x07 => z 4 4 && z 40 24
  | 0x08 => le1 2 3 && z 3 1 && z 12 52
  | 0x09 => z 2 6 && z 24 40 && (m.data.drop (8 * le h 20 4)).all (· == 0)
  | 0x0A => le1 2 3 && z 3 1 && z 13 1 && z 16 48
  | 0x0B => le1 2 3 && z 3 1 && z 16 48
  | 0x0C => le1 2 1 && le1 3 1 && z 16 48
  | 0x0D => le1 2 3 && le1 3 1 && z 4 4 && z 24 40
  | 0x0E => le1 2 1 && z 3 1 && z 12 52
  | 0x0F => z 12 52
  | 0x10 => z 22 42
  | 0x11 => z 3 1 && le1 2 3 && z 6 2 && z 16 48
  | 0x12 => le1 3 1 && decide (le h 4 4 < 2 ^ 20) && z 32 32
  | _ => false

/-- Discard a sequenced TWIN message with a reserved bit set (R6). (DEDUCED, log entry 167). -/
def badTwin (s : State) : State := countDiscard none causeEncoding s

/-- The TWIN message names a peal both chips run: admitted here, twinned, of the tag. -/
def twinPeal (s : State) (p tag : Nat) : Bool :=
  let pl := s.peal p
  pl.st != .free && pl.st != .retiring && dTwinned pl.desc && dTag pl.desc == tag

/-- Contributions the whole of chunk c takes. -/
def owedTotal (s : State) (d : BitVec 512) (c : Nat) : Nat :=
  ((contributors s d).map fun m => let (a, b) := owedIn s d m c; b - a).foldl (· + ·) 0

/-- MAXEXP as a member would report it for one element (R210). -/
def eltExp (x : Elt) : Int := match x with | .fin _ m e => if m = 0 then -32768 else (Nat.log2 m : Int) + e | _ => -32768

/-- The chunk copies of spot duplication whose digest this chip has sent are re-checked when the home finds a difference (R221): a side whose
residue fails records a residue fault. -/
def recheckSpots (p : Nat) (s : State) : State :=
  let pl := s.peal p
  forAll (pl.spotRows.filter fun e => e.2.complete && badRows pl.desc e.2) s fun s e =>
    let (fence, s) := residueFault p e.1 s
    if fence then fenceRegion (chunkRegion pl.desc e.1) 1 255 s else s

/-- SPOT_DIGEST arrives at the home (R221). -/
def execSpotDigestReceive (msg : TwinMsg) (s : State) : Out :=
  let s := takeTwin 3 msg s
  let p := le msg.head 0 2
  let c := le msg.head 4 4
  if !twinOk 0x0B msg then .next (badTwin s)
  else if !twinPeal s p msg.tag || (s.peal p).round ≠ byteAt msg.head 2 || !(s.peal p).isOpen then .next s
  else .next (compareSpot p c (s.modChunk p c fun ch => { ch with twinDig := some (BitVec.ofNat 64 (le msg.head 8 8)) }))

/-- No digest came within WINDOW_TIMEOUT_US of completion while PAIRED (R221). -/
def execSpotDigestTimeout (peal chunk : Nat) (s : State) : Out :=
  match (s.peal peal).chunks.look? chunk with
  | some ch =>
    .next (if ch.complete && ch.spot == .waiting && s.twin.st == .paired && (s.peal peal).isOpen then voidFor 8 peal (bumpPeal peal 42 1 s) else s)
  | none => .next s

/-- The pair leaves PAIRED: holds of spot duplication pass (R221). -/
def skipSpots (s : State) : State :=
  forAll s.peals.keys s fun s p =>
    let cs := ((s.peal p).chunks.filter fun e => e.2.spot == .waiting).map (·.1)
    forAll cs s fun s c => bumpPeal p 43 1 (s.modChunk p c fun ch => { ch with spot := .passed })

end Sys2Proof.Machine
end

