-- ==== Sys2Proof/Machine/Cores.lean ====
section
/-! DEFINITION. Machine/Cores.lean: program invocations, memory windows and the instruction commands of the peal cores, and the update of a shard at step end (chapters 08, 09). -/
namespace Sys2Proof.Machine

/-! Core faults and retirement (R227, R257). -/

/-- Retire a physical core: a free spare of its region takes over the indices it serves, otherwise core (k + 64) mod 128 does. -/
def retireCore (core : Nat) (s : State) : State :=
  let r := core / 132
  let idx := ((List.range 128).map (132 * r + ·)).filter fun i => s.spine.served.look i i == core
  let s := s.modLedger r fun l => { l with coresOut := insertNat (core % 132) l.coresOut }
  let s := s.modCore core fun k => { k with retired := true }
  forAll idx s fun s i =>
    let used (k : Nat) : Bool := (s.core k).retired || s.spine.served.any fun e => e.2 == k
    let spare := ((List.range 4).map (132 * r + 128 + ·)).find? fun k => !used k
    let k := i % 132
    let s := ledgerAdd r 0x0F [BitVec.ofNat 8 k, BitVec.ofNat 8 (match spare with | some j => j % 132 - 128 | none => 255)] s
    let s := postEvent 0x3005 [BitVec.ofNat 8 r, BitVec.ofNat 8 k, BitVec.ofNat 8 (match spare with | some j => j % 132 - 128 | none => 255)] s
    match spare with
    | some j =>
      (s.modLedger r fun l => { l with spares := l.spares.put (j % 132 - 128) k }).modSpine fun x => { x with served := x.served.put i j }
    | none =>
      let p := 132 * r + (k + 64) % 128
      let s := s.modSpine fun x => { x with served := x.served.put i (x.served.look p p) }
      settle 5 (s.modChip fun c => { c with noSpare := insertNat i c.noSpare })

/-- A core fault (R257): counted and recorded; the third of a core within 24 hours retires it. -/
def coreFault (core row : Nat) (s : State) : State :=
  let r := core / 132
  let ts := lastDay s (s.core core).faults
  let s := s.modCore core fun k => { k with faults := ts }
  let s := bump 0x05 r 8 (bump 0x06 core 15 s)
  let s := ledgerAdd r 0x0A [BitVec.ofNat 8 (core % 132), BitVec.ofNat 8 row] s
  if 3 ≤ ts.length && !(s.core core).retired then retireCore core s else s

/-! The ends of an invocation (R233, R256, R308). -/

/-- The invocation on a core is over. -/
def dropInv (core : Nat) (s : State) : State :=
  let p := match (s.core core).inv with | some i => if i.entry = 3 then some i.peal else none | none => none
  s.modCore core fun k => { k with
    inv := none
    voids := match p with | some p => (match k.voids.find? (·.1 == p) with | some v => k.voids.erase v | none => k.voids) | none => k.voids }

/-- A fault ends the invocation and voids the round (R256): rows 0 to 5 with cause PROGRAM, row 7 with cause STORE_ERROR as a core
fault. (DEDUCED, log entry 65). -/
def progFault (core row : Nat) (s : State) : State :=
  match (s.core core).inv with
  | none => s
  | some i =>
    let s := bump 0x06 core (7 + row) (bumpPeal i.peal (48 + row) 1 (dropInv core s))
    if row = 7 then voidFor 14 i.peal (coreFault core row s) else voidFor 12 i.peal s

/-- MIRROR_ROW of a row whose ON_CHUNK has ended (R308). -/
def sendMirror (p x : Nat) (s : State) : State :=
  let pl := s.peal p
  let d := pl.desc
  let k := dShard d
  if !pairedFor s pl then s
  else
    let e := elems d
    let b := sliceRead s k (nBank (s.shard k)) x 0 (8 * e + 4)
    let s := bump 0x0E 0 0 s
    sendTwinFrom (some (chunkRegion d (chunkOf d x))) 0x08 2 (dTag d) (toLE 2 p ++ toLE 1 pl.round ++ zeros 1 ++ toLE 4 x ++ (b.drop (8 * e)).take 4) (b.take (8 * e)) s

/-- SAT that an invocation raised joins the round's flags (R248, R209). -/
def joinSat (p x entry : Nat) (sat : Bool) (s : State) : State :=
  if !sat then s
  else
    let c := chunkOf (s.peal p).desc x
    let was := ((s.peal p).chunks.look c {}).satted
    let s := if entry = 1 ∧ !was then bumpPeal p 32 1 (s.modChunk p c fun ch => { ch with satted := true }) else s
    let (stop, s) := addFlags p true false false s
    if stop then voidFor 6 p s else s

/-- ON_CHUNK of a row has ended: its parts wait for release; a KIND 5 row goes to the twin and its chunk's slot is freed with the
last row (R238, R308). `prog` says that a program formed the results (R445). -/
def endChunkRow (p x : Nat) (parts : List Part) (sat prog : Bool) (s : State) : State :=
  let d := (s.peal p).desc
  let c := chunkOf d x
  let s := s.modPeal p fun q => { q with outs := if isUpdate d then q.outs else q.outs.put x parts }
  let s := s.modChunk p c fun ch => { ch with ended := insertNat x ch.ended, tainted := ch.tainted || (prog && ch.supply) }
  let s := joinSat p x 1 sat s
  if !(s.peal p).isOpen || !isUpdate d then s
  else
    let s := sendMirror p x s
    let ch := (s.peal p).chunks.look c {}
    if (chunkCells d c).all ch.ended.contains then
      refreshWindows p (openChunks p (chunkCount d) (s.modChunk p c fun ch => { ch with released := true, rows := [] }))
    else s

/-- ON_STEP_END has ended at a position or core: its results wait for release; a mirrored one releases nothing (R308). -/
def endStep (p x : Nat) (mirror : Bool) (parts : List Part) (sat : Bool) (s : State) : State :=
  let d := (s.peal p).desc
  let s := s.modPeal p fun q =>
    if mirror then { q with mirEnded := insertNat x q.mirEnded }
    else if isUpdate d then { q with outs := q.outs.put x parts, ended := insertNat x q.ended }
    else { q with ended := insertNat x q.ended }
  let s := if mirror then bumpN 0x0E 0 1 parts.length s else s
  let s := if isUpdate d && !mirror then s.modChunk p (chunkOf d x) fun ch => { ch with tainted := ch.tainted || ch.supply } else s
  let s := joinSat p x 2 sat s
  trySeal p s

/-- The parts an invocation must EMIT (R247). -/
def partsDue (d : BitVec 512) (entry : Nat) : Nat :=
  if (entry = 1 ∧ !isUpdate d) ∨ (entry = 2 ∧ isUpdate d) then partsOf (dFmt d) (dResFmt d) else 0

/-- What waits in the park queues of the chunks a core serves goes on as far as its event queue now takes it (R212, R228). -/
def unparkCore (core : Nat) (s : State) : State :=
  forAll s.peals.keys s fun s p =>
    forAll (((s.peal p).chunks.filter fun e => e.2.anchor.isSome && !e.2.parked.isEmpty && coreOf s (s.peal p).desc e.1 == core).map (·.1)) s fun s c =>
      unparkChunk p c s

/-- END: an invocation with a PART missing faults (row 2); otherwise it is over. -/
def endInvocation (core : Nat) (s : State) : State :=
  match (s.core core).inv with
  | none => s
  | some i =>
    let d := (s.peal i.peal).desc
    if (List.range (partsDue d i.entry)).any fun q => !(i.parts.any (·.part == q)) then progFault core 2 s
    else
      let s := dropInv core s
      unparkCore core <| match i.entry with
      | 1 => endChunkRow i.peal i.x i.parts i.sat true s
      | 2 => endStep i.peal (if isUpdate d then i.x else core) i.mirror i.parts i.sat s
      | _ => joinSat i.peal i.x i.entry i.sat s

/-! Starting an invocation (R233 to R237). -/

/-- Count and start a program invocation. (DEDUCED, log entry 74). -/
def startInv (core : Nat) (i : Inv) (s : State) : State :=
  let s := bump 0x06 core (2 + i.entry) (bumpPeal i.peal (44 + i.entry) 1 s)
  s.modCore core fun k => { k with inv := some i }

/-- The program context of a core is free for an event of a peal. -/
def coreFree (s : State) (core p : Nat) : Bool := (s.core core).inv.isNone && noVoid s core p

/-- A queued contribution's handler starts on its core; the leading ACCX CELL has run on arrival (R236). (DEDUCED, log entry 74). -/
def execOnContrib (core peal x member : Nat) (s : State) : Out :=
  let pl := s.peal peal
  let pid := dProgram pl.desc
  match (s.core core).queue.find? (fun q => q.1 == peal && q.2.1 == member && q.2.2.index == x), userEntry s pid 0 with
  | some q, some e =>
    if !coreFree s core peal then .next s
    else
      let s := s.modCore core fun k => { k with queue := k.queue.erase q }
      let pc := if (leadAccx s pid).isSome then e + 1 else e
      let k := (contributors s pl.desc).idxOf member
      .next (unparkCore core (startInv core { peal := peal, entry := 0, x := x, member := k, cell := some q.2.2, pc := pc, round := pl.round, step := pl.step } s))
  | _, _ => .next s

/-- RNDX of a staged or row accumulator to binary32 (R279, R284). -/
def rnd32 (acc : Int) (tag : Nat) (anchor : Int) : W32 := eltF32 (laneElt acc tag anchor)

/-- The library's square of a gradient, on the grid of the norm (R279); none where FSCL gives 2^31 or more. -/
def normSquare (shift : Int) (g : W32) : Option Nat :=
  let x := fScl (fMul g g) (-shift)
  if fCmp 5 x 0x4F000000 then none else some (fToInt x).toNat

/-- A signed 32-bit field of the PARAMS block of the open step. -/
def paramW (pl : Peal) (off : Nat) : W32 := match paramsOf pl pl.step with | some q => BitVec.ofNat 32 (le q.block off 4) | none => 0

/-- Add squares into the 32-lane accumulator at PSTORE byte 0 of a region. -/
def addSquares (p r : Nat) (qs : List Nat) (s : State) : State :=
  let a := pstoreAddr p r 0
  let old := s.mem.pstore.reads zeroDefault a 256
  let sum (l : Nat) : Nat := ((List.range qs.length).filter (· % 32 == l)).foldl (fun n i => n + qs.getD i 0) (le old (8 * l) 8)
  s.modMem fun m => { m with pstore := m.pstore.writes zeroDefault a (((List.range 32).map fun l => toLE 8 (sum l)).flatten) }

/-- The library's ON_CHUNK of a KIND 5 row (R238, R272, R279): stage the accumulators and the anchor, add the squares; answers whether it
executes VOID. -/
def libChunk (p x : Nat) (s : State) : Bool × State :=
  let pl := s.peal p
  let d := pl.desc
  let ch := pl.chunks.look (chunkOf d x) {}
  let r := ch.rows.look x {}
  let a := ch.anchor.getD 0
  let e := elems d
  let k := dShard d
  let staged := packCodes 8 ((List.range e).map fun i => exactCode 64 (r.at i) (r.lane.getD i 0)) ++ toLE 4 (twos a 32)
  let s := sliceServed true true k (nBank (s.shard k)) x 0 staged.length (sliceStm k (nBank (s.shard k)) x 0 staged s)
  let qs := (List.range e).map fun i => normSquare (paramW pl 44).toInt (rnd32 (r.at i) (r.lane.getD i 0) a)
  if qs.any (·.isNone) then (true, s)
  else (false, addSquares p (chunkRegion d (chunkOf d x)) (qs.map (·.getD 0)) s)

/-- The issue slots of the standard ON_CHUNK (R242, R268): CHK, then a load, RNDX, the pack and EMIT for each part, and END; a copy needs no
RNDX and no pack. -/
def standardIssue (d : BitVec 512) : Nat :=
  let pack := if dResFmt d == 1 || dResFmt d == 2 then 1 else if eltsPerCell (dResFmt d) == 64 then 2 else 0
  if isCopy d then 5
  else if eltsPerCell (dFmt d) ≤ 32 then 3 + partsOf (dFmt d) (dResFmt d) * ((if dAcc128 d then 2 else 1) + 2 + pack)
  else (Config.stdIssue (dKind d) (dOp d) (dFmt d) (dResFmt d) (b2n (dAcc128 d))).toNat

/-- The parts of the standard ON_CHUNK (R268, R208); the RNDX of an infinity sets SAT too (R248). -/
def stdParts (d : BitVec 512) (r : Row) (anchor : Int) : List Part × Bool :=
  if isCopy d then ([⟨0, fit 64 r.copy, r.copySide⟩], false)
  else
    let one (q : Nat) : Part × Bool :=
      if dResFmt d = 11 ∨ dResFmt d = 12 then
        let (b, sd) := exactPart (dResFmt d) (accW d) q anchor r.acc r.lane
        (⟨q, b, sd⟩, false)
      else
        let xs := rowElts d r anchor
        let (b, sd, t) := encodePart (dFmt d) (dResFmt d) (dOutScale d) q xs
        (⟨q, b, sd⟩, t || xs.any (·.isInf))
    let ps := (List.range (partsOf (dFmt d) (dResFmt d))).map one
    (ps.map (·.1), ps.any (·.2))

/-- A row of a completed chunk waits for its ON_CHUNK on this core. -/
def rowWaits (s : State) (core p x : Nat) : Bool :=
  let pl := s.peal p
  match pl.chunks.look? (chunkOf pl.desc x) with
  | some ch => pl.isOpen && pl.st == .running && ch.complete && decide (x < dStepCells pl.desc) && !ch.ended.contains x
      && (ch.rows.look x {}).spec == 0 && cellCore s pl.desc x == core && coreFree s core p
  | none => false

/-- ON_CHUNK of a row: a program's starts; the standard one and the library's run whole. (DEDUCED, log entry 78). -/
def execOnChunk (core peal x : Nat) (s : State) : Out :=
  let pl := s.peal peal
  let d := pl.desc
  if !rowWaits s core peal x then .next s
  else
    match userEntry s (dProgram d) 1 with
    | some e => .next (startInv core { peal := peal, entry := 1, x := x, pc := e, round := pl.round, step := pl.step } s)
    | none =>
      let ch := pl.chunks.look (chunkOf d x) {}
      let r := ch.rows.look x {}
      let s := startInv core { peal := peal, entry := 1, x := x, round := pl.round, step := pl.step } s
      if !rowOk d r then .next (residueVoid [7] peal (chunkOf d x) (dropInv core (bumpN 0x06 core 0 2 s)))
      else if isUpdate d then
        let (stop, s) := libChunk peal x (bumpN 0x06 core 0 (Config.libIssue (dProgram d) 1).toNat s)
        .next (if stop then progFault core 5 s else unparkCore core (endChunkRow peal x [] false false (dropInv core s)))
      else
        let (ps, sat) := stdParts d r (ch.anchor.getD 0)
        .next (unparkCore core (endChunkRow peal x ps sat false (dropInv core (bumpN 0x06 core 0 (standardIssue d) s))))

/-! ON_STEP_END (R235, R277, R284 to R288). -/

/-- The norm result that has reached this chip for the round's TRAIN_STEP. -/
def normResult (s : State) (pl : Peal) : Option Bytes :=
  let d := (s.shard (dShard pl.desc)).desc
  match paramsOf pl pl.step with
  | some q => ((s.spine.norms.look (4096 * shTag d + shNormPeal d) []).look q.train {}).result
  | none => none

/-- ON_STEP_END of a KIND 5 peal may start (R277). -/
def normReady (s : State) (pl : Peal) : Bool := !shNormEn (s.shard (dShard pl.desc)).desc || (normResult s pl).isSome

/-- A position or core waits for its ON_STEP_END; answers whether it is a mirrored one. -/
def stepWaits (s : State) (core p x : Nat) : Option Bool :=
  let pl := s.peal p
  let d := pl.desc
  if !pl.isOpen || !(pl.st == .running || pl.st == .armed) || !chunksRan s pl || !coreFree s core p then none
  else if isUpdate d then
    if dStepCells d ≤ x || cellCore s d x != core || !normReady s pl then none
    else if isHome s pl (chunkOf d x) then (if pl.ended.contains x then none else some false)
    else if pl.landed.contains x && !pl.mirEnded.contains x then some true else none
  else if (homeCores s pl).contains core && !pl.ended.contains core then some false else none

/-- The clip factor k (R284); none where the library executes VOID. -/
def clipFactor (s : State) (pl : Peal) : Option W32 :=
  let one := BitVec.ofNat 32 one32
  if !shNormEn (s.shard (dShard pl.desc)).desc then some one
  else
    match normResult s pl with
    | none => none
    | some b =>
      let n2 := eltF32 (.fin false (le b 0 16) (paramW pl 44).toInt)
      if bit (byteAt b 24) 0 || n2 == finf false then none
      else if paramW pl 40 == 0 then some one
      else some (fMin one (fMul (paramW pl 40) (fRsq n2)))

/-- New moments and master of one parameter (R286): program, block, old values, effective gradient. -/
def optStep (pid : Nat) (P : Nat → W32) (w m v g : W32) : W32 × W32 × W32 :=
  let neglr := P 0
  let decay := P 4
  let b1 := P 8
  let omb1 := P 12
  let b2 := P 16
  let omb2 := P 20
  let mix := fFma b1 m (fMul omb1 g)
  match pid with
  | 0x10 => (fFma neglr mix (fMul decay w), mix, 0)
  | 0x13 =>
    let u := if fCmp 4 mix 0 then BitVec.ofNat 32 one32 else if fCmp 2 mix 0 then fNeg (BitVec.ofNat 32 one32) else if fCmp 6 mix 0 then nan32 else 0
    (fFma neglr u (fMul decay w), fFma b2 m (fMul omb2 g), 0)
  | _ =>
    let v' := fFma b2 v (fMul omb2 (fMul g g))
    let u := fDiv (fMul mix (P 28)) (fAdd (fSqrt (fMul v' (P 32))) (P 24))
    (fFma neglr u (if pid = 0x12 then fMul decay w else w), mix, v')

/-- The library's ON_STEP_END of a position (R284 to R288): none where it executes VOID, otherwise the parts it emits. -/
def libStep (p x : Nat) (s : State) : Option (List Part) × State :=
  let pl := s.peal p
  let d := pl.desc
  let k := dShard d
  let e := elems d
  let sh := s.shard k
  let staged := sliceRead s k (nBank sh) x 0 (8 * e + 4)
  let anchor := signed (le staged (8 * e) 4) 32
  let old := sliceRead s k sh.live x 0 (12 * e)
  let P (o : Nat) : W32 := paramW pl o
  let s := sliceServed true false k sh.live x 0 (12 * e) (sliceServed true false k (nBank sh) x 0 (8 * e + 4) s)
  match clipFactor s pl with
  | none => (none, s)
  | some f =>
    let c := fMul f (P 36)
    let new := (List.range e).map fun j =>
      let a := exactLane 64 (le staged (8 * j) 8)
      let at_ (o : Nat) : W32 := BitVec.ofNat 32 (le old (o * e + 4 * j) 4)
      optStep (dProgram d) P (at_ 0) (at_ 4) (at_ 8) (fMul (rnd32 a.val a.tag anchor) c)
    let ws := new.map (·.1)
    if new.any fun t => fval t.1 == .nan || fval t.2.1 == .nan || fval t.2.2 == .nan then (none, s)
    else
      let b := packCodes 4 (ws.map (·.toNat)) ++ packCodes 4 (new.map (·.2.1.toNat)) ++ packCodes 4 (new.map (·.2.2.toNat))
        ++ packCodes 2 (ws.map (narrow fBf16))
      let s := sliceServed true true k (nBank sh) x 0 b.length (sliceStm k (nBank sh) x 0 b s)
      (some ((List.range (partsOf (dFmt d) (dResFmt d))).map fun q => (let (y, sd) := imagePart d q ws; ⟨q, y, sd⟩)), s)

/-- ON_STEP_END of a position (KIND 5) or core: a program's starts, the library's runs whole. -/
def execOnStepEnd (core peal x : Nat) (s : State) : Out :=
  let pl := s.peal peal
  let d := pl.desc
  match stepWaits s core peal x with
  | none => .next s
  | some mirror =>
    let i : Inv := { peal := peal, entry := 2, x := if isUpdate d then x else 0, round := pl.round, step := pl.step, mirror := mirror }
    if libProgram (dProgram d) then
      match libStep peal x (bumpN 0x06 core 0 (Config.libIssue (dProgram d) 2).toNat (startInv core i s)) with
      | (none, s) => .next (progFault core 5 s)
      | (some ps, s) => .next (unparkCore core (endStep peal x mirror ps false (dropInv core s)))
    else
      match userEntry s (dProgram d) 2 with
      | some e => .next (startInv core { i with pc := e } s)
      | none => .next s

/-- A void or a retire has reached the core (R237): the invocations of the peal were abandoned when the void was taken, and its ON_VOID, once
due, starts here. -/
def execOnVoid (core peal : Nat) (s : State) : Out :=
  match (s.core core).voids.find? (·.1 == peal), userEntry s (dProgram (s.peal peal).desc) 3 with
  | some (_, cause, round, step), some e =>
    if (s.core core).inv.isSome then .next s
    else .next (startInv core { peal := peal, entry := 3, x := 0, pc := e, cause := cause, round := round, step := step } s)
  | some v, none => .next (s.modCore core fun k => { k with voids := k.voids.erase v })
  | none, _ => .next s

/-! Memory windows (R243, R244). -/

/-- Size of a window for an invocation; none where it is not bound. -/
def winSize (s : State) (i : Inv) (win : Nat) : Option Nat :=
  let d := (s.peal i.peal).desc
  let pid := dProgram d
  match win with
  | 0 => if i.entry = 1 then some (elems d * (accW d / 8) + 32) else none
  | 1 => some (if userProgram pid then imageN s pid 8 4 else 256)
  | 2 => some (if userProgram pid then imageN s pid 12 4 else 0)
  | 3 => some 256
  | 4 | 5 => if isUpdate d && (i.entry == 1 || i.entry == 2) then some (sliceBytes (s.shard (dShard d)).desc) else none
  | 6 => if i.cell.isSome then some 64 else none
  | _ => if i.link.isSome then some 4096 else none

/-- The constant pool of an image starts at the next multiple of 128 after the code (R261). (DEDUCED, log entry 79). -/
def constAddr (s : State) (pid : Nat) : Nat := imageAddr s pid + 128 * ceilDiv (128 + 4 * imageN s pid 56 4) 128

/-- The row an invocation works on, and its anchor. -/
def invRow (s : State) (i : Inv) : Row × Option Int :=
  let pl := s.peal i.peal
  let ch := pl.chunks.look (chunkOf pl.desc i.x) {}
  (ch.rows.look i.x {}, ch.anchor)

/-- LINKRES of an invocation (R243, R277): the result cells of the bound peal; the norm result for a norm exchange. -/
def linkBytes (s : State) (i : Inv) (off n : Nat) : Bytes :=
  match i.link with
  | none => zeros n
  | some p =>
    let pl := s.peal i.peal
    let isNorm := isUpdate pl.desc && shNormEn (s.shard (dShard pl.desc)).desc && shNormPeal (s.shard (dShard pl.desc)).desc == p
    let t : Tbl Bytes := if isNorm then [(0, fit 64 ((normResult s pl).getD []))] else (s.peal p).linkRes
    (List.range n).map fun k => ((t.look ((off + k) / 64) []).getD ((off + k) % 64) 0)

/-- Bytes of a window of an invocation on a core. (DEDUCED, log entry 76). -/
def winRead (s : State) (core : Nat) (i : Inv) (win off n : Nat) : Bytes :=
  let pl := s.peal i.peal
  let d := pl.desc
  let pid := dProgram d
  let k := dShard d
  match win with
  | 0 => let (r, a) := invRow s i; ((rowBytes d r a).drop off).take n
  | 1 => s.mem.pstore.reads zeroDefault (pstoreAddr i.peal (core / 132) off) n
  | 2 => s.tbl (constAddr s pid + off) n
  | 3 => if isUpdate d then (match pl.params.look? i.step with | some q => (q.block.drop off).take n | none => zeros n) else zeros n
  | 4 => sliceRead s k (nBank (s.shard k)) i.x off n
  | 5 => sliceRead s k (s.shard k).live i.x off n
  | 6 => (((i.cell.map (·.payload)).getD []).drop off).take n
  | _ => linkBytes s i off n

/-- SIZE, WIN and HALF of a memory instruction. -/
def wSize (w : IWord) : Nat := field w.imm.toNat 5 2
/-- (DEDUCED, log entry 76). -/
def wWin (w : IWord) : Nat := field w.imm.toNat 7 3
def wHalf (w : IWord) : Nat := field w.imm.toNat 4 1

/-- An access of an invocation lies aligned inside a bound window. -/
def accessOk (s : State) (i : Inv) (w : IWord) : Bool :=
  let n := sizeBytes (wSize w) (accW (s.peal i.peal).desc)
  let off := (i.sr w.a.toNat).toNat
  match winSize s i (wWin w) with
  | some z => off % n == 0 && decide (off + n ≤ z)
  | none => false

/-! Issuing an instruction. -/

/-- The word an invocation is to fetch is uncorrectable in every replica of the program table (R100, R256). -/
def fetchBad (s : State) (i : Inv) : Bool :=
  let pid := dProgram (s.peal i.peal).desc
  userProgram pid && s.wordBad (imageAddr s pid + 128 + 4 * i.pc) 4

/-- Count the issue slots of an instruction (R269). -/
def countOps (op core : Nat) (w : IWord) (i : Inv) (s : State) : State := bumpN 0x06 core 0 (issueOps op w (accW (s.peal i.peal).desc)) s

/-- Issue an instruction on a core: nothing without an invocation or where the word is none (R240); a fetch that no replica can correct is
a core fault (R256); otherwise its ops are counted. (DEDUCED, log entry 73). -/
def issue (op core : Nat) (w : IWord) (s : State) (f : Inv → State → State) : Out :=
  match (s.core core).inv with
  | none => .next s
  | some i =>
    if fetchBad s i then .next (progFault core 7 s)
    else if (wordCheck op w).isSome then .next s else .next (f i (countOps op core w i s))

/-- The invocation after an instruction. -/
def setInv (core : Nat) (i : Inv) (s : State) : State := s.modCore core fun k => { k with inv := some i }

/-- An instruction between registers. -/
def regOp (op core : Nat) (w : IWord) (s : State) (f : Inv → Inv) : Out := issue op core w s fun i s => setInv core (f i).next s

/-- A load of a window that lies in LPDDR takes its slots. -/
def windowServed (i : Inv) (win off n : Nat) (s : State) : State :=
  let k := dShard (s.peal i.peal).desc
  match win with
  | 4 => sliceServed true false k (nBank (s.shard k)) i.x off n s
  | 5 => sliceServed true false k (s.shard k).live i.x off n s
  | _ => s

/-- A load (R244, R247). -/
def loadOp (op core : Nat) (w : IWord) (s : State) : Out :=
  issue op core w s fun i s =>
    if !accessOk s i w then progFault core 0 s
    else
      let d := (s.peal i.peal).desc
      let wb := accW d
      let win := wWin w
      let off := (i.sr w.a.toNat).toNat
      let b := winRead s core i win off (sizeBytes (wSize w) wb)
      let tags (l : Nat) : Nat := if win = 0 then (invRow s i).1.lane.getD (off / (wb / 8) + l) 0 else 0
      let s := windowServed i win off (sizeBytes (wSize w) wb) s
      setInv core (i.load (wSize w) (wHalf w) wb (decide (4 ≤ win)) tags w.d.toNat w.c b).next s

/-- LDC, LDS and LDM. -/
def execLdc (core : Nat) (w : IWord) (s : State) : Out := loadOp 0x01 core w s
def execLds (core : Nat) (w : IWord) (s : State) : Out := loadOp 0x02 core w s
def execLdm (core : Nat) (w : IWord) (s : State) : Out := loadOp 0x04 core w s

/-- STS: each word or lane combines with what PSTORE holds (R245). -/
def execSts (core : Nat) (w : IWord) (s : State) : Out :=
  issue 0x03 core w s fun i s =>
    if !accessOk s i w then progFault core 0 s
    else
      let wb := accW (s.peal i.peal).desc
      let base := pstoreAddr i.peal (core / 132) (i.sr w.a.toNat).toNat
      let kind := field w.imm.toNat 0 4
      let s := forAll (i.storeParts (wSize w) (wHalf w) wb false w.b.toNat w.c) s fun s ob =>
        s.modMem fun m =>
          let n := ob.2.length
          let old := leNat (m.pstore.reads zeroDefault (base + ob.1) n)
          { m with pstore := m.pstore.writes zeroDefault (base + ob.1) (toLE n (combine kind (8 * n) old (leNat ob.2))) }
      setInv core i.next s

/-- STM: stores to the slice of SHARD_N. -/
def execStm (core : Nat) (w : IWord) (s : State) : Out :=
  issue 0x05 core w s fun i s =>
    if !accessOk s i w then progFault core 0 s
    else
      let d := (s.peal i.peal).desc
      let k := dShard d
      let off := (i.sr w.a.toNat).toNat
      let s := forAll (i.storeParts (wSize w) (wHalf w) (accW d) true w.b.toNat w.c) s fun s ob =>
        sliceStm k (nBank (s.shard k)) i.x (off + ob.1) ob.2 s
      let s := sliceServed true true k (nBank (s.shard k)) i.x off (sizeBytes (wSize w) (accW d)) s
      setInv core i.next s

/-- LDI. -/
def execLdi (core : Nat) (w : IWord) (s : State) : Out := regOp 0x06 core w s fun i => i.setS w.d.toNat (w.imm.signExtend 32)

/-- MOV between registers. -/
def execMov (core : Nat) (w : IWord) (s : State) : Out :=
  if field w.imm.toNat 6 4 = 10 then .next s else regOp 0x07 core w s fun i => i.mov w

/-- The context indices an entry point defines (R232). (DEDUCED, log entry 77). -/
def ctxOk (entry : Nat) (kind5 : Bool) (idx : Nat) : Bool :=
  match idx with
  | 0 | 1 => decide (entry ≤ 1) || (entry == 2 && kind5)
  | 5 | 9 => entry == 0
  | 6 => decide (entry ≤ 1)
  | 11 | 12 => entry == 1
  | 13 => kind5
  | 14 => entry == 3
  | n => decide (n ≤ 10)

/-- A context value (R232). -/
def ctxValue (s : State) (i : Inv) (idx : Nat) : Nat :=
  let pl := s.peal i.peal
  let d := pl.desc
  let (r, a) := invRow s i
  match idx with
  | 0 => i.x
  | 1 => chunkOf d i.x
  | 2 => i.step % 2 ^ 32
  | 3 => i.step / 2 ^ 32
  | 4 => i.round
  | 5 => i.member
  | 6 => twos (a.getD 0) 32
  | 7 => elems d
  | 8 => partsOf (dFmt d) (dResFmt d)
  | 9 => (i.cell.map (·.side)).getD 0
  | 10 => ((homeChunks s pl).map fun c => (chunkCells d c).length).foldl (· + ·) 0
  | 11 => b2n r.sat + 2 * b2n r.nan + 4 * b2n r.inf
  | 12 => r.loss
  | 13 => sliceBytes (s.shard (dShard d)).desc
  | _ => i.cause

/-- MOV in mode CTX; an index the entry point does not define changes no register (the checker rejects it). (DEDUCED, log entry 77). -/
def execMovCtx (core : Nat) (w : IWord) (s : State) : Out :=
  if field w.imm.toNat 6 4 ≠ 10 then .next s
  else issue 0x07 core w s fun i s =>
    let idx := field w.imm.toNat 0 5
    if !ctxOk i.entry (isUpdate (s.peal i.peal).desc) idx then s
    else setInv core (i.setS w.d.toNat (BitVec.ofNat 32 (ctxValue s i idx))).next s

/-! Sending (R247). -/

/-- EMIT. -/
def execEmit (core : Nat) (w : IWord) (s : State) : Out :=
  issue 0x08 core w s fun i s =>
    let d := (s.peal i.peal).desc
    let n := partsOf (dFmt d) (dResFmt d)
    let q := field w.imm.toNat 0 4
    if n ≤ q || i.parts.any (·.part == q) || partsDue d i.entry == 0 then progFault core 2 s
    else
      let sd := field (i.sr w.b.toNat).toNat 0 16
      let carries := !isMx (dResFmt d) && (decide (1 < n) || decide (11 ≤ dResFmt d))
      setInv core (Inv.next { i with parts := i.parts ++ [⟨q, i.half w.a.toNat (wHalf w), if carries then setField sd 0 4 q else sd⟩] }) s

/-- The home that R170 names for a cell of a peal. -/
def homeFa (d : BitVec 512) (x : Nat) : Nat := if chunkSide d (chunkOf d x) = 1 then dHome1 d else dHome0 d

/-! Windows this chip holds as a contributor (R153 to R155): one for each peal and home it sends to, keyed 4,096 × (1 + side) + peal. -/

/-- The key of a held window. -/
def winKey (p side : Nat) : Nat := 4096 * (1 + side) + p

/-- The window held for a peal's home in the peal's current round; a new round starts with none granted. -/
def heldWin (s : State) (p side : Nat) : HeldWin :=
  let pl := s.peal p
  let fa := if side = 1 then dHome1 pl.desc else dHome0 pl.desc
  let new : HeldWin := { scope := 1, id := p, round := pl.round, grantor := fa, granted := false, limit := 0, ack := 0, next := 0, cells := [], retries := 0, maxTry := dRetries pl.desc, stopped := false, path := none }
  match s.fabric.wins.look? (winKey p side) with
  | some h => if h.round = pl.round then h else new
  | none => new

/-- Keep a held window. -/
def putWin (p side : Nat) (h : HeldWin) (s : State) : State := s.modFabric fun f => { f with wins := f.wins.put (winKey p side) h }

/-- Send a cell under a held window; the window remembers the member of GROUP_ROUTE that its last such cell took (R119). -/
def holderSend (p side n : Nat) (c : Cell) (s : State) : State :=
  let (r, s) := originate n c s
  match r with
  | .to _ (.entry 0 _ g m) => putWin p side { heldWin s p side with path := some (g, m) } s
  | _ => s

/-- ECHO: a contribution to another peal of the same TAG, sent at once when this chip's window there reaches it, and kept until then. -/
def execEcho (core : Nat) (w : IWord) (s : State) : Out :=
  issue 0x09 core w s fun i s =>
    let tp := (i.sr w.a.toNat).toNat
    let x := (i.sr w.d.toNat).toNat % 2 ^ 24
    let tl := s.peal tp
    if 4096 ≤ tp || dTag tl.desc != dTag (s.peal i.peal).desc || !(tl.st == .armed || tl.st == .running) then progFault core 3 s
    else
      let fa := s.fabric.plan.selfFa
      let cell := mkCell tContrib 2 s.fabric.epoch false false (homeFa tl.desc x) fa (dTag tl.desc)
        (pealTs tp tl.round x (dFmt tl.desc) 0) (i.half w.b.toNat (wHalf w))
      let k := chunkSide tl.desc (chunkOf tl.desc x)
      let h := heldWin s tp k
      let go := h.granted && precedes x h.limit
      let s := putWin tp k { h with cells := h.cells ++ [cell], next := if go && !precedes x h.next then x + 1 else h.next } s
      let s := if go then holderSend tp k (core / 132 * 8 + core % 132 / 16 % 8) cell s else s
      setInv core i.next s

/-! Exact arithmetic on the row (R248). -/

/-- Change the row of an invocation. -/
def modRowOf (i : Inv) (f : Row → Row) (s : State) : State :=
  s.modChunk i.peal (chunkOf (s.peal i.peal).desc i.x) fun ch => ch.modRow i.x f

/-- The decoded inputs of ACCX VREG: lane l of V[A] as binary32 or INT32. -/
def vregElts (w : IWord) (i : Inv) : List Elt :=
  (List.range 32).map fun l => if w.imm.getLsbD 6 then Elt.ofInt (i.vl w.a.toNat l).toInt else fval (i.vl w.a.toNat l)

/-- Adding or subtracting one input at one row lane. -/
def addLane (d : BitVec 512) (sq sub : Bool) (anchor : Int) (lane : Nat) (x : Elt) (r : Row) : Row :=
  if isCopy d then r
  else if sums d then
    let gs := gridCell d sq anchor [x]
    if sub then
      let ns := gs.map (·.n)
      { r.addInts (elems d) (accW d) lane (ns.map fun n => -n) with
        resIn := ns.foldl (fun a n => (a + res16 (-n)) % 65535) r.resIn
        loss := r.loss - (gs.filter (·.lost)).length }
    else (r.addInts (elems d) (accW d) lane (gs.map (·.n))).commit (elems d) lane gs
  else if sub then r else r.extreme (dOp d == 1) (elems d) lane [x]

/-- A value UNACC names is not finite. -/
def notFinite (x : Elt) : Bool := match x with | .fin _ _ _ => false | _ => true

/-- ACCX and UNACC from a V register: the lanes that act, at row lanes 32·HALF + l; one whose row lane lies beyond the row does nothing. (DESIGN
CHOICE, log entry 164). -/
def vregOp (sub : Bool) (op core : Nat) (w : IWord) (s : State) : Out :=
  issue op core w s fun i s =>
    let d := (s.peal i.peal).desc
    let xs := vregElts w i
    let ls := (List.range 32).filter fun l => i.acts w.c l && decide (32 * wHalf w + l < elems d)
    if sub && ls.any (fun l => notFinite (xs.getD l .nan)) then progFault core 4 s
    else
      let a := (invRow s i).2.getD 0
      setInv core i.next (modRowOf i (fun r => ls.foldl (fun r l => addLane d (w.imm.getLsbD 7) sub a (32 * wHalf w + l) (xs.getD l .nan) r) r) s)

/-- ACCX VREG. -/
def execAccxVreg (core : Nat) (w : IWord) (s : State) : Out :=
  if field w.imm.toNat 8 2 ≠ 1 then .next s else vregOp false 0x0A core w s

/-- ACCX CELL in the program context: the current cell is accumulated (R199 to R203, R248). -/
def execAccxCell (core : Nat) (w : IWord) (s : State) : Out :=
  if field w.imm.toNat 8 2 ≠ 0 then .next s
  else issue 0x0A core w s fun i s =>
    match i.cell with
    | some c =>
      let a := (invRow s i).2.getD 0
      setInv core i.next (modRowOf i (fun r => r.accumulate (s.peal i.peal).desc (w.imm.getLsbD 7) a c) s)
    | none => progFault core 0 s

/-- UNACC: subtracts exactly what ACCX with the same fields adds. -/
def execUnacc (core : Nat) (w : IWord) (s : State) : Out :=
  if field w.imm.toNat 8 2 = 1 then vregOp true 0x0B core w s
  else issue 0x0B core w s fun i s =>
    match i.cell with
    | some c =>
      let d := (s.peal i.peal).desc
      let xs := if isCopy d then [] else cellElts d c
      if xs.any notFinite then progFault core 4 s
      else
        let a := (invRow s i).2.getD 0
        setInv core i.next (modRowOf i (fun r => (List.range xs.length).foldl (fun r l => addLane d (w.imm.getLsbD 7) true a l (xs.getD l .nan) r) r) s)
    | none => progFault core 0 s

/-- RNDX. -/
def execRndx (core : Nat) (w : IWord) (s : State) : Out :=
  issue 0x0C core w s fun i s => setInv core (i.rndx (dOutScale (s.peal i.peal).desc) ((invRow s i).2.getD 0) w).next s

/-- CHK: a match sets P[D]; a mismatch voids with cause RESIDUE and ends the invocation (R218, R219). A row with a speculative input is not
checked: the instruction waits (R217). -/
def execChk (core : Nat) (w : IWord) (s : State) : Out :=
  issue 0x0D core w s fun i s =>
    let d := (s.peal i.peal).desc
    if (invRow s i).1.spec ≠ 0 then setInv core i s
    else if rowOk d (invRow s i).1 then setInv core (i.setP w.d.toNat 0xFFFFFFFF).next s
    else residueVoid [7] i.peal (chunkOf d i.x) (dropInv core s)

/-- VSUM. -/
def execVsum (core : Nat) (w : IWord) (s : State) : Out := regOp 0x0E core w s fun i => i.vsum w

/-! FP32 arithmetic (R249). -/
def execFadd (core : Nat) (w : IWord) (s : State) : Out := regOp 0x10 core w s fun i => i.fp2 fAdd w
def execFsub (core : Nat) (w : IWord) (s : State) : Out := regOp 0x11 core w s fun i => i.fp2 fSub w
def execFmul (core : Nat) (w : IWord) (s : State) : Out := regOp 0x12 core w s fun i => i.fp2 fMul w
def execFfma (core : Nat) (w : IWord) (s : State) : Out := regOp 0x13 core w s fun i => i.fp3 fFma w
def execFmax (core : Nat) (w : IWord) (s : State) : Out := regOp 0x14 core w s fun i => i.fp2 fMax w
def execFmin (core : Nat) (w : IWord) (s : State) : Out := regOp 0x15 core w s fun i => i.fp2 fMin w
def execFscl (core : Nat) (w : IWord) (s : State) : Out := regOp 0x19 core w s fun i => i.fscl w
def execFabs (core : Nat) (w : IWord) (s : State) : Out := regOp 0x1A core w s fun i => i.fp1 fAbs w
def execFneg (core : Nat) (w : IWord) (s : State) : Out := regOp 0x1B core w s fun i => i.fp1 fNeg w
def execFclmp (core : Nat) (w : IWord) (s : State) : Out := regOp 0x1C core w s fun i => i.fp3 (fun a b c => fMin (fMax a b) c) w

/-- A quotient or root, verified by a separate unit (R257): a failed self-check is a core fault. -/
def checkedOp (op core : Nat) (w : IWord) (check : SelfCheck) (s : State) (f : Inv → Inv) : Out :=
  match check with
  | .agrees => regOp op core w s f
  | .failed => issue op core w s fun _ s => progFault core 7 s

/-- FDIV, FSQRT and FRSQ. -/
def execFdiv (core : Nat) (w : IWord) (check : SelfCheck) (s : State) : Out := checkedOp 0x16 core w check s fun i => i.fp2 fDiv w
def execFsqrt (core : Nat) (w : IWord) (check : SelfCheck) (s : State) : Out := checkedOp 0x17 core w check s fun i => i.fp1 fSqrt w
def execFrsq (core : Nat) (w : IWord) (check : SelfCheck) (s : State) : Out := checkedOp 0x18 core w check s fun i => i.fp1 fRsq w

/-! Integer and bit operations (R250). -/

/-- A pair of a lane operation that never holds. -/
def noHold (f : ALane → ALane → ALane) (x y : ALane) : ALane × Bool := (f x y, false)

def execIadd (core : Nat) (w : IWord) (s : State) : Out := regOp 0x20 core w s fun i => i.int2 (· + ·) (aAdd false) w
def execIsub (core : Nat) (w : IWord) (s : State) : Out := regOp 0x21 core w s fun i => i.int2 (· - ·) (aAdd true) w
def execImax (core : Nat) (w : IWord) (s : State) : Out := regOp 0x22 core w s fun i => i.int2 iMax (noHold (aExt true)) w
def execImin (core : Nat) (w : IWord) (s : State) : Out := regOp 0x23 core w s fun i => i.int2 iMin (noHold (aExt false)) w
def execAnd (core : Nat) (w : IWord) (s : State) : Out := regOp 0x24 core w s fun i => i.int2 (· &&& ·) (noHold (aBit (· &&& ·))) w
def execOr (core : Nat) (w : IWord) (s : State) : Out := regOp 0x25 core w s fun i => i.int2 (· ||| ·) (noHold (aBit (· ||| ·))) w
def execXor (core : Nat) (w : IWord) (s : State) : Out := regOp 0x26 core w s fun i => i.int2 (· ^^^ ·) (noHold (aBit (· ^^^ ·))) w
def execShl (core : Nat) (w : IWord) (s : State) : Out := regOp 0x27 core w s fun i => i.shift 0 w
def execShr (core : Nat) (w : IWord) (s : State) : Out := regOp 0x28 core w s fun i => i.shift 1 w
def execShrArith (core : Nat) (w : IWord) (s : State) : Out := regOp 0x29 core w s fun i => i.shift 2 w

/-! Conversion, comparison and selection (R251, R252). -/
def execCvt (core : Nat) (w : IWord) (s : State) : Out := regOp 0x2C core w s fun i => i.cvt w
def execQnt (core : Nat) (w : IWord) (s : State) : Out := regOp 0x2D core w s fun i => i.qnt w
def execDqt (core : Nat) (w : IWord) (s : State) : Out :=
  issue 0x2E core w s fun i s => setInv core (i.dqt (dInScale (s.peal i.peal).desc) w).next s
def execFcmp (core : Nat) (w : IWord) (s : State) : Out := regOp 0x30 core w s fun i => i.fcmp w

/-- ICMP; what a NAN lane of class A compares as is drawn afresh. (DESIGN CHOICE, log entry 24). -/
def execIcmp (core : Nat) (w : IWord) (s : State) : Out :=
  issue 0x31 core w s fun i s => setInv core (i.icmp (Config.openElement s.free) w).next s.draw

def execSel (core : Nat) (w : IWord) (s : State) : Out := regOp 0x32 core w s fun i => i.sel w

/-! Control (R252, R262). -/

/-- The LOOP record of a backward branch of a user program: its BOUND (R261). -/
def loopBound (s : State) (pid idx : Nat) : Option Nat :=
  (List.range (imageN s pid 60 2)).findSome? fun k =>
    let x := imageN s pid (64 + 4 * k) 4
    if field x 0 13 = idx then some (field x 16 16) else none

/-- The counts of backward branches as control goes from `pc` to `dest`: a loop entered at its target from outside starts again (R262). -/
def enterLoops (pc dest : Nat) (t : Tbl (Nat × Nat)) : Tbl (Nat × Nat) :=
  t.filter fun e => !(e.2.1 == dest && !(decide (dest ≤ pc) && decide (pc ≤ e.1)))

/-- Jump by a signed offset. A backward branch counts, and one beyond its bound faults (row 1). -/
def jump (core : Nat) (off : Int) (i : Inv) (s : State) : State :=
  let pid := dProgram (s.peal i.peal).desc
  let dest := ((i.pc : Int) + 1 + off).toNat
  if dest ≤ i.pc then
    let n := (i.taken.look i.pc (dest, 0)).2 + 1
    if (loopBound s pid i.pc).getD 0 < n then progFault core 1 s
    else setInv core { i with pc := dest, taken := (enterLoops i.pc dest i.taken).put i.pc (dest, n) } s
  else setInv core { i with pc := dest, taken := enterLoops i.pc dest i.taken } s

/-- BR. -/
def execBr (core : Nat) (w : IWord) (s : State) : Out := issue 0x38 core w s fun i s => jump core w.imm.toInt i s

/-- BRP: the branch when the predicate passes TEST over all 32 bits. -/
def execBrp (core : Nat) (w : IWord) (s : State) : Out :=
  issue 0x39 core w s fun i s =>
    if predTest w.d.toNat (i.pr (w.c.toNat % 4)) then jump core w.imm.toInt i s else setInv core i.next s

/-- WAIT SEND: every earlier EMIT and ECHO is accepted at once in this model. (DEDUCED, log entry 75). -/
def execWaitSend (core : Nat) (w : IWord) (s : State) : Out :=
  if w.imm.toNat ≠ 0 then .next s else regOp 0x3A core w s id

/-- WAIT LINK is satisfied: the peal has sealed at this chip a round of the current STEP, or the norm result is here (R252, R277). -/
def linkSealed (s : State) (i : Inv) (p : Nat) : Bool :=
  let pl := s.peal i.peal
  let sd := (s.shard (dShard pl.desc)).desc
  if isUpdate pl.desc && shNormEn sd && shNormPeal sd == p then (normResult s pl).isSome
  else (s.peals.look? p).isSome && (s.peal p).linkStep == some i.step

/-- WAIT LINK: waits, or binds LINKRES and goes on; one not satisfied marks its invocation (R256). (DEDUCED, log entry 75). -/
def execWaitLink (core : Nat) (w : IWord) (s : State) : Out :=
  if w.imm.toNat ≠ 1 then .next s
  else
    match (s.core core).inv with
    | none => .next s
    | some i =>
      if !linkSealed s i (i.sr w.a.toNat).toNat then .next (setInv core { i with stuck := true } s)
      else regOp 0x3A core w s fun i => { i with link := some (i.sr w.a.toNat).toNat, stuck := false }

/-- FENCE: every earlier store is complete in this model. -/
def execFence (core : Nat) (w : IWord) (s : State) : Out := regOp 0x3B core w s id

/-- VOID voids the round with cause PROGRAM (row 5). -/
def execVoid (core : Nat) (w : IWord) (s : State) : Out := issue 0x3C core w s fun _ s => progFault core 5 s

/-- The free-running counter counts one nanosecond (R357), and with it each full event queue (R269). -/
def tick (s : State) : State :=
  forAll s.spine.cores.keys { s with time := { s.time with frc := s.time.frc + 1 } } fun s c => if eventsFull s c then bump 0x06 c 16 s else s

/-- END. -/
def execEnd (core : Nat) (w : IWord) (s : State) : Out := issue 0x3D core w s fun _ s => endInvocation core s

end Sys2Proof.Machine
end

