-- ==== Sys2Proof/Machine/Norm.lean ====
section
/-! DEFINITION. Machine/Norm.lean: the norm exchange of resident update (R280 to R283). -/
namespace Sys2Proof.Machine

/-- The key of a norm group: the shards of one TAG and NORM_PEAL. -/
def normKey (tag normPeal : Nat) : Nat := 4096 * tag + normPeal

/-- The BOUND shards of a norm group with NORM_EN set, with the peals that name them. -/
def normGroup (s : State) (tag normPeal : Nat) : List (Nat × Nat) :=
  (s.spine.shards.filter fun e => e.2.st == .bound && shNormEn e.2.desc && shTag e.2.desc == tag && shNormPeal e.2.desc == normPeal).map fun e => (e.1, e.2.peal)

/-- A group's steps. -/
def normSteps (s : State) (key : Nat) : Tbl NormStep := s.spine.norms.look key []

/-- Change the step t of a group, keeping the four most recent values of t. -/
def modNorm (key t : Nat) (f : NormStep → NormStep) (s : State) : State :=
  s.modSpine fun x => { x with norms := x.norms.upd key [] fun n => (let m := n.upd t {} f; m.drop (m.length - 4)) }

/-- The home that R281 names for a norm peal. -/
def normHomeFa (d : BitVec 512) : Nat :=
  if shFa1 d = 0 then shFa0 d else if chunkHash (shNormPeal d) 0 % 2 = 1 then shFa1 d else shFa0 d

/-- The contribution Q of a group for a step (R281). -/
def normCell (s : State) (d : BitVec 512) (t q tries : Nat) : Cell :=
  mkCell tContrib 2 s.fabric.epoch false false (normHomeFa d) s.fabric.plan.selfFa (shTag d) (pealTs (shNormPeal d) 0 0 9 0)
    (toLE 16 q ++ toLE 8 t ++ toLE 1 (b2n s.twin.tookOver) ++ toLE 1 tries)

/-- Send the contribution of a group for step t. -/
def sendNorm (tag normPeal t : Nat) (s : State) : State :=
  let n := (normSteps s (normKey tag normPeal)).look t {}
  match normGroup s tag normPeal, n.sum with
  | (k, _) :: _, some q => sendCell 0 (normCell s (s.shard k).desc t q n.tries) s
  | _, _ => s

/-- Q_p: the sum of the 32 lanes of PSTORE bytes 0 to 255 in each home region (R280). -/
def pealPartial (s : State) (p : Nat) : Nat :=
  ((dRegions (s.peal p).desc).map fun r =>
    let b := s.mem.pstore.reads zeroDefault (pstoreAddr p r 0) 256
    ((List.range 32).map fun l => le b (8 * l) 8).foldl (· + ·) 0).foldl (· + ·) 0

/-- The peals of a group whose open round is at TRAIN_STEP t and whose ON_CHUNK invocations have all ended. -/
def normDone (s : State) (tag normPeal t : Nat) : List Nat :=
  ((normGroup s tag normPeal).map (·.2)).filter fun p =>
    let pl := s.peal p
    pl.isOpen && (pl.st == .running || pl.st == .armed) && chunksRan s pl && (match paramsOf pl pl.step with | some q => q.train == t | none => false)

/-- Form the partials of a step and, once every peal of the group has one, the chip contribution, which goes to the norm home. -/
def execNormPartialForm (tag normPeal trainStep : Nat) (s : State) : Out :=
  let ps := normDone s tag normPeal trainStep
  if ps.isEmpty then .next s
  else
    let key := normKey tag normPeal
    let s := forAll ps s fun s p => modNorm key trainStep (fun n => { n with partials := n.partials.put p (pealPartial s p) }) s
    let n := (normSteps s key).look trainStep {}
    let all := (normGroup s tag normPeal).map (·.2)
    if all.all fun p => (n.partials.look? p).isSome then
      let q := (all.map fun p => n.partials.look p 0).foldl (· + ·) 0
      .next (sendNorm tag normPeal trainStep (modNorm key trainStep (fun n => { n with sum := some q, result := if n.sum = some q then n.result else none }) s))
    else .next s

/-- WINDOW_TIMEOUT_US has passed with no result: the contribution is sent again (R281). -/
def execNormResend (tag normPeal : Nat) (s : State) : Out :=
  let ts := ((normSteps s (normKey tag normPeal)).filter fun e => e.2.sum.isSome && e.2.result.isNone).map (·.1)
  .next (forAll ts s fun s t =>
    sendNorm tag normPeal t (forAll (normGroup s tag normPeal) s fun s k => bump 0x08 k.1 3 s))

/-! The norm home (R282, R283). -/

/-- Change a norm home. -/
def modHome (np : Nat) (f : NormHome → NormHome) (s : State) : State := s.modSpine fun x => { x with homes := x.homes.mod np f }

/-- TOTAL of a record: each Q once; a Q stored for a covered twin is part of its sender's. -/
def NormRec.sum (r : NormRec) : Nat := (r.qs.filter fun e => !r.covers.contains e.1).foldl (fun n e => n + e.2) 0

/-- The result payload of a record. -/
def normBody (r : NormRec) (t : Nat) (conflict : Bool) : Bytes :=
  toLE 16 (r.total.getD 0) ++ toLE 8 t ++ toLE 1 (b2n conflict) ++ toLE 1 r.tryNo ++ zeros 2
    ++ toLE 4 (r.qs.filter fun e => !r.covers.contains e.1).length

/-- Send a result of a record to a contributor. -/
def sendNormResult (tag np t src dst : Nat) (r : NormRec) (conflict : Bool) (s : State) : State :=
  sendCell 0 (mkCell tResult 1 s.fabric.epoch false true dst src tag (pealTs np 0 0 9 0) (normBody r t conflict)) s

/-- Two norm homes serve this exchange (R283). -/
def normPaired (s : State) (np : Nat) : Bool :=
  s.spine.shards.any fun e => shNormEn e.2.desc && shNormPeal e.2.desc == np && shFa1 e.2.desc != 0

/-- This chip serves a norm peal: R281 names it for a shard that it has not yielded to its twin (R313), or it has taken over its twin's role (R312). -/
def normServes (s : State) (np : Nat) : Bool :=
  s.twin.tookOver || s.spine.shards.any fun e => shNormEn e.2.desc && shNormPeal e.2.desc == np && normHomeFa e.2.desc == s.fabric.plan.selfFa
    && !(s.twin.yielded && shTwinned e.2.desc)

/-- Seal a record once every FA of the list has a stored Q and every copy of it is acknowledged: the result goes to the list. -/
def trySealNorm (np t : Nat) (s : State) : State :=
  match s.spine.homes.look? np with
  | none => s
  | some h =>
    match h.recs.look? t with
    | none => s
    | some r =>
      if r.total.isSome || !normServes s np || !(h.list.all fun e => (r.qs.look? e.1).isSome) || (s.twin.st == .paired && normPaired s np && !r.uncopied.isEmpty) then s
      else
        let r := { r with total := some r.sum }
        let s := modHome np (fun h => { h with recs := h.recs.put t r }) s
        forAll h.list s fun s e => sendNormResult h.tag np t s.fabric.plan.selfFa e.1 r false s

/-- Try every open record of every norm home. -/
def trySealAll (s : State) : State :=
  forAll s.spine.homes.keys s fun s np => forAll ((s.spine.homes.look np {}).recs.keys) s fun s t => trySealNorm np t s

/-- TRY a is newer than b, modulo 256. (DEDUCED, log entry 85). -/
def tryNewer (a b : Nat) : Bool := decide (a ≠ b) && decide ((a + 256 - b) % 256 < 128)

/-- The record a Q of (t, TRY) goes to, with the four most recent values of t kept; none when it is stale. -/
def normRecord (h : NormHome) (t tr : Nat) : Option (NormHome × NormRec) :=
  match h.recs.look? t with
  | some r =>
    if tryNewer tr r.tryNo then (let n : NormRec := { tryNo := tr }; some ({ h with recs := h.recs.put t n }, n))
    else if tr = r.tryNo then some (h, r) else none
  | none =>
    if 4 ≤ h.recs.length ∧ t < (h.recs.head?.map (·.1)).getD 0 then none
    else
      let n : NormRec := { tryNo := tr }
      let m := h.recs.put t n
      some ({ h with recs := m.drop (m.length - 4) }, n)

/-- Store a Q for a contributor, and with COVERS_TWIN for its twin. -/
def NormRec.store (r : NormRec) (h : NormHome) (src q : Nat) (covers : Bool) : NormRec :=
  let tw := ((h.list.find? (·.1 == src)).map (·.2)).getD 0
  let r := { r with qs := r.qs.put src q, covers := r.covers.erase src }
  if covers && tw != 0 then { r with qs := r.qs.put tw q, covers := insertNat tw r.covers } else r

/-- Forward a stored Q to the twin as NORM_COPY (R283, R302). -/
def copyNorm (np src t tr q : Nat) (covers : Bool) (s : State) : State :=
  if s.twin.st == .paired && normPaired s np then
    let seq := nth s.twin.txSeq 1
    let s := sendTwin 0x12 1 0 (toLE 2 np ++ toLE 1 tr ++ toLE 1 (b2n covers) ++ toLE 4 src ++ toLE 8 t ++ toLE 16 q) [] s
    modHome np (fun h => { h with recs := h.recs.mod t fun r => { r with uncopied := r.uncopied ++ [(src, BitVec.ofNat 32 seq)] } }) s
  else s

/-- A norm contribution reaches the norm home (R282). -/
def execNormContribReceive (cell : Cell) (s : State) : Out :=
  let np := cell.flow
  let (b, s) := takeIn cell s
  let q := le cell.payload 0 16
  let t := le cell.payload 16 8
  let tr := byteAt cell.payload 25
  let covers := bit (byteAt cell.payload 24) 0
  if !cell.crcOk then .next s
  else if 1 < byteAt cell.payload 24 || !zeroAt cell.payload 26 38 then .next (countDiscard (portOf b) causeEncoding s)
  else
    match s.spine.homes.look? np with
    | none => .next (bump 0x01 0 0 s)
    | some h =>
      if h.tag ≠ cell.tag || !(h.list.any fun e => e.1 == cell.src) then .next (bump 0x09 np 4 s)
      else if !normServes s np then .next s
      else
        match normRecord h t tr with
        | none => .next (bump 0x09 np 3 s)
        | some (h, r) =>
          if r.total.isNone then
            let s := modHome np (fun _ => { h with recs := h.recs.put t (r.store h cell.src q covers) }) (bump 0x09 np 0 s)
            .next (trySealNorm np t (copyNorm np cell.src t tr q covers s))
          else
            let same := r.qs.look? cell.src == some q
            .next (sendNormResult h.tag np t cell.dst cell.src r (!same) (bump 0x09 np (if same then 1 else 2) s))

/-- A norm result reaches a contributor: accepted for its current (t, TRY), otherwise discarded and counted (R282). (DEDUCED, log entry 85). -/
def execNormResultReceive (cell : Cell) (s : State) : Out :=
  let (b, s) := takeIn cell s
  let t := le cell.payload 16 8
  let key := normKey cell.tag cell.flow
  if !cell.crcOk then .next s
  else if 1 < byteAt cell.payload 24 || !zeroAt cell.payload 26 2 || !zeroAt cell.payload 32 32 then .next (countDiscard (portOf b) causeEncoding s)
  else
    match (normSteps s key).look? t with
    | some n =>
      if n.sum.isSome && n.tries % 256 == byteAt cell.payload 25 then .next (modNorm key t (fun n => { n with result := some cell.payload }) s)
      else .next (bump 0x20 0 11 s)
    | none => .next (bump 0x20 0 11 s)

/-- The twin keeps a copy of a stored Q (R283). -/
def execNormCopyReceive (msg : TwinMsg) (s : State) : Out :=
  let s := takeTwin 1 msg s
  let np := le msg.head 0 2
  let tr := byteAt msg.head 2
  let src := field (le msg.head 4 4) 0 20
  let t := le msg.head 8 8
  if !twinOk 0x12 msg then .next (badTwin s) else
  match s.spine.homes.look? np with
  | none => .next s
  | some h =>
    match normRecord h t tr with
    | none => .next s
    | some (h, r) =>
      if r.total.isSome then .next s
      else .next (modHome np (fun _ => { h with recs := h.recs.put t (r.store h src (le msg.head 16 16) (bit (byteAt msg.head 3) 0)) }) s)

end Sys2Proof.Machine
end

