-- ==== Sys2Proof/Machine/Twin.lean ====
section
/-! DEFINITION. Machine/Twin.lean: pairing, pair states, takeover, rebuild, mirroring and digests of the twin pair (chapter 10). -/
namespace Sys2Proof.Machine

/-! Versions of what runs (R305, R415). -/

/-- The manifest header of the running image of a part. -/
def partHdr (s : State) (part : Nat) : Bytes := match s.ctl.running.look? part with | some i => i.hdr | none => []

/-- VER_MAJOR, VER_MINOR and VER_PATCH of a manifest, 6 bytes. -/
def verTriple (hdr : Bytes) : Bytes := fit 6 ((hdr.drop 8).take 6)

/-- The running peal library's major version. -/
def libMajor (s : State) : Nat := le (partHdr s 1) 8 2

/-- TWINNED_HELD: an admitted twinned peal or a twinned shard. -/
def twinnedHeld (s : State) : Bool :=
  s.peals.any (fun e => e.2.st != .free && dTwinned e.2.desc) || s.spine.shards.any fun e => e.2.st != .free && shTwinned e.2.desc

/-! Messages of this chip. -/

/-- A link-local TWIN cell (R299). -/
def linkTwin (s : State) (tmsg : Nat) (payload : Bytes) : Cell :=
  plainColor (mkCell tTwin 0 0 false true 0 s.fabric.plan.selfFa 0 (place tmsg 51 8) payload)

/-- The payload of PAIR_HELLO (R302). -/
def helloBody (s : State) (wp : Nat) : Bytes :=
  toLE 8 s.hubId.toNat ++ toLE 4 s.fabric.plan.selfFa ++ toLE 1 s.twin.st.code ++ toLE 1 (b2n (twinnedHeld s)) ++ toLE 2 (libMajor s)
    ++ verTriple (partHdr s 0) ++ fit 4 ((partHdr s 0).drop 76 |>.take 4) ++ toLE 8 s.host.features.toNat ++ toLE 1 s.twin.taken ++ toLE 1 wp

/-- A Welt port sends PAIR_HELLO (R299). -/
def execPairHelloSend (wp : Nat) (s : State) : Out :=
  let st := (s.port (weltPort wp)).st
  .next (if wp < 4 && (st == .check || st == .quarantine || (st == .up && (s.twin.st == .solo || s.twin.st == .syncing))) then
    sendLinkCell (weltPort wp) (linkTwin s 0x01 (helloBody s wp)) s else s)

/-! Pair states (R306, R307). -/

/-- Every PEAL_ARM that waits for the twin is answered. -/
def refuseArms (r : Reply) (s : State) : State :=
  let s := answerWaiting (fun w => w.op == 0x61) (fun _ => r) s
  forAll s.peals.keys s fun s p => s.modPeal p fun q => { q with armMbx := [] }

/-- Move to a pair state: event, chip state, and what leaving the old one ends. -/
def pairTo (st : Pair) (s : State) : State :=
  let before := s.twin.st
  if before = st then s
  else
    let s := s.modTwin fun t => { t with st := st, since := s.now }
    let s := postEvent 0x400E [BitVec.ofNat 8 before.code, BitVec.ofNat 8 st.code, BitVec.ofNat 8 s.twin.agreeFail] s
    let s := if before == .paired then trySealAll (skipSpots s) else s
    let s := match st with
      | .solo => s.modTwin fun t => { t with unacked := [], rxHeld := [], rebuild := false, copying := none, isNew := false, rejoin := false, due := false }
      | .paired => s.modTwin fun t => { t with taken := 0, given := 0, tookOver := false, yielded := false, rebuild := false, copying := none, isNew := false, rejoin := false }
      | _ => s
    let s := if st == .syncing || st == .paired then s else refuseArms (.err eTwin) s
    settle 10 s

/-- Every twinned peal of this chip. -/
def twinnedPeals (s : State) : List Nat :=
  (s.peals.filter fun e => dTwinned e.2.desc && e.2.st != .free && e.2.st != .retiring).map (·.1)

/-- Enter PAIRED: every twinned peal is joined. -/
def enterPaired (s : State) : State :=
  let s := pairTo .paired s
  forAll (twinnedPeals s) s fun s p => tryOpen p (s.modPeal p fun q => { q with joined := true })

/-- The survivor of a rebuild enters PAIRED once every twinned peal has joined and no copy runs (R307). (DEDUCED, log entry 89). -/
def tryPaired (s : State) : State :=
  if s.twin.st == .syncing && s.twin.rebuild && s.twin.copying.isNone && (twinnedPeals s).all fun p => (s.peal p).joined then enterPaired s else s

/-- Void the open rounds of every twinned peal with cause TAKEOVER (R312). -/
def voidTwinned (remote : Bool) (s : State) : State :=
  forAll (twinnedPeals s) s fun s p => if (s.peal p).isOpen then voidPeal [10] false none remote p s else s

/-- Enter TAKEOVER (R312, step 1); a restarting control core delays the decision (R408). (DEDUCED, log entry 100). -/
def takeOver (s : State) : State :=
  if coresDown s then s.modTwin fun t => { t with due := true }
  else voidTwinned true (pairTo .takeover (s.modTwin fun t => { t with due := false }))

/-- Hold every twinned peal in VOIDED with cause TAKEOVER and lose the twinned shards: the twin has taken this chip's homes over
(R313). -/
def yieldHomes (s : State) : State :=
  let s := pairTo .solo (s.modTwin fun t => { t with yielded := true, tookOver := false, taken := 0 })
  let s := forAll (twinnedPeals s) s fun s p =>
    match (s.peal p).st with
    | .admitted | .voided => postHeld p (s.modPeal p fun q => { q with st := .voided, cause := 10 })
    | _ => voidPeal [10] true none true p s
  forAll s.spine.shards.keys s fun s k => if shTwinned (s.shard k).desc then loseShard k s else s

/-- Leaves whose report counts toward the quorum (R311). -/
def leafReports (s : State) : Nat := (s.twin.reports.filter fun e => decide (s.now ≤ e.2 + 10000000)).length

/-- The leaf quorum is acted on in ORPHAN only. -/
def tryQuorum (s : State) : State := if s.twin.st == .orphan && decide (s.twin.quorum ≤ leafReports s) then takeOver s else s

/-- The twin is heard again with a pair state and TAKEN (R307). A chip in SYNCING that is not the survivor follows its twin into PAIRED; two that
met again and hold nothing twinned have nothing to join. (DEDUCED, log entry 89). -/
def heardAgain (code taken : Nat) (heartbeat : Bool) (s : State) : State :=
  match s.twin.st with
  | .orphan =>
    if code = 3 ∨ (code = 0 ∧ taken ≠ 0) then yieldHomes s
    else if code = 0 then takeOver s
    else if heartbeat then
      let s := forAll (twinnedPeals s) s fun s p => s.modPeal p fun q => { q with joined := false }
      pairTo .syncing (s.modTwin fun t => { t with rejoin := true })
    else s
  | .takeover => if code = 3 ∧ s.side = 1 then yieldHomes s else s
  | .syncing =>
    let done := (code == 2 && !s.twin.rebuild) || (code == 1 && s.twin.rejoin && !twinnedHeld s)
    if heartbeat && done && (twinnedPeals s).all (fun p => (s.peal p).joined) then enterPaired s else s
  | _ => s

/-- The first item of agreement that fails (R305, R317): 0 none. -/
def agreeItem (s : State) (h : Bytes) : Nat :=
  let major := le (partHdr s 0) 8 2
  let bits := [0, 1, 3, 4, 6, 7, 13]
  let f := BitVec.ofNat 64 (le h 26 8)
  (firstOf [
    need (BitVec.ofNat 64 (le h 0 8) == s.fabric.plan.twinChip) 1,
    need (le h 14 2 == libMajor s) 2,
    need (decide (le h 22 2 ≤ major) && decide (major ≤ le h 24 2) && decide (le (partHdr s 0) 76 2 ≤ le h 16 2) && decide (le h 16 2 ≤ le (partHdr s 0) 78 2)) 3,
    need (bits.all fun i => f.getLsbD i == s.host.features.getLsbD i) 4,
    need (!(byteAt h 13 == 1 && twinnedHeld s)) 5]).getD 0

/-- Judge agreement in SOLO once the host has asked for pairing (R304, R305). TSEQ starts at zero for a new pair. -/
def judgeAgreement (h : Bytes) (s : State) : State :=
  let k := agreeItem s h
  if k ≠ 0 then
    if s.twin.agreeFail = k then s
    else postEvent 0x400E [BitVec.ofNat 8 s.twin.st.code, BitVec.ofNat 8 s.twin.st.code, BitVec.ofNat 8 k] (s.modTwin fun t => { t with agreeFail := k })
  else
    let held := twinnedHeld s
    let s := s.modTwin fun t => { t with agreeFail := 0, asked := false, txSeq := [], rxSeq := [], rxHeld := [], unacked := [], inbox := [], hbSent := 0, yielded := false }
    if byteAt h 13 = 0 && !held then enterPaired s
    else pairTo .syncing (s.modTwin fun t => { t with isNew := !held })

/-- PAIR_HELLO arrives on a Welt port: two identical ones judge the port (R298), and the pair state follows (R305, R307). -/
def execPairHelloReceive (wp : Nat) (msg : TwinMsg) (s : State) : Out :=
  let p := weltPort wp
  let st := (s.port p).st
  if 4 ≤ wp || !(st == .check || st == .quarantine || st == .up) || msg.tmsg ≠ 0x01 then .next s
  else if !twinOk 0x01 msg then .next (countDiscard (some p) causeEncoding s)
  else
    let h := fit 64 msg.head
    let ours := s.fabric.plan.twinChip != 0 && BitVec.ofNat 64 (le h 0 8) == s.fabric.plan.twinChip
    let twice := s.twin.heard.look? p == some h
    let s := s.modTwin fun t => { t with heard := t.heard.put p h, agreed := if twice then t.agreed.put p h else t.agreed, peer := if ours then h else t.peer }
    let s := if !twice then s
      else if !ours then (if st == .quarantine then s else enter p .quarantine 5 s)
      else if st == .quarantine then enter p .check 4 s
      else tryUp p s
    if s.twin.st == .solo then .next (if s.twin.asked then judgeAgreement h s else s)
    else if !ours then .next s
    else .next (heardAgain (byteAt h 12) (byteAt h 34 % 16) false s)

/-- HEARTBEAT every 1 µs (R307). -/
def execHeartbeatSend (s : State) : Out :=
  if s.twin.st == .solo then .next s
  else
    let n := s.twin.hbSent + 1
    .next (sendTwin 0x02 0 0 (toLE 8 s.hubId.toNat ++ toLE 1 s.twin.st.code ++ toLE 1 s.twin.taken ++ zeros 2 ++ toLE 4 n.toNat) [] (s.modTwin fun t => { t with hbSent := n }))

/-- HEARTBEAT arrives. -/
def execHeartbeatReceive (msg : TwinMsg) (s : State) : Out :=
  let s := takeTwin 0 msg s
  if !twinOk 0x02 msg then .next (badTwin s)
  else if s.fabric.plan.twinChip == 0 || BitVec.ofNat 64 (le msg.head 0 8) != s.fabric.plan.twinChip then .next s
  else .next (heardAgain (byteAt msg.head 8) (byteAt msg.head 9 % 16) true s)

/-- No HEARTBEAT for WELT_DEAD_US (R307): SOLO with the rebuild aborted, or ORPHAN with every open twinned round voided. -/
def execHeartbeatLoss (s : State) : Out :=
  let anyJoined := (twinnedPeals s).any fun p => (s.peal p).joined
  match s.twin.st with
  | .syncing =>
    if anyJoined then .next (tryQuorum (voidTwinned true (pairTo .orphan s)))
    else
      let held := (twinnedPeals s).filter fun p => (s.peal p).heldRebuild
      let s := pairTo .solo s
      .next (forAll held s fun s p => tryOpen p (s.modPeal p fun q => { q with heldRebuild := false }))
  | .paired => .next (tryQuorum (voidTwinned true (pairTo .orphan s)))
  | _ => .next s

/-- DYING (R311): SCOPE chip takes the whole twin over; SCOPE regions takes over the regions named, without leaving PAIRED. -/
def execDyingReceive (msg : TwinMsg) (s : State) : Out :=
  let s := takeTwin 0 msg s
  if !twinOk 0x03 msg then .next (badTwin s)
  else if s.fabric.plan.twinChip == 0 || BitVec.ofNat 64 (le msg.head 0 8) != s.fabric.plan.twinChip then .next s
  else if byteAt msg.head 8 = 0 then
    .next (if s.twin.st == .syncing || s.twin.st == .paired || s.twin.st == .orphan then takeOver s else s)
  else
    let m := byteAt msg.head 9 % 16
    let s := s.modTwin fun t => { t with taken := t.taken ||| m }
    let s := bump 0x0E 0 6 s
    .next (forAll (twinnedPeals s) s fun s p => if (s.peal p).isOpen && (dRegionMask (s.peal p).desc &&& m) != 0 then voidPeal [10] false none true p s else s)

/-- The takeover completes (R312, R316): every side and region is this chip's, copied norm records go on, replays open. A chip that was joining, or
that met its twin again and was no survivor, holds no current copy of a shard whose peal had not joined. -/
def execHomesReassigned (s : State) : Out :=
  if s.twin.st ≠ .takeover then .next s
  else
    let lose := s.twin.isNew || s.twin.rejoin
    let s := if lose then forAll s.spine.shards.keys s fun s k =>
        if shTwinned (s.shard k).desc && !((s.shard k).st == .bound && (s.peal (s.shard k).peal).joined) then loseShard k s else s
      else s
    let s := s.modTwin fun t => { t with tookOver := true, taken := 15 }
    let s := forAll (twinnedPeals s) s fun s p => s.modPeal p fun q => { q with joined := false, heldRebuild := false }
    let s := trySealAll (pairTo .solo (bump 0x0E 0 6 s))
    .next (forAll (twinnedPeals s) s fun s p => tryOpen p s)

/-! Rounds across the pair (R182, R276, R291, R308). -/

/-- Apply a ROLLBACK of STEP s to a peal (R291). -/
def rollback (p : Nat) (remote : Bool) (s : State) : State :=
  let pl := s.peal p
  let k := dShard pl.desc
  let d := (s.shard k).desc
  let back := pl.st == .armed
  let step := if back then pl.step - 1 else pl.step
  let raise (s : State) : State :=
    match (s.peal p).params.look? step with
    | some q => if shNormEn d then modNorm (normKey (shTag d) (shNormPeal d)) q.train (fun n => { n with tries := n.tries + 1, partials := n.partials.del p, sum := none, result := none }) s else s
    | none => s
  let s := raise (bump 0x08 k 5 s)
  let s := if back then
      (s.modShard k fun sh => { sh with pending := false, committed := false, early := none }).modPeal p fun q => { q with step := q.step - 1, round := (q.round + 3) % 4, twinCommit := none }
    else (s.modShard k fun sh => { sh with early := none }).modPeal p fun q => { q with twinCommit := none }
  let s := if pairedFor s pl && !remote then sendRoundCtl (s.peal p) 2 (s.peal p).round 1 false step 0 s else s
  voidPeal [1] false none true p s

/-- A ROLLBACK of STEP `step` is allowed: SEALED at it, or ARMED at the next with it pending and the round not open. -/
def rollbackOk (s : State) (p step : Nat) : Bool :=
  let pl := s.peal p
  (pl.st == .sealed && pl.step == step)
    || (pl.st == .armed && !pl.isOpen && pl.step == step + 1 && (s.shard (dShard pl.desc)).pending && (s.shard (dShard pl.desc)).pendStep == step)

/-- ROUND_CTL arrives: OPEN, VOID, ROLLBACK or COMMIT. An OPEN says that the twin is ready for a round, or has opened it: it is kept until this
chip's own opening of that round and step. A void for SPOT_DUP has the copies of spot duplication re-checked (R221). (DEDUCED, log entry 87). -/
def execRoundCtlReceive (msg : TwinMsg) (s : State) : Out :=
  let p := le msg.head 0 2
  let pl := s.peal p
  let round := byteAt msg.head 3
  let step := le msg.head 8 8
  let s := takeTwin 0 msg s
  if !twinOk 0x04 msg then .next (badTwin s)
  else if !twinPeal s p msg.tag then .next s
  else
    match byteAt msg.head 2 with
    | 0 =>
      let s := s.modPeal p fun q => { q with twinReady := some (round, step, le msg.head 16 4) }
      if pl.st != .armed || pl.isOpen || !pl.waiting then .next s
      else .next (tryOpen p (if pl.rejoins then s.modPeal p fun q => { q with round := round, step := step } else s))
    | 1 => .next (if roundLive pl && pl.round == round then
        let s := if byteAt msg.head 4 = 8 then recheckSpots p s else s
        voidPeal [byteAt msg.head 4] (byteAt msg.head 5 % 2 == 1) none true p s else s)
    | 2 => .next (if rollbackOk s p step then rollback p true s else s)
    | _ => .next (tryOpen p (s.modPeal p fun q => { q with twinCommit := some step }))

/-- MIRROR_ROW arrives: the accumulators and the anchor go to the staging area of the position (R308); a row of a round that this chip has not
opened yet waits. (DEDUCED, log entry 92). -/
def execMirrorRowReceive (msg : TwinMsg) (s : State) : Out :=
  let p := le msg.head 0 2
  let pl := s.peal p
  let d := pl.desc
  let x := le msg.head 4 4
  let k := dShard d
  if !twinOk 0x08 msg then .next (badTwin (takeTwin 2 msg s))
  else if !twinPeal s p msg.tag || !isUpdate d || pl.round ≠ byteAt msg.head 2 || dStepCells d ≤ x then .next (takeTwin 2 msg s)
  else if pl.st == .armed && !pl.isOpen then .next s
  else
    let s := takeTwin 2 msg s
    if !pl.isOpen || isHome s pl (chunkOf d x) then .next s
    else .next ((sliceStore k (nBank (s.shard k)) x 0 (fit (8 * elems d) msg.data ++ (msg.head.drop 8).take 4) s).modPeal p fun q => { q with landed := insertNat x q.landed })

/-! Digests (R309, R310). -/

/-- The peal a shard is bound to. -/
def boundPeal (s : State) (k : Nat) : Option Nat := if (s.shard k).st == .bound then some (s.shard k).peal else none

/-- A digest unit holds a position of a region that one chip of the pair has taken from the other, in TAKEN of either chip (R310, R311). (DEDUCED, log
entry 91). -/
def unitTaken (s : State) (d : BitVec 512) (sd : BitVec 512) (u : Nat) : Bool :=
  let n := sliceBytes sd
  let a := 65536 * u / n
  let b := min (shCells sd) (ceilDiv (65536 * (u + 1)) n)
  (List.range (b - a)).any fun i => bit (s.twin.taken ||| s.twin.given) (chunkRegion d (chunkOf d (a + i)))

/-- The units whose digests differ, of those the comparison covers (R310). -/
def diffUnits (s : State) (k : Nat) : List Nat :=
  match boundPeal s k, s.twin.mine.look? k, s.twin.theirs.look? k with
  | some p, some a, some b =>
    a.units.keys.filter fun u => !unitTaken s (s.peal p).desc (s.shard k).desc u && a.units.look? u != b.units.look? u
  | _, _, _ => []

/-- The region whose channels hold a digest unit (R309, R319). -/
def unitDie (s : State) (k bank u : Nat) : Nat := extentChan (s.shard k).start bank (65536 * u / extentBytes) / 32

/-- Act on a verdict (R310): AGREE lets the peal leave SEALED; DIFFER has the store residues of the differing units checked, is recorded, voids with
cause TWIN_DIGEST, and fences each region that holds a unit whose words did not land as STM issued them. -/
def applyVerdict (k step : Nat) (agree : Bool) (first : Nat) (s : State) : State :=
  match boundPeal s k with
  | none => s
  | some p =>
    let pl := s.peal p
    if pl.step ≠ step then s
    else if agree then s.modPeal p fun q => { q with agreed := true }
    else
      let bank := nBank (s.shard k)
      let us := if (diffUnits s k).isEmpty then [first] else diffUnits s k
      let bad := us.filter fun u => !unitSound s k bank u
      let dies := (bad.map (unitDie s k bank)).eraseDups
      let s := bump 0x0E 0 3 (ledgerAdd (unitDie s k bank first) 0x0D (toLE 2 k ++ zeros 2 ++ toLE 4 first ++ toLE 1 (b2n bad.isEmpty)) s)
      let s := postEvent 0x4015 (toLE 2 k ++ zeros 2 ++ toLE 4 first) s
      forAll dies (voidPeal [9] false none true p s) fun s r => fenceRegion r 6 255 s

/-- Side 0 compares the two sets of digests and sends VERDICT. (DEDUCED, log entry 91). -/
def compareDigests (k : Nat) (s : State) : State :=
  match boundPeal s k, s.twin.mine.look? k, s.twin.theirs.look? k with
  | some _, some a, some b =>
    if s.side ≠ 0 ∨ a.step ≠ b.step then s
    else
      let sd := (s.shard k).desc
      let diff := diffUnits s k
      let first := diff.headD 0
      let s := sendTwin 0x05 0 (shTag sd) (toLE 2 k ++ toLE 1 (b2n (!diff.isEmpty)) ++ zeros 5 ++ toLE 8 a.step ++ toLE 4 first ++ toLE 4 diff.length) [] s
      applyVerdict k a.step diff.isEmpty first s
  | _, _, _ => s

/-- Every ON_STEP_END of the shard's round has ended: DIGESTS go to the twin. -/
def execDigestsSend (shard : Nat) (s : State) : Out :=
  match boundPeal s shard with
  | none => .next s
  | some p =>
    let pl := s.peal p
    if !pairedFor s pl || !pl.isOpen || !stepEndsDone s pl || (s.twin.mine.look? shard).isSome then .next s
    else
      let sd := (s.shard shard).desc
      let us := (List.range (unitCount sd)).map fun u => (u, unitDigest s shard (nBank (s.shard shard)) u)
      let s := bumpN 0x0E 0 2 us.length s
      let s := sendTwin 0x09 1 (shTag sd) (toLE 2 shard ++ zeros 6 ++ toLE 8 pl.step ++ toLE 4 0 ++ toLE 4 us.length) ((us.map fun u => toLE 8 u.2.toNat).flatten) s
      .next (compareDigests shard (s.modTwin fun t => { t with mine := t.mine.put shard ⟨pl.step, us⟩ }))

/-- DIGESTS arrives. -/
def execDigestsReceive (msg : TwinMsg) (s : State) : Out :=
  let s := takeTwin 1 msg s
  let k := le msg.head 0 2
  let first := le msg.head 16 4
  let us : Tbl W64 := (List.range (le msg.head 20 4)).map fun i => (first + i, BitVec.ofNat 64 (le msg.data (8 * i) 8))
  if !twinOk 0x09 msg then .next (badTwin s)
  else .next (compareDigests k (s.modTwin fun t => { t with theirs := t.theirs.put k ⟨le msg.head 8 8, us⟩ }))

/-- The twin's DIGESTS are missing STEP_WATCHDOG_MS after this chip's own were sent. -/
def execDigestsMissing (shard : Nat) (s : State) : Out :=
  match boundPeal s shard with
  | some p =>
    .next (if pairedFor s (s.peal p) && (s.twin.mine.look? shard).isSome && (s.twin.theirs.look? shard).isNone && !(s.peal p).agreed then voidFor 9 p s else s)
  | none => .next s

/-- VERDICT arrives at side 1. -/
def execVerdictReceive (msg : TwinMsg) (s : State) : Out :=
  if !twinOk 0x05 msg then .next (badTwin (takeTwin 0 msg s))
  else .next (applyVerdict (le msg.head 0 2) (le msg.head 8 8) (byteAt msg.head 2 == 0) (le msg.head 16 4) (takeTwin 0 msg s))

/-! Acknowledgement (R301). -/

/-- ACK every 1 µs while a pair exists. -/
def execTwinAckSend (s : State) : Out :=
  if s.twin.st == .solo then .next s
  else .next (sendTwin 0x06 5 0 ((List.range 8).map fun v => toLE 4 ((nth s.twin.rxSeq v + 4294967295) % 4294967296)).flatten [] s)

/-- A TSEQ is covered by an acknowledgement. -/
def ackCovers (ack : Nat) (t : W32) : Bool := decide ((BitVec.ofNat 32 ack - t).toNat < 2 ^ 31)

/-- ACK arrives: the cells it covers are freed, and norm records whose copies are acknowledged may seal (R283). (DEDUCED, log entry 88). -/
def execTwinAckReceive (msg : TwinMsg) (s : State) : Out :=
  let s := takeTwin 5 msg s
  if !twinOk 0x06 msg then .next (badTwin s) else
  let ack (v : Nat) : Nat := le msg.head (4 * v) 4
  let s := s.modTwin fun t => { t with unacked := t.unacked.filter fun u => !ackCovers (ack u.vc) u.tseq }
  let s := s.modSpine fun x => { x with homes := x.homes.map fun h => (h.1, { h.2 with recs := h.2.recs.map fun r => (r.1, { r.2 with uncopied := r.2.uncopied.filter fun u => !ackCovers (ack 1) u.2 }) }) }
  .next (trySealAll s)

/-- The pair states in which the cells of a VC are resent (R301): those of VC0, which carries HEARTBEAT, and of VC5, which carries ACK, while a pair
exists; the others, whose messages ORPHAN and TAKEOVER do not use, in SYNCING and PAIRED. (DEDUCED, log entry 88). -/
def resends (s : State) (vc : Nat) : Bool :=
  match s.twin.st with | .solo => false | .syncing | .paired => true | _ => vc == 0 || vc == 5

/-- A cell not acknowledged 4 µs after its last sending goes again with its TSEQ, while the pair state uses its message. -/
def execTwinResend (vc : Nat) (tseq : BitVec 32) (s : State) : Out :=
  match s.twin.unacked.find? fun u => u.vc == vc && u.tseq == tseq && resends s vc with
  | some u => .next (sprayTwin u.cell (bump 0x0E 0 5 s))
  | none => .next s

/-! Copies (R314, R315). -/

/-- COPY_DATA arrives: whole slices whose CRC holds are written; a repair clears what it restores. (DEDUCED, log entry 90). -/
def execCopyDataReceive (msg : TwinMsg) (s : State) : Out :=
  let s := takeTwin 4 msg s
  let k := le msg.head 0 2
  let bank := byteAt msg.head 2 % 2
  let x := le msg.head 4 4
  let n := le msg.head 8 4
  let d := (s.shard k).desc
  let b := msg.data.take (n * sliceBytes d)
  if !twinOk 0x0C msg || !(msg.data.drop (n * sliceBytes d)).all (· == 0) then .next (badTwin s)
  else if (s.shard k).st == .free || (s.shard k).st == .lost || b.length ≠ n * sliceBytes d || crc32c b ≠ le msg.head 12 4 || shCells d < x + n then .next s
  else if byteAt msg.head 3 = 0 then
    if s.twin.st ≠ .syncing || s.twin.rebuild then .next s
    else .next ((sliceStore k bank x 0 b s).modTwin fun t => { t with moved := t.moved + b.length })
  else
    let s := (sliceStore k bank x 0 b s).modShard k fun sh => { sh with badSlices := sh.badSlices.filter fun y => !(y.1 == bank && decide (x ≤ y.2) && decide (y.2 < x + n)) }
    .next (match boundPeal s k with | some p => tryOpen p s | none => s)

/-- COPY_CTL arrives on the new chip: BEGIN and END change nothing here; ABORT returns the shard to LOADING and discards the copied bank; COPIED sets
the fields and makes the shard READY, or BOUND again where an admitted peal names it. (DEDUCED, log entry 90). -/
def execCopyCtlReceive (msg : TwinMsg) (s : State) : Out :=
  let s := takeTwin 0 msg s
  let k := le msg.head 0 2
  let sh := s.shard k
  let bank := byteAt msg.head 3 % 2
  let named := s.peals.any fun e => e.2.st != .free && isUpdate e.2.desc && dShard e.2.desc == k
  if !twinOk 0x0D msg then .next (badTwin s)
  else if sh.st == .free || sh.st == .lost || s.twin.st ≠ .syncing || s.twin.rebuild then .next s
  else
    match byteAt msg.head 2 with
    | 2 =>
      if sh.st == .bound && (s.peal sh.peal).joined then .next s
      else .next (clearBank k bank (s.modShard k fun sh => { sh with st := .loading, copied := false }))
    | 3 => .next (s.modShard k fun sh => { sh with
        st := if named then .bound else .ready, live := bank, copied := true, pending := false, committed := false
        step := BitVec.ofNat 64 (le msg.head 8 8), train := BitVec.ofNat 64 (le msg.head 16 8) })
    | _ => .next s

/-- SLICE_REQ arrives: answered from this chip's copy of the bank (R315). -/
def execSliceReqReceive (msg : TwinMsg) (s : State) : Out :=
  let s := takeTwin 4 msg s
  let k := le msg.head 0 2
  let sh := s.shard k
  if !twinOk 0x0E msg then .next (badTwin s)
  else if sh.st == .free || sh.st == .lost then .next s
  else .next (forAll ((List.range (le msg.head 8 4)).filter fun i => decide (le msg.head 4 4 + i < shCells sh.desc)) s fun s i =>
    sendCopyData k (byteAt msg.head 2 % 2) 1 (le msg.head 4 4 + i) s)

/-- REBUILD_HOLD_MS has passed and the peal has not joined: the copy is aborted and the round opens (R314). -/
def execRebuildHoldExpiry (peal : Nat) (s : State) : Out :=
  match s.twin.copying with
  | some c =>
    if c.peal ≠ peal || (s.peal peal).joined || !(s.peal peal).heldRebuild then .next s
    else
      let s := match c.shard with | some k => sendCopyCtl k 2 s | none => s
      let s := s.modTwin fun t => { t with copying := none }
      .next (openRound peal (s.modPeal peal fun q => { q with heldRebuild := false }))
  | none => .next s

/-- A peal has joined on the survivor (R314): its held round opens and is announced; with the last one the pair is PAIRED. (DEDUCED, log entry 89). -/
def joinPeal (p : Nat) (s : State) : State :=
  let s := s.modPeal p fun q => { q with joined := true }
  let s := if s.twin.copying.any fun c => c.peal == p then s.modTwin fun t => { t with copying := none } else s
  tryPaired (if (s.peal p).heldRebuild then openRound p s else s)

/-! FENCE cells and WELT_FENCE (R299, R440, R441). -/

/-- SCOPE, UNIT and CAUSE that a DAMPED or FENCED port announces: the highest that applies. -/
def fenceScope (s : State) (p : Nat) : Nat × Nat × Nat :=
  if s.chip.st == .damped then (3, 0, s.chip.cause)
  else if isWelt p then (0, 0, 0)
  else
    match s.chip.regionFence.look? (regionOfPort p), s.chip.blockFence.look? (blockOf p) with
    | some c, _ => (2, regionOfPort p, c)
    | none, some c => (1, blockOf p, c)
    | none, none => (0, 0, 0)

/-- A DAMPED or FENCED port sends FENCE, a Welt port WELT_FENCE. -/
def execFenceSend (port : Nat) (s : State) : Out :=
  let q := s.port port
  if !s.hasPort port || !(q.st == .damped || q.st == .fenced) then .next s
  else
    let (sc, u, c) := fenceScope s port
    if isWelt port then .next (sendLinkCell port (linkTwin s 0x11 (toLE 1 ((port - 1024) / 8) ++ toLE 1 q.st.code ++ toLE 1 sc ++ zeros 1 ++ toLE 1 u ++ toLE 1 c ++ zeros 2 ++ toLE 8 s.hubId.toNat)) s)
    else .next (sendLinkCell port (linkCell s tFence (place sc 56 3 + place q.st.code 53 3 + place port 43 10) (toLE 8 s.hubId.toNat ++ zeros 12 ++ toLE 1 u ++ toLE 1 c)) s)

/-- A WELT_FENCE with a state other than UP takes an UP Welt port to CHECK. -/
def execWeltFenceReceive (wp : Nat) (msg : TwinMsg) (s : State) : Out :=
  .next (if wp < 4 && !twinOk 0x11 msg then countDiscard (some (weltPort wp)) causeEncoding s
    else if wp < 4 && (s.port (weltPort wp)).st == .up && byteAt msg.head 1 != 4 then enter (weltPort wp) .check 13 s else s)

/-- The payload of a FENCE cell keeps its reserved bytes zero and its SCOPE and STATE legal (R6, R440). -/
def fenceOk (c : Cell) : Bool :=
  decide (c.f 56 3 ≤ 4) && decide (byteAt c.payload 16 < 2) && zeroAt c.payload 19 1 && zeroAt c.payload 22 42

/-- A FENCE cell arrives: the peer's state, or a leaf's report on the twin (R441). -/
def execFenceCellReceive (port : Nat) (cell : Cell) (s : State) : Out :=
  let q := s.port port
  if isWelt port || q.st ≠ .up || !cell.crcOk || cell.typ ≠ tFence then .next s
  else if !fenceOk cell then .next (countDiscard (some port) causeEncoding s)
  else if cell.f 56 3 < 4 then
    .next (if cell.f 53 3 ≠ 4 then enter port .check 13 s else s)
  else
    let sender := le cell.payload 0 8
    let code := planCode s port
    let peer := match planRec s port with | some r => r.peerChip.toNat | none => 0
    let fits := portRole s port == 0 && (code == 0 || code == 6) && sender == peer && s.fabric.plan.twinChip != 0 && le cell.payload 8 8 == s.fabric.plan.twinChip.toNat
    if fits && byteAt cell.payload 16 == 1 && decide (1 ≤ byteAt cell.payload 17) then
      .next (tryQuorum (s.modTwin fun t => { t with reports := t.reports.put sender s.now }))
    else if fits && decide (1 ≤ byteAt cell.payload 18) then .next (s.modTwin fun t => { t with reports := t.reports.del sender })
    else .next (bump 0x01 0 3 s)

/-- A leaf's report older than 10 ms stops counting (R311). -/
def execLeafReportExpiry (chip : BitVec 64) (s : State) : Out := .next (s.modTwin fun t => { t with reports := t.reports.del chip.toNat })

end Sys2Proof.Machine
end

