-- ==== Sys2Proof/Machine/Mem.lean ====
section
/-! DEFINITION. Machine/Mem.lean: errors, frames, channels and refresh of the LPDDR memory (R328 to R336). -/
namespace Sys2Proof.Machine

/-- Ask the twin for a slice (R315). -/
def sendSliceReq (k bank x : Nat) (s : State) : State :=
  sendTwin 0x0E 4 (shTag (s.shard k).desc) (toLE 2 k ++ toLE 1 bank ++ zeros 1 ++ toLE 4 x ++ toLE 4 1) [] s

/-- Slices of a bank are gone (R296): SHARD_N of an open round voids it; SHARD_P, or a sealed step that waits, is fetched from the twin while
PAIRED, and otherwise the shard is LOST. -/
def sliceLost (k bank : Nat) (xs : List Nat) (s : State) : State :=
  let sh := s.shard k
  if xs.isEmpty || sh.st == .free || sh.st == .lost then s
  else
    let bound := boundPeal s k
    let isOpen := match bound with | some p => (s.peal p).isOpen | none => false
    let void (s : State) : State := match bound with | some p => voidFor 14 p s | none => s
    if bank != sh.live && isOpen then void s
    else if bank != sh.live && !sh.pending then s
    else if shTwinned sh.desc && s.twin.st == .paired then
      let s := s.modShard k fun y => { y with badSlices := y.badSlices ++ (xs.map fun x => (bank, x)).filter fun b => !y.badSlices.contains b }
      forAll xs (void s) fun s x => sendSliceReq k bank x s
    else
      let s := loseShard k s
      match bound with | some p => voidPeal [14] true none false p s | none => s

/-- Discard cells of a stash queue as uncorrectable buffer entries (R332, R65). (DESIGN CHOICE, log entry 98). -/
def stashLost (p g : Nat) (gone : Nat → Stashed → Bool) (s : State) : State :=
  let q := (s.circOf p).queues.look g {}
  let all := (q.sent ++ q.wait).mapIdx fun i x => (i, x)
  let dead := all.filter fun e => gone e.1 e.2
  let keep (l : List Stashed) (o : Nat) : List Stashed := ((l.mapIdx fun i x => (i + o, x)).filter fun e => !gone e.1 e.2).map (·.2)
  let s := s.modCirc p fun c => { c with queues := c.queues.put g { q with sent := keep q.sent 0, wait := keep q.wait q.sent.length } }
  settleLost (forAll dead s fun s e => countDiscard (some (e.2.cell.org.port.getD p)) causeBuffer (noteLost e.2.cell s))

/-- Every replica of a member-table word has failed (R332): the entry counts as VALID clear, and each armed peal that uses it voids. -/
def memberWordDead (i : Nat) (s : State) : State :=
  let e := s.tblN (memberAddr i) 8
  let s := s.tblPut (memberAddr i) (toLE 8 (setField e 20 1 0))
  forAll s.peals.keys s fun s p =>
    let pl := s.peal p
    if roundLive pl && decide (dMemberBase pl.desc ≤ i) && decide (i < dMemberBase pl.desc + dMembers pl.desc) then voidFor 14 p s else s

/-- A member-table word fails in the replica of one region: the next good replica answers and is written back (R332). A fenced
region's replica is dropped (R321). -/
def memberWord (r i : Nat) (s : State) : State :=
  let w := memberAddr i
  let old := s.fabric.replicas.look w 0
  let fenced := s.chip.regionFence.foldl (fun m e => m ||| 2 ^ e.1) 0
  let mask := (if old / 16 = s.now then old % 16 else 0) ||| 2 ^ r ||| fenced
  if mask = 15 then memberWordDead i (s.modFabric fun f => { f with replicas := f.replicas.del w })
  else s.modFabric fun f => { f with replicas := f.replicas.put w (mask + 16 * s.now) }

/-- What an uncorrectable error does, by its pool (R332). (DEDUCED, log entry 66). (DEDUCED, log entry 96). -/
def ueEffect (c : Nat) (t : UeTarget) (s : State) : State :=
  match t with
  | .slice k b x => sliceLost k (b % 2) [x] s
  | .spill p => voidFor 14 p s
  | .memberTable i => memberWord (c / 32) i s
  | .memberState p => voidFor 14 p s
  | .stash p g first n => stashLost p g (fun i _ => decide (first ≤ i) && decide (i < first + n)) s
  | .ledger _ => s
  | .none => s

/-- The pool of a target; none where no extent is live. -/
def uePool (s : State) (t : UeTarget) : Option Nat :=
  match t with
  | .slice k _ x =>
    match boundPeal s k with
    | some p => some (if isHome s (s.peal p) (chunkOf (s.peal p).desc x) then 0 else 1)
    | none => some 0
  | .spill _ => some 3
  | .memberTable _ => some 4
  | .memberState _ => some 4
  | .stash _ _ _ _ => some 2
  | .ledger _ => some 5
  | .none => none

/-! Retirement of channels (R331). -/

/-- Extents of a bank that lie on a channel, below a count. -/
def extentsOn (start bank n c : Nat) : List Nat := (List.range n).filter fun i => extentChan start bank i == c

/-- The slices that overlap an extent. -/
def slicesOf (d : BitVec 512) (i : Nat) : List Nat :=
  let n := sliceBytes d
  let a := extentBytes * i / n
  let b := min (shCells d) (ceilDiv (extentBytes * (i + 1)) n)
  (List.range (b - a)).map (a + ·)

/-- A shard's extents leave a retired channel: relocated where frames are free, and rebuilt; with no place the shard is LOST. Answers the
frames still free. -/
def moveShard (c k : Nat) (a : Nat × State) : Nat × State :=
  let (room, s) := a
  let sh := s.shard k
  let n := shardExtents sh.desc
  let e0 := extentsOn sh.start 0 n c
  let e1 := extentsOn sh.start 1 n c
  let need := 512 * (e0.length + e1.length)
  if room < need then (room, loseShard k s)
  else
    let s := sliceLost k 0 ((e0.map (slicesOf sh.desc)).flatten) s
    (room - need, sliceLost k 1 ((e1.map (slicesOf sh.desc)).flatten) s)

/-- A peal's SPILL or MEMBER extents leave a retired channel: its round is voided; SPILL extents may find no place. -/
def movePeal (c pool p bytes : Nat) (a : Nat × State) : Nat × State :=
  let (room, s) := a
  let n := localOn pool p (ceilDiv bytes extentBytes) c
  if n = 0 then a
  else if pool = 3 ∧ room < 512 * n then (room, voidFor 14 p (s.modPeal p fun q => { q with noPlace := true }))
  else (room - 512 * n, voidFor 14 p s)

/-- The stash of a circuit port loses its extents on a retired channel; records that lay there are discarded (which ones is open). (DESIGN CHOICE, log entry 98). -/
def shrinkStash (c p : Nat) (s : State) : State :=
  let n := localOn 2 p (stashExtents (s.circOf p)) c
  if n = 0 then s
  else
    let s := s.modCirc p fun x => { x with lost := x.lost + 2 * n }
    forAll (s.circOf p).queues.keys s fun s g =>
      stashLost p g (fun _ x => poolStart 6 ((p * 256 + g) * 65536 + x.recNo) == c % 32) s

/-- Retired channels of a region. -/
def retiredChans (s : State) (r : Nat) : Nat := (((List.range 32).map (32 * r + ·)).filter fun c => !chanServes s c).length

/-- Retire a channel (R331) with a status and a reason of event 0x3007; more than 8 in a region fence it (R13). (DEDUCED, log entry 97). -/
def retireChan (c status reason : Nat) (s : State) : State :=
  if !chanServes s c then s
  else
    let r := c / 32
    let s := s.modChan c fun x => { x with status := status }
    let s := s.modLedger r fun l => { l with channels := insertNat c l.channels }
    let s := ledgerAdd r 0x11 [BitVec.ofNat 8 c, BitVec.ofNat 8 reason] s
    let s := postEvent 0x3007 [BitVec.ofNat 8 c, BitVec.ofNat 8 status, BitVec.ofNat 8 reason] s
    let (room, s) := (heldShards s).foldl (fun a e => moveShard c e.1 a) (regionFrames s r + 512 * chanExtents s c - 512 * regionUsed s r, s)
    let ps := s.peals.filter fun e => e.2.st != .free
    let (room, s) := (ps.filter fun e => lowRegion e.2.desc == r).foldl (fun a e => movePeal c 4 e.1 (memberBytes e.2.desc) a) (room, s)
    let (_, s) := (ps.filter fun e => e.2.spilled).foldl (fun a e => movePeal c 3 e.1 (spillBytes e.2 r) a) (room, s)
    let s := forAll (s.circ.keys.filter fun p => regionOfPort p == r) s fun s p => shrinkStash c p s
    if 8 < retiredChans s r then fenceRegion r 3 255 s else s

/-- Retire a frame, where a free one is left anywhere (R330): reason 0 uncorrectable, 1 corrected errors. A channel with more than 4,096 retired frames retires. (DEDUCED, log entry 97). -/
def retireFrame (c f reason : Nat) (s : State) : State :=
  if (retiredFrames s c).contains f || !anyFrame s then s
  else
    let r := c / 32
    let s := s.modLedger r fun l => { l with frames := l.frames.put c (insertNat f (l.frames.look c [])) }
    let s := ledgerAdd r 0x10 ([BitVec.ofNat 8 c, 0, 0, 0] ++ toLE 4 f ++ [BitVec.ofNat 8 reason]) (bumpChan c 7 1 s)
    if 4096 < (retiredFrames s c).length then retireChan c 4 1 s else s

/-- An uncorrectable error or poisoned read on a channel (R330 to R332). A poisoned read is no new memory error: it retires no frame and
counts toward no limit. -/
def ueHandle (c f : Nat) (t : UeTarget) (poison : Bool) (s : State) : State :=
  let s := match uePool s t with
    | some p => postEvent 0x3006 ([BitVec.ofNat 8 c, BitVec.ofNat 8 p, 0, 0] ++ toLE 4 f) s
    | none => s
  let s := ueEffect c t s
  if poison then s
  else
    let s := retireFrame c f 0 s
    let ts := ((s.chan c).ueAt.filter fun t => decide (s.now ≤ t + 3600000000000)) ++ [s.now]
    let s := s.modChan c fun x => { x with ueAt := ts }
    if 16 ≤ ts.length then retireChan c 4 2 s else s

/-- A corrected error in a frame: the third within 24 hours retires it; with no free frame anywhere the frame stays, poisoned, and what it holds
is handled as a poisoned read (R330). (DEDUCED, log entry 99). -/
def ceFrame (c f : Nat) (t : UeTarget) (s : State) : State :=
  let ts := lastDay s ((s.chan c).ceAt.look f [])
  let s := s.modChan c fun x => { x with ceAt := x.ceAt.put f ts }
  if ts.length < 3 then s else if anyFrame s then retireFrame c f 1 s else ueHandle c f t true s

/-- Link ECC of a read with `n` re-reads left (R328): the link errors corrected, and the re-reads made before inline ECC judges the data. -/
def linkReads : Nat → List LinkEcc → Nat × Nat
  | _, .single :: _ => (1, 0)
  | n + 1, .uncorrectable :: t => let (ce, re) := linkReads n t; (ce, re + 1)
  | _, _ => (0, 0)

/-- What link ECC counts of a read on a channel (R328, R337). -/
def linkCount (c : Nat) (l : List LinkEcc) (s : State) : State :=
  let (ce, re) := linkReads 2 l
  let s := if ce = 0 then s else bumpChan c 2 ce s
  if re = 0 then s else bumpChan c 3 re s

/-- What inline ECC judges a read burst to be (R327, R330, R332). -/
def inlineJudge (c f : Nat) (t : UeTarget) (ecc : EccKind) (s : State) : State :=
  match ecc with
  | .clean => s
  | .corrected => ceFrame c f t (bumpChan c 0 1 s)
  | .uncorrectable => ueHandle c f t false (bumpChan c 1 1 s)
  | .poisoned => ueHandle c f t true (bumpChan c 6 1 s)

/-- A reader meets an LPDDR error (R327, R328, R332): link ECC corrects it or has the burst read again, and inline ECC judges the data. An
uncorrectable error on a write link is not reported: the next read or scrub of the burst finds it. (DEDUCED, log entry 96). -/
def execMemoryUe (ue : MemUe) (s : State) : Out :=
  if 128 ≤ ue.channel || !chanLive s ue.channel then .next s
  else .next (inlineJudge ue.channel ue.frame ue.target ue.ecc (linkCount ue.channel ue.link s))

/-- Patrol scrub of one burst (R329): a correctable error is corrected and counted, an uncorrectable one is poisoned and handled as if a reader
had met it. The burst's place in its frame changes nothing else. -/
def execPatrolScrub (channel frame burst : Nat) (res : EccKind) (target : UeTarget) (s : State) : Out :=
  if 128 ≤ channel || 64 ≤ burst || !chanLive s channel then .next s
  else
    match res with
    | .clean => .next s
    | .corrected => .next (ceFrame channel frame target (bumpChan channel 4 1 s))
    | .uncorrectable => .next (ueHandle channel frame target false (bumpChan channel 5 1 s))
    | .poisoned => .next (ueHandle channel frame target true (bumpChan channel 6 1 s))

/-- Tracking of WCK-to-DQ drift (R334): two failures in a row retire the channel (R331). How long a correction pauses the channel,
400 ns at most, is a free value. (DESIGN CHOICE, log entry 17). -/
def execDqsTracking (channel : Nat) (ok : Bool) (s : State) : Out :=
  if 128 ≤ channel || !chanServes s channel then .next s
  else if ok then .next (bumpChan channel 21 (Config.trackPause s.free).val (s.draw.modChan channel fun x => { x with trackBad := 0 }))
  else
    let s := s.modChan channel fun x => { x with trackBad := x.trackBad + 1 }
    .next (if 2 ≤ (s.chan channel).trackBad then retireChan channel 4 3 s else s)

/-- The multiplier LAST_THERMAL gives for a package temperature (R479): that of the last refresh point at or below it. -/
def thermalMult (body : Bytes) (tempC : Nat) : Nat :=
  (List.range (byteAt body 1)).foldl (fun m k =>
    let o := 4 + 4 * byteAt body 0 + 4 * k
    if byteAt body o ≤ tempC then byteAt body (o + 1) else m) 1

/-- A channel's refresh multiplier changes; REFRESH_X4_US runs while it is 4. -/
def setMult (c code m : Nat) (s : State) : State :=
  let x := s.chan c
  let s := if x.mult = 4 then bumpChan c 20 ((s.now - x.x4At) / 1000) s else s
  s.modChan c fun x => { x with mult := m, code := code, x4At := s.now }

/-- MR4 of a package is read (R335): the larger multiplier applies to its four channels; above 105 °C the largest stays and an event is
posted. -/
def execMr4Read (package code mr4Mult tempC : Nat) (s : State) : Out :=
  if 32 ≤ package then .next s
  else
    let hot := decide (105 < tempC)
    let m := if hot then 4 else max mr4Mult (thermalMult (s.lastBody 4) tempC)
    let s := forAll [0, 1, 2, 3] s fun s k => setMult (4 * package + k) code m s
    .next (if hot then postEvent 0x3008 ([BitVec.ofNat 8 package, 0] ++ toLE 2 tempC) s else s)

end Sys2Proof.Machine
end

