-- ==== Sys2Proof/Machine/Circ.lean ====
section
/-! DEFINITION. Machine/Circ.lean: circuit schedules, arming, slot edges, notices and the stash (chapter 12). -/
namespace Sys2Proof.Machine

/-- Network time is locked (R360). -/
def timeLocked (s : State) : Bool := s.time.st == .locked || s.time.st == .holdover

/-- Network time in whole ns, not before now. -/
def ntCeil (s : State) : Nat := ceilDiv s.nt 65536

/-! Edges of a schedule (R343). -/

/-- Edges of one cycle, as offsets from its first: entry k is where slot k begins; the last is the period. -/
def edgeOffsets (sc : Schedule) : List Nat := sc.slots.foldl (fun l x => l ++ [l.getLastD 0 + x.lenUs * 1000]) [0]

/-- The period of a schedule, in ns. -/
def period (sc : Schedule) : Nat := (edgeOffsets sc).getLastD 0

/-- An instant is an edge of a schedule, or at or after its end. -/
def isEdge (sc : Schedule) (t : Nat) : Bool :=
  let off := t - sc.start
  decide (sc.start ≤ t) && ((sc.cycles != 0 && decide (period sc * sc.cycles ≤ off)) || (edgeOffsets sc).contains (off % period sc))

/-- The first edge at or after an instant: slot, cycle, time. -/
def edgeFrom (sc : Schedule) (t : Nat) : Nat × Nat × Nat :=
  if t ≤ sc.start then (0, 0, sc.start)
  else
    let off := t - sc.start
    let cyc := off / period sc
    let k := (edgeOffsets sc).findIdx fun b => decide (off % period sc ≤ b)
    let at_ := sc.start + cyc * period sc + (edgeOffsets sc).getD k 0
    if k < sc.slots.length then (k, cyc, at_) else (0, cyc + 1, at_)

/-- What begins at the next edge: schedule, slot, cycle (R343, R355). -/
def nextSlot (c : Circ) : Option (Schedule × Nat × Nat) :=
  match c.succ with
  | some su => if su.start = c.edge then some (su, 0, 0) else go c
  | none => go c
where
  go (c : Circ) : Option (Schedule × Nat × Nat) :=
    match c.sched with
    | none => none
    | some sc =>
      if c.ended then none
      else if !c.started then some (sc, c.slot, c.cycle)
      else if c.slot + 1 < sc.slots.length then some (sc, c.slot + 1, c.cycle)
      else if sc.cycles = 0 ∨ c.cycle + 1 < sc.cycles then some (sc, 0, c.cycle + 1)
      else none

/-- Two slots make a continuation (R342). -/
def continues (a b : Slot) : Bool :=
  !a.dark && !b.dark && a.group == b.group && a.peerChip == b.peerChip && a.peerPort == b.peerPort && a.peerWidth == b.peerWidth

/-- The next edge of an armed port begins a continuation: never after arming, a suspension or a gap, nor when a DISARM is due. -/
def nextContinues (c : Circ) : Bool :=
  !c.suspended && !c.disarm && match curSlot c, nextSlot c with
    | some a, some (sc, k, _) => (match sc.slots[k]? with | some b => continues a b | none => false)
    | _, _ => false

/-! CIRCUIT_SCHEDULE_LOAD (R340 to R343). -/

/-- A slot record. -/
def slotOf (b : Bytes) : Slot :=
  let w := le b 0 4
  let x := le b 4 2
  { lenUs := field w 0 17, dark := bit w 17, group := field w 18 8, peerPort := field x 0 10, peerWidth := 2 ^ field x 10 2, peerChip := BitVec.ofNat 64 (le b 8 8) }

/-- The schedule a message carries. -/
def scheduleOf (b : Bytes) : Schedule :=
  { id := le b 4 4, start := le b 8 8, cycles := le b 16 4, stashMib := le b 20 4, switchNs := le b 24 4, relockUs := le b 28 2
    dwellUs := byteAt b 30, failLimit := byteAt b 31, ageMs := le b 32 2
    slots := (List.range (le b 2 2)).map fun k => slotOf ((b.drop (64 + 16 * k)).take 16) }

/-- A slot record keeps its reserved bits, its length and the zeros of a dark slot. -/
def slotCheck (b : Bytes) (k : Nat) : Option Reply :=
  let o := 64 + 16 * k
  let x := slotOf ((b.drop o).take 16)
  firstOf [
    need (decide (10 ≤ x.lenUs) && decide (x.lenUs ≤ 100000) && field (le b o 4) 26 6 == 0 && (!x.dark || x.group == 0)) (.range o),
    need (field (le b (o + 4) 2) 12 4 == 0) (.range (o + 4)),
    rsvd b (o + 6) 2,
    (if x.dark then firstOf [rsvd b (o + 4) 2, rsvd b (o + 8) 8] else none)]

/-- Every slot that starts a circuit is long enough (R342). `pred` is the slot that runs before slot 0 of the first cycle, if a circuit may
continue it. -/
def slotsLongEnough (sc : Schedule) (pred : Option Slot) : Bool :=
  let min_ := ceilDiv sc.switchNs 1000 + sc.relockUs + 3
  let ok (p : Option Slot) (x : Slot) : Bool := x.dark || (match p with | some a => continues a x | none => false) || decide (min_ ≤ x.lenUs)
  (List.range sc.slots.length).all fun k =>
    match sc.slots[k]? with
    | none => true
    | some x => if k = 0 then ok pred x && (sc.cycles == 1 || ok sc.slots.getLast? x) else ok sc.slots[k - 1]? x

/-- The slot of an active schedule that ends at an instant. -/
def slotEndingAt (sc : Schedule) (t : Nat) : Option Slot :=
  let off := t - sc.start
  if off = 0 ∨ (sc.cycles ≠ 0 ∧ period sc * sc.cycles < off) then none
  else
    let k := (edgeOffsets sc).findIdx fun b => b == (off - 1) % period sc + 1
    sc.slots[k - 1]?

/-- The opcode's own checks of CIRCUIT_SCHEDULE_LOAD, in the order of R343. -/
def scheduleChecks (s : State) (b : Bytes) : List (Option Reply) :=
  let p := field (le b 0 2) 0 10
  let c := s.circOf p
  let sc := scheduleOf b
  let now := ntCeil s
  let pred := if c.armed then (match c.sched with | some old => slotEndingAt old sc.start | none => none) else none
  let n := sc.stashMib / 2
  let s' := s.modCirc p fun c => { c with sched := none }
  [need (portRole s p == 2) (.err ePlan),
   need (sc.slots.all fun x => x.dark || x.peerWidth == (s.port p).width) (.err ePlan),
   need (decide (le b 0 2 < 1024)) (.range 0),
   need (decide (1 ≤ le b 2 2) && decide (le b 2 2 ≤ 1024)) (.range 2),
   need (sc.stashMib % 2 == 0 && decide (2 ≤ sc.stashMib) && decide (sc.stashMib ≤ 262144)) (.range 20),
   need (decide (100 ≤ sc.switchNs) && decide (sc.switchNs ≤ 10000000)) (.range 24),
   need (decide (15 ≤ sc.relockUs) && decide (sc.relockUs ≤ 1000)) (.range 28),
   need (decide (1 ≤ sc.dwellUs) && decide (sc.dwellUs ≤ 100)) (.range 30),
   need (decide (1 ≤ sc.failLimit) && decide (sc.failLimit ≤ 16)) (.range 31),
   need (decide (1 ≤ sc.ageMs) && decide (sc.ageMs ≤ 10000)) (.range 32),
   rsvd b 34 30,
   firstOf ((List.range sc.slots.length).map (slotCheck b)),
   need (slotsLongEnough sc pred) (.range 64),
   need (decide (now + 100000 ≤ sc.start)) (.range 8),
   need (!c.armed || (match c.sched with | some old => isEdge old sc.start | none => true)) (.range 8),
   need (!c.armed || (match c.sched with | some old => old.stashMib == sc.stashMib | none => true)) (.err eState),
   need (timeLocked s) (.err eState),
   need (match c.succ with | some su => decide (now + 100000 ≤ su.start) | none => true) (.err eBusy),
   need (c.armed || (capOk s' 2 (n * extentBytes) && roomIn s' (regionOfPort p) n)) (.err eNoStore)]

/-- Install a schedule, or set it as the successor of the active one. -/
def loadSchedule (b : Bytes) (s : State) : State :=
  let p := field (le b 0 2) 0 10
  let sc := scheduleOf b
  if (s.circOf p).armed then s.modCirc p fun c => { c with succ := some sc, edge := if c.ended then sc.start else c.edge }
  else (zeroCtrs 0x0C (circEntry s p) s).modCirc p fun _ => { sched := some sc }

/-- CIRCUIT_SCHEDULE_LOAD. -/
def execCircuitScheduleLoad (m : Msg) (s : State) : Out :=
  runMsg 0x90 m s fun b s => checked (scheduleChecks s b) [] s (loadSchedule b s)

/-! Arming (R344, R345). -/

/-- ARM: the port stays dark until the first edge at or after now. (DEDUCED, log entry 103). -/
def armCircuit (p : Nat) (s : State) : State :=
  match (s.circOf p).sched with
  | none => s
  | some sc =>
    let (k, cyc, t) := edgeFrom sc (ntCeil s)
    s.modCirc p fun c => { c with armed := true, disarm := false, started := false, ended := sc.cycles != 0 && decide (sc.cycles ≤ cyc), suspended := false
                                  slot := k, cycle := cyc, edge := t, failed := false, release := false, resend := true, darkAt := s.now }

/-- DISARM: at the next edge, or now where the schedule has none left. (DEDUCED, log entry 103). -/
def disarmCircuit (p : Nat) (s : State) : State :=
  let c := s.circOf p
  if !c.armed then s
  else if c.ended && c.succ.isNone then disarmNow p s
  else s.modCirc p fun c => { c with disarm := true }

/-- The fields of CIRCUIT_ARM that must be zero. -/
def armFields (b : Bytes) : List (Option Reply) := [need (decide (le b 0 2 < 1024)) (.range 0), need (decide (byteAt b 2 ≤ 1)) (.range 2), rsvd b 3 5]

/-- CIRCUIT_ARM with ACTION ARM. -/
def execCircuitArmArm (m : Msg) (s : State) : Out :=
  runMsg 0x91 m s fun b s =>
    let b := withAction 2 0 b
    let p := le b 0 2
    let c := s.circOf p
    checked ([need (!restricted s) (.err eState)] ++ armFields b
      ++ [need (c.sched.isSome && timeLocked s && (s.port p).st != .fenced && !c.armed) (.err eState)]) [] s (armCircuit p s)

/-- CIRCUIT_ARM with ACTION DISARM. -/
def execCircuitArmDisarm (m : Msg) (s : State) : Out :=
  runMsg 0x91 m s fun b s => let b := withAction 2 1 b; checked (armFields b) [] s (disarmCircuit (le b 0 2) s)

/-- Network time has lost lock (R24, R353): armed ports finish their slot, then go dark and are disarmed. -/
def circuitsLoseLock (s : State) : State :=
  let ps := s.circ.keys.filter fun p => (s.circOf p).armed
  if ps.isEmpty then s
  else postEvent 0x4014 [0] (forAll ps s fun s p => disarmCircuit p s)

/-! The slot edge (R350, R351). -/

/-- T − 2 µs: release stops. -/
def execEdgeReleaseStop (port : Nat) (s : State) : Out :=
  let c := s.circOf port
  .next (if c.armed && !nextContinues c then s.modCirc port fun c => { c with release := false } else s)

/-- T − 0.5 µs: no further resend starts. -/
def execEdgeResendStop (port : Nat) (s : State) : Out :=
  let c := s.circOf port
  .next (if c.armed && !nextContinues c then s.modCirc port fun c => { c with resend := false } else s)

/-- The CIRCUIT notice of the slot that begins at the next edge (R352). -/
def noticeCell (s : State) (p k cyc : Nat) (sc : Schedule) (x : Slot) : Cell :=
  linkCell s tCircuit (place p 49 10 + place k 39 10 + place x.group 31 8 + place (b2n x.dark) 30 1)
    (toLE 8 (s.circOf p).edge ++ toLE 8 x.peerChip.toNat ++ toLE 4 sc.id ++ toLE 4 cyc)

/-- T − 1.5 µs and T − 1.0 µs: a notice goes out on an UP port; where no slot begins at T there is nothing to notify. -/
def execCircuitNoticeSend (port : Nat) (s : State) : Out :=
  let c := s.circOf port
  if !c.armed || (s.port port).st != .up || nextContinues c then .next s
  else
    match nextSlot c with
    | some (sc, k, cyc) =>
      match sc.slots[k]? with
      | some x => .next (sendLinkCell port (noticeCell s port k cyc sc x) s)
      | none => .next s
    | none => .next s

/-- The neighbour's notice arrives (R352): its T is compared with this port's next edge. -/
def execCircuitNoticeReceive (port : Nat) (cell : Cell) (s : State) : Out :=
  let c := s.circOf port
  if (s.port port).st != .up || !cell.crcOk || cell.typ ≠ tCircuit || !c.armed then .next s
  else if !zeroAt cell.payload 24 40 then .next (countDiscard (some port) causeEncoding s)
  else
    let skew : Int := (le cell.payload 0 8 : Int) - (c.edge : Int)
    .next (if 100 < skew.natAbs then postEvent 0x1005 (toLE 2 port ++ zeros 2 ++ toLE 8 (twos skew 64)) (bumpCirc port 5 1 s) else s)

/-- Each queue's read position returns to its oldest unacknowledged cell; aged cells are discarded (R349, R351). (DEDUCED, log entry 102). -/
def rewindQueues (p : Nat) (s : State) : State :=
  forAll (s.circOf p).queues.keys s fun s g =>
    let c := s.circOf p
    let q := c.queues.look g {}
    let old := q.sent.filter (aged s c)
    let back := q.sent.filter fun x => !aged s c x
    let s := s.modCirc p fun c => { c with queues := c.queues.put g { q with sent := [], wait := back ++ q.wait, readRec := none } }
    forAll old (bumpCirc p 8 back.length s) fun s x => dropAged p x s

/-- T: the lanes go idle, unacknowledged cells return to the stash, credit counts are cleared and the port is DOWN; a VC0 cell it would
still have forwarded is discarded (R59). Leaving UP at an edge is no
fault: no event, no entry into DAMPED. -/
def goDark (p : Nat) (s : State) : State :=
  let was := (s.port p).st
  let s := rewindQueues p s
  let s := forAll (lanesOf s p) s fun s l => s.modLane l fun x => { x.restart with locked := false }
  let s := if was == .fenced || was == .damped then s else dropStore p causePortState (darkEdge p (was == .up) false s)
  reselect <| s.modPort p fun q => { q with
    st := if was == .fenced || was == .damped then was else .down
    trained := false, train := none, hold := if was == .damped then q.hold else .free
    credits := [], resvCred := [], inUse := [], sentRecent := [], vc0 := [], stomps := [], slot := 0, flight := none, dwellOk := false
    dvals := [], stamps := [], peerMax := none, heard := none, judged := none, ann := none, peerOut := 0, upAt := if was == .fenced || was == .damped then q.upAt else s.now }

/-- Queues toward groups that the port no longer serves lose service (R354). -/
def dropUnserved (p : Nat) (s : State) : State :=
  forAll (((s.circOf p).queues.keys ++ (s.circOf p).writer.map (·.1)).eraseDups) s fun s g => if circServes s p g then s else loseService p g s

/-- The edge itself, for a slot that begins: the schedule, its slot and cycle, and whether it continues the circuit. (DEDUCED, log entry 101). (DEDUCED, log entry 104). -/
def beginSlot (p : Nat) (sc : Schedule) (k cyc : Nat) (cont : Bool) (x : Slot) (s : State) : State :=
  let fenced := (s.port p).st == .fenced
  let s := s.modCirc p fun c =>
    let swap := match c.succ with | some su => su.start == c.edge | none => false
    { c with
      sched := some sc, succ := if swap then none else c.succ, started := true, ended := false, suspended := fenced
      slot := k, cycle := cyc, edge := c.edge + x.lenUs * 1000
      failed := c.failed && cont, full := c.full && cont, opened := c.opened && cont, release := c.release && cont, resend := true }
  dropUnserved p (if cont then bumpCirc p 1 1 s else s)

/-- T: the edge of a circuit port (R343, R345, R350, R355). A dark slot after a dark slot does nothing. (DEDUCED, log entry 101). -/
def execSlotEdge (port : Nat) (s : State) : Out :=
  let c := s.circOf port
  if !c.armed then .next s
  else if c.disarm then .next (disarmNow port (goDark port s))
  else
    match nextSlot c with
    | none =>
      let s := (goDark port s).modCirc port fun c => { c with ended := true, started := true, release := false, failed := false, edge := match c.succ with | some su => su.start | none => c.edge }
      .next (if c.succ.isNone then loseAll port s else s)
    | some (sc, k, cyc) =>
      match sc.slots[k]? with
      | none => .next s
      | some x =>
        let cont := nextContinues c
        let idle := match curSlot c with | some a => a.dark && x.dark | none => false
        .next (beginSlot port sc k cyc cont x (if cont || idle then s else goDark port s))

/-- T + SWITCH_NS: a slot that starts a circuit trains, WARM if LAST_EQ holds entries for its peer, else FULL (R350). -/
def execSwitchSettled (port : Nat) (s : State) : Out :=
  let c := s.circOf port
  match curSlot c with
  | none => .next s
  | some x =>
    if !c.armed || c.suspended || x.dark || c.failed || (s.port port).st != .down || !(s.port port).enabled then .next s
    else
      let warm := (lanesOf s port).all (eqHas s port)
      let s := if warm then s else bumpCirc port 4 1 (s.modCirc port fun c => { c with full := true })
      .next (startSeq port warm (enter port .training 1 s))

/-- T + SWITCH_NS + RELOCK_LIMIT_US: a slot that started with WARM and is not UP fails (R353). -/
def execRelockLimitExpiry (port : Nat) (s : State) : Out :=
  let c := s.circOf port
  match curSlot c with
  | none => .next s
  | some x =>
    if !c.armed || x.dark || c.full || c.failed || c.opened || c.suspended || (s.port port).st == .fenced || (s.port port).st == .damped then .next s
    else .next (failSlot port 1 0 (enter port .down 3 s))

/-- T + LEN_US − 2 µs: FULL training that is not complete fails the slot (R353). -/
def execFullTrainDeadline (port : Nat) (s : State) : Out :=
  let c := s.circOf port
  .next (if c.armed && c.full && !c.failed && (s.port port).st == .training then failSlot port 2 0 (enter port .down 3 s) else s)

/-! The stash (R346, R347). -/

/-- A partial record is written 2 µs after its first cell: the next cell opens a new one. (DEDUCED, log entry 106). -/
def execStashRecordWrite (port group : Nat) (s : State) : Out :=
  let q := (s.circOf port).queues.look group {}
  .next (if q.fill = 0 then s else recordServed true port group q.recNo (s.modCirc port fun c => { c with queues := c.queues.put group { q with fill := 0, recNo := q.recNo + 1 } }))

/-- The cell waiting at the stash writer enters its queue once a record is free. -/
def execStashWriterWait (port : Nat) (s : State) : Out :=
  let c := s.circOf port
  match c.writer with
  | [] => .next s
  | (g, b) :: rest =>
    match stashTake s port g b with
    | none => .next s
    | some s => .next (bumpCirc port 11 (s.now - c.writerAt) (s.modCirc port fun c => { c with writer := rest, writerAt := s.now }))

end Sys2Proof.Machine
end

