-- ==== Sys2Proof/Machine/Time.lean ====
section
/-! DEFINITION. Machine/Time.lean: network time: measurement, servo, sources, PPS and 1588 (chapter 13), and the PROBE exchange of Welt ports (R299). -/
namespace Sys2Proof.Machine

/-! The servo (R363, R364). -/

/-- The difference of two stamps, signed. -/
def stampDiff (a b : Nat) : Int := signed (twos ((a : Int) - b) 80) 80

/-- Rounded quotient with a signed divisor. (DESIGN CHOICE, log entry 108). -/
def fitQuot (a b : Int) : Int := if b = 0 then 0 else if b < 0 then rneDiv (-a) (-b).toNat else rneDiv a b.toNat

/-- The least-squares slope of o against FRC in units of 2^-48, and the offset the fit gives at an instant, in units of 2^-17 ns (R363). (DESIGN CHOICE, log entry 108). -/
def fitLine (xs : List (Int × Nat)) (now : Nat) : Int × Int :=
  let n : Int := (xs.length : Nat)
  let x0 : Nat := (xs.head?.map (·.2)).getD 0
  let sx : Int := xs.foldl (fun a e => a + ((e.2 : Int) - x0)) 0
  let so : Int := xs.foldl (fun a e => a + e.1) 0
  let sxx : Int := xs.foldl (fun a e => a + ((e.2 : Int) - x0) * ((e.2 : Int) - x0)) 0
  let sxo : Int := xs.foldl (fun a e => a + ((e.2 : Int) - x0) * e.1) 0
  let num := n * sxo - sx * so
  let den := n * sxx - sx * sx
  (clampTo (2 ^ 35) (fitQuot (num * 2 ^ 31) den), fitQuot (so * (if den = 0 then 1 else den) + num * (n * ((now : Int) - x0) - sx)) (n * (if den = 0 then 1 else den)))

/-- The one step (R359, R363): RATE from the fit, OFFSET moved by what it gives now, TIME_VALID, LOCKED. -/
def takeStep (rate off17 : Int) (s : State) : State :=
  let st := rneDiv off17 2
  let s := setRate rate s
  timeTo .locked (s.modTime fun t => { t with offset := signed (twos (t.offset + st) 80) 80, f := rate, valid := true, step := st, samples := [] })

/-- The acquisition span of the selected source is complete (R363). -/
def spanDone (src : Nat) (xs : List (Int × Nat)) : Bool :=
  match src with
  | 1 => match xs.head?, xs.getLast? with | some a, some b => decide (a.2 + 1000000 ≤ b.2) | _, _ => false
  | 2 => decide (2 ≤ xs.length)
  | 3 => decide (16 ≤ xs.length)
  | _ => false

/-- One run of the servo (R364). -/
def servo (o : Int) (dt : Nat) (s : State) : State :=
  let f := clampTo (2 ^ 35) (s.time.f + rneDiv (o * dt * 4) (2 ^ 17))
  let p := clampTo (2 ^ 32) (o * 2 ^ 11)
  setRate (clampTo (2 ^ 35) (f + p)) (s.modTime fun t => { t with f := f })

/-- 1 ns in the units of o. -/
def ns17 : Int := 131072

/-- An accepted measurement of the selected source (R361, R363, R364): o, taken at a count. (PRESUMED, log entry 109). -/
def measure (o : Int) (frc : Nat) (s : State) : State :=
  let t := s.time
  let dt := match t.lastAt with | some x => frc - x | none => 0
  let small (b : Int) : Bool := decide (-b ≤ o ∧ o ≤ b)
  let s := s.modTime fun t => { t with
    lastO := o, lastAt := some frc
    good20 := if small (20 * ns17) then t.good20 + 1 else 0
    good100 := if small (100 * ns17) then t.good100 + 1 else 0
    bad100 := if small (100 * ns17) then 0 else t.bad100 + 1 }
  match t.st with
  | .acquiring =>
    let xs := t.samples ++ [(o, frc)]
    let s := s.modTime fun t => { t with samples := xs }
    if spanDone t.src xs then
      let (r, off) := fitLine xs s.now
      takeStep r off s
    else s
  | .locked =>
    let s := servo o dt s
    if 4 ≤ s.time.bad100 then circuitsLoseLock (timeTo .drifting s) else s
  | .holdover =>
    if 4 ≤ s.time.good100 then timeTo .locked s
    else if 4 ≤ s.time.bad100 then circuitsLoseLock (timeTo .drifting s)
    else s
  | .drifting =>
    let s := servo o dt s
    if 8 ≤ s.time.good20 then timeTo .locked s else s
  | .free => s

/-! Exchanges on a port (R365, R299). -/

/-- The smallest of a list of values. -/
def minInt : List Int → Option Int
  | [] => none
  | a :: t => some (t.foldl min a)

/-- What an exchange gives: the value of o, and whether the measurement is accepted; the port keeps its last 64 values of d, and in CHECK their
smallest as its flight time. -/
def exchange (p t1 t2 t3 t4 : Nat) (s : State) : Int × Bool × State :=
  let up := stampDiff t2 t1
  let down := stampDiff t4 t3
  let d := up + down
  let ds := ((s.port p).dvals ++ [d]).drop ((s.port p).dvals.length + 1 - 64)
  let dmin := (minInt ds).getD d
  let s := s.modPort p fun q => { q with dvals := ds, flight := if q.st == .check then some dmin else q.flight }
  (up - down, decide (d ≤ dmin + 4 * ns17), s)

/-- Take the stamp recorded for a sequence number, if it is at most 10 µs old. -/
def takeStamp (p seq : Nat) (s : State) : Option Nat × State :=
  let hit := (s.port p).stamps.find? fun x => x.seq == seq && decide (s.now ≤ x.at_ + 10000)
  (hit.map (·.t1), s.modPort p fun q => { q with stamps := q.stamps.filter fun x => x.seq != seq })

/-- The next sequence number of a port and message kind. -/
def nextTseq (p k : Nat) (s : State) : Nat × State :=
  let n := nth (s.port p).tseqs k
  (n, s.modPort p fun q => { q with tseqs := setNth 3 q.tseqs k ((n + 1) % 65536) })

/-- Send a TIMING cell (R365). -/
def sendTiming (p k : Nat) (payload : Bytes) (s : State) : State :=
  let (n, s) := nextTseq p k s
  sendLinkCell p (linkCell s tTiming (place k 56 3 + place n 40 16) (fit 64 payload)) s

/-- The states in which a port sends and takes TIMING or PROBE cells. -/
def timingState (st : PState) : Bool := st == .check || st == .quarantine || st == .up

/-- A fabric port takes a good TIMING cell of a kind. -/
def takesTiming (s : State) (p : Nat) (c : Cell) (k : Nat) : Bool :=
  !isWelt p && timingState (s.port p).st && c.crcOk && c.typ == tTiming && c.tmsgT == k

/-- REQ: on the selected port and in CHECK every 2 µs, on other UP ports every 100 µs. T1 is written at transmit. -/
def execTimingReqSend (port : Nat) (s : State) : Out :=
  let st := (s.port port).st
  .next (if !isWelt port && (st == .check || st == .up) then sendTiming port 1 [] s else s)

/-- REQ arrives: one RESP, with T2 the receive stamp. -/
def execTimingReqReceive (port : Nat) (cell : Cell) (stamp : BitVec 80) (s : State) : Out :=
  if !takesTiming s port cell 1 then .next s
  else if !zeroAt cell.payload 10 54 then .next (countDiscard (some port) causeEncoding s)
  else .next (sendTiming port 2 (zeros 10 ++ toLE 10 stamp.toNat ++ toLE 2 (cell.f 40 16)) s)

/-- RESP arrives: o and d, and on the selected port a measurement. -/
def execTimingRespReceive (port : Nat) (cell : Cell) (stamp : BitVec 80) (s : State) : Out :=
  if !takesTiming s port cell 2 then .next s
  else if !zeroAt cell.payload 22 42 then .next (countDiscard (some port) causeEncoding s)
  else
    match takeStamp port (le cell.payload 20 2) s with
    | (none, s) => .next (bumpTime 2 s)
    | (some t1, s) =>
      let (o, ok, s) := exchange port t1 (le cell.payload 10 10) (le cell.payload 0 10) stamp.toNat (bumpTime 0 s)
      if !ok then .next (bumpTime 1 s)
      else .next (if s.time.src = 1 ∧ s.time.port = some port then measure o s.now s else s)

/-- A Welt port sends PROBE (R299). -/
def execProbeSend (wp : Nat) (s : State) : Out :=
  let p := weltPort wp
  let st := (s.port p).st
  if 4 ≤ wp || !(st == .check || st == .up) then .next s
  else
    let (n, s) := nextTseq p 1 s
    .next (sendLinkCell p (linkTwin s 0x0F (zeros 10 ++ toLE 2 n)) s)

/-- PROBE arrives: PROBE_ECHO with T2. -/
def execProbeReceive (wp : Nat) (msg : TwinMsg) (stamp : BitVec 80) (s : State) : Out :=
  let p := weltPort wp
  .next (if wp < 4 && timingState (s.port p).st && !twinOk 0x0F msg then countDiscard (some p) causeEncoding s
    else if wp < 4 && timingState (s.port p).st && msg.tmsg == 0x0F then
    sendLinkCell p (linkTwin s 0x10 (zeros 10 ++ toLE 10 stamp.toNat ++ toLE 2 (le msg.head 10 2))) s else s)

/-- PROBE_ECHO arrives: d of the Welt port; late or unmatched ones are discarded and counted. -/
def execProbeEchoReceive (wp : Nat) (msg : TwinMsg) (stamp : BitVec 80) (s : State) : Out :=
  let p := weltPort wp
  if 4 ≤ wp || !timingState (s.port p).st || msg.tmsg ≠ 0x10 then .next s
  else if !twinOk 0x10 msg then .next (countDiscard (some p) causeEncoding s)
  else
    match takeStamp p (le msg.head 20 2) s with
    | (none, s) => .next (bump 0x20 (portEntry p) 8 s)
    | (some t1, s) => .next (exchange p t1 (le msg.head 10 10) (le msg.head 0 10) stamp.toNat s).2.2

/-! ANNOUNCE (R362, R365). -/

/-- ANNOUNCE every 100 µs. (DEDUCED, log entry 111). -/
def execAnnounceSend (port : Nat) (s : State) : Out :=
  if isWelt port || !timingState (s.port port).st then .next s
  else
    let g := gmNow s
    .next (sendTiming port 0 (toLE 8 g.id.toNat ++ toLE 1 g.prio ++ toLE 1 g.source ++ toLE 1 g.steps ++ toLE 1 s.time.st.code ++ toLE 8 g.parent.toNat ++ toLE 8 s.hubId.toNat) s)

/-- The payload of ANNOUNCE keeps its ranges (R6, R365). -/
def announceOk (b : Bytes) : Bool := zeroAt b 28 36 && decide (byteAt b 11 ≤ 4) && [0, 2, 3, 4].contains (byteAt b 9)

/-- ANNOUNCE arrives: the neighbour's ranking is updated and the source chosen again. -/
def execAnnounceReceive (port : Nat) (cell : Cell) (s : State) : Out :=
  if !takesTiming s port cell 0 then .next s
  else if !announceOk cell.payload then .next (countDiscard (some port) causeEncoding s)
  else
    let b := cell.payload
    let a : Announce := { gm := BitVec.ofNat 64 (le b 0 8), prio := byteAt b 8, source := byteAt b 9, steps := byteAt b 10, tstate := byteAt b 11, parent := BitVec.ofNat 64 (le b 12 8), chip := BitVec.ofNat 64 (le b 20 8), at_ := s.now }
    .next (reselect (s.modPort port fun q => { q with ann := some a }))

/-- No ANNOUNCE for 300 µs: the port's neighbour is no source any more. -/
def execAnnounceTimeout (port : Nat) (s : State) : Out := .next (reselect (s.modPort port fun q => { q with ann := none }))

/-! PPS_IN and PPS_OUT (R366, R369). -/

/-- Network time at a count given in quarters of a ns, less a delay in ns, in units of 2^-16 ns. (DEDUCED, log entry 113). -/
def ntAtQ (t : Time) (q delay : Nat) : Nat :=
  (((q * 16384 : Int) + rneDiv (q * t.rate) (2 ^ 34) + t.offset - delay * 65536) % ((2 : Int) ^ 80)).toNat

/-- A rising edge of PPS_IN (R366): one more than 1 µs from one second after the last accepted edge is a glitch. (DEDUCED, log entry 110). -/
def execPpsInEdge (frcQ : Nat) (s : State) : Out :=
  let t := s.time
  let glitch := match t.ppsAt with | some a => decide (4000 < (((frcQ : Int) - a) - 4000000000).natAbs) | none => false
  if glitch then .next (bumpTime 6 s)
  else
    let tod := if t.tod ≠ 0 ∧ bit t.mask 1 then some t.tod else match t.ppsTod, t.ppsAt with | some x, some _ => some (x + 1000000000) | _, _ => none
    let s := reselect (s.modTime fun t => { t with ppsAt := some frcQ, ppsTod := tod, ppsOk := true, tod := 0 })
    match s.time.src, tod with
    | 2, some x => .next (measure (2 * stampDiff (x * 65536) (ntAtQ s.time frcQ t.inDelay)) (frcQ / 4) s)
    | _, _ => .next s

/-- 2.5 s without an accepted edge: PPS_IN is lost, and its time of day with it. (DEDUCED, log entry 110). -/
def execPpsInLoss (s : State) : Out := .next (reselect (s.modTime fun t => { t with ppsAt := none, ppsTod := none, ppsOk := false }))

/-- PPS_OUT rises at a network second while the part is locked. -/
def execPpsOutEdge (s : State) : Out := .next (if timeLocked s then s.modTime fun t => { t with ppsOut := true } else s)

/-- PPS_OUT falls after 1 ms. -/
def execPpsOutEnd (s : State) : Out := .next (s.modTime fun t => { t with ppsOut := false })

/-! IEEE 1588 (R367). -/

/-- A 1588 message of the domain: the master the algorithm selects, a Sync, or a Delay_Resp. The offset is taken at each Sync with the path delay
the last Delay_Resp gave. (PRESUMED, log entry 109). -/
def execPtpMessage (p : PtpMsg) (s : State) : Out :=
  let t := s.time
  let mine (id : W64) : Bool := match t.ptp with | some (m, _) => m == id | none => false
  match p with
  | .announce id prio best =>
    if !best then .next s
    else if mine id then .next (s.modTime fun t => { t with ptp := some (id, prio) })
    else .next (reselect (s.modTime fun t => { t with ptp := some (id, prio), ptpSync := none, ptpDelay := none, lastAt := if t.src = 3 then none else t.lastAt }))
  | .sync id t1 t2 =>
    if !mine id then .next s
    else
      let s := s.modTime fun t => { t with ptpSync := some (t1.toNat, t2.toNat) }
      match t.ptpDelay, t.src with
      | some d, 3 => .next (measure (2 * stampDiff t1.toNat t2.toNat + d) s.now s)
      | _, _ => .next s
  | .delayResp id t3 t4 =>
    match t.ptpSync with
    | some (t1, t2) => .next (if mine id then s.modTime fun t => { t with ptpDelay := some (stampDiff t2 t1 + stampDiff t4.toNat t3.toNat) } else s)
    | none => .next s
  | .other => .next s

/-- Three announce intervals without an Announce: the master is lost. -/
def execPtpMasterLoss (s : State) : Out := .next (reselect (s.modTime fun t => { t with ptp := none, ptpSync := none, ptpDelay := none }))

/-! States (R361). -/

/-- HOLDOVER_MS has passed. -/
def execHoldoverExpiry (s : State) : Out := .next (if s.time.st == .holdover then circuitsLoseLock (timeTo .drifting s) else s)

/-- The 25 MHz time reference is lost (R361, R483): FREE before the step, DRIFTING after it. -/
def execTrefLoss (s : State) : Out :=
  let s := s.modChip fun c => { c with tref := false }
  if s.time.valid then .next (if s.time.st == .drifting then s else circuitsLoseLock (timeTo .drifting s))
  else
    let s := s.modTime fun t => { t with src := 0, port := none, samples := [], lastAt := none }
    .next (if s.time.st == .free then s else timeTo .free s)

/-! Messages (R370, R371). -/

/-- Write a configuration record of a type (R431). -/
def putCfg (typ ver : Nat) (body : Bytes) (s : State) : State :=
  let f := s.flash
  let seq := f.cfg.foldl (fun m e => max m e.2.seq) 0 + 1
  { s with flash := { f with cfg := f.cfg.put (256 * f.cfgSel + typ) ⟨ver, seq, body⟩ } }

/-- Apply a TIME body (R370), TOD_NS as given. (DEDUCED, log entry 114). -/
def applyTime (b : Bytes) (s : State) : State :=
  let mask := byteAt b 0
  let tod := le b 8 8
  let isLocal := bit mask 3 && s.time.st == .free && tod != 0
  let s := s.modTime fun t => { t with
    mask := mask, prio := byteAt b 1, holdMs := le b 4 4, tod := if bit mask 1 then tod else 0
    inDelay := le b 16 2, outAdv := le b 18 2, domain := byteAt b 20, localOk := t.localOk || isLocal }
  let s := reselect s
  if isLocal && s.time.st == .acquiring && s.time.src == 4 then
    let s := setRate 0 s
    takeStep 0 (2 * stampDiff (tod * 65536) s.nt) s
  else s

/-- TIME_SET_SOURCE. -/
def execTimeSetSource (m : Msg) (s : State) : Out :=
  runMsg 0xA0 m s fun b s =>
    let mask := byteAt b 0
    let tod := le b 8 8
    let pps := bit mask 1
    let loc := bit mask 3
    checked [
      need (mask != 0 && decide (mask < 16)) (.range 0),
      rsvd b 2 2,
      need (decide (1 ≤ le b 4 4) && decide (le b 4 4 ≤ 3600000)) (.range 4),
      need ((!pps || tod % 1000000000 == 0) && (!loc || tod != 0) && (pps || loc || tod == 0)) (.range 8),
      need (decide (le b 16 2 ≤ 10000)) (.range 16),
      need (decide (le b 18 2 ≤ 10000)) (.range 18),
      rsvd b 21 11,
      need (!(loc && s.time.valid)) (.err eState)] [] s (putCfg 1 1 (putLE b 8 8 0) (applyTime b s))

/-- A value cut to a signed width. -/
def satTo (w : Nat) (x : Int) : Nat := twos (max (-(2 ^ (w - 1) : Nat)) (min ((2 ^ (w - 1) : Nat) - 1) x)) w

/-- The body of TIME_STATUS (R371). (DEDUCED, log entry 113). -/
def timeStatus (s : State) : Bytes :=
  let t := s.time
  let g := gmNow s
  let dmin := match t.port with | some p => (minInt (s.port p).dvals).getD 0 | none => 0
  toLE 1 t.st.code ++ toLE 1 t.src ++ toLE 2 (t.port.getD 0xFFFF) ++ toLE 1 g.steps ++ toLE 1 g.prio ++ toLE 1 (b2n t.valid) ++ zeros 1 ++ toLE 8 g.id.toNat
    ++ toLE 10 s.nt ++ zeros 6 ++ toLE 8 s.now ++ toLE 5 (twos t.rate 40) ++ zeros 3 ++ toLE 10 (twos t.offset 80) ++ zeros 6
    ++ toLE 4 (satTo 32 (t.lastO / 512)) ++ toLE 4 (satTo 32 (dmin / 512)) ++ toLE 4 (min (2 ^ 32 - 1) ((s.now - t.since) / 1000000)) ++ toLE 4 (satTo 32 (t.step / 65536))

/-- TIME_STATUS. -/
def execTimeStatus (m : Msg) (s : State) : Out := runMsg 0xA1 m s fun _ s => (some (.ok (timeStatus s)), s)

end Sys2Proof.Machine
end

