-- ==== Sys2Proof/Machine/Window.lean ====
section
/-! DEFINITION. Machine/Window.lean: the table window, segment locks, and the entries of PATH_HEALTH (R99, R100, R117 to R121, R131, R167, R259, R260, R323, R324, R391 to R397). -/
namespace Sys2Proof.Machine

/-! Segments (R391). -/

/-- What a 4 KiB segment of the window holds. -/
inductive Seg where
  | bitmap
  | group (bank : Nat)
  | leaf (bank : Nat)
  | pool
  | health
  | peals
  | shards
  | masks
  | mcast
  | prog
  | exc (bank : Nat)
  | member
  | reserved
  deriving DecidableEq, Repr

/-- The contents of segment g. -/
def segOf (g : Nat) : Seg :=
  if g < 2 then .bitmap
  else if g < 16 then .reserved
  else if g < 48 then .group (g / 16 - 1)
  else if g < 56 then .leaf (g / 4 - 12)
  else if g = 56 then .pool
  else if g < 64 then .reserved
  else if g < 96 then .health
  else if g < 160 then .peals
  else if g < 224 then .shards
  else if g < 352 then .masks
  else if g < 1024 then .reserved
  else if g < 2048 then .mcast
  else if g < 3072 then .prog
  else if g < 4096 then .reserved
  else if g < 8192 then .exc (g / 2048 - 2)
  else if g < 16384 then .reserved
  else if g < 32768 then .member
  else .reserved

/-- The segment can be locked. -/
def Seg.lockable : Seg → Bool
  | .bitmap | .peals | .shards | .masks | .reserved => false
  | _ => true

/-- The bank a segment belongs to, if it is one of two. -/
def Seg.bank : Seg → Option Nat
  | .group b | .leaf b | .exc b => some b
  | _ => none

/-- The segment of the active bank of ENDPOINT_EXCEPTION, where the FENCE edits of R131 are made. -/
def fenceSeg (s : State) (g : Nat) : Bool := segOf g == .exc (s.fabric.epoch % 2)

/-- A segment is locked. -/
def State.isLocked (s : State) (g : Nat) : Bool := s.mem.locked.contains g

/-- The segments a range touches. -/
def segsOf (a n : Nat) : List Nat := if n = 0 then [] else (List.range ((a + n - 1) / 4096 - a / 4096 + 1)).map (a / 4096 + ·)

/-! What the window shows. -/

/-- Admitted peals that name a program (R259). (DEDUCED, log entry 80). -/
def progUsers (s : State) (pid : Nat) : Nat := ((heldPeals s).filter fun q => dProgram q.desc == pid).length

/-- Bytes of the window that the part computes: the reservations of the pool table (R323) and USERS of the program directory (R259), by the
offset of their first byte and their length. -/
def computedAt (s : State) (a : Nat) : Option (Byte) :=
  if wPool + 32 ≤ a ∧ a < wPool + 224 then
    let p := (a - wPool - 32) / 32
    let f := (a - wPool - 32) % 32
    if 8 ≤ f ∧ f < 12 then some ((toLE 4 (reservedMib s p)).getD (f - 8) 0)
    else if 16 ≤ f then some ((toLE 4 (regionMib s p ((f - 16) / 4))).getD (f % 4) 0)
    else none
  else if wProg ≤ a ∧ a < wProg + 0x10000 then
    let f := (a - wProg) % 64
    if f = 12 ∨ f = 13 then some ((toLE 2 (progUsers s (0x100 + (a - wProg) / 64))).getD (f - 12) 0) else none
  else none

/-- A published byte as the host reads it. -/
def pubByte (s : State) (a : Nat) : Byte := (computedAt s a).getD (s.mem.tbl.read tblDefault a)

/-- A byte of the shard table (R270). -/
def shardByte (s : State) (k o : Nat) : Byte :=
  let sh := s.shard k
  if sh.st = .free then 0
  else
    let st : Nat := match sh.st with | .free => 0 | .loading => 1 | .ready => 2 | .bound => 3 | .lost => 4
    let d := setField (setField (setField sh.desc.toNat 28 3 st) 37 1 sh.live) 38 1 (b2n sh.pending)
    let d := setField (setField (setField d 192 12 (if sh.st = .bound then sh.peal else 0)) 256 64 sh.step.toNat) 320 64 sh.train.toNat
    BitVec.ofNat 8 (field d (8 * o) 8)

/-- A byte of the window as the host reads it: staging copies of locked segments, zero at reserved offsets and in BAD words. -/
def hostByte (s : State) (a : Nat) : Byte :=
  let g := a / 4096
  match segOf g with
  | .bitmap => BitVec.ofNat 8 (((List.range 8).filter fun i => s.isLocked (8 * a + i)).foldl (fun n i => n + 2 ^ i) 0)
  | .peals => let q := s.peal ((a - wPeal) / 64); if q.st = .free then 0 else BitVec.ofNat 8 (field q.desc.toNat (8 * ((a - wPeal) % 64)) 8)
  | .shards => shardByte s ((a - wShard) / 64) ((a - wShard) % 64)
  | .masks => BitVec.ofNat 8 (field (s.fabric.tags.look ((a - wMask) / 128) 0).toNat (8 * ((a - wMask) % 128)) 8)
  | .reserved => 0
  | _ => if s.isLocked g then s.mem.stg.read tblDefault a else if s.wordBad a 1 then 0 else pubByte s a

/-- Host reads of the window. -/
def hostView (s : State) (a n : Nat) : Bytes := (List.range n).map fun i => hostByte s (a + i)

/-! Locking (R392). -/

/-- BAD words of a range (R100). (DEDUCED, log entry 46). -/
def badWords (s : State) (a n : Nat) : List Nat := (s.fabric.replicas.filter fun e => e.2 % 16 == 15 && decide (a < e.1 + 8) && decide (e.1 < a + n)).map (·.1)

/-- The offsets of a segment whose bytes the part computes. (DEDUCED, log entry 69). -/
def computedIn (g : Nat) : List Nat :=
  match segOf g with
  | .pool => ((List.range 6).map fun p => ([8, 9, 10, 11] ++ (List.range 16).map (16 + ·)).map fun f => wPool + 32 + 32 * p + f).flatten
  | .prog => if g < 2064 then ((List.range 64).map fun e => [4096 * g + 64 * e + 12, 4096 * g + 64 * e + 13]).flatten else []
  | _ => []

/-- Copy a segment to its staging copy and lock it. What a word that failed in all four replicas holds is a free value. (DESIGN CHOICE, log entry 20). -/
def lockSeg (g : Nat) (s : State) : State :=
  let lo := 4096 * g
  let here := s.mem.tbl.filter fun e => decide (lo ≤ e.1) && decide (e.1 < lo + 4096)
  let stg := here.foldl (fun m e => Memory.write tblDefault m e.1 e.2) (s.mem.stg.clear lo 4096)
  let stg := (computedIn g).foldl (fun m a => Memory.write tblDefault m a (pubByte s a)) stg
  let s := s.modMem fun x => { x with stg := stg, locked := insertNat g x.locked }
  forAll (badWords s lo 4096) s fun s w =>
    let v := Config.lostWord s.free
    (s.modMem fun x => { x with stg := x.stg.writes tblDefault w (toLE 8 v.toNat) }).draw

/-! PATH_HEALTH (R117, R119 to R121). -/

/-- SCALE from the score and the timeouts (R120). -/
def rescale (pl : Plan) (w : Nat) : Nat :=
  setField w 0 5 (min 16 (max pl.scaleMin (16 - field w 16 16 / 2 ^ pl.scoreShift - 4 * field w 8 4)))

/-- One learned update of an entry. -/
def healthStep (pl : Plan) (d : Deferred) (w : Nat) : Nat :=
  match d with
  | .mark _ marks t => rescale pl (setField (setField w 16 16 (min 65535 (field w 16 16 + 64 * marks))) 32 32 (t / 1024))
  | .timeout _ t => rescale pl (setField (setField w 8 4 (min 15 (field w 8 4 + 1))) 32 32 (t / 1024))
  | .decay six =>
    let w := setField w 16 16 (field w 16 16 - field w 16 16 / 4)
    rescale pl (if six then setField w 8 4 (field w 8 4 - 1) else w)
  | .reset _ => 16
  | .fenced _ _ => w

/-- A published entry of PATH_HEALTH. -/
def healthWord (s : State) (e : Nat) : Nat := s.tblN (wHealth + 8 * e) 8

/-- Write a published entry. -/
def healthPut (e w : Nat) (s : State) : State := s.tblPut (wHealth + 8 * e) (toLE 8 w)

/-- The segment of an entry. -/
def healthSeg (e : Nat) : Nat := (wHealth + 8 * e) / 4096

/-- The entries that some listed byte of a memory range belongs to, ascending. -/
def listedIn (m : Memory) (lo n size : Nat) : List Nat :=
  (m.foldl (fun l e => if lo ≤ e.1 ∧ e.1 < lo + n ∧ l.head? ≠ some ((e.1 - lo) / size) then (e.1 - lo) / size :: l else l) []).reverse

/-- The entries of a segment of PATH_HEALTH that may differ from their reset values. -/
def healthListed (s : State) (g : Nat) : List Nat := (listedIn s.mem.tbl (4096 * g) 4096 8).map (512 * (g - 64) + ·)

/-- Defer a hardware write to a locked segment. -/
def deferTo (g : Nat) (d : Deferred) (s : State) : State := s.modMem fun x => { x with defer := x.defer.upd g [] fun l => l ++ [d] }

/-- One update of one entry, deferred while its segment is locked. (DEDUCED, log entry 49). -/
def healthUpdate (e : Nat) (d : Deferred) (s : State) : State :=
  if s.isLocked (healthSeg e) then deferTo (healthSeg e) d s else healthPut e (healthStep s.fabric.plan d (healthWord s e)) s

/-- A deferred write is applied to the published contents of its segment. -/
def applyOne (g : Nat) (d : Deferred) (s : State) : State :=
  match d with
  | .mark e _ _ | .timeout e _ | .reset e => healthPut e (healthStep s.fabric.plan d (healthWord s e)) s
  | .decay _ => forAll (healthListed s g) s fun s e => healthPut e (healthStep s.fabric.plan d (healthWord s e)) s
  | .fenced i v => s.tblPut (memberAddr i) (toLE 8 (setField (s.tblN (memberAddr i) 8) 23 1 (b2n v)))

/-- The writes deferred for a segment, in the order they fell. (DEDUCED, log entry 49). -/
def applyDeferred (g : Nat) (s : State) : State :=
  let ds := s.mem.defer.look g []
  let s := s.modMem fun x => { x with defer := x.defer.del g }
  forAll ds s fun s d => applyOne g d s

/-- What an entry will hold once everything deferred for it is applied. -/
def healthNow (s : State) (e : Nat) : Nat :=
  ((s.mem.defer.look (healthSeg e) []).filter fun d => match d with
    | .mark k _ _ | .timeout k _ | .reset k => k == e
    | .decay _ => true
    | .fenced _ _ => false).foldl (fun w d => healthStep s.fabric.plan d w) (healthWord s e)

/-! Unlocking (R131, R324, R393). -/

/-- Every field of a staged pool table keeps its rule (R323). -/
def poolOk (b : Bytes) : Bool :=
  let e (p f n : Nat) := le b (32 + 32 * p + f) n
  decide (8 ≤ byteAt b 0 ∧ byteAt b 0 ≤ 168) && byteAt b 1 == 16 && zeroAt b 2 30
    && ((List.range 6).all fun p => decide (1 ≤ e p 0 1) && e p 2 2 == 0 && e p 12 4 == 0 && (decide (p < 2) || e p 1 1 == 0))
    && decide (e 0 1 1 + e 1 1 1 ≤ 75) && decide (e 2 4 4 ≤ 256) && zeroAt b 224 3872

/-- An edit of an exception entry that R131 allows: ACTION moves between NONE and FENCE, and nothing else changes. -/
def fenceEdit (old new : Nat) : Bool := old == new || (decide (field old 0 3 ≤ 1) && decide (field new 0 3 ≤ 1) && old / 8 == new / 8)

/-- The entries of an exception segment that its staging copy changes, as (index in the segment, new word). -/
def excEdits (s : State) (g : Nat) : List (Nat × Nat × Nat) :=
  let l := (listedIn s.mem.tbl (4096 * g) 4096 8 ++ listedIn s.mem.stg (4096 * g) 4096 8).foldl (fun l x => insertNat x l) []
  (l.map fun x => (x, s.tblN (4096 * g + 8 * x) 8, leNat (s.mem.stg.reads tblDefault (4096 * g + 8 * x) 8))).filter fun e => e.2.1 != e.2.2

/-- The staging copy replaces the published contents; a BAD segment is good again (R100). (DEDUCED, log entry 45). -/
def publishSeg (g : Nat) (s : State) : State :=
  let lo := 4096 * g
  let here := s.mem.stg.filter fun e => decide (lo ≤ e.1) && decide (e.1 < lo + 4096)
  let s := s.modMem fun x => { x with tbl := here.foldl (fun m e => Memory.write tblDefault m e.1 e.2) (x.tbl.clear lo 4096) }
  s.modFabric fun f => { f with
    replicas := f.replicas.filter fun e => !(decide (lo ≤ e.1) && decide (e.1 < lo + 4096))
    badSegs := f.badSegs.filter (· != g) }

/-- The cached predictions of an exception segment are invalid (R103). -/
def dropCached (keep : Nat → CacheEnt → Bool) (s : State) : State :=
  { s with blocks := s.blocks.map fun e => (e.1, { e.2 with cache := e.2.cache.filter fun x => keep x.1 x.2 }) }

/-- A FENCE edit made while a table change is open goes to the other bank too (R131), in its staging copy as well when that segment is locked. -/
def fenceBoth (bank g : Nat) (edits : List (Nat × Nat × Nat)) (s : State) : State :=
  forAll edits s fun s e =>
    let a := 4096 * g + 8 * e.1 - wExc bank + wExc (1 - bank)
    let s := s.tblPut a (toLE 8 (setField (s.tblN a 8) 0 3 (field e.2.2 0 3)))
    if s.isLocked (a / 4096) then
      s.modMem fun x => { x with stg := x.stg.writes tblDefault a (toLE 8 (setField (leNat (x.stg.reads tblDefault a 8)) 0 3 (field e.2.2 0 3))) }
    else s

/-- The search for fenced members after an unlock (R188): FAs that now carry ACTION FENCE. A live round of a member is voided with cause 3; a
peal that is ADMITTED or VOIDED only has the bit set. (DEDUCED, log entry 57). -/
def searchFenced (fas : List Nat) (s : State) : State :=
  forAll s.peals.keys s fun s p =>
    let pl := s.peal p
    if fas.isEmpty || pl.st == .free || pl.st == .retiring then s
    else
      let ms := if roundLive pl then fas.filterMap pl.fas.look?
        else (List.range (dMembers pl.desc)).filter fun m => (let e := memberEnt s pl.desc m; mValid e && fas.contains (mFa e))
      let s := forAll ms s fun s m => setFenced pl.desc m s
      if ms.isEmpty then s else voidPeal [3] true ms.head? false p s

/-- The FAs that the edits of an exception segment newly fence. -/
def newlyFenced (b g : Nat) (edits : List (Nat × Nat × Nat)) : List Nat :=
  (edits.filter fun e => field e.2.1 0 3 != 1 && field e.2.2 0 3 == 1).map fun e => (4096 * g - wExc b) / 8 + e.1

/-- Unlock one segment and publish it, if the rule of its table lets it pass; answers whether it did. -/
def unlockSeg (g : Nat) (s : State) : Bool × State :=
  let bad := s.fabric.badSegs.contains g
  match segOf g with
  | .exc b =>
    let edits := excEdits s g
    let stale (s : State) : State := dropCached (fun i c => c.bank != b || (wExc b + 8 * (256 * c.tag + i)) / 4096 != g) s
    if b = s.fabric.epoch % 2 ∧ !bad ∧ !(edits.all fun e => fenceEdit e.2.1 e.2.2) then
      (false, postEvent 0x2002 (toLE 4 g) (bump 0x01 0 3 (stale s)))
    else
      let s := publishSeg g s
      let s := if b = s.fabric.epoch % 2 ∧ !bad ∧ s.fabric.open_ then fenceBoth b g edits s else s
      let s := stale s
      (true, if b = s.fabric.epoch % 2 then searchFenced (newlyFenced b g edits) s else s)
  | .pool =>
    if bad || poolOk (s.mem.stg.reads tblDefault (4096 * g) 4096) then (true, publishSeg g s)
    else (false, postEvent 0x4009 (toLE 4 g) (bump 0x20 0 6 s))
  | _ => (true, publishSeg g s)

/-- Clear the locks of segments, publishing their staging copies or not; answers the first that a rule refused. -/
def releaseSegs (publish : Bool) (segs : List Nat) (s : State) : Option Nat × State :=
  let held := segs.filter s.isLocked
  let bad := held.any s.fabric.badSegs.contains
  let (no, s) := held.foldl (fun (a : Option Nat × State) g =>
    let (ok, s) := if publish then unlockSeg g a.2 else (true, a.2)
    (if a.1.isNone && !ok then some g else a.1, s)) (none, s)
  let s := s.modMem fun x => { x with locked := x.locked.filter fun g => !held.contains g, stg := held.foldl (fun m g => m.clear (4096 * g) 4096) x.stg }
  let s := forAll held s fun s g => applyDeferred g s
  let s := if publish then s.modHost fun h => { h with shadow := { h.shadow with unlocked := h.shadow.unlocked ++ held.filter h.shadow.suspects.contains } } else s
  (no, if publish && bad then settle 9 s else s)

/-- Clear locks without publishing any host edit (R392). -/
def dropLocks (segs : List Nat) (s : State) : State := (releaseSegs false segs s).2

/-- Lock segments in ascending order up to the limit; answers how many the limit refused. -/
def lockSegs (segs : List Nat) (s : State) : Nat × State :=
  segs.foldl (fun (a : Nat × State) g =>
    if !(segOf g).lockable || a.2.isLocked g then a
    else if 4096 ≤ a.2.mem.locked.length then (a.1 + 1, bump 0x01 0 1 a.2)
    else (a.1, lockSeg g a.2)) (0, s)

/-! Dropped writes (R397). -/
def dropUnlocked : Nat := 0
def dropReadOnly : Nat := 1
def dropState : Nat := 2
def dropReserved : Nat := 3
def dropLockLimit : Nat := 4
def dropFeature : Nat := 5

/-- Count a CXL.mem write that is not applied; the first of each cause in each millisecond posts an event. -/
def cxlDrop (cause off : Nat) (s : State) : State :=
  let s := bump 0x01 0 (4 + cause) s
  let ms := s.now / 1000000 + 1
  if s.host.dropAt.look cause 0 = ms then s
  else postEvent 0x400B ([BitVec.ofNat 8 cause] ++ zeros 3 ++ toLE 8 off) (s.modHost fun h => { h with dropAt := h.dropAt.put cause ms })

/-- A write to the lock bitmap: bits to set and bits to clear. In SAFE_MONITOR and DAMPED only the segments of R131's FENCE edits take part
(R449). `cxl` says that the write came by CXL.mem. -/
def writeBits (cxl : Bool) (off : Nat) (set clr : List Nat) (s : State) : State :=
  let ok (g : Nat) := !restricted s || fenceSeg s g
  let set := set.filter fun g => !s.isLocked g
  let clr := clr.filter s.isLocked
  let s := if cxl && !((set ++ clr).all ok) then cxlDrop dropState off s else s
  let s := (releaseSegs true (clr.filter ok) s).2
  let (beyond, s) := lockSegs (set.filter ok) s
  if cxl && decide (0 < beyond) then cxlDrop dropLockLimit off s else s

/-- The bits that bytes written to the bitmap set and clear. -/
def bitsOf (off : Nat) (data : Bytes) : List Nat × List Nat :=
  let all := ((data.mapIdx fun i b => (List.range 8).map fun k => (8 * (off + i) + k, b.getLsbD k))).flatten
  ((all.filter (·.2)).map (·.1), (all.filter (!·.2)).map (·.1))

/-! Write-time rules (R128, R167, R260). -/

/-- Bits of a byte of the window that a host write can change; the part's own values, and reserved bits that read as zero, keep theirs. -/
def writable (a : Nat) : Nat :=
  match segOf (a / 4096) with
  | .pool =>
    let o := a - wPool
    if o = 1 then 0
    else if 32 ≤ o ∧ o < 224 then
      let f := (o - 32) % 32
      if (4 ≤ f ∧ f < 8 ∧ 160 ≤ o) ∨ (8 ≤ f ∧ f < 12) ∨ 16 ≤ f then 0 else 255
    else 255
  | .health => match a % 8 with | 0 => 31 | 1 => 15 | _ => 255
  | .mcast => match a % 64 with | 0 => 3 | 1 => 0 | 3 => 15 | 4 | 5 | 6 | 7 => 0 | f => if 48 ≤ f then 0 else 255
  | .prog => if a < wProg + 0x10000 then (match a % 64 with | 2 => 3 | 4 => 255 | 5 => 127 | 8 | 9 | 10 | 11 => 255 | _ => 0) else 255
  | .member => if a % 8 < 3 then 255 else 0
  | _ => 255

/-- The image segments of an entry that is in SUBMIT or ADMITTED hold segment g. -/
def imageHeld (s : State) (g : Nat) : Bool :=
  (listedIn s.mem.tbl wProg 0x10000 64).any fun e =>
    let d := dirEnt s (0x100 + e)
    let st := field d 16 2
    (st == 1 || st == 2) && decide (2048 + field d 32 10 ≤ g) && decide (g < 2048 + field d 32 10 + field d 42 5)

/-- The peal that holds a member segment. -/
def memberHolder (s : State) (g : Nat) : Option Peal :=
  (heldPeals s).find? fun q => decide (dMemberBase q.desc / 512 ≤ g - 16384) && decide (g - 16384 < dMemberBase q.desc / 512 + ceilDiv (dMembers q.desc) 512)

/-- The write-time rule of a locked segment: none, or whether the USER_PROGRAMS feature is what is missing. (DEDUCED, log entry 45). -/
def writeRule (s : State) (g : Nat) : Option Bool :=
  if s.fabric.badSegs.contains g then none
  else
    match segOf g with
    | .group b | .leaf b => need (b != s.fabric.epoch % 2 && s.fabric.open_) false
    | .exc b => need (b == s.fabric.epoch % 2 || s.fabric.open_) false
    | .member => match memberHolder s g with | some q => need (q.st == .admitted || q.st == .voided) false | none => some false
    | .prog => if !s.host.features.getLsbD 13 then some true else need (!imageHeld s g) false
    | _ => none

/-- A directory entry as a write would leave it: the old bytes, the bytes wanted, and whether a field was refused (R260). -/
def dirEdit (s : State) (pid : Nat) (old new : Bytes) : Bytes × Bool :=
  let st := progState s pid
  let want := field (byteAt new 2) 0 2
  let stOk := want == st || (if st == 1 || st == 2 then want == 0 && progUsers s pid == 0 else decide (want ≤ 1))
  let fixed := (st == 1 || st == 2) && (new.drop 4).take 8 != (old.drop 4).take 8
  let r := if fixed then putBytes new 4 ((old.drop 4).take 8) else new
  (if stOk then r else putBytes r 2 [old.getD 2 0], fixed || !stOk)

/-- What a write leaves in the staging copy from an offset on, within one segment, and whether an edit of the program directory is refused. -/
def stagedEdit (s : State) (a : Nat) (data : Bytes) : Nat × Bytes × Bool :=
  let mask (a : Nat) (b : Byte) : Byte := BitVec.ofNat 8 ((b.toNat &&& writable a) ||| ((s.mem.stg.read tblDefault a).toNat &&& (255 - writable a)))
  let data := data.mapIdx fun i b => mask (a + i) b
  if segOf (a / 4096) = .prog ∧ a < wProg + 0x10000 ∧ !s.fabric.badSegs.contains (a / 4096) then
    let lo := a - a % 64
    let n := ceilDiv (a % 64 + data.length) 64
    let old := s.mem.stg.reads tblDefault lo (64 * n)
    let new := putBytes old (a % 64) data
    let es := (List.range n).map fun k => dirEdit s (0x100 + (lo - wProg) / 64 + k) ((old.drop (64 * k)).take 64) ((new.drop (64 * k)).take 64)
    (lo, (es.map (·.1)).flatten, es.any (·.2))
  else (a, data, false)

/-- Put bytes into the staging copies. -/
def putStaged (a : Nat) (b : Bytes) (s : State) : State := s.modMem fun x => { x with stg := x.stg.writes tblDefault a b }

/-- The pieces of a range by segment: offset and bytes. -/
def piecesOf (a : Nat) (data : Bytes) : List (Nat × Bytes) :=
  (segsOf a data.length).map fun g =>
    let lo := max a (4096 * g)
    (lo, (data.drop (lo - a)).take (4096 * (g + 1) - lo))

/-- A CXL.mem write of one piece. -/
def cxlPiece (a : Nat) (b : Bytes) (s : State) : State :=
  let g := a / 4096
  match segOf g with
  | .bitmap => let (set, clr) := bitsOf a b; writeBits true a set clr s
  | .reserved => cxlDrop dropReserved a s
  | .peals | .shards | .masks => cxlDrop dropReadOnly a s
  | _ =>
    if restricted s && !fenceSeg s g then cxlDrop dropState a s
    else if !s.isLocked g then cxlDrop dropUnlocked a s
    else
      match writeRule s g with
      | some feat => cxlDrop (if feat then dropFeature else dropState) a s
      | none =>
        let (lo, out, no) := stagedEdit s a b
        let s := putStaged lo out s
        if no then cxlDrop dropState a s else s

/-- CXL.mem reaches the part. -/
def cxlMem (s : State) : Bool := s.host.cxlUp && !s.chip.inReset

/-- CXL.mem writes need CXL_MEM_WINDOWS (R394). -/
def cxlFeature (s : State) : Bool := s.host.features.getLsbD 8

/-- A CXL.mem write. -/
def execCxlMemWrite (win : Window) (off : Nat) (data : Bytes) (s : State) : Out :=
  .next <|
    if !cxlMem s then s
    else if !cxlFeature s then cxlDrop dropFeature off s
    else
      match win with
      | .snapshot => cxlDrop dropReadOnly off s
      | .table => forAll (piecesOf off data) s fun s p => cxlPiece p.1 p.2 s

/-- Bits of the lock bitmap are written 1, the others left as they are. -/
def execSegmentLock (segs : List Nat) (s : State) : Out :=
  .next <|
    if !cxlMem s then s
    else if !cxlFeature s then cxlDrop dropFeature (segs.headD 0 / 8) s
    else writeBits true (segs.headD 0 / 8) (segs.foldl (fun l g => insertNat g l) []) [] s

/-- Bits of the lock bitmap are written 0, the others left as they are: everything unlocked is published at one cut. -/
def execSegmentUnlock (segs : List Nat) (s : State) : Out :=
  .next <|
    if !cxlMem s then s
    else if !cxlFeature s then cxlDrop dropFeature (segs.headD 0 / 8) s
    else writeBits true (segs.headD 0 / 8) [] (segs.foldl (fun l g => insertNat g l) []) s

/-! TABLE_ACCESS (R395). -/

/-- Its response, which comes with every status. (DEDUCED, log entry 119). -/
def accessReply (status detail n first : Nat) : Reply := { status := status, detail := detail, body := toLE 4 n ++ toLE 4 first, always := true }

/-- No segment failed. -/
def noSeg : Nat := 0xFFFFFFFF

/-- The checks of the body common to every ACTION. -/
def accessCheck (b : Bytes) : Option Reply :=
  let rw := byteAt b 0 ≤ 1
  let len := le b 4 4
  let off := le b 8 8
  let host := le b 16 8
  firstOf [
    need (decide (off % (if rw then 8 else 4096) = 0 ∧ off < 0x10000000)) (accessReply eRange 8 0 noSeg),
    need (decide (len % (if rw then 8 else 4096) = 0 ∧ (¬rw ∨ len ≤ 16777216) ∧ off + len ≤ 0x10000000)) (accessReply eRange 4 0 noSeg),
    need (if rw then host % 64 == 0 else host == 0) (accessReply eRange 16 0 noSeg),
    need (decide (byteAt b 0 ≤ 4)) (accessReply eRange 0 0 noSeg),
    need (zeroAt b 1 3) (accessReply eRange 1 0 noSeg)]

/-- Run one ACTION of TABLE_ACCESS behind the common checks and the limit of R449. (DEDUCED, log entry 119). -/
def tableAccess (action : Nat) (m : Msg) (s : State) (f : Nat → Nat → Nat → List Nat → State → Reply × State) : Out :=
  runMsg 0x33 m s fun b s =>
    let b := withAction 0 action b
    match accessCheck b with
    | some r => (some r, s)
    | none =>
      let segs := segsOf (le b 8 8) (le b 4 4)
      match (if action ≠ 0 ∧ restricted s then segs.find? fun g => !fenceSeg s g else none) with
      | some g => (some (accessReply eState 0 0 g), s)
      | none => let (r, s) := f (le b 8 8) (le b 4 4) (le b 16 8) segs s; (some r, s)

/-- READ. -/
def execTableAccessRead (m : Msg) (s : State) : Out :=
  tableAccess 0 m s fun off len host segs s =>
    if decide (0 < len) && s.dmaBad host len then (accessReply eRange 0xFFFD 0 noSeg, s)
    else
      let bad := segs.find? fun g => !(badWords s (max off (4096 * g)) (min (off + len) (4096 * (g + 1)) - max off (4096 * g))).isEmpty && !s.isLocked g
      (accessReply eOk 0 len (bad.getD noSeg), s.hostWrite host (hostView s off len))

/-- Why a WRITE cannot touch a segment: status and detail. -/
def writeRefusal (s : State) (g : Nat) : Option (Nat × Nat) :=
  match segOf g with
  | .bitmap => none
  | .reserved | .peals | .shards | .masks => some (eRange, 0xFFFF)
  | _ =>
    if !s.isLocked g then some (eLocked, 0)
    else match writeRule s g with | some true => some (eFeature, 0) | some false => some (eState, 0) | none => none

/-- The mailbox path refuses what the CXL.mem path would drop or reject later: edits of the program directory, and edits of the active exception
bank other than FENCE edits (R131, R260). -/
def editRefused (s : State) (a : Nat) (b : Bytes) : Bool :=
  let g := a / 4096
  if (stagedEdit s a b).2.2 then true
  else if fenceSeg s g && !s.fabric.badSegs.contains g then
    let lo := a - a % 8
    let n := ceilDiv (a % 8 + b.length) 8
    let new := putBytes (s.mem.stg.reads tblDefault lo (8 * n)) (a % 8) b
    !((List.range n).all fun k => fenceEdit (s.tblN (lo + 8 * k) 8) (le new (8 * k) 8))
  else false

/-- WRITE: checked whole before any byte lands. -/
def execTableAccessWrite (m : Msg) (s : State) : Out :=
  tableAccess 1 m s fun off len host segs s =>
    match segs.findSome? fun g => (writeRefusal s g).map fun r => (g, r) with
    | some (g, st, det) => (accessReply st det 0 g, s)
    | none =>
      if decide (0 < len) && s.dmaBad host len then (accessReply eRange 0xFFFE 0 noSeg, s)
      else
        let ps := piecesOf off (s.hostRead host len)
        match ps.find? fun p => segOf (p.1 / 4096) != .bitmap && editRefused s p.1 p.2 with
        | some p => (accessReply eState 0 0 (p.1 / 4096), s)
        | none =>
          let s := forAll ps s fun s p =>
            if segOf (p.1 / 4096) = .bitmap then
              let (set, clr) := bitsOf p.1 p.2
              writeBits false p.1 set clr s
            else let (lo, out, _) := stagedEdit s p.1 p.2; putStaged lo out s
          (accessReply eOk 0 len noSeg, s)

/-- LOCK: all or nothing. -/
def execTableAccessLock (m : Msg) (s : State) : Out :=
  tableAccess 2 m s fun _ _ _ segs s =>
    match segs.find? fun g => !(segOf g).lockable with
    | some g => (accessReply eRange 0xFFFF 0 g, s)
    | none =>
      let new := segs.filter fun g => !s.isLocked g
      if 4096 < s.mem.locked.length + new.length then (accessReply eBusy 0 0 (new.getD (4096 - s.mem.locked.length) noSeg), s)
      else (accessReply eOk 0 new.length noSeg, forAll new s fun s g => lockSeg g s)

/-- UNLOCK: publishes the whole range at one cut. -/
def execTableAccessUnlock (m : Msg) (s : State) : Out :=
  tableAccess 3 m s fun _ _ _ segs s =>
    let n := (segs.filter s.isLocked).length
    let (no, s) := releaseSegs true segs s
    (accessReply eOk 0 n (no.getD noSeg), s)

/-- DISCARD: clears the locks without publishing. -/
def execTableAccessDiscard (m : Msg) (s : State) : Out :=
  tableAccess 4 m s fun _ _ _ segs s =>
    let n := (segs.filter s.isLocked).length
    (accessReply eOk 0 n noSeg, dropLocks segs s)

end Sys2Proof.Machine
end

