-- ==== Sys2Proof/Machine/Checker.lean ====
section
/-! DEFINITION. Machine/Checker.lean: the checker of user programs (R261 to R265) and what it leaves in the program directory (R260). -/
namespace Sys2Proof.Machine

/-- An image as the checker reads it: its header bytes and its code words. -/
structure Img where
  hdr  : Bytes
  code : Array Nat
  deriving Inhabited

/-- A header field. -/
def Img.n (m : Img) (off n : Nat) : Nat := le m.hdr off n

/-- CODE_WORDS. -/
def Img.words (m : Img) : Nat := m.n 56 4

/-- The image's length in bytes: header, code rounded up, constant pool (R261). -/
def Img.len (m : Img) : Nat := ceilDiv (128 + 4 * m.words) 128 * 128 + m.n 12 4

/-- ENTRY[e], none when absent. -/
def Img.entry (m : Img) (e : Nat) : Option Nat := let x := m.n (16 + 4 * e) 4; if x = 0xFFFFFFFF then none else some x

/-- The code of an entry point: up to the next higher ENTRY index, or to CODE_WORDS (R261). -/
def Img.span (m : Img) (e : Nat) : Nat × Nat :=
  match m.entry e with
  | none => (0, 0)
  | some a => (a, minOf m.words ((List.range 4).filterMap fun k => (m.entry k).bind fun b => if a < b then some b else none))

/-- The loops listed: branch index and BOUND. -/
def Img.loops (m : Img) : List (Nat × Nat) := (List.range (m.n 60 2)).map fun k => (field (m.n (64 + 4 * k) 4) 0 13, field (m.n (64 + 4 * k) 4) 16 16)

/-- Word i. -/
def Img.word (m : Img) (i : Nat) : Nat := m.code.getD i 0

/-- IMM as a signed offset. -/
def wImm (w : Nat) : Int := signed (field w 0 10) 10

/-- BR or BRP. -/
def isBranch (w : Nat) : Bool := wOp w == 0x38 || wOp w == 0x39

/-- The target of a branch at i. -/
def branchTo (i w : Nat) : Int := (i : Int) + 1 + wImm w

/-- A backward branch (R262). -/
def isBackward (i w : Nat) : Bool := isBranch w && decide (branchTo i w ≤ (i : Int))

/-! Reasons 1 to 6. -/

/-- The first header field out of range: its offset. -/
def headerFail (m : Img) (pid segs : Nat) : Option Nat :=
  let bad (ok : Bool) (off : Nat) : Option Nat := need ok off
  firstOf [bad (m.n 0 2 == pid) 0, bad (field (m.n 4 1) 6 2 == 0) 4, bad (field (m.n 5 1) 5 3 == 0) 5, bad (m.n 6 2 == 0) 6,
    bad (m.n 8 4 % 128 == 0 && decide (m.n 8 4 ≤ 67108864)) 8, bad (m.n 12 4 % 4 == 0 && decide (m.n 12 4 ≤ 4096)) 12,
    (List.range 4).findSome? fun e => bad (match m.entry e with | some a => decide (a < m.words) | none => true) (16 + 4 * e),
    bad (decide (1 ≤ m.words ∧ m.words ≤ 8192)) 56, bad (decide (m.n 60 2 ≤ 16)) 60, bad (m.n 62 2 == 0) 62,
    (List.range (min 16 (m.n 60 2))).findSome? fun k => bad (field (m.n (64 + 4 * k) 4) 13 3 == 0 && field (m.n (64 + 4 * k) 4) 16 16 != 0) (64 + 4 * k),
    bad (decide (1 ≤ segs ∧ segs ≤ 16) && decide (m.len ≤ 4096 * segs)) 56]

/-- The windows a memory instruction's opcode may name (R243), the first standing for all in the check of its other fields. -/
def opWindows (op : Nat) : List Nat :=
  match op with | 0x01 => [2, 3, 6, 7] | 0x02 => [0, 1] | 0x03 => [1] | 0x04 => [4, 5] | 0x05 => [4] | _ => []

/-- The word with a window its opcode may name. -/
def wordKnownWin (w : Nat) : Nat := match opWindows (wOp w) with | [] => w | x :: _ => setField w 7 3 x

/-- A word fails with reason 5 or 6. -/
def wordFails (reason w : Nat) : Bool :=
  let w := wordKnownWin w
  let f := wFields w
  match wClasses (wOp w) f.imm.toNat with
  | none => reason == 5
  | some (d, a, b, c) =>
    [need (!(wOp w == 0x39 && f.d.toNat == 3)) 5, clsCheck d f.d.toNat, clsCheck a f.a.toNat, clsCheck b f.b.toNat, clsCheck c f.c.toNat].contains (some reason)

/-- The first index in a range where a condition holds, as an image offset. -/
def wordAt (lo hi : Nat) (f : Nat → Bool) : Option Nat := ((List.range (hi - lo)).find? fun k => f (lo + k)).map fun k => 128 + 4 * (lo + k)

/-! Reasons 7 to 9. -/

/-- For the entry points present: their numbers and spans. -/
def Img.spans (m : Img) : List (Nat × Nat × Nat) := ((List.range 4).filter fun e => (m.entry e).isSome).map fun e => (e, m.span e)

/-- A branch leaves its entry point's code. -/
def branchFail (m : Img) : Option Nat :=
  m.spans.findSome? fun x => wordAt x.2.1 x.2.2 fun i => isBranch (m.word i) && (decide (branchTo i (m.word i) < x.2.1) || decide ((x.2.2 : Int) ≤ branchTo i (m.word i)))

/-- Every loop of the code as (target, branch, BOUND). -/
def Img.loopRanges (m : Img) : List (Nat × Nat × Nat) :=
  (((List.range m.words).filter fun i => isBackward i (m.word i)).map fun i => ((branchTo i (m.word i)).toNat, i, ((m.loops.find? fun l => l.1 == i).map (·.2)).getD 0))

/-- Reason 8. -/
def loopFail (m : Img) : Option Nat :=
  let ls := m.loopRanges
  let meet (a b : Nat × Nat × Nat) : Bool := decide (a.1 ≤ b.2.1) && decide (b.1 ≤ a.2.1)
  let inside (a b : Nat × Nat × Nat) : Bool := decide (b.1 ≤ a.1) && decide (a.2.1 ≤ b.2.1)
  firstOf [
    (ls.find? fun l => !(m.loops.any fun x => x.1 == l.2.1)).map fun l => 128 + 4 * l.2.1,
    (List.range m.loops.length).findSome? fun k => need (isBackward (m.loops.getD k (0, 0)).1 (m.word (m.loops.getD k (0, 0)).1) && decide ((m.loops.getD k (0, 0)).1 < m.words)) (64 + 4 * k),
    (ls.find? fun a => ls.any fun b => meet a b && !inside a b && !inside b a).map fun a => 128 + 4 * a.2.1,
    (ls.find? fun a => decide (4 < (ls.filter fun b => inside a b).length)).map fun a => 128 + 4 * a.2.1]

/-- Where control can go from index i: the next index and its further cost, in the order fall-through, branch. -/
def nexts (i w : Nat) : List (Nat × Nat) :=
  match wOp w with
  | 0x38 => [((branchTo i w).toNat, 2)]
  | 0x39 => [(i + 1, 0), ((branchTo i w).toNat, 2)]
  | 0x3C | 0x3D => []
  | _ => [(i + 1, 0)]

/-- The indices reachable from a list of indices within [lo, hi). -/
def reach (m : Img) (lo hi : Nat) : Nat → List Nat → List Nat → List Nat
  | 0, seen, _ => seen
  | n + 1, seen, todo =>
    match todo with
    | [] => seen
    | i :: rest =>
      if seen.contains i || decide (i < lo) || decide (hi ≤ i) then reach m lo hi n seen rest
      else reach m lo hi n (i :: seen) ((nexts i (m.word i)).map (·.1) ++ rest)

/-- The reachable code of an entry point, ascending. -/
def Img.live (m : Img) (e : Nat) : List Nat :=
  let (lo, hi) := m.span e
  let r := reach m lo hi (3 * (hi - lo) + 3) [] [lo]
  ((List.range (hi - lo)).map (lo + ·)).filter r.contains

/-- Reason 9. -/
def pathFail (m : Img) : Option Nat :=
  m.spans.findSome? fun x => ((m.live x.1).find? fun i => (nexts i (m.word i)).any fun n => decide (x.2.2 ≤ n.1)).map fun i => 128 + 4 * i

/-! Reasons 10 to 12. -/

/-- An instruction is allowed at index i of an entry point (R264). -/
def handlerOk (kinds e start i w : Nat) : Bool :=
  let imm := field w 0 10
  let win := field w 7 3
  let only5 := kinds == 0x20
  match wOp w with
  | 0x0A => if field imm 8 2 = 0 then e == 0 && i == start else e == 0
  | 0x0B => e == 0
  | 0x0D => e == 1
  | 0x02 => if win = 0 then e == 1 else if win = 1 then e == 2 || e == 3 else true
  | 0x03 => if field imm 0 4 = 0 then e == 3 else decide (e ≤ 1)
  | 0x01 => if win = 6 then e == 0 else if win = 7 then e == 2 else true
  | 0x3A => imm == 0 || e == 2
  | 0x09 => e == 2
  | 0x04 | 0x05 => (e == 1 || e == 2) && only5
  | 0x08 => (e == 1 && !bit kinds 5) || (e == 2 && only5)
  | 0x3C => decide (e ≤ 2)
  | _ => true

/-- Reason 10. -/
def handlerFail (m : Img) : Option Nat :=
  m.spans.findSome? fun x => wordAt x.2.1 x.2.2 fun i => !handlerOk (m.n 4 1) x.1 x.2.1 i (m.word i) || (x.1 == 1 && i == x.2.1 && wOp (m.word i) != 0x0D)

/-- What is known of the S registers before an instruction: the value of each where it is the same on every path. -/
abbrev Known := List (Option Nat)

/-- The S registers a word writes. -/
def writesS (w : Nat) : List Nat :=
  let f := wFields w
  match wClasses (wOp w) f.imm.toNat with
  | some (.s, _, _, _) => if wOp w = 0x09 then [] else [f.d.toNat]
  | _ => if wOp w = 0x0C ∨ wOp w = 0x2D then [f.c.toNat] else []

/-- What is known after a word: LDI gives a constant and MOV of S to S carries one. -/
def knownAfter (w : Nat) (k : Known) : Known :=
  let f := wFields w
  let v : Option Nat :=
    if wOp w = 0x06 then some (twos (wImm w) 32)
    else if wOp w = 0x07 ∧ field w 6 4 = 3 then k.getD f.a.toNat none
    else none
  k.mapIdx fun i x => if (writesS w).contains i then v else x

/-- What holds on both of two paths. -/
def knownMeet (a b : Known) : Known := List.zipWith (fun x y => if x = y then x else none) a b

/-- One pass over an entry point's code: what is known before each instruction. -/
def knownPass (m : Img) (is : List Nat) (t : Tbl Known) : Tbl Known :=
  is.foldl (fun t i =>
    match t.look? i with
    | none => t
    | some k =>
      let out := knownAfter (m.word i) k
      (nexts i (m.word i)).foldl (fun t n => t.put n.1 (match t.look? n.1 with | some old => knownMeet old out | none => out)) t) t

/-- Passes until nothing changes. -/
def knownFix (m : Img) (is : List Nat) : Nat → Tbl Known → Tbl Known
  | 0, t => t
  | n + 1, t => let t' := knownPass m is t; if t' = t then t else knownFix m is n t'

/-- The size of a window that is known to the checker, and of an access with SIZE. -/
def windowSize (m : Img) (win : Nat) : Option Nat :=
  match win with | 1 => some (m.n 8 4) | 2 => some (m.n 12 4) | 3 => some 256 | 6 => some 64 | 7 => some 4096 | _ => none

/-- A memory instruction with a known offset falls outside its window. An ACC access takes its width from the peal: one that
falls outside at the narrower width falls outside at both. -/
def outside (m : Img) (w : Nat) (k : Known) : Bool :=
  match windowSize m (field w 7 3), k.getD (wFields w).a.toNat none with
  | some n, some off => decide (n < off + sizeBytes (field w 5 2) 64)
  | _, _ => false

/-- Reason 11. -/
def windowFail (m : Img) : Option Nat :=
  m.spans.findSome? fun x =>
    let is := m.live x.1
    let known := knownFix m is (17 * is.length) [(x.2.1, List.replicate 16 (some 0))]
    wordAt x.2.1 x.2.2 fun i =>
      let w := m.word i
      !(opWindows (wOp w)).isEmpty && (!(opWindows (wOp w)).contains (field w 7 3) || (match known.look? i with | some k => outside m w k | none => false))

/-- Reason 12. -/
def contextFail (m : Img) : Option Nat :=
  m.spans.findSome? fun x => wordAt x.2.1 x.2.2 fun i => let w := m.word i; wOp w == 0x07 && field w 6 4 == 10 && !ctxOk x.1 (m.n 4 1 == 0x20) (field w 0 5)

/-! Reason 13: the worst case (R265). -/

/-- The cost of a word in ops (R247 to R252, R265). -/
def wordOps (w : Nat) : Nat :=
  let classA := if field w 8 2 = 2 then 3 else 1
  match wOp w with
  | 0x01 => 3 | 0x02 => 6 | 0x07 => if field w 6 4 = 10 then 2 else 1 | 0x0A => 4 | 0x0B => 4 | 0x0C => 6 | 0x0D => 6 | 0x0E => 5
  | 0x10 => 4 | 0x11 => 4 | 0x12 => 4 | 0x13 => 5 | 0x14 => 2 | 0x15 => 2 | 0x16 => 14 | 0x17 => 14 | 0x18 => 16 | 0x19 => 3 | 0x1A => 2 | 0x1B => 2 | 0x1C => 3
  | 0x20 => classA | 0x21 => classA | 0x22 => classA | 0x23 => classA | 0x24 => classA | 0x25 => classA | 0x26 => classA | 0x27 => classA | 0x28 => classA | 0x29 => classA
  | 0x2C => 3 | 0x2D => 5 | 0x2E => 3 | 0x30 => 2 | 0x3A => if field w 0 10 = 0 then 16 else 1
  | _ => 1

/-- LDM and STM count one in WC_MEM. -/
def wordMem (w : Nat) : Nat := if wOp w = 0x04 ∨ wOp w = 0x05 then 1 else 0

/-- A loop with the cost of one pass of its body: target, branch, BOUND, cost of all passes but the last. -/
structure LoopCost where
  lo    : Nat
  hi    : Nat
  extra : Nat
  deriving Repr, DecidableEq

/-- What entering loops costs on an edge: every pass but the last of each loop it enters. -/
def enterCost (ls : List LoopCost) (src : Int) (dst : Nat) : Nat :=
  ls.foldl (fun n l => if src < l.lo ∧ l.lo ≤ dst ∧ dst ≤ l.hi then n + l.extra else n) 0

/-- Longest paths by forward edges, from the highest index down: `cost` of a word, `jump` added on a taken branch, `ends` says where a path may
end. An index from which no path ends has no entry. -/
def longest (m : Img) (cost : Nat → Nat) (jump : Nat) (ls : List LoopCost) (ends : Nat → Bool) (is : List Nat) : Tbl Nat :=
  is.reverse.foldl (fun t i =>
    let w := m.word i
    let via := (nexts i w).filterMap fun n => if n.1 ≤ i then none else (t.look? n.1).map fun c => c + enterCost ls i n.1 + (if n.2 = 0 then 0 else jump)
    let opts := if ends i then 0 :: via else via
    match opts with
    | [] => t
    | x :: r => t.put i (cost w + r.foldl max x)) []

/-- The loops of an entry point with their costs, the innermost first. -/
def loopCosts (m : Img) (cost : Nat → Nat) (jump : Nat) (is : List Nat) : List LoopCost :=
  let mine := m.loopRanges.filter fun l => is.contains l.2.1
  let byLen := (List.range (m.words + 1)).map fun n => mine.filter fun l => l.2.1 - l.1 == n
  byLen.flatten.foldl (fun ls l =>
    let inner := ls.filter fun x => decide (l.1 ≤ x.lo) && decide (x.hi ≤ l.2.1)
    let body := is.filter fun i => decide (l.1 ≤ i) && decide (i ≤ l.2.1)
    let t := longest m cost jump inner (fun i => i == l.2.1) body
    let pass := (t.look l.1 0) + enterCost inner ((l.1 : Int) - 1) l.1
    ls ++ [{ lo := l.1, hi := l.2.1, extra := l.2.2 * (pass + jump) }]) []

/-- The worst case of an entry point in a measure (R265). A path ends at END or VOID, or at a branch that only ever goes back, whose BOUND is then
its end. -/
def worst (m : Img) (cost : Nat → Nat) (jump : Nat) (e : Nat) : Nat :=
  let is := m.live e
  let ls := loopCosts m cost jump is
  let lo := (m.span e).1
  let t := longest m cost jump ls (fun i => (nexts i (m.word i)).all fun n => decide (n.1 ≤ i)) is
  t.look lo 0 + enterCost ls ((lo : Int) - 1) lo

/-- ON_CONTRIB is the fast path: ACCX CELL, END (R236). -/
def imgFast (m : Img) : Bool := match m.entry 0 with | some a => wOp (m.word a) == 0x0A && field (m.word a) 8 2 == 0 && wOp (m.word (a + 1)) == 0x3D | none => false

/-- The computed WC_OPS and WC_MEM of an entry point; zero where absent. The fast path takes one op and no dispatch. -/
def wcOf (m : Img) (e : Nat) : Nat × Nat :=
  if (m.entry e).isNone then (0, 0)
  else if e = 0 ∧ imgFast m then (1, 0)
  else (worst m wordOps 2 e + 2, worst m wordMem 0 e)

/-- The limits of R265. (DEDUCED, log entry 148). -/
def wcLimit (e : Nat) : Nat × Nat := match e with | 0 => (256, 0) | 1 => (65536, 1024) | 2 => (1048576, 4096) | _ => (65536, 0)

/-- Reason 13. (DEDUCED, log entry 148). -/
def wcFail (m : Img) : Option Nat :=
  (List.range 4).findSome? fun e =>
    let (ops, mem) := wcOf m e
    let dOps := m.n (32 + 4 * e) 4
    let dMem := m.n (48 + 2 * e) 2
    firstOf [need (decide (ops ≤ dOps) && decide (dOps ≤ (wcLimit e).1)) (32 + 4 * e), need (decide (mem ≤ dMem) && decide (dMem ≤ (wcLimit e).2)) (48 + 2 * e)]

/-! The verdict (R263). -/

/-- The image of a program. -/
def imageOf (s : State) (pid : Nat) : Img :=
  let hdr := s.tbl (imageAddr s pid) 128
  { hdr := hdr, code := ((List.range (min 8192 (le hdr 56 4))).map (codeWord s pid)).toArray }

/-- Another entry in SUBMIT or ADMITTED uses one of the image's segments. -/
def imagesMeet (s : State) (pid : Nat) : Bool :=
  let d := dirEnt s pid
  (listedIn s.mem.tbl wProg 0x10000 64).any fun e =>
    let x := dirEnt s (0x100 + e)
    0x100 + e != pid && (field x 16 2 == 1 || field x 16 2 == 2) && rangesMeet (field d 32 10) (field d 42 5) (field x 32 10) (field x 42 5)
where
  /-- Two ranges overlap. -/
  rangesMeet (a n b k : Nat) : Bool := decide (a < b + k) && decide (b < a + n)

/-- The checker's verdict on a program: the first reason that applies with its offset, or none. (DEDUCED, log entry 79). -/
def checkProgram (s : State) (pid : Nat) : Option (Nat × Nat) :=
  let d := dirEnt s pid
  let seg := field d 32 10
  let m := imageOf s pid
  let as (r : Nat) (o : Option Nat) : Option (Nat × Nat) := o.map fun x => (r, x)
  match as 1 (if 16 ≤ seg ∧ seg + field d 42 5 ≤ 1024 then headerFail m pid (field d 42 5) else some 0) with
  | some x => some x
  | none =>
    firstOf [
      as 2 (need (crc32c (s.tbl (imageAddr s pid) m.len) == field d 64 32) 0),
      as 3 (need (!imagesMeet s pid) 0),
      as 4 (need (m.n 2 2 == libMajor s) 2),
      as 5 (wordAt 0 m.words fun i => wordFails 5 (m.word i)),
      as 6 (wordAt 0 m.words fun i => wordFails 6 (m.word i)),
      as 7 (branchFail m), as 8 (loopFail m), as 9 (pathFail m), as 10 (handlerFail m), as 11 (windowFail m), as 12 (contextFail m), as 13 (wcFail m)]

/-- The part's own write of a directory entry: published, and in the staging copy while the segment is locked. -/
def putDir (pid off : Nat) (b : Bytes) (s : State) : State :=
  let a := dirAddr pid + off
  let s := s.tblPut a b
  if s.isLocked (a / 4096) then s.modMem fun x => { x with stg := x.stg.writes tblDefault a b } else s

/-- Set the verdict of an entry: STATE, REASON, FAIL_OFFSET, WC_OPS_CHECKED, and the event. -/
def setVerdict (pid state reason fail wc : Nat) (s : State) : State :=
  let e := byteAt (s.tbl (dirAddr pid) 3) 2
  let s := putDir pid 2 [BitVec.ofNat 8 (setField e 0 2 state), BitVec.ofNat 8 reason] s
  let s := putDir pid 16 (toLE 4 fail ++ toLE 4 wc) s
  postEvent 0x400D (toLE 2 pid ++ [BitVec.ofNat 8 state, BitVec.ofNat 8 reason]) s

/-- The checker ends. -/
def execProgramCheckDone (pid : Nat) (s : State) : Out :=
  .next <|
    if !userProgram pid || progState s pid != 1 then s
    else
      match checkProgram s pid with
      | some (r, o) => setVerdict pid 3 r o (if r = 13 then ((List.range 4).map fun e => (wcOf (imageOf s pid) e).1).foldl max 0 else 0) s
      | none => setVerdict pid 2 0 0 (((List.range 4).map fun e => (wcOf (imageOf s pid) e).1).foldl max 0) s

end Sys2Proof.Machine
end

