-- ==== Sys2Proof/Machine/Tables.lean ====
section
/-! DEFINITION. Machine/Tables.lean: table changes and epochs, learned path health, seam load, windows this chip holds, the cabling plan (R106 to R137, R153 to R155). -/
namespace Sys2Proof.Machine

/-! Table changes (R106, R107, R127, R128). -/

/-- The three banked tables: offset of a bank, size of a bank, size of an entry. -/
def bankedTables : List ((Nat → Nat) × Nat × Nat) := [(wGroup, 0x10000, 256), (wLeaf, 0x4000, 256), (wExc, 0x800000, 8)]

/-- Copy a range of a memory over another of the same size. -/
def copyRange (src dst n : Nat) (m : Memory) : Memory :=
  let here := m.filter fun e => decide (src ≤ e.1) && decide (e.1 < src + n)
  here.foldl (fun m e => Memory.write tblDefault m (e.1 - src + dst) e.2) (m.clear dst n)

/-- The active bank is copied into the inactive one; a word with no good copy is BAD in both. -/
def copyBanks (s : State) : State :=
  let act := s.fabric.epoch % 2
  forAll bankedTables s fun s t =>
    let src := t.1 act
    let dst := t.1 (1 - act)
    let s := s.modMem fun x => { x with tbl := copyRange src dst t.2.1 x.tbl }
    forAll (badWords s src t.2.1) s fun s w =>
      let w' := w - src + dst
      s.modFabric fun f => { f with replicas := f.replicas.put w' (f.replicas.look w 0), badSegs := insertNat (w' / 4096) f.badSegs }

/-- TABLE_BEGIN. (DEDUCED, log entry 48). -/
def execTableBegin (m : Msg) (s : State) : Out :=
  runMsg 0x30 m s fun b s =>
    let e := s.fabric.epoch
    let bank := 1 - e % 2
    let s' := (copyBanks s).modFabric fun f => { f with open_ := true }
    let s' := { s' with blocks := s'.blocks.map fun x => (x.1, { x.2 with spray := x.2.spray.filter fun y => y.1 / 32768 != bank }) }
    checked [need (decide (byteAt b 0 < 4)) (.range 0), rsvd b 1 7, need (!s.fabric.open_) (.err eState), need s.fabric.drain.isNone (.err eBusy), need (byteAt b 0 == e) (.err eEpoch)]
      ([BitVec.ofNat 8 e, BitVec.ofNat 8 bank] ++ zeros 6) s s'

/-- The valid members of a staged route entry: slot, PORT, BASE_WEIGHT. -/
def routeSlots (b : Bytes) : List (Nat × Nat × Nat) :=
  ((List.range 64).map fun m => (m, le b (16 + 2 * m) 2)).filterMap fun e => if bit e.2 14 then some (e.1, field e.2 0 10, field e.2 10 4) else none

/-- The check of a route entry (R106): table 1 GROUP_ROUTE, 2 LEAF_ROUTE. -/
def routeCheck (s : State) (table idx : Nat) (b : Bytes) : Option Nat :=
  let ms := routeSlots b
  let n := field (byteAt b 0) 0 7
  firstOf [
    need (zeroAt b 1 15 && ((List.range 64).all fun m => !bit (le b (16 + 2 * m) 2) 15) && zeroAt b 144 112) eRange,
    need (decide (n ≤ 64)) eRange,
    need (ms.all fun m => decide (m.1 < n)) eRange,
    need (ms.all fun m => m.2.2 != 0) eRange,
    need (ms.all fun m => s.hasPort m.2.1) eRange,
    need (decide (ms.map (·.2.1)).Nodup) eRange,
    need (!(table == 1 && idx == s.ownGroup && n != 0)) eRange,
    need (ms.all fun m => if table = 2 then portRole s m.2.1 == 0 else portRole s m.2.1 == 1 || portRole s m.2.1 == 2) ePlan]

/-- The check of an exception entry (R107). -/
def excCheck (s : State) (w : Nat) : Option Nat :=
  let act := field w 0 3
  need (decide (act ≤ 4) && !bit w 3 && field w 14 2 == 0 && field w 24 40 == 0 && !(act == 3 && field w 16 8 == s.ownGroup) && !(act == 4 && field w 22 2 != 0)) eRange

/-- The first failing entry of the new bank: status, table and index. Entries with no listed byte are zero and pass. (DEDUCED, log entry 47). -/
def commitFail (s : State) (bank : Nat) : Option (Nat × Nat × Nat) :=
  let idxs (lo n size : Nat) := listedIn s.mem.tbl lo n size
  let route (table lo n : Nat) : Option (Nat × Nat × Nat) :=
    (idxs lo n 256).findSome? fun i => (routeCheck s table i (s.tbl (lo + 256 * i) 256)).map fun st => (st, table, i)
  firstOf [route 1 (wGroup bank) 0x10000, route 2 (wLeaf bank) 0x4000,
    (idxs (wExc bank) 0x800000 8).findSome? fun i => (excCheck s (s.tblN (wExc bank + 8 * i) 8)).map fun st => (st, 3, i)]

/-- The entries of PATH_HEALTH whose member's port differs between the banks (R121): a slot valid in one bank only differs; the PORT bits of a
slot that is valid in neither do not count. (DESIGN CHOICE, log entry 162). -/
def movedMembers (s : State) : List Nat :=
  let gs := (listedIn s.mem.tbl (wGroup 0) 0x10000 256 ++ listedIn s.mem.tbl (wGroup 1) 0x10000 256).foldl (fun l g => insertNat g l) []
  let port (bank g m : Nat) : Option Nat := let w := s.tblN (wGroup bank + 256 * g + 16 + 2 * m) 2; if bit w 14 then some (field w 0 10) else none
  (gs.map fun g => ((List.range 64).filter fun m => port 0 g m != port 1 g m).map fun m => 64 * g + m).flatten

/-- The cut of a commit: the next epoch, the drain timer, empty exception caches, health reset where a member's port changed. -/
def commitCut (drain : Nat) (s : State) : State :=
  let s := forAll (movedMembers s) s fun s e => healthUpdate e (.reset e) s
  dropCached (fun _ _ => false) (s.modFabric fun f => { f with
    epoch := (f.epoch + 1) % 4, open_ := false, drain := some (if drain = 0 then 500 else drain), drainFrom := s.now })

/-- The response of TABLE_COMMIT, which comes with every status. -/
def commitReply (s : State) (status detail table idx : Nat) : Reply :=
  { status := status, detail := detail, body := [BitVec.ofNat 8 s.fabric.epoch, BitVec.ofNat 8 table] ++ zeros 2 ++ toLE 4 idx ++ zeros 8, always := true }

/-- TABLE_COMMIT. (DEDUCED, log entry 47). -/
def execTableCommit (m : Msg) (s : State) : Out :=
  runMsg 0x31 m s fun b s =>
    let drain := le b 0 4
    let bank := 1 - s.fabric.epoch % 2
    match firstOf [
      need (drain == 0 || (decide (100 ≤ drain) && decide (drain ≤ 100000))) (commitReply s eRange 0 0 0),
      need (zeroAt b 4 4) (commitReply s eRange 4 0 0),
      need s.fabric.open_ (commitReply s eState 0 0 0),
      need (!(s.mem.locked.any fun g => (segOf g).bank == some bank)) (commitReply s eBusy 0 0 0),
      (commitFail s bank).map fun f => commitReply s f.1 0xFFFF f.2.1 f.2.2] with
    | some r => (some r, s)
    | none => let s := commitCut drain s; (some (commitReply s eOk 0 0 0), s)

/-- The edits of the open change are discarded: the inactive bank no longer counts, and the locks of its segments are cleared unpublished. What
the inactive bank holds is copied anew by the next TABLE_BEGIN; until then it shows the active bank, as at TABLE_BEGIN. -/
def abortChange (s : State) : State :=
  let bank := 1 - s.fabric.epoch % 2
  let s := dropLocks (s.mem.locked.filter fun g => (segOf g).bank == some bank) s
  (copyBanks s).modFabric fun f => { f with open_ := false }

/-- TABLE_ABORT. (DEDUCED, log entry 48). -/
def execTableAbort (m : Msg) (s : State) : Out :=
  runMsg 0x32 m s fun _ s => checked [need s.fabric.open_ (.err eState)] [] s (abortChange s)

/-- The drain timer runs out (R129). -/
def execDrainTimerExpiry (s : State) : Out := .next (s.modFabric fun f => { f with drain := none })

/-! Learned path health (R118, R120, R121). -/

/-- An entry whose last update is older than HEALTH_HORIZON_MS. -/
def healthOld (s : State) (w : Nat) : Bool := decide (s.fabric.plan.horizonMs * 1000000 < (s.now / 1024 + 2 ^ 32 - field w 32 32) % 2 ^ 32 * 1024)

/-- A decay tick in one segment: each entry is checked against the horizon, then decays. -/
def decaySeg (six : Bool) (g : Nat) (s : State) : State :=
  if s.isLocked g then
    let named := (s.mem.defer.look g []).filterMap fun d => match d with | .mark e _ _ | .timeout e _ | .reset e => some e | _ => none
    let es := (healthListed s g ++ named).foldl (fun l e => insertNat e l) []
    let s := forAll es s fun s e => if healthNow s e != 16 && healthOld s (healthNow s e) then deferTo g (.reset e) s else s
    deferTo g (.decay six) s
  else forAll (healthListed s g) s fun s e => healthPut e (if healthOld s (healthWord s e) then 16 else healthStep s.fabric.plan (.decay six) (healthWord s e)) s

/-- HEALTH_DECAY_US has passed. -/
def execHealthDecayTick (s : State) : Out :=
  let n := s.fabric.decays + 1
  .next (forAll ((List.range 32).map (64 + ·)) (s.modFabric fun f => { f with decays := n % 16 }) fun s g => decaySeg (n % 16 == 0) g s)

/-- Samples of a region unmatched for HEALTH_HORIZON_MS are freed. -/
def execSampleExpiry (region : Nat) (s : State) : Out :=
  .next (s.modFabric fun f => { f with samples := f.samples.mod region fun l => l.filter fun x => decide (s.now < x.at_ + f.plan.horizonMs * 1000000) })

/-- A sample matches an ECHO. -/
def echoMatches (c : Cell) (x : Sample) : Bool :=
  c.src == x.dst && c.dst == x.src && c.tag == x.tag && c.flow == x.flow && decide ((c.seq + 2 ^ 32 - x.seq) % 2 ^ 32 < 65536)

/-- The sample recorded first of a list (R118). -/
def oldest : List Sample → Option Sample
  | [] => none
  | x :: t => match oldest t with | some y => if y.no < x.no then some y else some x | none => some x

/-- An ECHO passes through the chip, or ends in it: the oldest matching sample of any region is credited and freed. -/
def execEchoCellTransit (cell : Cell) (s : State) : Out :=
  let s := if forChip s cell.dst then (takeIn cell s).2 else s
  .next <|
    if cell.typ ≠ tEcho then s
    else
      match oldest (((List.range 4).map fun r => (s.fabric.samples.look r []).filter (echoMatches cell)).flatten) with
      | none => s
      | some x =>
        let r := ((List.range 4).find? fun r => (s.fabric.samples.look r []).contains x).getD 0
        let s := s.modFabric fun f => { f with samples := f.samples.mod r fun l => l.erase x }
        healthUpdate (64 * x.g + x.m) (.mark (64 * x.g + x.m) (field cell.hdr.toNat 9 6) s.now) (bump 0x05 r 9 s)

/-- The seam load of a region, averaged over the last 1 µs, in percent (R112). -/
def execSeamLoadUpdate (region pct : Nat) (s : State) : Out :=
  let pl := s.fabric.plan
  .next (s.modFabric fun f => { f with seamBusy := f.seamBusy.mapIdx fun r b =>
    if r ≠ region then b else if pl.affOn ≤ pct then true else if pct < pl.affOff then false else b })

/-! Windows this chip holds (R153 to R155). -/

/-- The key and the window a WINDOW cell names here: a peal's by its home, or with SCOPE 0 the one held on a flow with this grantor, for which
the shipped values apply (R157). No command of the part sends cells under a window of the second kind. (DEDUCED, log entry 50). -/
def namedWin (s : State) (c : Cell) : Nat × HeldWin :=
  let id := field c.hdr.toNat 47 12
  if bit c.hdr.toNat 46 then
    let d := (s.peal id).desc
    let side := if c.src = dHome1 d ∧ c.src ≠ dHome0 d then 1 else 0
    (winKey id side, heldWin s id side)
  else
    let k := 16384 + 4096 * c.src + id
    (k, (s.fabric.wins.look? k).getD { scope := 0, id := id, round := 0, grantor := c.src, granted := false, limit := 0, ack := 0, next := 0, cells := [], retries := 0, maxTry := 4, stopped := false, path := none })

/-- A WINDOW reaches this chip as a holder: accepted when it names the current round of a peal, or a flow, and takes back neither LIMIT nor ACK;
any other counts as stale (R154). (DEDUCED, log entry 50). -/
def execWindowReceive (cell : Cell) (s : State) : Out :=
  let (b, s) := takeIn cell s
  let p := field cell.hdr.toNat 47 12
  let pl := s.peal p
  let (k, h) := namedWin s cell
  let limit := field cell.hdr.toNat 20 24
  let ack := le cell.payload 0 3
  let current := !bit cell.hdr.toNat 46 || (pl.st != .free && cell.tag == dTag pl.desc && field cell.hdr.toNat 44 2 == pl.round)
  .next <|
    if cell.typ ≠ tWindow || !cell.crcOk || !forChip s cell.dst then s
    else if !zeroAt cell.payload 3 61 then countDiscard (portOf b) causeEncoding s
    else if !(current && !(h.granted && (precedes limit h.limit || precedes ack h.ack))) then bump 0x20 0 2 s
    else
      let moved := !h.granted || h.limit != limit || h.ack != ack
      let keep := h.cells.filter fun c => !precedes c.index ack
      let go := keep.filter fun c => precedes c.index limit && !(h.granted && precedes c.index h.limit)
      let s := s.modFabric fun f => { f with wins := f.wins.put k { h with
        granted := true, limit := limit, ack := ack, cells := keep, retries := if moved then 0 else h.retries, stopped := h.stopped && !moved } }
      forAll go s fun s c => holderSend p (k / 4096 - 1) (pealBlock pl.desc) c s

/-- Put a cell into a list in the order of indices, from an ACK on, modulo 2^24. -/
def insertIndex (ack : Nat) (c : Cell) : List Cell → List Cell
  | [] => [c]
  | x :: t => if (c.index + 2 ^ 24 - ack) % 2 ^ 24 < (x.index + 2 ^ 24 - ack) % 2 ^ 24 then c :: x :: t else x :: insertIndex ack c t

/-- WINDOW_TIMEOUT_US passes on a window with unacknowledged cells, which are sent again in index order (R155); windows are named by their keys. (DEDUCED, log entry 50). -/
def execWindowTimeout (win : Nat) (s : State) : Out :=
  .next <|
    match s.fabric.wins.look? win with
    | none => s
    | some h =>
      let side := win / 4096 - 1
      let sent := ((h.cells.filter fun c => h.granted && precedes c.index h.limit)).foldl (fun l c => insertIndex h.ack c l) []
      if sent.isEmpty || h.stopped || h.round != (s.peal h.id).round || (s.peal h.id).st == .free then s
      else
        let n := h.retries + 1
        let s := bump 0x20 0 9 s
        let s := match h.path with | some (g, m) => healthUpdate (64 * g + m) (.timeout (64 * g + m) s.now) s | none => s
        let s := bump 0x05 (lowRegion (s.peal h.id).desc) 10 s
        let last := decide (h.maxTry ≤ n)
        let s := putWin h.id side { h with retries := n, stopped := last } s
        let s := forAll sent s fun s c => holderSend h.id side (pealBlock (s.peal h.id).desc) c s
        if last then postEvent 0x2003 ([BitVec.ofNat 8 h.scope, 0] ++ toLE 2 h.id ++ toLE 4 h.grantor ++ [BitVec.ofNat 8 h.round]) s else s

/-! The cabling plan (R133 to R136, R338). -/

/-- A port record of PLAN_LOAD. -/
def planRecOf (b : Bytes) : Nat × PlanRec :=
  let w := le b 0 2
  let x := le b 2 2
  let y := le b 4 4
  (field w 0 10, { width := 2 ^ field w 10 2, role := field w 12 2, peerPort := field x 0 10, peerWidth := 2 ^ field x 10 2
                   peerGroup := field y 0 8, peerLeaf := field y 8 6, peerChip := BitVec.ofNat 64 (le b 8 8) })

/-- The record of a body. -/
def recBytes (b : Bytes) (k : Nat) : Bytes := (b.drop (64 + 16 * k)).take 16

/-- The records of a body. -/
def bodyRecs (b : Bytes) : List (Nat × PlanRec) := (List.range (le b 4 4)).map fun k => planRecOf (recBytes b k)

/-- Two lane ranges overlap. -/
def lanesMeet (p w p' w' : Nat) : Bool := decide (p < p' + w') && decide (p' < p + w)

/-- The checks of record k (R133, R135): its own fields, then against the records before it and the configured ports. -/
def recCheck (s : State) (b : Bytes) (rs : List (Nat × PlanRec)) (k : Nat) : Option Reply :=
  let o := 64 + 16 * k
  let r := recBytes b k
  let (p, x) := planRecOf r
  firstOf [
    need (x.role != 3 && field (le r 0 2) 14 2 == 0) (.range (o + 1)),
    need (x.role != 2 || x.peerPort == 0) (.range (o + 2)),
    need (field (le r 2 2) 12 4 == 0 && (x.role != 2 || x.peerWidth == 1)) (.range (o + 3)),
    need (x.role != 2 || x.peerGroup == 0) (.range (o + 4)),
    need (field (le r 4 4) 14 18 == 0 && (x.role == 0 || x.peerLeaf == 0)) (.range (o + 5)),
    need (x.role != 2 || le r 8 8 == 0) (.range (o + 8)),
    need (p % x.width == 0) (.range o),
    need (!((rs.take k).any fun y => lanesMeet p x.width y.1 y.2.width)) (.range o),
    need (!(s.ports.any fun y => decide (y.1 < 1024) && lanesMeet p x.width y.1 y.2.width && (y.1 != p || y.2.width != x.width))) (.range o)]

/-- The plan a body describes. -/
def planOf (b : Bytes) : Plan :=
  let rs := bodyRecs b
  { loaded := true, selfFa := field (le b 0 4) 0 20, twinChip := BitVec.ofNat 64 (le b 8 8), planTag := le b 16 4, affOn := byteAt b 20, affOff := byteAt b 21
    sampleLog2 := byteAt b 22, scoreShift := byteAt b 23, decayUs := le b 24 2, scaleMin := byteAt b 26, horizonMs := le b 28 4
    recs := rs.foldl (fun t r => t.put r.1 r.2) [], circOrder := (rs.filter fun r => r.2.role == 2).map (·.1) }

/-- The header's checks. (DEDUCED, log entry 52). -/
def planHeader (b : Bytes) : List (Option Reply) :=
  let within (off n lo hi : Nat) := need (decide (lo ≤ le b off n) && decide (le b off n ≤ hi)) (Reply.range off)
  [need (field (le b 0 4) 20 12 == 0) (.range 2), within 4 4 0 1024, within 20 1 1 100, need (decide (byteAt b 21 < byteAt b 20)) (.range 21),
   within 22 1 4 16, within 23 1 4 12, within 24 2 10 10000, within 26 1 1 16, rsvd b 27 1, within 28 4 1 60000, rsvd b 32 32]

/-- A port's neighbour has been judged: by DISCOVERY, on a Welt port by PAIR_HELLO (R132, R298). -/
def isJudged (s : State) (p : Nat) : Bool := if isWelt p then (s.twin.agreed.look? p).isSome else (s.port p).judged.isSome

/-- A new plan takes effect (R135): quarantined ports that conform return to CHECK, ports in CHECK judged otherwise go to QUARANTINE; without
TWIN_CHIP the Welt ports go DOWN (R298). (DEDUCED, log entry 54). -/
def applyPlan (pl : Plan) (s : State) : State :=
  let s := s.modFabric fun f => { f with plan := pl }
  forAll s.ports.keys s fun s p =>
    if isWelt p && pl.twinChip == 0 then (if (s.port p).st == .fenced then s else enter p .down 6 s)
    else match (s.port p).st with
    | .quarantine => if conforms s p then enter p .check 6 s else s
    | .check => if isJudged s p && !conforms s p then enter p .quarantine 6 s else s
    | _ => s

/-- PLAN_LOAD. (DEDUCED, log entry 52). -/
def execPlanLoad (m : Msg) (s : State) : Out :=
  runMsg 0x20 m s fun b s =>
    let rs := bodyRecs b
    let pl := planOf b
    let old := s.fabric.plan
    let next := s.modFabric fun f => { f with plan := pl }
    checked (planHeader b ++ [
      (List.range rs.length).findSome? fun k => recCheck s b rs k,
      need (decide (pl.circOrder.length ≤ 128)) (.range 0xFFFF),
      need (s.ports.all fun e => e.2.st != .up || conforms next e.1) (.err ePlan),
      need ((pl.selfFa == old.selfFa && pl.twinChip == old.twinChip) || s.fabric.tags.isEmpty) (.err ePlan)]) [] s (applyPlan pl s)

/-- A record of PLAN_STATUS. (DEDUCED, log entry 53). -/
def planEntry (s : State) (p : Nat) : Bytes :=
  let h := (s.port p).heard
  toLE 2 p ++ [BitVec.ofNat 8 (planCode s p), BitVec.ofNat 8 (s.port p).st.code]
    ++ (match h with | some h => toLE 4 (h.fa % 2 ^ 20 + place h.kind 20 4) ++ toLE 8 h.chip.toNat | none => zeros 12)

/-- PLAN_STATUS. (DEDUCED, log entry 53). -/
def execPlanStatus (m : Msg) (s : State) : Out :=
  runMsg 0x21 m s fun _ s =>
    let ps := s.ports.keys.filter fun p => decide (p < 1024)
    let count (c : Nat) := (ps.filter fun p => planCode s p == c).length
    (some (.ok (((List.range 7).map fun c => toLE 2 (count c)).flatten ++ toLE 2 ps.length ++ (ps.map (planEntry s)).flatten)), s)

end Sys2Proof.Machine
end

