-- ==== Sys2Proof/Machine/Ports.lean ====
section
/-! DEFINITION. Machine/Ports.lean: PORT_CONFIG, PORT_FENCE, PORT_UNFENCE and PORT_DAMP (R33, R60, R61, R68, R139 to R147, R403). -/
namespace Sys2Proof.Machine

/-! The QoS record (R139 to R141, R146). -/

/-- The shipped record of a port of width k (R139, R141). -/
def shippedQos (k : Nat) : Bytes :=
  [32, 32, 64, 48, 8, 32, 4, 0] ++ (toLE 3 (602 * k) ++ [1] ++ toLE 3 (602 * k) ++ [0] ++ toLE 4 (32 * k) ++ toLE 4 (32 * k)) ++ zeros 168

/-- The checks of a policer entry (R140, R141) at body offset o. -/
def policerCheck (b : Bytes) (o k : Nat) (first : Bool) : Option Reply :=
  let cir := le b o 3
  let pir := le b (o + 4) 3
  let cbs := field (le b (o + 8) 4) 0 20
  let pbs := field (le b (o + 12) 4) 0 20
  let fl := byteAt b (o + 3)
  let on := bit fl 0
  firstOf [
    need (decide (fl < 8) && (!first || fl == 1)) (.range (o + 3)),
    rsvd b (o + 7) 1,
    need (field (le b (o + 8) 4) 20 12 == 0) (.range (o + 8)),
    need (field (le b (o + 12) 4) 20 12 == 0) (.range (o + 12)),
    need (!on || decide (cir ≤ pir)) (.range (o + 4)),
    need (!on || decide (max 1 (ceilDiv cir 256) ≤ cbs)) (.range (o + 8)),
    need (!on || decide (max cbs (ceilDiv pir 256) ≤ pbs)) (.range (o + 12)),
    need (!first || decide (pir ≤ 1204 * k)) (.range (o + 4)),
    need (!first || decide (pbs ≤ 64 * k)) (.range (o + 12))]

/-- The checks of a shaper entry (R146) at body offset o. -/
def shaperCheck (b : Bytes) (o : Nat) : Option Reply :=
  let burst := field (le b (o + 4) 4) 0 20
  firstOf [
    need (decide (byteAt b (o + 3) < 2)) (.range (o + 3)),
    need (field (le b (o + 4) 4) 20 12 == 0) (.range (o + 4)),
    need (byteAt b (o + 3) == 0 || decide (max 1 (ceilDiv (le b o 3) 256) ≤ burst)) (.range (o + 4))]

/-- The reserved fields of a record that starts at body byte 16 (R5, R139, R140, R146). -/
def qosReserved (b : Bytes) : List (Option Reply) :=
  rsvd b 23 1 :: (((List.range 8).map fun v =>
      let o := 24 + 16 * v
      [need (decide (byteAt b (o + 3) < 8)) (Reply.range (o + 3)), rsvd b (o + 7) 1, need (field (le b (o + 8) 4) 20 12 == 0) (.range (o + 8)),
       need (field (le b (o + 12) 4) 20 12 == 0) (.range (o + 12))]).flatten
    ++ ((List.range 7).map fun v =>
      let o := 152 + 8 * v
      [need (decide (byteAt b (o + 3) < 2)) (Reply.range (o + 3)), need (field (le b (o + 4) 4) 20 12 == 0) (.range (o + 4))]).flatten)

/-- The checks of a record that starts at body byte 16, for a port of width k. -/
def qosCheck (b : Bytes) (k : Nat) : Option Reply :=
  firstOf ([(List.range 7).findSome? fun v => need (byteAt b (16 + v) != 0) (Reply.range (16 + v)), rsvd b 23 1]
    ++ (List.range 8).map (fun v => policerCheck b (24 + 16 * v) k (v == 0)) ++ (List.range 7).map fun v => shaperCheck b (152 + 8 * v))

/-! PORT_CONFIG. -/

/-- The bits of byte 3 that the commands of PORT_CONFIG fix: QOS_ONLY and REMOVE. (DEDUCED, log entry 118). -/
def withBits (qosOnly remove : Bool) (b : Bytes) : Bytes := putBytes b 3 [BitVec.ofNat 8 (setField (byteAt b 3) 2 2 (b2n qosOnly + 2 * b2n remove))]

/-- The reserved fields of a body. (DEDUCED, log entry 39). -/
def configFields (b : Bytes) : List (Option Reply) :=
  [need (decide (le b 0 2 < 1024)) (.range 0), need (decide (byteAt b 2 < 4)) (.range 2), need (decide (byteAt b 3 < 16)) (.range 3), need (decide (byteAt b 4 < 4)) (.range 4), rsvd b 5 11]

/-- The port overlaps another configured port (R33). -/
def overlaps (s : State) (p w : Nat) : Bool := s.ports.any fun e => e.1 != p && decide (e.1 < 1024) && lanesMeet p w e.1 e.2.width

/-- A record waits for the refill boundary, and the message with it. -/
def setQosNext (p : Nat) (rec : Bytes) (mbx : Fin 8) (s : State) : State :=
  s.modPort p fun q => { q with qosNext := some rec, qosMbx := q.qosMbx ++ [mbx] }

/-- A port is disabled (R60, R61): DOWN unless FENCED. The queues of a circuit port lose service (R354). -/
def disablePort (p : Nat) (s : State) : State :=
  let was := (s.port p).st
  let s := s.modPort p fun q => { q with enabled := false }
  if was == .fenced then bump 0x20 (portEntry p) 1 s
  else
    let s := enter p .down 0 s
    if isCircuit s p then loseAll p s else s

/-- A configuration is applied: a new port starts DOWN with the shipped record, whose
policer of VC0 starts full, until the first refill boundary (R141, R147). -/
def configure (b : Bytes) (mbx : Fin 8) (s : State) : State :=
  let p := le b 0 2
  let w := 2 ^ byteAt b 2
  let on := bit (byteAt b 3) 0
  let new : Port := { qos := shippedQos w, tc := setNth 8 [] 0 (32 * w * 256), tp := setNth 8 [] 0 (32 * w * 256), ts := List.replicate 8 0 }
  let s := if s.hasPort p then s else { s with ports := s.ports.put p new }
  let was := (s.port p).enabled
  let s := s.modPort p fun q => { q with width := w, longReach := bit (byteAt b 3) 1, profile := byteAt b 4, enabled := on }
  let s := setQosNext p ((b.drop 16).take 192) mbx s
  if was && !on then disablePort p s else if on && (s.port p).signal && mayTrain s p then startTraining p 1 s else s

/-- LONG_REACH would break the nesting of timers (R442, R443): an admitted peal has a window timeout below 106 µs. -/
def reachBreaks (s : State) : Bool := (heldPeals s).any fun q => decide (dTimeoutUs q.desc < 106)

/-- PORT_CONFIG. (DEDUCED, log entry 39). -/
def execPortConfig (m : Msg) (s : State) : Out :=
  runMsg 0x40 m s fun b s =>
    let b := withBits false false b
    let p := le b 0 2
    let w := 2 ^ byteAt b 2
    let q := s.port p
    let same := q.width == w && q.longReach == bit (byteAt b 3) 1 && q.profile == byteAt b 4
    match firstOf (configFields b ++ [
      need (p % w == 0) (Reply.range 0), need (!overlaps s p w) (.range 0), qosCheck b w,
      need (!bit (byteAt b 3) 1 || !reachBreaks s) (.range 3),
      need (!s.hasPort p || same || q.st == .down || q.st == .absent || q.st == .fenced) (.err eState)]) with
    | some r => (some r, s)
    | none => (none, configure b m.mbx s)

/-- PORT_CONFIG with QOS_ONLY. -/
def execPortConfigQosOnly (m : Msg) (s : State) : Out :=
  runMsg 0x40 m s fun b s =>
    let b := withBits true false b
    let p := le b 0 2
    let q := s.port p
    match firstOf (configFields b ++ [
      need (s.hasPort p) (Reply.err eState), need (2 ^ byteAt b 2 == q.width) (.range 2),
      need (bit (byteAt b 3) 0 == q.enabled && bit (byteAt b 3) 1 == q.longReach) (.range 3), need (byteAt b 4 == q.profile) (.range 4), qosCheck b q.width]) with
    | some r => (some r, s)
    | none => (none, setQosNext p ((b.drop 16).take 192) m.mbx s)

/-- A port leaves the configuration: nothing of it or its lanes is kept. The cells its policers hold are discarded and counted (R65, R59). A
record that waits for its boundary goes with it, and its message is answered. -/
def removePort (p : Nat) (s : State) : State :=
  let s := bumpPortN p (16 + causePortState) (((s.port p).held.map (·.2)).flatten.length) s
  let ms := (s.port p).qosMbx
  let w := (s.port p).width
  let s := { s with ports := s.ports.del p, lanes := s.lanes.filter fun e => !(decide (p ≤ e.1) && decide (e.1 < p + w)) }
  forAll ms s fun s n => answerAt n.val (.ok []) s

/-- PORT_CONFIG with REMOVE: its other fields are not used, but the reserved ones must be zero (R5). -/
def execPortConfigRemove (m : Msg) (s : State) : Out :=
  runMsg 0x40 m s fun b s =>
    let b := withBits false true b
    let p := le b 0 2
    checked (configFields b ++ qosReserved b ++ [need (s.hasPort p && (s.port p).st == .down) (.err eState)]) [] s (removePort p s)

/-! PORT_FENCE, PORT_UNFENCE and PORT_DAMP (R61, R403). -/

/-- A configured port of the fabric or a Welt port. -/
def portThere (s : State) (p : Nat) : Bool := (decide (p < 1024) || [1024, 1032, 1040, 1048].contains p) && s.hasPort p

/-- Run one of the three: `act` says whether byte 2 is an ACTION. -/
def portOp (op : Nat) (action : Option Nat) (m : Msg) (s : State) (stop : Nat → Bool) (f : Nat → State → State) : Out :=
  runMsg op m s fun b s =>
    let b := match action with | some a => withAction 2 a b | none => b
    let p := le b 0 2
    let s' := f p s
    checked [need (portThere s p) (.range 0), (if action.isSome then none else rsvd b 2 1), rsvd b 3 1, need (!stop p) (.err eState)]
      [BitVec.ofNat 8 (s.port p).st.code, BitVec.ofNat 8 (s'.port p).st.code, 0, 0] s s'

/-- PORT_FENCE. -/
def execPortFence (m : Msg) (s : State) : Out := portOp 0x41 none m s (fun _ => false) fencePort

/-- PORT_UNFENCE. -/
def execPortUnfence (m : Msg) (s : State) : Out := portOp 0x42 none m s (fun p => (s.port p).st != .fenced) unfencePort

/-- The host holds a port in DAMPED. A circuit port that was open has a failed slot (R353). (DEDUCED, log entry 105). -/
def hostDamp (p : Nat) (s : State) : State :=
  let open_ := isCircuit s p && (s.circOf p).armed && [PState.training, .check, .quarantine, .up].contains (s.port p).st
  let s := damp p 0 .host s
  if open_ then failSlot p 4 0 s else s

/-- PORT_DAMP with ACTION DAMP. -/
def execPortDampDamp (m : Msg) (s : State) : Out := portOp 0x43 (some 0) m s (fun p => (s.port p).st == .fenced || !(s.port p).enabled) hostDamp

/-- A DAMPED port is released: it trains again; a circuit port waits DOWN for its next edge (R338). (DEDUCED, log entry 105). -/
def releasePort (p : Nat) (s : State) : State :=
  if (s.port p).st != .damped then s
  else if isCircuit s p then enter p .down 0 s
  else startTraining p 0 s

/-- PORT_DAMP with ACTION RELEASE. -/
def execPortDampRelease (m : Msg) (s : State) : Out := portOp 0x43 (some 1) m s (fun p => condemned s p) releasePort

end Sys2Proof.Machine
end

