-- ==== Sys2Proof/Machine/Session.lean ====
section
/-! DEFINITION. Machine/Session.lean: sessions, features and the event queue's host side (R23, R388 to R390, R402). -/
namespace Sys2Proof.Machine

/-- The prerequisites of R23: feature and what it rests on. -/
def featureNeeds : List (Nat × List Nat) := [(1, [0]), (2, [12]), (3, [0]), (6, [3, 0]), (7, [0]), (11, [0])]

/-- Clear one feature whose prerequisite is absent. -/
def clearOrphan (m : W64) (e : Nat × List Nat) : W64 := if e.2.all m.getLsbD then m else m &&& ~~~(1#64 <<< e.1)

/-- Clear the features whose prerequisites are absent, once over the list. -/
def clearOrphans (m : W64) : W64 := featureNeeds.foldl clearOrphan m

/-- ACCEPTED (R389): the offer and what is supported, without EXACT_REDUCE when the majors differ, less features whose prerequisites are
absent. Two passes leave nothing to change, since no chain of prerequisites is longer than two. (DEDUCED, log entry 8). -/
def acceptedMap (offer : W64) (sameMajor : Bool) : W64 :=
  let m := offer &&& Config.supported
  clearOrphans (clearOrphans (if sameMajor then m else m &&& ~~~1#64))

/-- A user program is ADMITTED. -/
def programHeld (s : State) : Bool := (listedIn s.mem.tbl wProg 0x10000 64).any fun e => progState s (0x100 + e) == 2

/-- Held state exists (R390). -/
def heldState (s : State) : Bool :=
  !s.fabric.tags.isEmpty || !(heldShards s).isEmpty || programHeld s || (s.circ.any fun e => e.2.armed) || s.twin.st != .solo

/-- EQ_ENTRIES is 0 or a power of two from 256 to 65,536. -/
def eqSizeOk (n : Nat) : Bool := n == 0 || (decide (256 ≤ n) && decide (n ≤ 65536) && 2 ^ ilog2 n == n)

/-- A session opens with a map in force and an event queue from index 0 (R389). -/
def openSession (acc : W64) (entries addr : Nat) (s : State) : State :=
  s.modHost fun h => { h with
    session := true, features := acc, eqHead := 0, eqTail := 0, eqOn := entries != 0, eqOverflow := false, eqDmaErr := false
    eqEntries := entries, eqAddr := addr, eqPhase := true, eqLost := false, v0Out := false }

/-- HELLO. (DEDUCED, log entry 123). -/
def execHello (m : Msg) (s : State) : Out :=
  runMsg 0x01 m s fun b s =>
    let lib := libMajor s
    let acc := acceptedMap (BitVec.ofNat 64 (le b 0 8)) (le b 8 2 == lib)
    let held := heldState s
    checked [rsvd b 10 2, need (eqSizeOk (le b 12 4)) (.range 12), need (le b 16 8 % 4096 == 0) (.range 16), rsvd b 24 8,
        need (!held || acc == s.host.features) (.err eState)]
      (toLE 8 acc.toNat ++ toLE 8 Config.supported.toNat ++ toLE 2 lib ++ verTriple (partHdr s 0) ++ [BitVec.ofNat 8 s.chip.st.code, BitVec.ofNat 8 (b2n held)] ++ zeros 6)
      s (openSession acc (le b 12 4) (le b 16 8) s)

/-- The session closes: event queue and shadow compare stop, staged edits are discarded (R390, R392). -/
def closeSession (s : State) : State :=
  let s := s.modHost fun h => { h with session := false, eqOn := false, shadow := { h.shadow with enable := false } }
  dropLocks s.mem.locked s

/-- GOODBYE. -/
def execGoodbye (m : Msg) (s : State) : Out := runMsg 0x02 m s fun _ s => checked [] [] s (closeSession s)

/-- The host writes EQ_HEAD (R402). -/
def writeEqHead (head : Nat) (s : State) : State := s.modHost fun h => { h with eqHead := head, v0Out := false }

/-- EQ_HEAD_WRITE. -/
def execEqHeadWrite (head : BitVec 16) (s : State) : Out :=
  .next (if s.host.cxlUp && !s.chip.inReset then writeEqHead head.toNat s else s)

/-! Job tags (R137, R158, R160). -/

/-- The mask bits that are set. (DEDUCED, log entry 149). -/
def maskPorts (mask : BitVec 1024) : List Nat := (List.range 1024).filter mask.getLsbD

/-- JOB_ADMIT. (DEDUCED, log entry 149). -/
def execJobAdmit (m : Msg) (s : State) : Out :=
  runMsg 0x50 m s fun b s =>
    let tag := le b 0 2
    let mask := BitVec.ofNat 1024 (le b 8 128)
    let ps := maskPorts mask
    checked [id12 b 0, rsvd b 2 6, need (ps.all s.hasPort) (.range 8), need (s.fabric.tags.look? tag).isNone (.err eState),
        need (ps.all fun p => (planRec s p).isSome && ! [1, 2, 3].contains (planCode s p)) (.err ePlan)]
      [] s (s.modFabric fun f => { f with tags := f.tags.put tag mask })

end Sys2Proof.Machine
end

