-- ==== Sys2Proof/Machine/Admit.lean ====
section
/-! DEFINITION. Machine/Admit.lean: admission of peals: checks, reservations and placement (R161 to R165, R190 to R192, R198, R258, R275, R442). -/
namespace Sys2Proof.Machine

/-! Step 1 of R165: reserved bits, field ranges, the program. -/

/-- The reserved fields of the descriptor with MEMBER_BASE, which is zero in PEAL_ADMIT: first bit and width. -/
def descReserved : List (Nat × Nat) :=
  [(12, 4), (31, 1), (35, 1), (63, 1), (76, 4), (114, 14), (128, 23), (151, 9), (184, 8), (216, 8), (244, 12), (276, 12), (340, 12), (372, 12), (480, 32)]

/-- The program of a descriptor may be named and allows its KIND and OP (R258, R267). -/
def programOk (s : State) (d : BitVec 512) : Bool :=
  let p := dProgram d
  if p = 0 then dOp d != 4 && !isUpdate d
  else if libProgram p then isUpdate d && dOp d == 0
  else userProgram p && progState s p == 2 && bit (imageN s p 4 1) (dKind d) && bit (imageN s p 5 1) (dOp d)

/-- The largest number of cells of a step. -/
def maxCells : Nat := 16777214

/-- The ranges of R164 and R258, by the field's first bit. -/
def descRanges (s : State) (d : BitVec 512) : List (Nat × Bool) :=
  let sliced := dKind d = 3 ∨ dKind d = 4
  [(28, decide (dKind d ≤ 5)), (32, decide (dOp d ≤ 4)), (36, decide (dFmt d ≤ 10)), (40, decide (dResFmt d ≤ 12)), (64, dRegionMask d != 0),
   (80, decide (4 ≤ dWinLog2 d ∧ dWinLog2 d ≤ 10)), (84, decide (4 ≤ dChunkLog2 d ∧ dChunkLog2 d ≤ 12)), (88, dSlots d != 0),
   (96, decide (1 ≤ dMembers d ∧ dMembers d ≤ 131072)), (160, decide (1 ≤ dStepCells d ∧ dStepCells d ≤ maxCells)),
   (192, if sliced then decide (1 ≤ dScatter d ∧ dScatter d ≤ maxCells) else dScatter d == 0),
   (224, decide (64 ≤ dTimeoutUs d)), (240, decide (1 ≤ dRetries d ∧ dRetries d ≤ 8)),
   (256, decide (10 ≤ dWatchdogMs d ∧ dWatchdogMs d ≤ 1000000 ∧ ceilDiv (dTimeoutUs d) 10 ≤ dWatchdogMs d)),
   (384, dFmt d == 3 || dFmt d == 4 || dInScale d == 0), (416, dResFmt d == 3 || dResFmt d == 4 || dOutScale d == 0),
   (448, programOk s d), (464, isUpdate d || dShard d == 0)]

/-- The field at fault: the first bit of the lowest one that is reserved and set or out of range. (DEDUCED, log entry 56). -/
def descFault (s : State) (d : BitVec 512) : Option Nat :=
  let bad := (descReserved.filter fun e => field d.toNat e.1 e.2 != 0).map (·.1) ++ ((descRanges s d).filter fun e => !e.2).map (·.1)
  match bad with | [] => none | a :: t => some (minOf a t)

/-! Step 2 of R165: relations between fields. -/

/-- A positive normal binary32. -/
def posNormal (c : Nat) : Bool := decide (0x00800000 ≤ c ∧ c < 0x7F800000)

/-- The rules of R198. -/
def formatsOk (d : BitVec 512) : Bool :=
  let f := dFmt d
  let r := dResFmt d
  let noAnchor := dAnchorLsb d == 0 && !dAnchorAuto d
  (if dOp d = 1 ∨ dOp d = 2 then decide (r ≤ 10) && isFloatFmt f == isFloatFmt r && noAnchor
    else if isFloatFmt f then decide (r ≤ 7 ∨ r = 11 ∨ r = 12) else decide (r = 0 ∨ 8 ≤ r) && noAnchor)
    && (r != 11 || !dAcc128 d) && (r != 12 || dAcc128 d)
    && (!isCopy d || r == f && noAnchor && !dAcc128 d)
    && ((f != 3 && f != 4) || posNormal (dInScale d)) && ((r != 3 && r != 4) || posNormal (dOutScale d))
    && (!dAnchorAuto d || (dOp d == 0 || dOp d == 3) && isFloatFmt f)

/-- STORE_WIN_BYTES of a descriptor's program (R190, R261); the standard program has none. -/
def storeWindow (s : State) (d : BitVec 512) : Nat :=
  let p := dProgram d
  if p = 0 then 0 else if libProgram p then 256 + 128 * (Config.libStore p).val else imageN s p 8 4

/-- The further rules of KIND 5 (R275, R234). -/
def updateOk (s : State) (d : BitVec 512) : Bool :=
  let sh := s.shard (dShard d)
  !isUpdate d || decide (1 ≤ dFmt d ∧ dFmt d ≤ 7) && (dResFmt d == 1 || dResFmt d == 5 || dResFmt d == 6) && !dAcc128 d
    && bit (dVoidPolicy d) 1 && bit (dVoidPolicy d) 2
    && decide (dShard d < 4096) && sh.st != .free && shTag sh.desc == dTag d && shFmt sh.desc == dFmt d && shTwinned sh.desc == dTwinned d && shCells sh.desc == dStepCells d
    && decide (256 ≤ storeWindow s d) && (!userProgram (dProgram d) || (userEntry s (dProgram d) 2).isSome)

/-- The homes fit this chip. -/
def homesOk (s : State) (d : BitVec 512) : Bool :=
  let self := s.fabric.plan.selfFa
  if dTwinned d then dHome0 d != 0 && dHome1 d != 0 && dHome0 d != dHome1 d && (if s.side = 0 then dHome0 d else dHome1 d) == self
  else dHome0 d == self && dHome1 d == 0

/-- The descriptor is consistent. -/
def descConsistent (s : State) (d : BitVec 512) : Bool :=
  homesOk s d && (dSpotShift d == 0 || dTwinned d) && (!(isCopy d || isUpdate d) || dOp d == 0) && formatsOk d && updateOk s d

/-! Step 3: features (R163). -/

/-- The features a descriptor uses. -/
def featuresUsed (d : BitVec 512) : List Nat :=
  let f (c : Bool) (n : Nat) : List Nat := if c then [n] else []
  f (!isCopy d && (dOp d == 0 || dOp d == 3) && isFloatFmt (dFmt d) || isUpdate d || dAnchorAuto d) 0 ++ f (isUpdate d) 1 ++ f (dTwinned d) 3
    ++ f (isMx (dFmt d) || isMx (dResFmt d)) 4 ++ f (dSpotShift d != 0) 6 ++ f (dAnchorAuto d) 7 ++ f (userProgram (dProgram d)) 13

/-! Steps 5 and 6: the reuse guard (R192, R274) and the nesting of timers (R442). -/

/-- The ID is under the reuse guard. -/
def reuseGuarded (s : State) (p tag : Nat) : Bool :=
  let q := s.peal p
  (match q.freeAt with | some t => q.oldTag == tag && decide (s.now < t + q.oldDog * 1000000) | none => false)
    || (heldShards s).any fun e => shNormPeal e.2.desc == p && shTag e.2.desc == tag

/-- The least WINDOW_TIMEOUT_US for the link give-up in force. -/
def leastTimeout (s : State) : Nat := if s.ports.any fun e => e.2.longReach then 106 else 64

/-! Step 7: reservations (R190, R191, R322). -/

/-- Granules of a region's peal store that are free. -/
def freeGranules (s : State) (r : Nat) : Nat := 4096 - sumOf (heldPeals s) fun q => nth q.granules r

/-- Entries of the member table that a peal of n members takes. -/
def memberSpan (n : Nat) : Nat := ceilDiv n 512 * 512

/-- The member-table ranges in use, by base. -/
def memberRanges (s : State) : Tbl Nat := (heldPeals s).foldl (fun t q => t.put (dMemberBase q.desc) (memberSpan (dMembers q.desc))) []

/-- The free ranges between the ranges in use, from an entry on: base and length. -/
def gapsFrom : Nat → Tbl Nat → List (Nat × Nat)
  | x, [] => [(x, 8388608 - x)]
  | x, (b, n) :: t => (x, b - x) :: gapsFrom (max x (b + n)) t

/-- First fit in the member table. -/
def memberFit (s : State) (n : Nat) : Option Nat := ((gapsFrom 0 (memberRanges s)).find? fun g => decide (memberSpan n ≤ g.2)).map (·.1)

/-- MEMBER pool space for a peal. -/
def memberRoom (s : State) (d : BitVec 512) : Bool :=
  capOk s 4 (memberBytes d) && roomIn s (lowRegion d) (ceilDiv (memberBytes d) extentBytes)

/-- SPILL pool space for g granules in each region of a peal. -/
def spillRoom (s : State) (d : BitVec 512) (g : Nat) : Bool :=
  capOk s 3 ((dRegions d).length * (g * 65536)) && (dRegions d).all fun r => roomIn s r (ceilDiv (g * 65536) extentBytes)

/-- n granules of peal store in every region of a peal. -/
def storeRoom (s : State) (d : BitVec 512) (n : Nat) : Bool := (dRegions d).all fun r => decide (n ≤ freeGranules s r)

/-- The placement of a peal: spilled or not, with its granules per region; none when nothing fits. -/
def placement (s : State) (d : BitVec 512) : Option (Bool × Nat) :=
  let g := granulesFor d (storeWindow s d)
  if storeRoom s d g then some (false, g)
  else if dSpillable d && storeRoom s d 1 && spillRoom s d g then some (true, 1) else none

/-! The message. -/

/-- Zero the member entries of a range, as the part does when it allocates and releases them (R167). -/
def zeroMembers (base n : Nat) (s : State) : State :=
  let lo := memberAddr base
  let s := s.modMem fun x => { x with tbl := x.tbl.clear lo (8 * n) }
  s.modFabric fun f => { f with replicas := f.replicas.filter fun e => !(decide (lo ≤ e.1) && decide (e.1 < lo + 8 * n)) }

/-- An admitted peal as it enters its table. -/
def newPeal (s : State) (d : BitVec 512) (base : Nat) (spilled : Bool) (g : Nat) : Peal :=
  { desc := BitVec.ofNat 512 (setField d.toNat 128 23 base), st := .admitted, spilled := spilled, storeWin := storeWindow s d
    granules := (List.range 4).map fun r => if bit (dRegionMask d) r then g else 0
    joined := dTwinned d && s.twin.st == .paired }

/-- Admit a peal. -/
def enrol (d : BitVec 512) (base : Nat) (pl : Bool × Nat) (s : State) : State :=
  let p := dPeal d
  let q := newPeal s d base pl.1 pl.2
  let s := zeroMembers base (memberSpan (dMembers d)) (zeroCtrs 0x07 p { s with peals := s.peals.put p q })
  let s := s.modMem fun m => { m with pstore := m.pstore.clear (pstoreAddr p 0 0) (2 ^ 28) }
  if isUpdate d then s.modShard (dShard d) fun sh => { sh with st := .bound, peal := p } else s

/-- Checks 1 to 6 of R165. (DEDUCED, log entry 56). -/
def admitChecks (s : State) (d : BitVec 512) : List (Option Reply) :=
  let sh := s.shard (dShard d)
  [(descFault s d).map fun b => .range (b / 8),
   need (descConsistent s d) (.range 0xFFFF),
   need ((featuresUsed d).all s.host.features.getLsbD) (.err eFeature),
   need ((s.fabric.tags.look? (dTag d)).isSome && (s.peal (dPeal d)).st == .free && (dRegions d).all fun r => (s.chip.regionFence.look? r).isNone) (.err eState),
   need (!isUpdate d || sh.st != .lost) (.err eLost),
   need (!isUpdate d || sh.st == .ready) (.err eState),
   need (!reuseGuarded s (dPeal d) (dTag d)) (.err eBusy),
   need (decide (leastTimeout s ≤ dTimeoutUs d)) (.range 28),
   need (decide (max 10 (ceilDiv (dTimeoutUs d) 10) ≤ dWatchdogMs d)) (.range 32)]

/-- PEAL_ADMIT. -/
def execPealAdmit (m : Msg) (s : State) : Out :=
  runMsg 0x60 m s fun b s =>
    let d := BitVec.ofNat 512 (le b 0 64)
    match firstOf (admitChecks s d) with
    | some r => (some r, s)
    | none =>
      match placement s d, memberFit s (dMembers d) with
      | some pl, some base =>
        if memberRoom s d then (some (.ok (toLE 4 base ++ toLE 1 (b2n pl.1) ++ zeros 3)), enrol d base pl s)
        else (some (.err eNoStore), s)
      | _, _ => (some (.err eNoStore), s)

end Sys2Proof.Machine
end

