-- ==== Sys2Proof/Machine/PealMsgs.lean ====
section
/-! DEFINITION. Machine/PealMsgs.lean: arming, voiding, retiring and reporting peals, and the retirement of a job (R160, R168, R169, R172, R174, R187, R192, R491). -/
namespace Sys2Proof.Machine

/-! Arming (R168, R169, R491). -/

/-- Members i with CONTRIB and with RECV fit the KIND (R168). -/
def rolesOk (s : State) (d : BitVec 512) : Bool :=
  let c := (contributors s d).length
  let r := (receivers s d).length
  let whole (n : Nat) : Bool := decide (1 ≤ n) && decide (dStepCells d ≤ n * dScatter d)
  let uni := dResMode d == 0
  match dKind d with
  | 0 => decide (1 ≤ c) && r == 1 && uni
  | 1 => c == 1 && decide (1 ≤ r)
  | 3 => decide (1 ≤ c) && whole r && uni
  | 4 => whole c && decide (1 ≤ r)
  | _ => decide (1 ≤ c) && decide (1 ≤ r)

/-- The entries of a peal's members. -/
def memberEnts (s : State) (d : BitVec 512) : List Nat := (List.range (dMembers d)).map (memberEnt s d)

/-- A list of FAs names one twice. -/
def namesTwice (fas : List Nat) : Bool := ((fas.foldl (fun l x => insertNat x l) []).length != fas.length)

/-- The MGIDs of a result mode pass the checks of R169. -/
def mgidsOk (s : State) (d : BitVec 512) : Bool :=
  (!(dResMode d == 1 || dResMode d == 2) || mgidOk s d (dRowMgid d) 0) && (!(dResMode d == 2 || dResMode d == 3) || mgidOk s d (dColMgid d) 1)

/-- ACTION FENCE stands in the active bank for an FA. -/
def faFenced (s : State) (fa : Nat) : Bool := field (s.tblN (wExc (s.fabric.epoch % 2) + 8 * fa) 8) 0 3 == 1

/-- Checks 1 to 5 of R491, and the pair state of R172. -/
def armChecks (s : State) (p : Nat) : List (Option Reply) :=
  let pl := s.peal p
  let d := pl.desc
  let es := memberEnts s d
  let sh := s.shard (dShard d)
  [need (pl.st == .admitted || pl.st == .voided && pl.cause != 13) (.err eState),
   need (!isUpdate d || sh.st != .lost) (.err eLost),
   need (es.all mValid) (.range 0xFFFF),
   need (es.all fun e => mContrib e || mRecv e) (.range 0xFFFF),
   need (!namesTwice (es.map mFa)) (.range 0xFFFF),
   need (rolesOk s d) (.range 0xFFFF),
   need (mgidsOk s d) (.range 0xFFFF),
   need (es.all fun e => !mFenced e && !faFenced s (mFa e)) (.err eState),
   need (!dTwinned d || s.twin.st == .syncing || s.twin.st == .paired) (.err eTwin)]

/-- The receivers whose entry holds another FA than at the last round opening (R293). -/
def movedReceivers (s : State) (pl : Peal) : List Nat := (receivers s pl.desc).filter fun m => pl.fasOpen.look? (mFa (memberEnt s pl.desc m)) != some m

/-- PEAL_ARM takes effect: the lookup from FA to member is built, and the next round is to be opened. -/
def armPeal (p : Nat) (s : State) : State :=
  let pl := s.peal p
  let d := pl.desc
  let first := pl.st == .admitted
  let fas : Tbl Nat := (List.range (dMembers d)).foldl (fun t m => t.put (mFa (memberEnt s d m)) m) []
  let s := s.modPeal p fun q => { q with
    fas := fas, step := if first then 0 else q.step, wasAdmitted := first || q.wasAdmitted
    catchAll := q.catchAll || first && isUpdate d && shCatchup (s.shard (dShard d)).desc
    due := if first then [] else movedReceivers s pl }
  armNext p (if first then 0 else (pl.round + 1) % 4) s

/-- The response to PEAL_ARM. -/
def armReply (s : State) (p : Nat) : Reply :=
  let pl := s.peal p
  .ok (toLE 8 pl.step ++ toLE 1 pl.round ++ toLE 1 (b2n pl.isOpen) ++ zeros 6)

/-- The head of ARM_CHECK (R302): descriptor without MEMBER_BASE, member entries, bank digest, COMMIT_STEP. -/
def armCheckHead (s : State) (p : Nat) : Bytes :=
  let d := (s.peal p).desc
  let k := dShard d
  let up := isUpdate d
  toLE 2 p ++ toLE 2 (if up then k else 0xFFFF) ++ zeros 4 ++ toLE 8 (crc64 (toLE 64 (setField d.toNat 128 23 0))).toNat
    ++ toLE 8 (crc64 ((memberEnts s d).map (toLE 8)).flatten).toNat
    ++ (if up then toLE 8 (bankDigest s k (s.shard k).live).toNat ++ toLE 8 (s.shard k).step.toNat else zeros 16)

/-- Send ARM_CHECK for a peal. -/
def sendArmCheck (p : Nat) (s : State) : State := sendTwin 0x07 7 (dTag (s.peal p).desc) (armCheckHead s p) [] s

/-- PEAL_ARM. A twinned peal waits for the twin's ARM_CHECK. (DEDUCED, log entry 71). -/
def execPealArm (m : Msg) (s : State) : Out :=
  runMsg 0x61 m s fun b s =>
    let p := le b 0 2
    match firstOf ([id12 b 0, rsvd b 2 2] ++ armChecks s p) with
    | some r => (some r, s)
    | none =>
      if dTwinned (s.peal p).desc then (none, sendArmCheck p (s.modPeal p fun q => { q with armMbx := q.armMbx ++ [m.mbx] }))
      else (let s := armPeal p s; (some (armReply s p), s))

/-- Answer the PEAL_ARMs of a peal that wait for the twin. -/
def answerArms (p : Nat) (r : Reply) (s : State) : State :=
  let ns := (s.peal p).armMbx
  forAll ns (s.modPeal p fun q => { q with armMbx := [] }) fun s n => answerOp 0x61 n.val r s

/-- The twin's ARM_CHECK agrees with this chip: descriptor and member entries (R172), and the bank digest when the peal arms from ADMITTED
(R275). -/
def armAgrees (s : State) (p : Nat) (h : Bytes) : Bool :=
  let own := armCheckHead s p
  (h.take 4 == own.take 4) && ((h.drop 8).take 16 == (own.drop 8).take 16)
    && (!(isUpdate (s.peal p).desc && (s.peal p).st == .admitted) || (h.drop 24).take 8 == (own.drop 24).take 8)

/-- PEAL_ARM of a twinned peal is decided: the checks are made again on the state as it now is. -/
def decideArm (p : Nat) (h : Bytes) (s : State) : State :=
  match firstOf (armChecks s p ++ [need (armAgrees s p h) (.err eTwin)]) with
  | some r => answerArms p r s
  | none =>
    let s := armPeal p (s.modPeal p fun q => { q with joined := true, rejoins := s.twin.st == .syncing && !s.twin.rebuild })
    answerArms p (armReply s p) s

/-- ARM_CHECK arrives: it decides a PEAL_ARM that waits; otherwise this chip answers with its own, and a survivor counts the peal as joined
(R314). A survivor with the round open answers once it holds the next opening. (DEDUCED, log entry 71). -/
def execArmCheckReceive (msg : TwinMsg) (s : State) : Out :=
  let p := le msg.head 0 2 % 4096
  let pl := s.peal p
  let h := fit 64 msg.head
  let waits := dTwinned pl.desc && pl.isOpen && s.twin.st == .syncing && !s.twin.isNew && !pl.joined
  if !twinOk 0x07 msg then .next (badTwin (takeTwin 7 msg s))
  else if !pl.armMbx.isEmpty then .next (decideArm p h (takeTwin 7 msg s))
  else if waits then .next s
  else
    let s := sendArmCheck p (takeTwin 7 msg s)
    if s.twin.st == .syncing && !s.twin.isNew && dTwinned pl.desc && !pl.joined && armAgrees s p h && pl.st != .retiring then .next (joinPeal p s)
    else .next s

/-! Voiding by the host (R174). -/

/-- PEAL_VOID. -/
def execPealVoid (m : Msg) (s : State) : Out :=
  runMsg 0x64 m s fun b s =>
    let p := le b 0 2
    let pl := s.peal p
    checked [id12 b 0, need (decide (byteAt b 2 < 2)) (.range 2), rsvd b 3 1, need (roundLive pl || pl.st == .voided) (.err eState)]
      [] s (if roundLive pl then voidPeal [1] (byteAt b 2 == 1) none false p s else s)

/-! Retiring (R174, R192, R271, R292). -/

/-- A peal enters RETIRING: its round is gone, its cores drop it, and a PEAL_ARM of it that waits is refused. (DEDUCED, log entry 70). -/
def retirePeal (p : Nat) (s : State) : State :=
  let s := clearCores p 0 false s
  let s := s.modPeal p fun q => { q.dropRound with st := .retiring, waiting := false, ready := false, heldRebuild := false, twinReady := none }
  let s := if s.twin.copying.any fun c => c.peal == p then s.modTwin fun t => { t with copying := none } else s
  answerArms p (.err eState) s

/-- PEAL_RETIRE answers when the peal is FREE. -/
def execPealRetire (m : Msg) (s : State) : Out :=
  runMsg 0x62 m s fun b s =>
    let p := le b 0 2
    match firstOf [id12 b 0, rsvd b 2 2, need ((s.peal p).st != .free) (.err eState)] with
    | some r => (some r, s)
    | none =>
      let s := if (s.peal p).st == .retiring then s else retirePeal p s
      (none, s.modPeal p fun q => { q with retireMbx := q.retireMbx ++ [m.mbx] })

/-- The bound shard of a peal that reaches FREE: READY, the pending bank discarded (R271, R292). -/
def unbindShard (k : Nat) (s : State) : State :=
  let sh := s.shard k
  if sh.st == .free then s
  else
    let s := if sh.pending then clearBank k (nBank sh) s else s
    s.modShard k fun x => { x with st := if x.st == .bound then .ready else x.st, pending := false, committed := false, early := none, peal := 0 }

/-- Every core has dropped a retiring peal: its reservations are released and it is FREE. -/
def execRetireComplete (peal : Nat) (s : State) : Out :=
  let pl := s.peal peal
  let d := pl.desc
  if pl.st != .retiring then .next s
  else
    let s := zeroMembers (dMemberBase d) (memberSpan (dMembers d)) s
    let s := if isUpdate d then unbindShard (dShard d) s else s
    let s := s.modMem fun x => { x with pstore := x.pstore.clear (pstoreAddr peal 0 0) (2 ^ 28) }
    let s := s.modPeal peal fun _ => { freeAt := some s.now, oldTag := dTag d, oldDog := dWatchdogMs d }
    let s := forAll pl.retireMbx s fun s n => answerOp 0x62 n.val (.ok []) s
    .next (tryPaired s)

/-- The multicast entries of a tag lose VALID (R126). -/
def clearMulticast (tag : Nat) (s : State) : State :=
  forAll (listedIn s.mem.tbl wMcast 0x400000 64) s fun s e =>
    let a := wMcast + 64 * e
    let w := s.tblN a 8
    if bit w 0 && field w 16 12 == tag then s.tblPut a (toLE 8 (setField w 0 1 0)) else s

/-- A tag's shards and norm homes go (R271). -/
def freeShards (tag : Nat) (s : State) : State :=
  let gone := (heldShards s).filter fun e => shTag e.2.desc == tag
  let s := forAll gone s fun s e => clearBank e.1 1 (clearBank e.1 0 s)
  s.modSpine fun x => { x with
    shards := x.shards.filter fun e => !(gone.any fun g => g.1 == e.1)
    homes := x.homes.filter fun e => e.2.tag != tag
    norms := x.norms.filter fun e => e.1 / 4096 != tag }

/-- JOB_RETIRE: the cut of R160. (DEDUCED, log entry 70). -/
def execJobRetire (m : Msg) (s : State) : Out :=
  runMsg 0x51 m s fun b s =>
    let tag := le b 0 2
    let ps := (s.peals.filter fun e => dTag e.2.desc == tag && e.2.st != .free && e.2.st != .retiring).map (·.1)
    let s' := clearMulticast tag (s.modFabric fun f => { f with tags := f.tags.del tag })
    let s' := freeShards tag (forAll ps s' fun s p => retirePeal p s)
    checked [id12 b 0, rsvd b 2 2, need (s.fabric.tags.look? tag).isSome (.err eState)] [] s s'

/-! PEAL_STATUS (R403). -/

/-- The cost of packing one part in the standard program: CVT for FP16 and BF16, QNT for the 8-bit formats, none for 32-bit results
(R251, R268). (DEDUCED, log entry 22). -/
def packCost (resFmt : Nat) : Nat :=
  if resFmt == 1 || resFmt == 2 then 3 else if eltsPerCell resFmt == 64 then 5 else 0

/-- The computed worst case of the standard ON_CHUNK (R242, R265, R268): dispatch 2, CHK 6, then for each part LDS ACC and RNDX of 6 ops each, the
pack and EMIT, and END; dispatch, CHK, LDS VEC64, EMIT and END for a copy. A row of more than 32 lanes needs loads at offsets that R268 does not
list: its cost is free within the limit R268 says it fits. (DEDUCED, log entry 22). -/
def standardChunkOps (d : BitVec 512) : Nat :=
  if isCopy d then 16
  else if eltsPerCell (dFmt d) ≤ 32 then 9 + partsOf (dFmt d) (dResFmt d) * (13 + packCost (dResFmt d))
  else min 65536 (Config.stdOps (dKind d) (dOp d) (dFmt d) (dResFmt d) (b2n (dAcc128 d))).toNat

/-- WC_OPS of the standard behaviour of an entry point (R234, R268): one op for the fast path, nothing after the chunk. -/
def standardOps (d : BitVec 512) (e : Nat) : Nat :=
  match e with
  | 0 => 1
  | 1 => standardChunkOps d
  | _ => 0

/-- WC_OPS and WC_MEM of the code that runs an entry point of a peal. The standard behaviour has no LDM or STM. (DESIGN CHOICE, log entry 21). -/
def entryCost (s : State) (d : BitVec 512) (e : Nat) : Nat × Nat :=
  let p := dProgram d
  if libProgram p && (e == 1 || e == 2) then ((Config.libOps p e).toNat, (Config.libMem p e).toNat)
  else if (userEntry s p e).isSome then (imageN s p (32 + 4 * e) 4, imageN s p (48 + 2 * e) 2)
  else (standardOps d e, 0)

/-- The body of PEAL_STATUS. (DEDUCED, log entry 69). -/
def pealStatus (s : State) (p : Nat) : Bytes :=
  let pl := s.peal p
  let live := pl.st != .free
  let code : Nat := match pl.st with | .free => 0 | .admitted => 1 | .armed => 2 | .running => 3 | .sealed => 4 | .voided => 5 | .retiring => 6
  let cost (f : Nat × Nat → Nat) (n : Nat) : Bytes := ((List.range 4).map fun e => toLE n (if live then f (entryCost s pl.desc e) else 0)).flatten
  toLE 1 code ++ toLE 1 (if pl.isOpen then pl.round else 0xFF) ++ toLE 1 pl.cause ++ toLE 1 (b2n pl.spilled) ++ zeros 4 ++ toLE 8 pl.step
    ++ cost (·.1) 4 ++ cost (·.2) 2 ++ zeros 8 ++ ((List.range 56).map fun i => toLE 8 (s.ctr 0x07 p i)).flatten

/-- PEAL_STATUS. -/
def execPealStatus (m : Msg) (s : State) : Out := runMsg 0x63 m s fun b s => checked [id12 b 0, rsvd b 2 2] (pealStatus s (le b 0 2)) s s

end Sys2Proof.Machine
end

