-- ==== Sys2Proof/Machine/Shards.lean ====
section
/-! DEFINITION. Machine/Shards.lean: shards: creation, step parameters, commit and rollback, export and import (R270 to R278, R289 to R297). -/
namespace Sys2Proof.Machine

/-! SHARD_CREATE (R270, R274). -/

/-- Reserved and part-set fields of the shard descriptor, which must be zero in SHARD_CREATE: first bit and width. -/
def shardReserved : List (Nat × Nat) :=
  [(12, 4), (28, 3), (31, 1), (37, 1), (38, 1), (41, 7), (72, 8), (92, 4), (105, 23), (148, 12), (180, 12), (192, 12), (204, 52), (256, 64), (320, 64), (384, 128)]

/-- The lowest field at fault, by its first bit. -/
def shardFault (d : BitVec 512) : Option Nat :=
  let ranges : List (Nat × Bool) := [(32, decide (1 ≤ shFmt d ∧ shFmt d ≤ 7)), (48, decide (1 ≤ shCells d ∧ shCells d ≤ maxCells)),
    (96, !shNormEn d || decide (1 ≤ shNormN d ∧ shNormN d ≤ 256))]
  let bad := (shardReserved.filter fun e => field d.toNat e.1 e.2 != 0).map (·.1) ++ (ranges.filter fun e => !e.2).map (·.1)
  match bad with | [] => none | a :: t => some (minOf a t)

/-- The contributor records after the body: offset, FA word, twin word. (DEDUCED, log entry 84). -/
def normRecords (b : Bytes) : List (Nat × Nat × Nat) :=
  (List.range ((b.length - 64) / 8)).map fun i => (64 + 8 * i, le b (64 + 8 * i) 4, le b (68 + 8 * i) 4)

/-- The body is consistent. -/
def shardConsistent (d : BitVec 512) (rs : List (Nat × Nat × Nat)) : Bool :=
  let none := shFa0 d == 0 && shFa1 d == 0 && shNormN d == 0
  (if shNormEn d then shFa0 d != 0 && !(shTwinned d && (shFa1 d == 0 || shFa1 d == shFa0 d)) else none)
    && !namesTwice (rs.map (·.2.1)) && rs.all fun r => r.2.1 != r.2.2

/-- Space for the two banks of a shard that starts at channel offset `start` (R273, R319, R322). -/
def shardRoom (s : State) (d : BitVec 512) (start : Nat) : Bool :=
  let bank := sliceBytes d * shCells d
  (if shTwinned d then capOk s 0 bank && capOk s 1 bank else capOk s 0 (2 * bank))
    && [0, 1, 2, 3].all fun r => roomIn s r (shardOn start (shardExtents d) r)

/-- The first contributor record with a reserved bit set. -/
def recordFault (rs : List (Nat × Nat × Nat)) : Option Reply :=
  (rs.find? fun r => decide (2 ^ 20 ≤ r.2.1) || decide (2 ^ 20 ≤ r.2.2)).map fun r => .range (if 2 ^ 20 ≤ r.2.1 then r.1 else r.1 + 4)

/-- Create a shard: LOADING, bank 0 live; a norm home takes the contributor list. Where its extents start is a free value. (DESIGN CHOICE, log entry 16). (DEDUCED, log entry 84). -/
def createShard (k : Nat) (d : BitVec 512) (rs : List (Nat × Nat × Nat)) (start : Nat) (s : State) : State :=
  let s := clearBank k 1 (clearBank k 0 (zeroCtrs 0x08 k s.draw))
  let np := shNormPeal d
  s.modSpine fun x => { x with
    shards := x.shards.put k { desc := d, st := .loading, start := start }
    homes := if rs.isEmpty then x.homes else x.homes.put np (let h := x.homes.look np {}
      { tag := shTag d, list := rs.map fun r => (r.2.1, r.2.2), recs := if h.tag = shTag d then h.recs else [] }) }

/-- SHARD_CREATE. -/
def execShardCreate (m : Msg) (s : State) : Out :=
  runMsg 0x70 m s fun b s =>
    let d := BitVec.ofNat 512 (le b 0 64)
    let k := field d.toNat 0 12
    let rs := normRecords b
    let start := (Config.extentStart s.free).toNat
    checked [(shardFault d).map fun x => .range (x / 8), recordFault rs, need (shardConsistent d rs) (.range 0xFFFF),
        need (!shTwinned d || s.host.features.getLsbD 3) (.err eFeature),
        need ((s.fabric.tags.look? (shTag d)).isSome && (s.shard k).st == .free && (s.peal (shNormPeal d)).st == .free) (.err eState),
        need (shardRoom s d start) (.err eNoStore)]
      [] s (createShard k d rs start s)

/-! Step parameters (R278). -/

/-- A KIND 5 peal that is neither FREE nor RETIRING. -/
def updatePeal (s : State) (p : Nat) : Bool := let q := s.peal p; q.st != .free && q.st != .retiring && isUpdate q.desc

/-- The next step of a peal whose round has not opened. (DEDUCED, log entry 81). -/
def nextParams (pl : Peal) : Nat := if pl.opened == some pl.step then pl.step + 1 else pl.step

/-- The peal's shard is not LOST. -/
def notLost (s : State) (p : Nat) : Bool := (s.shard (dShard (s.peal p).desc)).st != .lost

/-- STEP_PARAMS. (DEDUCED, log entry 81). -/
def execStepParams (m : Msg) (s : State) : Out :=
  runMsg 0x71 m s fun b s =>
    let p := le b 0 2
    let step := le b 8 8
    let s' := s.modPeal p fun q => { q with params := q.params.put step ⟨le b 16 8, fit 256 (b.drop 32)⟩, ready := false }
    checked [id12 b 0, rsvd b 2 6, rsvd b 24 8, need (updatePeal s p) (.err eState), need (decide (nextParams (s.peal p) ≤ step)) (.err eState),
        need (step == nextParams (s.peal p)) (.range 8), need (notLost s p) (.err eLost)]
      [] s (tryOpen p s')

/-! Commit and rollback (R290, R291). -/

/-- The checks of STEP_COMMIT that both actions share. (DEDUCED, log entry 82). -/
def commitFields (s : State) (b : Bytes) : List (Option Reply) :=
  let p := le b 0 2
  [id12 b 0, rsvd b 3 5, need (updatePeal s p) (.err eState), need (notLost s p) (.err eLost)]

/-- COMMIT of a step: marked when it is pending, recorded when its round is open, nothing when it is committed already. (DEDUCED, log entry 82). -/
def commitStep (p step : Nat) (s : State) : State :=
  let pl := s.peal p
  let k := dShard pl.desc
  let sh := s.shard k
  let done := sh.pending && sh.pendStep == step
  if done && sh.committed || !done && decide (step < pl.step) || !done && sh.early == some step then s
  else
    let s := bump 0x08 k 4 (s.modShard k fun x => if done then { x with committed := true } else { x with early := some step })
    let s := if pairedFor s pl then sendRoundCtl pl 3 pl.round 0 false step 0 s else s
    tryOpen p s

/-- STEP_COMMIT with COMMIT. -/
def execStepCommitCommit (m : Msg) (s : State) : Out :=
  runMsg 0x72 m s fun b s =>
    let p := le b 0 2
    let pl := s.peal p
    let step := le b 8 8
    checked (commitFields s b ++ [need (decide (step < pl.step) || (pl.isOpen && pl.step == step)) (.range 8)]) [] s (commitStep p step s)

/-- STEP_COMMIT with ROLLBACK. -/
def execStepCommitRollback (m : Msg) (s : State) : Out :=
  runMsg 0x72 m s fun b s =>
    let p := le b 0 2
    checked (commitFields s b ++ [need (rollbackOk s p (le b 8 8)) (.err eState)]) [] s (rollback p false s)

/-! Export and import (R294, R295). -/

/-- N_CELLS of a transfer and its host address keep their ranges. -/
def moveFields (b : Bytes) : List (Option Reply) :=
  [rsvd b 3 5, need (decide (1 ≤ le b 12 4 ∧ le b 12 4 ≤ 1048576)) (.range 12), need (le b 16 8 % 64 == 0) (.range 16)]

/-- SHARD_EXPORT. (DEDUCED, log entry 83). -/
def execShardExport (m : Msg) (s : State) : Out :=
  runMsg 0x73 m s fun b s =>
    let k := le b 0 2
    let sh := s.shard k
    let d := sh.desc
    let pend := byteAt b 2 == 1
    let x := le b 8 4
    let n := le b 12 4
    let len := n * sliceBytes d
    match firstOf ([id12 b 0, need (decide (byteAt b 2 < 2)) (.range 2)] ++ moveFields b ++ [rsvd b 24 8,
        need (sh.st != .free && sh.st != .loading) (.err eState), need (sh.st != .lost) (.err eLost), need (!pend || sh.pending) (.err eState),
        need (decide (x + n ≤ shCells d)) (.range 0xFFFF), need (!s.dmaBad (le b 16 8) len) (.range 0xFFFD)]) with
    | some r => (some r, s)
    | none =>
      let data := sliceRead s k (if pend then nBank sh else sh.live) x 0 len
      let step := if pend then sh.pendStep else sh.step.toNat
      let train := if pend then sh.pendTrain else sh.train.toNat
      (some (.ok (toLE 8 step ++ toLE 8 train ++ toLE 4 (crc32c data) ++ toLE 4 len)), bumpN 0x08 k 7 len ((sliceServed false false k (if pend then nBank sh else sh.live) x 0 len s).hostWrite (le b 16 8) data))

/-- A FINAL import makes the imported bank live. -/
def finishImport (k train : Nat) (s : State) : State :=
  s.modShard k fun sh => { sh with
    live := nBank sh, step := BitVec.ofNat 64 (2 ^ 64 - 1), train := BitVec.ofNat 64 train, pending := false, committed := false, early := none, nextCell := 0
    badSlices := sh.badSlices.filter fun y => y.1 == sh.live
    st := if sh.st == .bound then .bound else .ready }

/-- SHARD_IMPORT. (DEDUCED, log entry 83). -/
def execShardImport (m : Msg) (s : State) : Out :=
  runMsg 0x74 m s fun b s =>
    let k := le b 0 2
    let sh := s.shard k
    let d := sh.desc
    let final := byteAt b 2 == 1
    let x := le b 8 4
    let n := le b 12 4
    let len := n * sliceBytes d
    let takes := sh.st == .loading || sh.st == .ready || (sh.st == .bound && (s.peal sh.peal).st == .admitted)
    match firstOf ([id12 b 0, need (decide (byteAt b 2 < 2)) (.range 2)] ++ moveFields b ++ [rsvd b 28 4,
        need (sh.st != .lost) (.err eLost), need takes (.err eState), need (x == sh.nextCell) (.range 8), need (decide (x + n ≤ shCells d)) (.range 0xFFFF),
        need (!final || x + n == shCells d) (.range 0xFFFF), need (!s.dmaBad (le b 16 8) len) (.range 0xFFFE),
        need (crc32c (s.hostRead (le b 16 8) len) == le b 24 4) (.range 24)]) with
    | some r => (some r, s)
    | none =>
      let s := sliceStore k (nBank sh) x 0 (s.hostRead (le b 16 8) len) s
      let s := bumpN 0x08 k 8 len (s.modShard k fun y => { y with nextCell := x + n })
      (some (.ok []), if final then finishImport k (le b 32 8) s else s)

end Sys2Proof.Machine
end

