-- ==== Sys2Proof/Machine/TwinMsgs.lean ====
section
/-! DEFINITION. Machine/TwinMsgs.lean: the host's messages to the twin pair (R304, R313, R314, R317). -/
namespace Sys2Proof.Machine

/-- TWIN_PAIR with PAIR: accepted at once; agreement is judged on the PAIR_HELLOs that follow. -/
def execTwinPairPair (m : Msg) (s : State) : Out :=
  runMsg 0x80 m s fun b s =>
    let chip := le b 8 8
    checked [need (chip != 0 && chip == s.fabric.plan.twinChip.toNat) (.err ePlan), need (decide (8 ≤ byteAt b 1 ∧ byteAt b 1 ≤ 64)) (.range 1), rsvd b 2 2,
        need (decide (10 ≤ le b 4 4 ∧ le b 4 4 ≤ 1000)) (.range 4), need (decide (10 ≤ le b 16 4 ∧ le b 16 4 ≤ 60000)) (.range 16), rsvd b 20 12,
        need (s.twin.st == .solo) (.err eState)]
      [] s (s.modTwin fun t => { t with asked := true, agreeFail := 0, quorum := byteAt b 1, deadUs := le b 4 4, holdMs := le b 16 4 })

/-- A twinned peal is admitted here. -/
def twinnedAdmitted (s : State) : Bool := (heldPeals s).any fun q => dTwinned q.desc

/-- TWIN_PAIR with UNPAIR. (DEDUCED, log entry 93). -/
def execTwinPairUnpair (m : Msg) (s : State) : Out :=
  runMsg 0x80 m s fun b s =>
    checked [rsvd b 2 2, rsvd b 20 12, need (!twinnedAdmitted s && s.twin.st != .takeover) (.err eState)]
      [] s (pairTo .solo (s.modTwin fun t => { t with asked := false }))

/-- The body of TWIN_STATUS (R317). -/
def twinStatus (s : State) : Bytes :=
  let t := s.twin
  let up := ((List.range 4).filter fun n => s.live (weltPort n)).foldl (fun a n => a + 2 ^ n) 0
  let ps := twinnedPeals s
  let joined := (ps.filter fun p => (s.peal p).joined).length
  toLE 1 t.st.code ++ toLE 1 s.side ++ toLE 1 (t.taken % 16) ++ toLE 1 up ++ toLE 1 t.agreeFail ++ toLE 1 (min 255 (leafReports s)) ++ zeros 2
    ++ toLE 8 (le t.peer 0 8) ++ toLE 4 s.twinFa ++ toLE 4 joined ++ toLE 4 (ps.length - joined) ++ zeros 4 ++ toLE 8 t.moved
    ++ toLE 8 ((s.now - t.since) / 1000) ++ zeros 16

/-- TWIN_STATUS. -/
def execTwinStatus (m : Msg) (s : State) : Out := runMsg 0x81 m s fun _ s => checked [] (twinStatus s) s s

/-- TAKEOVER_GRANT (R313). -/
def execTakeoverGrant (m : Msg) (s : State) : Out :=
  runMsg 0x82 m s fun b s =>
    let idle := s.twin.st == .takeover || (s.twin.st == .solo && s.twin.tookOver)
    checked [need (le b 0 8 == s.fabric.plan.twinChip.toNat) (.range 0), rsvd b 8 8, need (idle || s.twin.st == .orphan) (.err eState)]
      [] s (if idle then s else takeOver s)

/-- The fields of TWIN_REBUILD. -/
def rebuildFields (s : State) (b : Bytes) : List (Option Reply) :=
  [rsvd b 1 7, need (le b 8 8 == s.fabric.plan.twinChip.toNat) (.range 8)]

/-- TWIN_REBUILD with START, on the survivor (R314). -/
def execTwinRebuildStart (m : Msg) (s : State) : Out :=
  runMsg 0x83 m s fun b s =>
    let s' := s.modTwin fun t => { t with rebuild := true, rejoin := false, moved := if t.rebuild then t.moved else 0 }
    checked (rebuildFields s b ++ [need (s.twin.st == .syncing && !s.twin.isNew) (.err eState)])
      [] s (tryPaired (forAll (twinnedPeals s') s' fun s p => tryOpen p s))

/-- The rebuild stops: the copy under way is aborted, and what it held opens if it may. -/
def abortRebuild (s : State) : State :=
  let s := match s.twin.copying with
    | some c => (match c.shard with | some k => sendCopyCtl k 2 s | none => s)
    | none => s
  let s := s.modTwin fun t => { t with rebuild := false, copying := none }
  forAll (twinnedPeals s) s fun s p => if (s.peal p).heldRebuild then tryOpen p (s.modPeal p fun q => { q with heldRebuild := false }) else s

/-- TWIN_REBUILD with ABORT. (DEDUCED, log entry 93). -/
def execTwinRebuildAbort (m : Msg) (s : State) : Out :=
  runMsg 0x83 m s fun b s => checked (rebuildFields s b ++ [need s.twin.rebuild (.err eState)]) [] s (abortRebuild s)

end Sys2Proof.Machine
end

