-- ==== Sys2Proof/Machine/Query.lean ====
section
/-! DEFINITION. Machine/Query.lean: what the host reads: QUERY_INFO, the event log, the health ledger, snapshots; and the shadow compare (R398 to R403, R456 to R458, R468). -/
namespace Sys2Proof.Machine

/-! QUERY_INFO (R336, R403). -/

/-- Page 0: identity. -/
def identityPage (s : State) : Bytes :=
  let r := s.flash.record
  fit 16 r.ordering ++ fit 2 r.stepping ++ fit 12 r.serial ++ zeros 2 ++ ((List.range 5).map fun i => toLE 8 (r.dieIds.getD i 0).toNat).flatten
    ++ toLE 2 (libMajor s) ++ verTriple (partHdr s 0) ++ toLE 8 Config.supported.toNat ++ toLE 1 s.chip.st.code ++ toLE 1 s.twin.st.code
    ++ toLE 1 s.chip.lastBad ++ zeros 1 ++ toLE 4 s.fabric.plan.selfFa ++ fit 4 r.date ++ zeros 28

/-- Spare cores of a region that serve no index and are not retired. -/
def freeSpares (s : State) (r : Nat) : Nat :=
  ((List.range 4).filter fun k => let c := 132 * r + 128 + k; !(s.core c).retired && !(s.spine.served.any fun e => e.2 == c)).length

/-- Page 1: resources. -/
def resourcePage (s : State) : Bytes :=
  let gaps := (gapsFrom 0 (memberRanges s)).map (·.2)
  let four (f : Nat → Bytes) : Bytes := ([0, 1, 2, 3].map f).flatten
  four (fun r => toLE 2 (freeGranules s r)) ++ toLE 4 (gaps.foldl max 0) ++ toLE 2 (4096 - (heldPeals s).length) ++ toLE 2 (4096 - (heldShards s).length)
    ++ toLE 2 s.fabric.tags.length ++ zeros 2 ++ toLE 1 (s.chip.regionFence.foldl (fun m e => m + 2 ^ e.1) 0) ++ toLE 1 (enginesRetired s)
    ++ four (fun r => toLE 1 (freeSpares s r)) ++ zeros 2 ++ four (fun r => toLE 2 (s.chip.ti.getD r 1024)) ++ zeros 28

/-- Frames of a channel that no extent holds. -/
def chanFree (s : State) (c : Nat) : Nat :=
  if chanLive s c then 4194304 - (retiredFrames s c).length - 512 * chanExtents s c else 0

/-- A channel record. -/
def chanRecord (s : State) (c : Nat) : Bytes :=
  let x := s.chan c
  toLE 1 x.status ++ toLE 1 x.mult ++ toLE 1 x.code ++ zeros 1 ++ toLE 2 x.rdHeight ++ toLE 2 x.rdWidth ++ toLE 2 x.wrHeight ++ toLE 2 x.wrWidth
    ++ toLE 2 (retiredFrames s c).length ++ toLE 2 (chanFree s c / 256)

/-- Page 3: the programs of the library. (DESIGN CHOICE, log entry 21). -/
def libraryPage : Bytes :=
  toLE 2 4 ++ zeros 14 ++ ([0x10, 0x11, 0x12, 0x13].map fun p => toLE 2 p ++ zeros 2 ++ ((List.range 4).map fun e => toLE 4 (Config.libOps p e).toNat).flatten
    ++ ((List.range 4).map fun e => toLE 2 (Config.libMem p e).toNat).flatten ++ zeros 4).flatten

/-- QUERY_INFO. -/
def execQueryInfo (m : Msg) (s : State) : Out :=
  runMsg 0x10 m s fun b s =>
    checked [need (decide (byteAt b 0 < 4)) (.range 0), rsvd b 1 7]
      (match byteAt b 0 with
       | 0 => identityPage s
       | 1 => resourcePage s
       | 2 => ((List.range 128).map (chanRecord s)).flatten
       | _ => libraryPage) s s

/-! EVENT_READ (R401, R403). -/

/-- The held events from a sequence number on: an older one starts at the oldest. (DEDUCED, log entry 121). -/
def eventsFrom (s : State) (seq : W32) : List Event :=
  match s.logs.events with
  | [] => []
  | e :: t => let d := (seq - e.seq).toNat; if d < 2 ^ 31 then (e :: t).drop d else e :: t

/-- EVENT_READ. PHASE and LOST_BEFORE belong to the ring and read zero here. (DEDUCED, log entry 121). -/
def execEventRead (m : Msg) (s : State) : Out :=
  runMsg 0xB2 m s fun b s =>
    let es := (eventsFrom s (BitVec.ofNat 32 (le b 0 4))).take (le b 4 4)
    let data := (es.map fun e => e.bytes false false).flatten
    let first := match es with | e :: _ => e.seq.toNat | [] => le b 0 4
    let oldest := match s.logs.events with | e :: _ => e.seq.toNat | [] => s.logs.evNext.toNat
    checked [need (decide (1 ≤ le b 4 4 ∧ le b 4 4 ≤ 4096)) (.range 4), need (le b 8 8 % 64 == 0) (.range 8), rsvd b 16 8,
        need (es.isEmpty || !s.dmaBad (le b 8 8) data.length) (.range 0xFFFD)]
      (toLE 4 first ++ toLE 4 es.length ++ toLE 4 oldest ++ toLE 4 s.logs.evNext.toNat) s (s.hostWrite (le b 8 8) data)

/-! HEALTH_READ (R403, R468). -/

/-- The retained records of a die from an index on, at most n, in index order: those in flash and those still cached. -/
def ledgerFrom (s : State) (die start n : Nat) : List (Nat × Bytes) :=
  let l := s.ledger die
  let all := l.cache.foldl (fun t e => t.put e.1 e.2) l.flash
  (all.filter fun e => decide (start ≤ e.1)).take n

/-- HEALTH_READ. -/
def execHealthRead (m : Msg) (s : State) : Out :=
  runMsg 0xB1 m s fun b s =>
    let rs := ledgerFrom s (byteAt b 0) (le b 8 8) (le b 4 4)
    let data := (rs.map fun e => fit 64 e.2).flatten
    let first := match rs with | e :: _ => e.1 | [] => le b 8 8
    let nextIx := match rs.getLast? with | some e => e.1 + 1 | none => first
    checked [need (decide (byteAt b 0 < 5)) (.range 0), rsvd b 1 3, need (decide (1 ≤ le b 4 4 ∧ le b 4 4 ≤ 65536)) (.range 4), rsvd b 24 8,
        need (rs.isEmpty || !s.dmaBad (le b 16 8) data.length) (.range 0xFFFD)]
      (toLE 8 first ++ toLE 8 nextIx ++ toLE 4 rs.length ++ toLE 4 data.length) s (s.hostWrite (le b 16 8) data)

/-! Snapshots (R398, R456 to R458). -/

/-- The sections with counters: ID, counters per entry, entries. -/
def snapSections : List (Nat × Nat × Nat) :=
  [(0x01, 17, 1), (0x02, 37, 1028), (0x03, 11, 1056), (0x04, 12, 32), (0x05, 11, 4), (0x06, 17, 528), (0x07, 56, 4096), (0x08, 9, 4096), (0x09, 5, 4096),
   (0x0A, 22, 128), (0x0B, 2, 6), (0x0C, 13, 128), (0x0D, 7, 1), (0x0E, 7, 1), (0x0F, 19, 5)]

/-- Bytes of an entry of n counters. -/
def entryBytes (n : Nat) : Nat := 8 * (ceilDiv n 64 + n)

/-- The circuit port of an entry of the CIRCUIT section. -/
def circPort (s : State) (e : Nat) : Option Nat := s.fabric.plan.circOrder[e]?

/-- The die whose latch takes an entry's counters. A peal's stand with the lowest of its regions. -/
def entryDie (s : State) (sec e : Nat) : Nat :=
  match sec with
  | 0x02 => if e < 1024 then e / 256 else 4
  | 0x03 => if e < 1024 then e / 256 else 4
  | 0x04 => e / 8
  | 0x05 => e
  | 0x06 => e / 132
  | 0x07 => lowRegion (s.peal e).desc
  | 0x09 => 0
  | 0x0A => e / 32
  | 0x0C => match circPort s e with | some p => regionOfPort p | none => 4
  | _ => 4

/-- The object of an entry exists (R458). -/
def entryExists (s : State) (sec e : Nat) : Bool :=
  match sec with
  | 0x02 => s.hasPort (if e < 1024 then e else weltPort (e - 1024))
  | 0x07 => (s.peal e).st != .free
  | 0x08 => (s.shard e).st != .free
  | 0x09 => (s.spine.homes.look? e).isSome
  | 0x0C => (circPort s e).isSome
  | _ => true

/-- The gauges of a die (R458): TJ, VDD_CORE, throughput index, 16 monitors. -/
def dieGauges (s : State) (die : Nat) : List Nat :=
  [twos (s.chip.tj.getD die 0) 64, s.chip.vdd.getD die 0, s.tiOfDie die] ++ (List.range 16).map fun k => if die < 4 then s.chip.monitors.look (16 * die + k) 0 else 0

/-- The rows of a region that section 0x10 holds: key and entry. -/
def flagRows (s : State) (r : Nat) : List (Nat × Bytes) :=
  (s.peals.map fun e =>
    let (p, pl) := e
    if !pl.isOpen then []
    else (pl.chunks.map fun c =>
      if chunkRegion pl.desc c.1 ≠ r then []
      else (c.2.rows.filter fun x => x.2.sat || x.2.nan || x.2.inf || x.2.loss != 0).map fun x =>
        (p * 2 ^ 24 + x.1, toLE 2 p ++ toLE 1 pl.round ++ toLE 1 r ++ toLE 4 x.1 ++ zeros 8 ++ rowState x.2 c.2.anchor)).flatten).flatten

/-- A die latches its counters, gauges and rows. (DEDUCED, log entry 122). -/
def latchDie (s : State) (die : Nat) (n : Snap) : Snap :=
  let mine := s.logs.ctrs.filter fun c => (let k := c.1 / 1024; let sec := k / 65536; let e := k % 65536
    decide (sec ≤ 0x0E) && entryDie s sec e == die && entryExists s sec e)
  { n with
    cut := mine.foldl (fun t e => t.put e.1 e.2) n.cut
    gauges := ((dieGauges s die).mapIdx fun i v => (19 * die + i, v)).foldl (fun t e => t.put e.1 e.2) n.gauges
    rows := if die < 4 then (flagRows s die).foldl (fun t e => t.put e.1 e.2) n.rows else n.rows }

/-- The bytes of a snapshot's rows, and of a snapshot up to its last byte used. -/
def Snap.used (n : Snap) : Nat := 0x40 + 16 * 16 + (snapSections.map fun e => e.2.2 * entryBytes e.2.1).foldl (· + ·) 0 + 48 * min 65536 n.rows.length

/-- One entry of a section. -/
def Snap.entry (x : Snap) (sec n e : Nat) : Bytes :=
  let c (i : Nat) : Ctr := if sec = 0x0F then ⟨x.gauges.look (19 * e + i) 0, false⟩ else x.cut.look (ctrKey sec e i) ⟨0, false⟩
  ((List.range (ceilDiv n 64)).map fun w => toLE 8 ((List.range (min 64 (n - 64 * w))).foldl (fun a i => a + (if (c (64 * w + i)).sticky then 2 ^ i else 0)) 0)).flatten
    ++ ((List.range n).map fun i => toLE 8 (if ctrError sec i && (c i).sticky then 2 ^ 64 - 1 else (c i).val)).flatten

/-- The directory of a snapshot. -/
def Snap.directory (x : Snap) : Bytes :=
  let (b, off) := snapSections.foldl (fun (a : Bytes × Nat) e =>
    (a.1 ++ toLE 2 e.1 ++ toLE 2 e.2.1 ++ toLE 4 e.2.2 ++ toLE 4 a.2 ++ toLE 4 (entryBytes e.2.1), a.2 + e.2.2 * entryBytes e.2.1)) ([], 0x140)
  b ++ toLE 2 0x10 ++ toLE 2 0 ++ toLE 4 (min 65536 x.rows.length) ++ toLE 4 off ++ toLE 4 48

/-- The used bytes of a snapshot's slot; SEQ_END stands at 0x1FFFFF8. -/
def Snap.bytes (x : Snap) : Bytes :=
  toLE 8 x.num ++ toLE 10 x.stamp.toNat ++ toLE 1 (b2n x.valid) ++ zeros 1 ++ toLE 4 x.used ++ toLE 4 16 ++ toLE 4 x.chip
    ++ toLE 4 (x.rows.length - 65536) ++ zeros 28 ++ x.directory
    ++ (snapSections.map fun e => ((List.range e.2.2).map fun k => x.entry e.1 e.2.1 k).flatten).flatten ++ ((x.rows.take 65536).map fun r => fit 48 r.2).flatten

/-- What a host read of the snapshot window answers. -/
def snapWindow (s : State) (a n : Nat) : Bytes :=
  match s.logs.slots.look? (a / 0x2000000) with
  | none => zeros n
  | some x =>
    let o := a % 0x2000000
    fit n (if o < x.used then x.bytes.drop o else if 0x1FFFFF8 ≤ o then (toLE 8 x.num).drop (o - 0x1FFFFF8) else [])

/-- The response to SNAPSHOT. -/
def snapReply (x : Snap) : Reply :=
  .ok (toLE 8 x.num ++ toLE 1 (x.num % 2) ++ toLE 1 (b2n x.valid) ++ zeros 6 ++ toLE 10 x.stamp.toNat ++ zeros 2 ++ toLE 4 x.used)

/-- Every die that runs has latched: the slot is written and SNAPSHOT answered. -/
def finishFreeze (s : State) : State :=
  match s.logs.freeze with
  | none => s
  | some f =>
    if !([0, 1, 2, 3, 4].all f.latched.contains) then s
    else
      let n := s.logs.snapSeq + 1
      let x := { f.snap with num := n }
      let s := s.modLogs fun l => { l with freeze := none, snapSeq := n, slots := l.slots.put (n % 2) x }
      answerOp 0xB0 f.mbx.val (snapReply x) (bump 0x01 0 14 s)

/-- A die latches, once. (DEDUCED, log entry 122). -/
def latch (die : Nat) (s : State) : State :=
  match s.logs.freeze with
  | none => s
  | some f =>
    if f.latched.contains die then s
    else finishFreeze (s.modLogs fun l => { l with freeze := some { f with latched := insertNat die f.latched, snap := latchDie s die f.snap } })

/-- The regions whose die does not run: fenced at boot by the self-test or for a wrong identity. -/
def silentDies (s : State) : List Nat := (s.chip.regionFence.filter fun e => e.2 == 4 || e.2 == 5).map (·.1)

/-- SNAPSHOT: the hub latches and sends its markers; the response follows the writing of the slot. A die that does not run latches with the hub. -/
def execSnapshot (m : Msg) (s : State) : Out :=
  runMsg 0xB0 m s fun b s =>
    match firstOf [need (byteAt b 0 == 0) (Reply.range 0), rsvd b 1 7, need s.logs.freeze.isNone (.err eBusy)] with
    | some r => (some r, s)
    | none =>
      let x : Snap := { stamp := BitVec.ofNat 80 s.stamp, valid := s.time.valid, chip := s.chip.st.code }
      (none, forAll (silentDies s ++ [4]) (s.modLogs fun l => { l with freeze := some ⟨[], x, m.mbx⟩ }) fun s d => latch d s)

/-! Shadow compare (R399, R400). -/

/-- SHADOW_CONFIG. -/
def execShadowConfig (m : Msg) (s : State) : Out :=
  runMsg 0xE0 m s fun b s =>
    let on := byteAt b 0 == 1
    checked [need (decide (byteAt b 0 < 2)) (.range 0), need (decide (byteAt b 1 < 64) && (!on || byteAt b 1 != 0)) (.range 1), rsvd b 2 2,
        need (decide (1 ≤ le b 4 4 ∧ le b 4 4 ≤ 3600)) (.range 4), need (le b 8 8 % 4096 == 0) (.range 8), need (decide (10 ≤ le b 16 4 ∧ le b 16 4 ≤ 1000)) (.range 16),
        rsvd b 20 12]
      [] s (s.modHost fun h => { h with shadow := { enable := on, tables := byteAt b 1, passS := le b 4 4, addr := le b 8 8, maxMbps := le b 16 4 } })

/-- The bits of a window byte whose Access is LK and that the part does not write itself (R400). -/
def shadowBits (a : Nat) : Nat :=
  match segOf (a / 4096) with
  | .group _ | .leaf _ => let f := a % 256; if f = 0 then 127 else if f < 16 ∨ 144 ≤ f then 0 else if f % 2 = 1 then 127 else 255
  | .exc _ => (match a % 8 with | 0 => 247 | 1 => 63 | 2 => 255 | _ => 0)
  | .pool => let o := a - wPool; if o = 0 then 255 else if o < 32 ∨ 224 ≤ o then 0 else if (o - 32) % 32 = 2 ∨ (o - 32) % 32 = 3 ∨ 12 ≤ (o - 32) % 32 then 0 else writable a
  | .member => (match a % 8 with | 0 | 1 => 255 | 2 => 127 | _ => 0)
  | _ => writable a

/-- The segments of the tables that a pass reads. -/
def shadowSegs (s : State) : List Nat :=
  let t := s.host.shadow.tables
  let bank := s.fabric.epoch % 2
  let run (i a n : Nat) : List Nat := if bit t i then (List.range n).map (a / 4096 + ·) else []
  run 0 (wGroup bank) 16 ++ run 1 (wLeaf bank) 4 ++ run 2 (wExc bank) 2048 ++ run 3 wMcast 1024
    ++ (if bit t 4 then ((memberRanges s).map fun e => (List.range (e.2 / 512)).map fun i => (memberAddr e.1) / 4096 + i).flatten else []) ++ run 5 wPool 1

/-- The first differing 8-byte word of a segment: its window offset. -/
def shadowDiff (s : State) (g : Nat) : Option Nat :=
  let b := s.hostRead (s.host.shadow.addr + 4096 * g) 4096
  ((List.range 4096).find? fun i => let a := 4096 * g + i; ((BitVec.ofNat 8 (byteAt b i)) ^^^ pubByte s a) &&& BitVec.ofNat 8 (shadowBits a) != 0).map fun i => (4096 * g + i) / 8 * 8

/-- A DMA read of the shadow failed: the pass ends, and the compare with it. -/
def shadowStop (g : Nat) (s : State) : State :=
  postEvent 0x400C (toLE 8 (s.host.shadow.addr + 4096 * g)) (s.modHost fun h => { h with shadow := { h.shadow with enable := false, suspects := [] } })

/-- A pass: every named segment that is not locked is compared; those that differ are read again after 1 ms. (DEDUCED, log entry 120). -/
def execShadowPass (s : State) : Out :=
  if !s.host.shadow.enable then .next s
  else
    let gs := (shadowSegs s).filter fun g => !s.isLocked g
    match gs.find? fun g => s.dmaBad (s.host.shadow.addr + 4096 * g) 4096 with
    | some g => .next (shadowStop g s)
    | none => .next (s.modHost fun h => { h with shadow := { h.shadow with suspects := gs.filter fun g => (shadowDiff s g).isSome, drifted := [], unlocked := [] } })

/-- The second read of a segment that differed. (DEDUCED, log entry 120). -/
def execShadowRecheck (seg : Nat) (s : State) : Out :=
  let h := s.host.shadow
  if !h.enable || !h.suspects.contains seg then .next s
  else if s.dmaBad (h.addr + 4096 * seg) 4096 then .next (shadowStop seg s)
  else
    let s := s.modHost fun x => { x with shadow := { x.shadow with suspects := x.shadow.suspects.erase seg } }
    match shadowDiff s seg with
    | some off =>
      if s.isLocked seg || h.unlocked.contains seg || h.drifted.contains seg then .next s
      else .next (postEvent 0x400A (toLE 8 off) (s.modHost fun x => { x with shadow := { x.shadow with drifted := x.shadow.drifted ++ [seg] } }))
    | none => .next s

end Sys2Proof.Machine
end

