-- ==== Sys2Proof/Machine/Flash.lean ====
section
/-! DEFINITION. Machine/Flash.lean: lasts: their checks, loading, reading and activation, and the boot-control record (R25 to R28, R52 to R64, R149, R418, R478 to R481). -/
namespace Sys2Proof.Machine

/-! Checks of a last (R27). Each answers the DETAIL of the first failure: an offset within the LAST_LOAD body, whose last body starts at 32. -/

/-- Where a byte of a last's body stands in the LAST_LOAD body. -/
def lastOff (o : Nat) : Nat := 32 + o

/-- DETAIL for a BODY_LEN that is not the length the body implies. -/
def lenDetail : Nat := 14

/-- A check on body bytes. -/
def okAt (ok : Bool) (o : Nat) : Option Nat := need ok (lastOff o)

/-- The first failure over the numbers below n. -/
def firstBelow (n : Nat) (f : Nat → Option Nat) : Option Nat := (List.range n).findSome? f

/-- The header of a last, in the order of R27, up to the owner's checks. -/
def headerFault (s : State) (b : Bytes) : Option Nat :=
  let fw := le (partHdr s 0) 8 2
  firstOf [need (byteAt b 1 == 1) 1, need (zeroAt b 2 2) 2, need (zeroAt b 22 10) 22, need (decide (1 ≤ byteAt b 0 ∧ byteAt b 0 ≤ 7)) 0,
    need (decide (le b 14 4 ≤ lastMax (byteAt b 0))) lenDetail, need (le b 18 4 == crc32c (b.drop 32)) 18, need (decide (le b 10 2 ≤ fw)) 10,
    need (decide (fw ≤ le b 12 2)) 12]

/-- The limit of a step in units of 100 ns. -/
def stepTime (r : Bytes) : Nat := le r 2 2 * (if bit (byteAt r 1) 0 then 1000 else 1)

/-- Sum of the limits of a sequence. -/
def seqTime (rs : List Bytes) : Nat := (rs.map stepTime).foldl (· + ·) 0

/-- PARAM lies within the range of its step (R53). -/
def paramOk (op v : Nat) : Bool := if op = 2 ∨ op = 3 then decide (v < 2) else if op = 5 then decide (1 ≤ v ∧ v ≤ 4096) else v == 0

/-- A step record at an offset of the body. -/
def stepFault (b : Bytes) (o : Nat) : Option Nat :=
  let op := byteAt b o
  firstOf [okAt (decide (1 ≤ op ∧ op ≤ 9)) o, okAt (decide (byteAt b (o + 1) < 4)) (o + 1), okAt (le b (o + 2) 2 != 0) (o + 2),
    okAt (paramOk op (le b (o + 4) 4)) (o + 4)]

/-- OP codes strictly increase within a sequence that starts at an offset. -/
def opsRise (b : Bytes) (o n : Nat) : Option Nat := firstBelow (n - 1) fun k => okAt (decide (byteAt b (o + 8 * k) < byteAt b (o + 8 * k + 8))) (o + 8 * k + 8)

/-- A sequence holds a step. -/
def hasStep (rs : List Bytes) (op : Nat) : Bool := rs.any fun r => byteAt r 0 == op

/-- LAST_LINKTRAIN (R54). A missing step or a sum past its limit is no single field's. (DEDUCED, log entry 127). -/
def linktrainFault (s : State) (b : Bytes) : Option Nat :=
  let nf := byteAt b 0
  let nw := byteAt b 1
  let full := trainSteps b false
  let warm := trainSteps b true
  let limit := match s.lasts.look? 6 with | some l => le l.body 0 4 * 10000 | none => 2 ^ 64
  firstOf [need (b.length == 8 + 8 * (nf + nw)) lenDetail, okAt (decide (1 ≤ nf ∧ nf ≤ 9)) 0, okAt (decide (1 ≤ nw ∧ nw ≤ 9)) 1, okAt (zeroAt b 2 6) 2,
    firstBelow (nf + nw) fun k => stepFault b (8 + 8 * k),
    opsRise b 8 nf, opsRise b (8 + 8 * nf) nw,
    need ([1, 3, 4, 6, 7, 8].all (hasStep full)) 0xFFFF, need ([2, 4, 6, 7, 8].all (hasStep warm)) 0xFFFF,
    firstBelow nw fun k => (let o := 8 + 8 * nf + 8 * k; firstOf [okAt (byteAt b o != 2 || bit (byteAt b (o + 4)) 0) (o + 4), okAt (byteAt b o != 3) o]),
    need (decide (seqTime warm ≤ 150)) 0xFFFF, need (decide (seqTime full ≤ limit)) 0xFFFF]

/-- An entry of LAST_EQ after the entry before it (R56). -/
def eqFault (prev : Option Nat) (e : Bytes) (o : Nat) : Option Nat :=
  firstOf [okAt (field (le e 8 2) 13 3 == 0) (o + 8), okAt (field (le e 10 2) 14 2 == 0 && decide (field (le e 10 2) 0 11 ≤ 1055)) (o + 10), okAt (zeroAt e 17 3) (o + 17),
    okAt (match prev with | some k => decide (k < eqKey e) | none => true) o]

/-- The entries of LAST_EQ from one on. -/
def eqFaults (prev : Option Nat) (o : Nat) : List Bytes → Option Nat
  | [] => none
  | e :: t => match eqFault prev e o with | some d => some d | none => eqFaults (some (eqKey e)) (o + 32) t

/-- LAST_MARK (R149). -/
def markFault (b : Bytes) : Option Nat :=
  let point (k : Nat) : Option Nat :=
    let o := 8 * k
    firstOf [okAt (decide (le b o 4 ≤ 199680)) o, okAt (zeroAt b (o + 6) 2) (o + 6),
      okAt (k % 8 == 0 || (decide (le b (o - 8) 4 < le b o 4) && decide (le b (o - 4) 2 ≤ le b (o + 4) 2))) o]
  firstOf [need (b.length == 896) lenDetail, firstBelow 112 point]

/-- LAST_VDERATE (R478). -/
def vderateFault (b : Bytes) : Option Nat :=
  let n := byteAt b 12
  let mv (k : Nat) := le b (16 + 4 * k) 2
  let rate (k : Nat) := le b (18 + 4 * k) 2
  let target := le b 0 2
  let lo := le b 8 2
  let hi := le b 10 2
  let point (k : Nat) : Option Nat :=
    firstOf [okAt (decide (600 ≤ mv k ∧ mv k ≤ 850)) (16 + 4 * k), okAt (decide (1 ≤ rate k ∧ rate k ≤ 1024)) (18 + 4 * k),
      okAt (k == 0 || (decide (mv (k - 1) < mv k) && decide (rate (k - 1) ≤ rate k))) (16 + 4 * k)]
  firstOf [need (b.length == 16 + 4 * n) lenDetail, okAt (decide (680 ≤ target ∧ target ≤ 850)) 0, okAt (decide (680 ≤ le b 2 2 ∧ le b 2 2 ≤ target)) 2,
    okAt (decide (target ≤ le b 4 2 ∧ le b 4 2 ≤ 850)) 4, okAt (decide (1 ≤ byteAt b 6 ∧ byteAt b 6 ≤ 10)) 6, okAt (decide (byteAt b 7 < 2)) 7,
    okAt (decide (lo ≤ 256)) 8, okAt (decide (lo + 8 ≤ hi ∧ hi ≤ 512)) 10, okAt (decide (2 ≤ n ∧ n ≤ 16)) 12, okAt (zeroAt b 13 3) 13,
    firstBelow n point, okAt (mv 0 == 600) 16, need ((List.range n).any fun k => mv k == 700 && rate k == 1024) 0xFFFF]

/-- LAST_THERMAL (R479). -/
def thermalFault (b : Bytes) : Option Nat :=
  let n := byteAt b 0
  let r := byteAt b 1
  let tj (k : Nat) := signed (le b (4 + 4 * k) 2) 16
  let rate (k : Nat) := le b (6 + 4 * k) 2
  let o (k : Nat) := 4 + 4 * n + 4 * k
  let point (k : Nat) : Option Nat :=
    firstOf [okAt (decide (840 ≤ tj k ∧ tj k ≤ 1000)) (4 + 4 * k), okAt (decide (1 ≤ rate k ∧ rate k ≤ 1024)) (6 + 4 * k),
      okAt (k == 0 || (decide (tj (k - 1) < tj k) && decide (rate k ≤ rate (k - 1)))) (4 + 4 * k)]
  let fresh (k : Nat) : Option Nat :=
    firstOf [okAt (decide (byteAt b (o k) ≤ 105)) (o k), okAt ([1, 2, 4].contains (byteAt b (o k + 1))) (o k + 1), okAt (zeroAt b (o k + 2) 2) (o k + 2),
      okAt (k == 0 || (decide (byteAt b (o (k - 1)) < byteAt b (o k)) && decide (byteAt b (o (k - 1) + 1) ≤ byteAt b (o k + 1)))) (o k)]
  firstOf [need (b.length == 4 + 4 * n + 4 * r) lenDetail, okAt (decide (2 ≤ n ∧ n ≤ 16)) 0, okAt (decide (1 ≤ r ∧ r ≤ 8)) 1, okAt (zeroAt b 2 2) 2,
    firstBelow n point, okAt (tj 0 == 840) 4, okAt (rate 0 == 1024) 6, firstBelow r fresh, okAt (byteAt b (o (r - 1) + 1) == 4) (o (r - 1) + 1)]

/-- LAST_PORTSM (R63), and the sum of the FULL sequence in force against TRAIN_TIMEOUT_MS (R54). -/
def portsmFault (s : State) (b : Bytes) : Option Nat :=
  let f (o n lo hi : Nat) : Option Nat := okAt (decide (lo ≤ le b o n ∧ le b o n ≤ hi)) o
  let full := match s.lasts.look? 1 with | some l => seqTime (trainSteps l.body false) | none => 0
  firstOf [need (b.length == 44) lenDetail, f 0 4 10 10000, f 4 4 100 100000, f 8 4 1 10000, f 12 4 (le b 8 4) 100000, f 16 4 10 60000,
    f 20 4 (le b 16 4) 600000, f 24 2 1 16, okAt (zeroAt b 26 2) 26, f 28 4 60 86400, f 32 2 1 16, okAt (zeroAt b 34 2) 34, f 36 4 100 60000,
    f 40 4 100 1000000, okAt (decide (full ≤ le b 0 4 * 10000)) 0]

/-- The bits R38 reserves for a type, as a mask. -/
def reservedMask (typ : Nat) : Nat := let (lo, n) := reservedLow typ; 2 ^ (lo + n) - 2 ^ lo

/-- The bits a LAST_CELLFMT record names. -/
def fmtBits (b : Bytes) (o : Nat) : Nat := 2 ^ (byteAt b (o + 3) + 1) - 2 ^ byteAt b (o + 2)

/-- LAST_CELLFMT (R64). -/
def cellfmtFault (b : Bytes) : Option Nat :=
  let n := b.length / 8
  let rec_ (k : Nat) : Option Nat :=
    let o := 8 * k
    let t := byteAt b (o + 1)
    firstOf [okAt (byteAt b o != 0) o, okAt (decide (1 ≤ t ∧ t < 16)) (o + 1), okAt (decide (byteAt b (o + 2) ≤ byteAt b (o + 3))) (o + 2),
      okAt (decide (byteAt b (o + 3) ≤ 58)) (o + 3), okAt (fmtBits b o &&& reservedMask t == fmtBits b o) (o + 2), okAt (byteAt b (o + 4) == 0) (o + 4),
      okAt (zeroAt b (o + 5) 3) (o + 5),
      okAt ((List.range k).all fun j => byteAt b (8 * j + 1) != t || (fmtBits b (8 * j) &&& fmtBits b o) == 0) o]
  firstOf [need (b.length % 8 == 0 && decide (n ≤ 64)) lenDetail, firstBelow n rec_]

/-- The owner chapter's checks of a body. -/
def ownerFault (s : State) (id : Nat) (b : Bytes) : Option Nat :=
  match id with
  | 1 => linktrainFault s b
  | 2 => firstOf [need (b.length % 32 == 0) lenDetail, eqFaults none 0 (eqEntries b)]
  | 3 => markFault b
  | 4 => thermalFault b
  | 5 => vderateFault b
  | 6 => portsmFault s b
  | _ => cellfmtFault b

/-- Every check of R27 on a whole last, header and body. (DEDUCED, log entry 127). -/
def lastFault (s : State) (b : Bytes) : Option Nat := firstOf [headerFault s b, ownerFault s (byteAt b 0) (b.drop 32)]

/-! The boot-control record (R418). -/

/-- Change the flash. -/
def State.modFlash (s : State) (f : Flash → Flash) : State := { s with flash := f s.flash }

/-- The boot-control record is written: WRITE_SEQ rises. -/
def writeBcr (f : Flash → Flash) (s : State) : State := s.modFlash fun x => { f x with writeSeq := x.writeSeq + 1, bcrOk := true }

/-- A bit map with one bit set to a value. -/
def setBit (m i v : Nat) : Nat := setField m i 1 v

/-- The bank LAST_SEL selects for a last. -/
def lastBank (f : Flash) (id : Nat) : Nat := field f.lastSel (id - 1) 1

/-! Loading and activation (R28, R425). -/

/-- A last runs from now on. -/
def runLast (id : Nat) (h b : Bytes) (s : State) : State := { s with lasts := s.lasts.put id ⟨h, b, none⟩ }

/-- The pending LAST_CELLFMT takes effect (R64): its selection bit flips. -/
def activateFmt (s : State) : State :=
  match s.lasts.look? 7 with
  | some l =>
    match l.pending with
    | some (h, b) => if s.fabric.tags.isEmpty then writeBcr (fun f => { f with lastSel := setBit f.lastSel 6 (1 - lastBank f 7) }) (runLast 7 h b s) else s
    | none => s
  | none => s

/-- The next moment when no job tag is admitted. -/
def execLastCellfmtActivate (s : State) : Out := .next (activateFmt s)

/-- A last that has passed its checks is written into its sub-slot of the bank LAST_SEL does not select, and changes over at its activation
point. -/
def installLast (b : Bytes) (s : State) : State :=
  let id := byteAt b 0
  let h := b.take 32
  let x := b.drop 32
  let nb := 1 - lastBank s.flash id
  let s := s.modFlash fun f => { f with lasts := f.lasts.put (8 * nb + id) (h, x, true) }
  if id = 7 ∧ !s.fabric.tags.isEmpty then
    let old := s.lasts.look 7 ⟨[], [], none⟩
    { s with lasts := s.lasts.put 7 { old with pending := some (h, x) } }
  else writeBcr (fun f => { f with lastSel := setBit f.lastSel (id - 1) nb }) (runLast id h x s)

/-- A last's load is pending. -/
def lastPending (s : State) (id : Nat) : Bool := match s.lasts.look? id with | some l => l.pending.isSome | none => false

/-- A part is in trial (R430). -/
def inTrial (s : State) (part : Nat) : Bool := bit s.flash.trial part

/-! Leaving SELFTEST (R436). -/

/-- The lowest last that is loaded in neither copy (R28): 0 none. -/
def missingLast (s : State) : Nat := (([1, 2, 3, 4, 5, 6, 7] : List Nat).find? fun i => (s.lasts.look? i).isNone).getD 0

/-- The body of a POWER_UP record of a die (R464). -/
def powerUpBody (s : State) (die : Nat) : Bytes :=
  let l := s.ledger die
  toLE 4 l.hours ++ toLE 2 l.fences ++ toLE 1 (l.spares.foldl (fun m e => m ||| 2 ^ e.1) 0) ++ zeros 1
    ++ toLE 4 (l.channels.foldl (fun m c => m ||| 2 ^ (c % 32)) 0) ++ toLE 4 ((l.frames.map fun e => e.2.length).foldl (· + ·) 0) ++ verTriple (partHdr s 0)
    ++ toLE 1 s.flash.partSel

/-- The pool table takes the values of its Reset column, in all four replicas (R323). -/
def loadPools (s : State) : State :=
  (s.modMem fun x => { x with tbl := x.tbl.clear wPool 4096 }).modFabric fun f => { f with
    replicas := f.replicas.filter fun e => !(decide (wPool ≤ e.1) && decide (e.1 < wPool + 4096))
    badSegs := f.badSegs.filter (· != wPool / 4096) }

/-- The chip leaves SELFTEST once its items have run and nothing holds it: the pool table (R323), POWER_UP records, the stored TIME record, the CXL link. (DEDUCED, log entry 114). -/
def leaveSelftest (s : State) : State :=
  let bad := missingLast s
  let s := s.modChip fun c => { c with lastBad := bad }
  if s.chip.st != .selftest || !s.chip.tested then s
  else if s.chip.hubBad || s.chip.partBad != 0 || bad != 0 then s.modHost fun h => { h with cxlUp := s.chip.cxlClk }
  else
    let failed := !s.chip.noSummary.isEmpty || s.chip.regionFence.any fun e => e.2 == 4
    let s := loadPools s
    let s := setChip (calledFor s) (if failed then 1 else 0) s
    let s := forAll [0, 1, 2, 3, 4] s fun s d => ledgerAdd d 0x01 (powerUpBody s d) s
    let s := s.modHost fun h => { h with cxlUp := s.chip.cxlClk }
    match s.flash.cfg.look? (256 * s.flash.cfgSel + 1) with
    | some r => applyTime r.body s
    | none => s

/-! Messages. -/

/-- LAST_LOAD. The refusals with E_BUSY come after every check of R27. (DEDUCED, log entry 129). -/
def execLastLoad (m : Msg) (s : State) : Out :=
  runMsg 0xD0 m s fun b s =>
    let id := byteAt b 0
    match lastFault s b with
    | some d => (some (.range d), s)
    | none =>
      if lastPending s id || s.ctl.stageSt.look 4 0 == 2 || inTrial s 4 then (some (.err eBusy), s)
      else
        let s := installLast b s
        (some (.ok (toLE 1 id ++ toLE 1 (b2n (lastPending s id)) ++ zeros 6)), leaveSelftest s)

/-- A last as LAST_QUERY returns it: LAST_EQ merged with what was learned (R57), its header's BODY_LEN and BODY_CRC over what is returned. (DEDUCED, log entry 128). -/
def lastRead (s : State) (id : Nat) (h b : Bytes) : Bytes :=
  if id = 2 then
    let x := (eqMerged s).flatten
    putLE (putLE h 14 4 x.length) 18 4 (crc32c x) ++ x
  else h ++ b

/-- LAST_QUERY. -/
def execLastQuery (m : Msg) (s : State) : Out :=
  runMsg 0xD1 m s fun b s =>
    let id := byteAt b 0
    let l := s.lasts.look? id
    match firstOf [need (decide (1 ≤ id ∧ id ≤ 7)) (Reply.range 0), need (decide (byteAt b 1 < 2)) (.range 1), rsvd b 2 6] with
    | some r => (some r, s)
    | none =>
      match byteAt b 1, l with
      | 0, some l => (some (.ok (lastRead s id l.header l.body)), s)
      | _, some l => (some (match l.pending with | some (h, x) => .ok (h ++ x) | none => .err eState), s)
      | _, none => (some (.err eState), s)

end Sys2Proof.Machine
end

