-- ==== Sys2Proof/Machine/Update.lean ====
section
/-! DEFINITION. Machine/Update.lean: images, compatibility, staging records, activation, trials, configuration records and attestation (R410, R414 to R422, R426 to R433). -/
namespace Sys2Proof.Machine

/-! Images (R415, R416). -/

/-- Bytes of the slot of a part (R411). -/
def slotBytes (part : Nat) : Nat := if part = 0 then 25165824 else 8388608

/-- The manifest header of an image is well laid out for a part (R415). -/
def manifestOk (part : Nat) (h : Bytes) : Bool :=
  le h 0 4 == 0x4E414D4B && byteAt h 4 == 1 && byteAt h 5 == part && zeroAt h 6 2 && zeroAt h 14 2 && decide (le h 20 4 ≤ slotBytes part - 4096)
    && le h (56 + 4 * part) 4 == 0 && (part == 0 || le h 76 4 == 0) && decide (le h 80 4 < 2) && zeroAt h 84 44

/-- SVN of an image. -/
def svnOf (h : Bytes) : Nat := le h 16 4

/-- Major version of an image. -/
def majorOf (h : Bytes) : Nat := le h 8 2

/-- NEEDS_PAUSE. -/
def needsPause (h : Bytes) : Bool := bit (byteAt h 80) 0

/-- The floor of a part (R419). -/
def floorOf (f : Flash) (part : Nat) : Nat := f.floors.getD part 0

/-- The image of a part in a bank. -/
def imageAt (f : Flash) (bank part : Nat) : Option Image := f.images.look? (5 * bank + part)

/-- An image is valid (R415). -/
def imageValid (f : Flash) (part : Nat) (i : Image) : Bool :=
  manifestOk part i.hdr && i.sigOk && decide (floorOf f part ≤ svnOf i.hdr) && i.hashOk

/-- The valid image of a part in a bank. -/
def validAt (f : Flash) (bank part : Nat) : Option Image := match imageAt f bank part with | some i => if imageValid f part i then some i else none | none => none

/-- The major of p lies within COMPAT[p] of q's manifest. -/
def admits (q : Bytes) (p : Nat) (hp : Bytes) : Bool := decide (le q (56 + 4 * p) 2 ≤ majorOf hp ∧ majorOf hp ≤ le q (58 + 4 * p) 2)

/-- Two parts accept one another. -/
def pairOk (p : Nat) (hp : Bytes) (q : Nat) (hq : Bytes) : Bool := admits hq p hp && admits hp q hq

/-- The COMPAT range of a last's header holds a control firmware major. -/
def lastAdmits (h : Bytes) (major : Nat) : Bool := decide (le h 10 2 ≤ major ∧ major ≤ le h 12 2)

/-- A set of parts (by part number) with a set of lasts is compatible (R416). -/
def compatible (set : Tbl Bytes) (lasts : List Bytes) : Bool :=
  (set.all fun a => set.all fun b => a.1 == b.1 || admits b.2 a.1 a.2)
    && (match set.look? 0 with | some h => lasts.all fun l => lastAdmits l (majorOf h) | none => true)

/-- The headers of the lasts in force. -/
def lastHeaders (s : State) : List Bytes := s.lasts.map fun e => e.2.header

/-- The headers of the lasts of a bank. -/
def bankLasts (f : Flash) (bank : Nat) : List Bytes := (List.range 7).filterMap fun k => (f.lasts.look? (8 * bank + k + 1)).map fun e => e.1

/-! Staging records (R433). -/

/-- The bank a part runs from: a part 3 that waits for the next power-up still runs from the bank selected before. -/
def runBank (s : State) (part : Nat) : Nat :=
  if part = 3 ∧ inTrial s 3 then field s.flash.prevPart 3 1 else field s.flash.partSel part 1

/-- STATE of a staging record. -/
def stageState (s : State) (part : Nat) : Nat :=
  if (match s.ctl.act with | some a => a.part == part | none => false) then 4
  else if inTrial s part then (if part = 3 then 6 else 5)
  else s.ctl.stageSt.look part 0

/-- The staged image of a part: STAGED, or waiting for the next power-up. -/
def stagedImage (s : State) (part : Nat) : Option Image :=
  if s.ctl.stageSt.look part 0 = 2 then imageAt s.flash (1 - field s.flash.partSel part 1) part
  else if part = 3 ∧ inTrial s 3 then imageAt s.flash (field s.flash.partSel 3 1) 3
  else none

/-- The lasts that would run with a staged image of a part. -/
def lastsWith (s : State) (part : Nat) : List Bytes :=
  if part = 4 then bankLasts s.flash (1 - field s.flash.partSel 4 1) else lastHeaders s

/-- The running headers, one part replaced. -/
def setWith (s : State) (part : Nat) (h : Bytes) : Tbl Bytes := Tbl.put (s.ctl.running.map fun e => (e.1, e.2.hdr)) part h

/-- Activating a staged image of a part breaks compatibility with part p (R433, byte 48). -/
def breaksWith (s : State) (part p : Nat) (h : Bytes) : Bool :=
  p != part && match s.ctl.running.look? p with
    | none => false
    | some q =>
      !pairOk part h p q.hdr
        || (part == 0 && p == 4 && !(lastHeaders s).all fun l => lastAdmits l (majorOf h))
        || (part == 4 && p == 0 && !(lastsWith s 4).all fun l => lastAdmits l (majorOf q.hdr))

/-- The result of activating a staged image would still agree with the twin (R305, R426). -/
def twinAgrees (s : State) (part : Nat) (h : Bytes) : Bool :=
  let t := s.twin.peer
  if s.twin.st != .syncing && s.twin.st != .paired then true
  else match part with
    | 0 => decide (le t 22 2 ≤ majorOf h ∧ majorOf h ≤ le t 24 2) && decide (le h 76 2 ≤ le t 16 2 ∧ le t 16 2 ≤ le h 78 2)
    | 1 => majorOf h == le t 14 2
    | _ => true

/-- The staging record of a part. -/
def stageRecord (s : State) (part : Nat) : Bytes :=
  let run := partHdr s part
  let st := match stagedImage s part with | some i => i.hdr | none => []
  let held := match s.ctl.staging with | some x => if x.part = part then x.chunks.length else 0 | none => 0
  let breaks := if st = [] then 0 else (List.range 5).foldl (fun m p => m + b2n (breaksWith s part p st) * 2 ^ p) 0
  toLE 1 part ++ toLE 1 (runBank s part) ++ toLE 1 (stageState s part) ++ zeros 1 ++ verTriple run ++ verTriple st ++ toLE 4 (svnOf run) ++ toLE 4 (svnOf st)
    ++ toLE 4 (floorOf s.flash part) ++ fit 20 ((st.drop 56).take 20) ++ toLE 1 breaks ++ toLE 1 (b2n (st != [] && !twinAgrees s part st)) ++ zeros 2 ++ toLE 4 held ++ zeros 8

/-- The five staging records. -/
def stageRecords (s : State) : Bytes := ((List.range 5).map (stageRecord s)).flatten

/-- FW_STAGE_STATUS. -/
def execFwStageStatus (m : Msg) (s : State) : Out := runMsg 0xC0 m s fun _ s => checked [] (stageRecords s) s s

/-! Configuration records (R431, R432). -/

/-- The body of a configuration record in force, or its shipped values. -/
def cfgBody (s : State) (typ : Nat) : Option Bytes :=
  match s.flash.cfg.look? (256 * s.flash.cfgSel + typ) with
  | some r => some r.body
  | none =>
    match typ with
    | 1 => some ([1, 128, 0, 0] ++ toLE 4 1000 ++ zeros 24)
    | 2 => some (zeros 4 ++ toLE 4 60)
    | 3 => some (zeros 36 ++ toLE 2 7651)
    | _ => none

/-- MODE of the ACTIVATION record is HANDOVER. -/
def wantsHandover (s : State) : Bool := match cfgBody s 2 with | some b => byteAt b 0 == 1 | none => false

/-- The record version the control firmware knows. (DEDUCED, log entry 137). -/
def knownVer : Nat := 1

/-- A control firmware's first start (R432): older records go forward, with every other record, into the area CFG_SEL does not name. (DEDUCED, log entry 137). -/
def migrate (s : State) : State :=
  let f := s.flash
  let mine := f.cfg.filter fun e => e.1 / 256 == f.cfgSel
  if mine.all fun e => decide (knownVer ≤ e.2.ver) then s
  else
    let dest := 1 - f.cfgSel
    let kept : Tbl CfgRec := f.cfg.filter fun e => e.1 / 256 != dest
    let moved := mine.foldl (fun (t : Tbl CfgRec) e => t.put (256 * dest + e.1 % 256) { e.2 with ver := max knownVer e.2.ver }) kept
    writeBcr (fun f => { f with cfg := moved, prevCfg := f.cfgSel, cfgSel := dest }) s

/-! Trials (R410, R427, R430). -/

/-- A chip-level event that a trial ended: 0 committed, 1 reverted. -/
def trialEvent (part outcome : Nat) (h : Bytes) (s : State) : State := postEvent 0x4012 ([BitVec.ofNat 8 part, BitVec.ofNat 8 outcome] ++ verTriple h) s

/-- The boot-control record selects the staged bank of a part and sets TRIAL (R426): the commit point of an activation. -/
def selectStaged (part : Nat) (s : State) : State :=
  let nb := 1 - field s.flash.partSel part 1
  let s := writeBcr (fun f => { f with
    prevPart := f.partSel, prevLast := f.lastSel, prevCfg := f.cfgSel, partSel := setBit f.partSel part nb
    lastSel := if part = 4 then 127 * nb else f.lastSel, trial := setBit f.trial part 1 }) s
  s.modCtl fun c => { c with stageSt := c.stageSt.put part 0, trialAt := s.now }

/-- The selection before the trial of a part is restored, and its TRIAL bit cleared. -/
def restoreSel (part : Nat) (s : State) : State :=
  writeBcr (fun f => { f with
    partSel := setBit f.partSel part (field f.prevPart part 1), lastSel := if part = 4 then f.prevLast else f.lastSel
    cfgSel := if part = 0 then f.prevCfg else f.cfgSel, trial := setBit f.trial part 0 }) s

/-- A part runs the image its selection names. -/
def runSelected (part : Nat) (s : State) : State :=
  match imageAt s.flash (field s.flash.partSel part 1) part with
  | some i => s.modCtl fun c => { c with running := c.running.put part i }
  | none => s

/-- The lasts run the copies their selection names; a copy that fails its own check leaves the copy of the other bank (R28). -/
def runSelectedLasts (s : State) : State :=
  forAll [1, 2, 3, 4, 5, 6, 7] s fun s id =>
    let copy (b : Nat) := match s.flash.lasts.look? (8 * b + id) with | some (h, x, true) => some (h, x) | _ => none
    let b := lastBank s.flash id
    let (bank, got) := match copy b with | some c => (b, some c) | none => (1 - b, copy (1 - b))
    match got with
    | none => s
    | some (h, x) =>
      let s := if bank = b then s else s.modFlash fun f => { f with lastSel := setBit f.lastSel (id - 1) bank }
      if id = 7 ∧ !s.fabric.tags.isEmpty then
        let old := s.lasts.look 7 ⟨[], [], none⟩
        if old.header = h ∧ old.body = x then s else { s with lasts := s.lasts.put 7 { old with pending := some (h, x) } }
      else runLast id h x s

/-- Every last in force, or pending, passes R27. (DEDUCED, log entry 129). -/
def lastsPass (s : State) : Bool :=
  s.lasts.all fun e =>
    let (h, b) := match e.2.pending with | some x => x | none => (e.2.header, e.2.body)
    (lastFault s (h ++ b)).isNone

/-- A part in trial goes back to what ran before (R430), with its event; what a crash counts is the crash's own. -/
def revertPart (part : Nat) (s : State) : State :=
  let h := partHdr s part
  let s := trialEvent part 1 h (runSelected part (restoreSel part s))
  if part = 4 then
    let s := { s with lasts := s.lasts.mod 7 fun l => { l with pending := none } }
    runSelectedLasts s
  else s

/-- The counter record changes (R419): the RPMC counter follows its SEQ. -/
def countWrite (f : Flash → Flash) (s : State) : State := s.modFlash fun x => { f x with ctrSeq := x.ctrSeq + 1 }

/-- The trial of a part commits (R430): its floor rises, TRIAL clears, and the old configuration area of part 0 is released. A control
firmware activated in SAFE_MONITOR takes the chip out of it (R435). -/
def commitPart (part : Nat) (s : State) : State :=
  let h := partHdr s part
  let s := if floorOf s.flash part < svnOf h then countWrite (fun f => { f with floors := setNth 5 f.floors part (svnOf h) }) s else s
  let s := writeBcr (fun f => { f with
    trial := setBit f.trial part 0, cfg := if part = 0 ∧ f.prevCfg ≠ f.cfgSel then f.cfg.filter fun e => e.1 / 256 == f.cfgSel else f.cfg }) s
  let s := trialEvent part 0 h s
  if part = 0 ∧ s.ctl.safeTrial then settle 15 (s.modCtl fun c => { c with safe := false, safeTrial := false, crashAt := [] }) else s

/-- TRIAL_S has passed without a crash. Part 3 ends its trial at the next power-up; part 0 needs every control service running. -/
def execTrialExpiry (s : State) : Out :=
  .next (forAll [0, 1, 2, 4] s fun s p => if inTrial s p && (p != 0 || !coresDown s) then commitPart p s else s)

/-- The SerDes firmware reports a fault in its trial. -/
def execSerdesFirmwareFault (s : State) : Out := .next (if inTrial s 2 then revertPart 2 s else s)

/-! Activation (R426 to R429). -/

/-- The body of FW_ACTIVATE's response. -/
def activateBody (before : Bytes) (mode : Nat) : Bytes := fit 6 before ++ toLE 1 mode ++ zeros 1

/-- LIB_MAJOR of a user program's image (R259). -/
def progLib (s : State) (pid : Nat) : Nat := imageN s pid 2 2

/-- A new library major rejects the admitted user programs of another one with reason VERSION (R266). -/
def rejectPrograms (major : Nat) (s : State) : State :=
  let pids := ((listedIn s.mem.tbl wProg 0x10000 64).map (0x100 + ·)).filter fun p => progState s p == 2 && progLib s p != major
  forAll pids s fun s p => setVerdict p 3 4 (le (s.tbl (dirAddr p + 16) 4) 0 4) (le (s.tbl (dirAddr p + 20) 4) 0 4) s

/-- The loader of part 1, 2, 3 or 4 runs. (DEDUCED, log entry 130). -/
def loadPart (part : Nat) (s : State) : State :=
  match part with
  | 1 =>
    let old := libMajor s
    let s := runSelected 1 s
    if libMajor s ≠ old then rejectPrograms (libMajor s) s else s
  | 2 => runSelected 2 s
  | 4 =>
    let s := runSelectedLasts (runSelected 4 s)
    if lastsPass s then s else revertPart 4 s
  | _ => s

/-- Messages in flight on the cores whose commit point has not passed (R387): PEAL_ARMs that wait for the twin. They are answered when the
cores run again. -/
def dropFlight (s : State) : State := forAll s.peals.keys s fun s p => s.modPeal p fun q => { q with armMbx := [] }

/-- FW_ACTIVATE. Part 3 waits for the next power-up; parts 1, 2 and 4 load at once; the cores restart for part 0 (PAUSE_RESTART_COMPLETE), or
new instances start beside the old ones (HANDOVER_CUT). (DEDUCED, log entry 130). -/
def execFwActivate (m : Msg) (s : State) : Out :=
  runMsg 0xC1 m s fun b s =>
    let p := byteAt b 0
    let st := (stagedImage s p).getD ⟨[], false, false⟩
    let before := verTriple (partHdr s p)
    let hand := p == 0 && wantsHandover s && !needsPause st.hdr
    let bad := firstOf [need (decide (p < 5)) (Reply.range 0), rsvd b 1 7, rsvd b 14 2, need (s.ctl.stageSt.look p 0 == 2) (.err eState),
      need ((b.drop 8).take 6 == verTriple st.hdr) (.range 8), need (s.ctl.act.isNone && s.flash.trial == 0) (.err eBusy),
      need (match s.chip.st with | .service | .pairing | .degraded => true | .safeMonitor => p == 0 | _ => false) (.err eState),
      need (imageValid s.flash p st) (.err eAuth), need (compatible (setWith s p st.hdr) (lastsWith s p)) (.err eState),
      need (!(p == 1 && majorOf st.hdr != libMajor s && !(heldPeals s).isEmpty)) (.err eState), need (twinAgrees s p st.hdr) (.err eTwin),
      need (!hand || s.host.features.getLsbD 5) (.err eFeature)]
    match bad with
    | some r => (some r, s)
    | none =>
      let act : Activation := ⟨p, hand, m.mbx, before⟩
      if hand then (none, s.modCtl fun c => { c with act := some act, safeTrial := s.chip.st == .safeMonitor })
      else
        let s := selectStaged p s
        if p = 0 then
          let s := dropFlight (s.modCtl fun c => { c with act := some act, safeTrial := s.chip.st == .safeMonitor, restarts := c.restarts + 1 })
          (none, bump 0x01 0 12 s)
        else (some (.ok (activateBody before 0)), loadPart p s)

/-! Attestation (R420 to R422). -/

/-- The module record (R414). -/
def moduleBytes (r : ModuleRec) : Bytes :=
  toLE 4 0x444F4D4B ++ [1] ++ zeros 3 ++ fit 16 r.ordering ++ fit 2 r.stepping ++ fit 12 r.serial ++ fit 4 r.date ++ zeros 6
    ++ ((List.range 5).map fun i => toLE 8 (r.dieIds.getD i 0).toNat).flatten ++ fit 56 r.idKey ++ zeros 112 ++ fit 2964 r.sig

/-- A measurement of the quote. -/
def measure5 (s : State) (part : Nat) : Bytes :=
  let h := partHdr s part
  toLE 1 part ++ toLE 1 (runBank s part) ++ toLE 1 (if !inTrial s part then 0 else if part = 3 then 2 else 1) ++ zeros 1 ++ verTriple h ++ zeros 2 ++ toLE 4 (svnOf h)
    ++ fit 32 (Config.sha256 (fit 128 h))

/-- The quote up to its signature. -/
def quoteBody (s : State) (nonce : Bytes) (idx : Nat) : Bytes :=
  toLE 4 0x4554514B ++ [1] ++ toLE 1 s.chip.st.code ++ toLE 1 s.twin.st.code ++ toLE 1 (s.twin.taken % 16) ++ fit 32 nonce
    ++ toLE 8 (if s.twin.st == .solo then 0 else le s.twin.peer 0 8) ++ toLE 10 s.stamp ++ toLE 1 (b2n s.time.valid) ++ zeros 1 ++ toLE 4 idx
    ++ ((List.range 5).map (measure5 s)).flatten ++ ((List.range 5).map fun p => toLE 4 (floorOf s.flash p)).flatten ++ toLE 4 s.ctl.restarts.toNat
    ++ toLE 4 3220 ++ zeros 4 ++ moduleBytes s.flash.record

/-- Blocks of LMS indices the identity key has. -/
def lmsBlocks : Nat := 32768

/-- The index of the next signature (R420): from the pointer, or the first of a block reserved now. The last block's reservation exhausts the
key, which an event reports. (DEDUCED, log entry 135). -/
def nextIndex (s : State) : Nat × State :=
  match s.ctl.lmsPtr with
  | some i => if i % 1024 != 0 then (i, s) else reserveBlock s
  | none => reserveBlock s
where
  /-- Reserve block LMS_NEXT. -/
  reserveBlock (s : State) : Nat × State :=
    let b := s.flash.lmsNext
    let s := countWrite (fun f => { f with lmsNext := f.lmsNext + 1 }) s
    (1024 * b, if b + 1 = lmsBlocks then postEvent 0x4013 [] s else s)

/-- ATTEST. (DEDUCED, log entry 135). -/
def execAttest (m : Msg) (s : State) : Out :=
  runMsg 0xC2 m s fun b s =>
    let soon := match s.ctl.quoteAt with | some t => decide (s.now < t + 10000000000) | none => false
    match firstOf [rsvd b 32 8, need (decide (s.flash.lmsNext < lmsBlocks)) (Reply.err eState), need (!soon) (.err eBusy)] with
    | some r => (some r, s)
    | none =>
      let (i, s) := nextIndex s
      let q := quoteBody s (b.take 32) i
      (some (.ok (q ++ fit 1932 (Config.lmsSign i q))), s.modCtl fun c => { c with lmsPtr := some (i + 1), quoteAt := some s.now })

end Sys2Proof.Machine
end

