-- ==== Sys2Proof/Machine/Service.lean ====
section
/-! DEFINITION. Machine/Service.lean: the service port: sessions, staging, configuration, the operator key and the ledger (R423 to R425, R431, R468, R486). -/
namespace Sys2Proof.Machine

/-! Datagrams and sessions (R423). -/

/-- The header of a datagram with its MAC zero. -/
def dgramHeader (ver kind : Byte) (cmd session seq status len : Nat) : Bytes :=
  [ver, kind] ++ toLE 2 cmd ++ toLE 4 session ++ toLE 4 seq ++ toLE 2 status ++ toLE 2 len ++ zeros 32

/-- The operator key (R413, R424). -/
def State.opk (s : State) : Option Bytes := (s.flash.cfg.look? (256 * s.flash.cfgSel + 4)).map (·.body)

/-- A session. -/
def State.svc (s : State) (n : Nat) : Option Svc := s.ctl.sessions.look? n

/-- A datagram's MAC holds under its session's key. (DESIGN CHOICE, log entry 23). -/
def macOk (cmd : Nat) (d : Dgram) (x : Svc) : Bool :=
  x.key != [] && d.mac == fit 32 (Config.hmac x.key (dgramHeader d.ver d.kind cmd d.session.toNat d.seq.toNat 0 d.body.length ++ d.body))

/-- Discard a datagram, and count it. (DEDUCED, log entry 134). -/
def svcDiscard (s : State) : State := bump 0x20 0 4 s

/-- The service port takes datagrams: the module runs and a link is up. -/
def svcUp (s : State) : Bool := !s.chip.inReset && s.chip.svcLink

/-- A new datagram of the part: its SEQ is the next of its session, and a session's key signs it. (DEDUCED, log entry 134). -/
def svcSend (kind cmd session status : Nat) (mac : Bool) (body : Bytes) (s : State) : State :=
  let x := s.svc session
  let seq := match x with | some x => x.txSeq | none => 0
  let sig := match x with
    | some x => if mac then fit 32 (Config.hmac x.key (dgramHeader 1 (BitVec.ofNat 8 kind) cmd session seq status body.length ++ body)) else zeros 32
    | none => zeros 32
  s.modCtl fun c => { c with
    sessions := c.sessions.mod session fun x => { x with txSeq := x.txSeq + 1 }, out := c.out ++ [⟨kind, cmd, session, seq, status, body, sig⟩] }

/-- A command that needs a MAC: discarded unless the datagram is version 1 of the command's KIND with a good MAC and a SEQ above the last
accepted one. In BOOT only SVC_STATUS is answered. -/
def svcCommand (cmd kind : Nat) (d : Dgram) (s : State) (f : Nat → State → State) : Out :=
  if !svcUp s || s.chip.st == .boot then .next s
  else
    let n := d.session.toNat
    match s.svc n with
    | none => .next (svcDiscard s)
    | some x =>
      if d.ver != 1 || d.kind.toNat != kind || !macOk cmd d x || decide (d.seq.toNat ≤ x.rxSeq) then .next (svcDiscard s)
      else
        let s := s.modCtl fun c => { c with sessions := c.sessions.put n { x with rxSeq := d.seq.toNat, at_ := s.now }, out := [] }
        .next (f n s)

/-- A response. (DESIGN CHOICE, log entry 23). -/
def svcReply (cmd n status : Nat) (body : Bytes) (s : State) : State := svcSend 1 cmd n status true (if status = eOk then body else []) s

/-- Run checks on a body of a fixed length; the first that fails is answered. -/
def svcChecked (cmd n : Nat) (len : Bool) (checks : List (Option Nat)) (s : State) (f : State → State) : State :=
  match firstOf (need len eBadLen :: checks) with
  | some e => svcReply cmd n e [] s
  | none => f s

/-- SVC_HELLO: a session opens under the key of both nonces. The part's own nonce is a free value. (DESIGN CHOICE, log entry 18). -/
def execSvcHello (dg : Dgram) (s : State) : Out :=
  if !svcUp s || s.chip.st == .boot then .next s
  else if dg.ver != 1 || dg.kind != 0 || dg.body.length != 32 then .next (svcDiscard s)
  else
    let nonce := toLE 32 (Config.nonceP s.free).toNat
    let n := s.ctl.nextSess
    let key := match s.opk with | some k => fit 32 (Config.hmac k ([0x73, 0x76, 0x63] ++ dg.body ++ nonce)) | none => []
    let s := s.draw.modCtl fun c => { c with nextSess := (n + 1) % 4294967296, sessions := c.sessions.put n ⟨key, 0, 0, s.now, false, false⟩, out := [] }
    let body := nonce ++ toLE 4 n ++ fit 12 s.flash.record.serial ++ toLE 8 s.hubId.toNat ++ toLE 1 (b2n s.opk.isSome)
    .next (svcSend 1 0x01 n eOk false body s)

/-- SVC_STATUS: answered in every chip state. -/
def execSvcStatus (dg : Dgram) (s : State) : Out :=
  if !svcUp s then .next s
  else if dg.ver != 1 || dg.kind != 0 then .next (svcDiscard s)
  else .next (svcSend 1 0x02 dg.session.toNat eOk false (toLE 1 s.chip.st.code ++ toLE 1 s.chip.reason ++ stageRecords s) (s.modCtl fun c => { c with out := [] }))

/-! Staging (R425). -/

/-- The bank that staging of a part writes. -/
def stageBank (s : State) (part : Nat) : Nat := 1 - field s.flash.partSel part 1

/-- STATE of a part's slot. -/
def setStage (part st : Nat) (s : State) : State := s.modCtl fun c => { c with stageSt := c.stageSt.put part st }

/-- The staging ends, with its part's slot in a state. -/
def endStaging (part st : Nat) (s : State) : State := setStage part st (s.modCtl fun c => { c with staging := none })

/-- STAGE_BEGIN: the slot is rewritten, so that what it held is gone. (DEDUCED, log entry 132). -/
def execStageBegin (dg : Dgram) (s : State) : Out :=
  svcCommand 0x10 0 dg s fun n s =>
    let p := byteAt dg.body 0
    let len := le dg.body 4 4
    let acting := match s.ctl.act with | some a => a.part == p | none => false
    let other := match s.ctl.staging with | some x => x.session != n | none => false
    svcChecked 0x10 n (dg.body.length == 8)
      [need (decide (p < 5) && zeroAt dg.body 1 3 && decide (4096 ≤ len ∧ len ≤ slotBytes p)) eRange,
        need (!inTrial s p && !acting && !other && !(p == 4 && lastPending s 7)) eBusy] s fun s =>
      let s := match s.ctl.staging with | some x => setStage x.part 0 s | none => s
      let b := stageBank s p
      let s := s.modFlash fun f => { f with
        images := f.images.del (5 * b + p), lasts := if p = 4 then f.lasts.filter fun e => e.1 / 8 != b else f.lasts }
      svcReply 0x10 n eOk [] (setStage p 1 (s.modCtl fun c => { c with staging := some ⟨n, p, len, []⟩ }))

/-- The lowest chunk not yet held. -/
def nextChunk (x : Staging) : Nat := let n := ceilDiv x.len 1024; ((List.range n).find? fun k => (x.chunks.look? k).isNone).getD n

/-- STAGE_ACK: the part acknowledges what it holds. -/
def stageAck (n : Nat) (x : Staging) (s : State) : State :=
  let k := nextChunk x
  let map := (List.range 64).foldl (fun m i => if (x.chunks.look? (k + 1 + i)).isSome then m + 2 ^ i else m) 0
  svcSend 3 0x12 n 0 true (toLE 4 k ++ toLE 8 map) s

/-- Bytes of the chunks held, from an offset that starts a chunk; a missing chunk stands as erased flash. -/
def chunkBytes (x : Staging) (first count : Nat) : Bytes :=
  ((List.range count).map fun i => let k := first + i; (x.chunks.look? k).getD (List.replicate (min 1024 (x.len - 1024 * k)) 0xFF)).flatten

/-- The early check of a manifest (R425): its header, its signature, its SVN against the floor. -/
def earlyCheck (s : State) (part : Nat) (man : Bytes) : Option Nat :=
  let h := man.take 128
  firstOf [need (manifestOk part h) eRange, need (Config.hssVerify h ((man.drop 128).take 2964)) eAuth, need (decide (floorOf s.flash part ≤ svnOf h)) eRange]

/-- STAGE_DATA: a chunk whose SHA-256 holds is kept and acknowledged; with chunks 0 to 3 held, the manifest is checked. (DEDUCED, log entry 132). -/
def execStageData (dg : Dgram) (s : State) : Out :=
  svcCommand 0x11 2 dg s fun n s =>
    match s.ctl.staging with
    | none => svcReply 0x13 n eState [] s
    | some x =>
      let k := le dg.body 0 4
      let data := dg.body.drop 36
      if x.session != n then svcReply 0x13 n eBusy [] s
      else if decide (ceilDiv x.len 1024 ≤ k) || data.length != min 1024 (x.len - 1024 * k) || (dg.body.drop 4).take 32 != fit 32 (Config.sha256 data) then bump 0x20 0 12 s
      else
        let early := decide (k < 4) && (x.chunks.look? k).isNone
        let x := { x with chunks := x.chunks.put k data }
        let s := s.modCtl fun c => { c with staging := some x }
        let bad := if early && decide (4 ≤ nextChunk x) then earlyCheck s x.part (chunkBytes x 0 4) else none
        match bad with
        | some e => svcReply 0x13 n e [] (endStaging x.part 3 s)
        | none => stageAck n x s

/-- The payload of a staged image as PAYLOAD_LEN and PAYLOAD_SHA256 cover it (R415). -/
def payloadOk (img : Bytes) : Bool := (img.drop 24).take 32 == fit 32 (Config.sha256 ((img.drop 4096).take (le img 20 4)))

/-- A last in the sub-slots of a staged lasts image: its header, its body, and whether its tag or index entry holds (R415). -/
def stagedLast (img : Bytes) (id : Nat) : Bytes × Bytes × Bool :=
  let at_ := img.drop (8192 + 1179648 * (id - 1))
  let tag := at_.take 32
  let h := (at_.drop 32).take 32
  let b := (at_.drop 64).take (min 1048576 (le h 14 4))
  let index := (img.drop (4096 + 32 * (id - 1))).take 32
  (h, b, if zeroAt tag 0 32 then index == fit 32 (Config.sha256 (h ++ b)) else tag == fit 32 (Config.hmac Config.kCfg (h ++ b)))

/-- STAGE_END: the slot is marked STAGED, or INVALID with E_AUTH. -/
def execStageEnd (dg : Dgram) (s : State) : Out :=
  svcCommand 0x13 0 dg s fun n s =>
    match s.ctl.staging with
    | none => svcReply 0x13 n eState [] s
    | some x =>
      if x.session != n then svcReply 0x13 n eBusy [] s
      else
        let img := chunkBytes x 0 (ceilDiv x.len 1024)
        let b := stageBank s x.part
        let ok := (earlyCheck s x.part (img.take 4096)).isNone && payloadOk img
        let i : Image := ⟨img.take 128, Config.hssVerify (img.take 128) ((img.drop 128).take 2964), payloadOk img⟩
        let s := s.modFlash fun f => { f with
          images := f.images.put (5 * b + x.part) i
          lasts := if x.part = 4 then [1, 2, 3, 4, 5, 6, 7].foldl (fun (t : Tbl (Bytes × Bytes × Bool)) k => t.put (8 * b + k) (stagedLast img k)) f.lasts else f.lasts }
        svcReply 0x13 n (if ok then eOk else eAuth) [] (endStaging x.part (if ok then 2 else 3) s)

/-- STAGE_ABORT: the staging is discarded. -/
def execStageAbort (dg : Dgram) (s : State) : Out :=
  svcCommand 0x14 0 dg s fun n s =>
    match s.ctl.staging with
    | none => svcReply 0x14 n eState [] s
    | some x => if x.session != n then svcReply 0x14 n eBusy [] s else svcReply 0x14 n eOk [] (endStaging x.part 0 s)

/-! Configuration (R424, R431). -/

/-- CONFIG_READ: the body of the record that governs, or the shipped values; the operator key comes sealed. (DEDUCED, log entry 133). -/
def execConfigRead (dg : Dgram) (s : State) : Out :=
  svcCommand 0x20 0 dg s fun n s =>
    let t := le dg.body 0 2
    svcChecked 0x20 n (dg.body.length == 2) [need (decide (1 ≤ t ∧ t ≤ 4)) eRange, need (cfgBody s t).isSome eState] s fun s =>
      let b := (cfgBody s t).getD []
      svcReply 0x20 n eOk (if t = 4 then Config.sealOpk b else b) s

/-- The TYPE of a record by the length of its body: TIME 32, ACTIVATION 8, SERVICE_PORT 38. -/
def cfgType (n : Nat) : Option Nat := match n with | 32 => some 1 | 8 => some 2 | 38 => some 3 | _ => none

/-- The ranges of a record body (R370, R431). -/
def cfgOk (t : Nat) (b : Bytes) : Bool :=
  match t with
  | 1 => byteAt b 0 != 0 && decide (byteAt b 0 < 16) && zeroAt b 2 2 && decide (1 ≤ le b 4 4 ∧ le b 4 4 ≤ 3600000) && zeroAt b 8 8
      && decide (le b 16 2 ≤ 10000) && decide (le b 18 2 ≤ 10000) && zeroAt b 21 11
  | 2 => decide (byteAt b 0 < 2) && zeroAt b 1 3 && decide (10 ≤ le b 4 4 ∧ le b 4 4 ≤ 3600)
  | _ => decide (byteAt b 16 ≤ 128) && zeroAt b 17 3

/-- CONFIG_WRITE: a new record with a higher WRITE_SEQ. A SERVICE_PORT record governs from the close of this session. (DEDUCED, log entry 133). -/
def execConfigWrite (dg : Dgram) (s : State) : Out :=
  svcCommand 0x21 0 dg s fun n s =>
    let t := (cfgType dg.body.length).getD 0
    svcChecked 0x21 n (t != 0) [need (cfgOk t dg.body) eRange, need (!inTrial s 0) eBusy] s fun s =>
      let s := putCfg t knownVer dg.body s
      let s := if t = 3 then s.modCtl fun c => { c with sessions := c.sessions.mod n fun x => { x with wrote := true } } else s
      svcReply 0x21 n eOk [] s

/-! The operator key (R424). -/

/-- The operator key changes: keys formed before no longer stand for it. -/
def changeOpk (s : State) : State := s.modCtl fun c => { c with sessions := c.sessions.map fun e => (e.1, { e.2 with stale := true }) }

/-- SET_OPK: without a MAC while no key is set in the first 10 minutes after power-up, and otherwise under the current key. -/
def execSetOpk (dg : Dgram) (s : State) : Out :=
  let n := dg.session.toNat
  if s.opk.isNone then
    if !svcUp s || s.chip.st == .boot then .next s
    else if dg.ver != 1 || dg.kind != 0 || decide (600000000000 ≤ s.now) then .next (svcDiscard s)
    else
      let s := s.modCtl fun c => { c with out := [] }
      if dg.body.length != 32 then .next (svcSend 1 0x30 n eBadLen false [] s)
      else .next (svcSend 1 0x30 n eOk false [] (changeOpk (putCfg 4 knownVer dg.body s)))
  else
    svcCommand 0x30 0 dg s fun n s =>
      let old := match s.svc n with | some x => x.stale | none => true
      svcChecked 0x30 n (dg.body.length == 32) [need (!old) eAuth] s fun s => svcReply 0x30 n eOk [] (changeOpk (putCfg 4 knownVer dg.body s))

/-- CLEAR_OPK: under the vendor's signature over the serial number. -/
def execClearOpk (dg : Dgram) (s : State) : Out :=
  let n := dg.session.toNat
  if !svcUp s || s.chip.st == .boot then .next s
  else if dg.ver != 1 || dg.kind != 0 then .next (svcDiscard s)
  else
    let s := s.modCtl fun c => { c with out := [] }
    if Config.hssVerify (fit 12 s.flash.record.serial) dg.body then
      .next (svcSend 1 0x31 n eOk false [] (changeOpk (s.modFlash fun f => { f with cfg := f.cfg.del (256 * f.cfgSel + 4) })))
    else .next (svcSend 1 0x31 n eAuth false [] s)

/-! The ledger (R468). -/

/-- Data datagrams of at most 16 records. -/
def sendRecords (n : Nat) : Nat → List (Nat × Bytes) → State → State
  | 0, _, s => s
  | k + 1, rs, s =>
    if rs.isEmpty then s
    else sendRecords n k (rs.drop 16) (svcSend 2 0x40 n 0 true ((rs.take 16).map fun e => fit 64 e.2).flatten s)

/-- LEDGER_READ: as HEALTH_READ, the records in data datagrams ahead of the response. -/
def execLedgerRead (dg : Dgram) (s : State) : Out :=
  svcCommand 0x40 0 dg s fun n s =>
    let b := dg.body
    svcChecked 0x40 n (b.length == 32) [need (decide (byteAt b 0 < 5) && zeroAt b 1 3 && decide (1 ≤ le b 4 4 ∧ le b 4 4 ≤ 65536) && zeroAt b 24 8) eRange] s fun s =>
      let rs := ledgerFrom s (byteAt b 0) (le b 8 8) (le b 4 4)
      let first := match rs with | e :: _ => e.1 | [] => le b 8 8
      let nextIx := match rs.getLast? with | some e => e.1 + 1 | none => first
      svcReply 0x40 n eOk (toLE 8 first ++ toLE 8 nextIx ++ toLE 4 rs.length ++ toLE 4 (64 * rs.length)) (sendRecords n (rs.length + 1) rs s)

/-! Expiry and link (R423, R431, R486). -/

/-- A session has been idle for 60 s: it ends, with the staging it ran; a SERVICE_PORT record it wrote governs. -/
def execSvcSessionIdle (session : Nat) (s : State) : Out :=
  match s.svc session with
  | none => .next s
  | some x =>
    let addr := if x.wrote then (cfgBody s 3).getD [] else s.ctl.svcAddr
    let s := match s.ctl.staging with | some g => if g.session = session then endStaging g.part 0 s else s | none => s
    .next (s.modCtl fun c => { c with sessions := c.sessions.del session, svcAddr := addr })

/-- A second of trying one rate ends: the link is up, or the port tries the other rate. Without region 0's reference there is no link. (DEDUCED, log entry 146). -/
def execServicePortLinkAttempt (linkUp : Bool) (s : State) : Out :=
  if s.chip.inReset || s.chip.svcLink then .next s
  else if linkUp && !s.chip.refLost.contains 0 then .next (s.modChip fun c => { c with svcLink := true })
  else .next (s.modChip fun c => { c with svcMode := !c.svcMode })

end Sys2Proof.Machine
end

