-- ==== Sys2Proof/Machine/Ring.lean ====
section
/-! DEFINITION. Machine/Ring.lean: a message rung through the registers, messages that waited for a core, writes to registers without a row of their own, and what a register read shows (R374, R376 to R381, R386, R387). -/
namespace Sys2Proof.Machine

/-- A message whose ACTION is reserved: E_RANGE at its offset, after the port field where one stands before it. -/
def badAction (op off : Nat) (port : Bool) (m : Msg) (s : State) : Out :=
  runMsg op m s fun b s =>
    (firstOf [need (!port || portThere s (le b 0 2)) (Reply.range 0), some (.range off)], s)

/-- The meaning of a message by its opcode and, where one opcode has several rows, its ACTION; a reserved opcode is answered by the checks of
R384. -/
def ringDispatch (op : Nat) (m : Msg) (s : State) : Out :=
  let act (off : Nat) := byteAt (reqBody s m) off
  match op with
  | 0x01 => execHello m s
  | 0x02 => execGoodbye m s
  | 0x10 => execQueryInfo m s
  | 0x20 => execPlanLoad m s
  | 0x21 => execPlanStatus m s
  | 0x30 => execTableBegin m s
  | 0x31 => execTableCommit m s
  | 0x32 => execTableAbort m s
  | 0x33 =>
    match act 0 with
    | 0 => execTableAccessRead m s
    | 1 => execTableAccessWrite m s
    | 2 => execTableAccessLock m s
    | 3 => execTableAccessUnlock m s
    | 4 => execTableAccessDiscard m s
    | _ => runMsg 0x33 m s fun b s => (some ((accessCheck b).getD (accessReply eRange 0 0 noSeg)), s)
  | 0x40 => if bit (act 3) 3 then execPortConfigRemove m s else if bit (act 3) 2 then execPortConfigQosOnly m s else execPortConfig m s
  | 0x41 => execPortFence m s
  | 0x42 => execPortUnfence m s
  | 0x43 => match act 2 with | 0 => execPortDampDamp m s | 1 => execPortDampRelease m s | _ => badAction 0x43 2 true m s
  | 0x50 => execJobAdmit m s
  | 0x51 => execJobRetire m s
  | 0x60 => execPealAdmit m s
  | 0x61 => execPealArm m s
  | 0x62 => execPealRetire m s
  | 0x63 => execPealStatus m s
  | 0x64 => execPealVoid m s
  | 0x70 => execShardCreate m s
  | 0x71 => execStepParams m s
  | 0x72 => match act 2 with | 0 => execStepCommitCommit m s | 1 => execStepCommitRollback m s | _ => badAction 0x72 2 false m s
  | 0x73 => execShardExport m s
  | 0x74 => execShardImport m s
  | 0x80 => match act 0 with | 0 => execTwinPairPair m s | 1 => execTwinPairUnpair m s | _ => badAction 0x80 0 false m s
  | 0x81 => execTwinStatus m s
  | 0x82 => execTakeoverGrant m s
  | 0x83 => match act 0 with | 0 => execTwinRebuildStart m s | 1 => execTwinRebuildAbort m s | _ => badAction 0x83 0 false m s
  | 0x90 => execCircuitScheduleLoad m s
  | 0x91 => match act 2 with | 0 => execCircuitArmArm m s | 1 => execCircuitArmDisarm m s | _ => badAction 0x91 2 false m s
  | 0xA0 => execTimeSetSource m s
  | 0xA1 => execTimeStatus m s
  | 0xB0 => execSnapshot m s
  | 0xB1 => execHealthRead m s
  | 0xB2 => execEventRead m s
  | 0xC0 => execFwStageStatus m s
  | 0xC1 => execFwActivate m s
  | 0xC2 => execAttest m s
  | 0xD0 => execLastLoad m s
  | 0xD1 => execLastQuery m s
  | 0xE0 => execShadowConfig m s
  | _ => runMsg op m s fun _ s => (some (.err eBadOp), s)

/-- The state after a meaning (its own state where it stops). -/
def Out.state (s : State) (o : Out) : State := match o with | .next s => s | _ => s

/-! Messages that waited for a control core (R386, R387). -/

/-- A message that waits and has not started is taken up. -/
def takeUp (n : Nat) (s : State) : State :=
  match (s.mbx n).waiting with
  | some w =>
    if w.started then s
    else
      let s := s.modMbx n fun x => { x with busy := false, waiting := none }
      Out.state s (ringDispatch w.op w.msg s)
  | none => s

/-- The control plane runs again: takeover decisions are taken, messages cut short are answered E_ABORTED with RESTARTS, and the messages held
are taken up in the order of their RINGs. -/
def resume (s : State) : State :=
  let cut (w : Waiting) : Bool :=
    (w.op == 0x61 && !(s.peals.any fun e => e.2.armMbx.contains w.msg.mbx)) || (w.op == 0xC1 && s.ctl.act.isNone)
  let s := answerWaiting cut (fun _ => { status := eAborted, detail := s.ctl.restarts.toNat % 65536 }) s
  let s := if s.twin.due then takeOver s else s
  let ns := s.ctl.ringOrder
  forAll ns (s.modCtl fun c => { c with ringOrder := [] }) fun s n => takeUp n.val s

/-! Writes to registers (R374, R377 to R380). -/

/-- The message that stands in a mailbox's payload: its opcode and itself. -/
def payloadMsg (n : Fin 8) (s : State) : Nat × Msg :=
  let b := fit 4032 (s.mbx n.val).payload
  let w (o : Nat) : W32 := BitVec.ofNat 32 (le b o 4)
  (le b 2 2, ⟨n, b.getD 0 0, b.getD 1 0, w 4, w 8, w 12, b.drop 16⟩)

/-- A byte written to a register of mailbox n. -/
def writeMbx (n : Fin 8) (off : Nat) (v : Byte) (s : State) : State :=
  if off = 0 then
    if v.getLsbD 0 then (let (op, m) := payloadMsg n s; Out.state s (ringDispatch op m s)) else s
  else if off = 4 then
    s.modMbx n.val fun x => { x with done := x.done && !v.getLsbD 1, overrun := x.overrun && !v.getLsbD 2, irqEn := v.getLsbD 3 }
  else if 0x40 ≤ off ∧ off < 0x1000 then s.modMbx n.val fun x => { x with payload := putBytes (fit 4032 x.payload) (off - 0x40) [v] }
  else s

/-- A byte written to the MSI-X table: a vector that pends is sent once its mask is clear. Of an entry's vector control, bits 31:1 are reserved
and stay zero (R5). -/
def writeMsix (off : Nat) (v : Byte) (s : State) : State :=
  let n := off / 16
  let v := if off % 16 < 12 then v else if off % 16 = 12 then v &&& 1 else 0
  let s := s.modHost fun h => { h with msix := putBytes (fit 512 h.msix) off [v] }
  if bit s.host.msixPend n && !msixMasked s.host n then
    signal n (s.modHost fun h => { h with msixPend := setField h.msixPend n 1 0 })
  else s

/-- A byte written to BAR0 or, from 0x10000 on, to configuration space. Read-only and reserved bytes ignore the write (R5). -/
def writeByte (off : Nat) (v : Byte) (s : State) : State :=
  if off = 0x20 then writeEqHead (s.host.eqHead / 256 * 256 + v.toNat) s
  else if off = 0x21 then writeEqHead (s.host.eqHead % 256 + 256 * v.toNat) s
  else if off = 0x28 then s.modHost fun h => { h with eqOverflow := h.eqOverflow && !v.getLsbD 1, eqDmaErr := h.eqDmaErr && !v.getLsbD 2 }
  else if 0x1000 ≤ off ∧ off < 0x9000 then writeMbx (Fin.ofNat 8 (off / 0x1000 - 1)) (off % 0x1000) v s
  else if 0x9000 ≤ off ∧ off < 0x9200 then writeMsix (off - 0x9000) v s
  else if off = 0x10004 then s.modHost fun h => { h with busMaster := v.getLsbD 2 }
  else s

/-- The bytes of a write, in ascending order. -/
def writeBytes : Nat → Bytes → State → State
  | _, [], s => s
  | off, v :: t, s => writeBytes (off + 1) t (writeByte off v s)

/-- REGISTER_WRITE: no register is written while CXL is out of operation. -/
def execRegisterWrite (off : Nat) (data : Bytes) (s : State) : Out :=
  .next (if s.host.cxlUp && !s.chip.inReset then writeBytes off data s else s)

/-! What a read of a register shows (R376 to R380). A read changes nothing, and no row of the command table is a read. -/

/-- A word of the Koltor DVSEC (R376). (DESIGN CHOICE, log entry 55). -/
def dvsecWord (off : Nat) : W32 :=
  match off with
  | 0x00 => Config.dvsecNext ++ (0x10023 : BitVec 20)
  | 0x04 => (0x0200 : BitVec 16) ++ Config.vendorId
  | 0x08 => 0x51020001
  | 0x0C => 0x52544C4B
  | 0x18 => 0x01200408
  | _ => 0

/-- A word of the control block (R378). -/
def controlWord (s : State) (off : Nat) : W32 :=
  match off with
  | 0x000 => BitVec.ofNat 32 (s.chip.st.code + 256 * b2n s.host.session)
  | 0x004 => s.ctl.restarts
  | 0x020 => BitVec.ofNat 32 (s.host.eqHead % 65536)
  | 0x024 => BitVec.ofNat 32 (s.host.eqTail % 65536)
  | 0x028 => BitVec.ofNat 32 (b2n s.host.eqOn + 2 * b2n s.host.eqOverflow + 4 * b2n s.host.eqDmaErr)
  | 0x048 => BitVec.ofNat 32 (s.mem.locked.length % 65536)
  | _ =>
    if 0x30 ≤ off ∧ off < 0x48 ∧ off % 4 = 0 then BitVec.ofNat 32 (min (s.ctr 0x01 0 (4 + (off - 0x30) / 4)) (2 ^ 32 - 1)) else 0

/-- A word of a mailbox (R380). -/
def mailboxWord (x : Mailbox) (off : Nat) : W32 :=
  match off with
  | 0x000 => 0
  | 0x004 => BitVec.ofNat 32 (b2n x.busy + 2 * b2n x.done + 4 * b2n x.overrun + 8 * b2n x.irqEn)
  | 0x008 => x.lastSeq
  | _ => if 0x40 ≤ off ∧ off < 0x1000 then BitVec.ofNat 32 (le (fit 4032 x.payload) (off - 0x40) 4) else 0

/-- A word of BAR0 as the host reads it (R377). (DESIGN CHOICE, log entry 55). -/
def barWord (s : State) (off : Nat) : W32 :=
  if off < 0x1000 then controlWord s off
  else if off < 0x9000 then mailboxWord (s.mbx (off / 0x1000 - 1)) (off % 0x1000)
  else if off < 0x9200 then BitVec.ofNat 32 (le (fit 512 s.host.msix) (off - 0x9000) 4)
  else if off = 0x9800 then BitVec.ofNat 32 s.host.msixPend
  else 0

end Sys2Proof.Machine
end

