-- ==== Sys2Proof/Machine/Power.lean ====
section
/-! DEFINITION. Machine/Power.lean: reset, boot, self-test, the CXL reset, supplies and reference clocks (R374, R413 to R418, R435, R436, R445, R446, R467, R473, R483, R484). -/
namespace Sys2Proof.Machine

/-! Reset (R484). -/

/-- The summary of a ledger as it is now. -/
def Ledger.summary (l : Ledger) : Summary := ⟨l.hours, l.powerOns, l.fences, l.spares, l.coresOut, l.channels, l.seamMap, l.frames⟩

/-- The summary that governs at power-up: the newest copy with a good tag; without one, no retirements (R467). (DEDUCED, log entry 143). -/
def Ledger.governs (l : Ledger) : Summary := if l.savedOk then l.saved else if l.priorOk then l.prior else {}

/-- The summary is rewritten whole, into the copy that does not hold the newest one (R467). -/
def Ledger.save (l : Ledger) (x : Summary) : Ledger :=
  { l with saved := x, savedOk := true, prior := l.saved, priorOk := l.savedOk, seq := l.seq + 1 }

/-- What a reset leaves of a ledger: the log and the wear of its blocks, and the summary that governs; the next RECORD_INDEX
follows the highest in the log (R465). -/
def Ledger.afterReset (l : Ledger) : Ledger :=
  let x := l.governs
  { next := l.flash.foldl (fun n e => max n (e.1 + 1)) 0, flash := l.flash, blocks := l.blocks, erases := l.erases, wornOut := l.wornOut, seq := l.seq, saved := x
    savedOk := l.savedOk || l.priorOk, prior := l.prior, priorOk := l.priorOk, badErase := l.badErase
    hours := x.hours, powerOns := x.powerOns, fences := x.fences, spares := x.spares, coresOut := x.coresOut, channels := x.channels, seamMap := x.seamMap
    frames := x.frames }

/-- The module in reset: everything but the flash, the ledgers' logs and what lies outside the module is as at reset. (DEDUCED, log entry 144). -/
def resetModule (s : State) : State :=
  { State.reset with
    flash := s.flash, free := s.free, pending := s.pending
    mem := { State.reset.mem with host := s.mem.host, dmaFail := s.mem.dmaFail }
    logs := { State.reset.logs with ledgers := s.logs.ledgers.map fun e => (e.1, e.2.afterReset) } }

/-- RESET_N goes low. (DEDUCED, log entry 144). -/
def execResetNAssert (s : State) : Out := .next (resetModule s)

/-- VDD_CORE of a die below 0.58 V resets the module (R446). (DEDUCED, log entry 145). -/
def execSupplyReset (die mv : Nat) (s : State) : Out := .next (if decide (die < 5) && decide (mv < 580) then resetModule s else s)

/-- Another supply stays too low for 10 µs (R473): rails 0 to 6 are those of R471 after VDD_CORE, in its order. (DEDUCED, log entry 145). -/
def execSupplyFail (rail : Nat) (s : State) : Out := .next (if rail < 7 then resetModule s else s)

/-! Boot (R417). -/

/-- Boot ends in BOOT with a reason. (DEDUCED, log entry 139). -/
def bootFails (reason : Nat) (s : State) : State := s.modChip fun c => { c with reason := reason }

/-- Step 3: the boot-control record, with the selection before the trial of every part in TRIAL but part 3 (R418). (DEDUCED, log entry 138). -/
def takeBcr (s : State) : State :=
  if !s.flash.bcrOk then s.modFlash fun f => { f with partSel := 0, lastSel := 0, cfgSel := 0, trial := 0, prevPart := 0, prevLast := 0, prevCfg := 0 }
  else forAll [0, 1, 2, 4] s fun s p => if inTrial s p then restoreSel p s else s

/-- The bank whose image of a part runs: the selected one, or the other where that one is invalid (step 4). (DEDUCED, log entry 138). -/
def bootBank (f : Flash) (sel part : Nat) : Option Nat :=
  let b := field sel part 1
  if (validAt f b part).isSome then some b else if (validAt f (1 - b) part).isSome then some (1 - b) else none

/-- The headers of a selection's images. -/
def selSet (f : Flash) (sel : Nat) : Tbl Bytes := (List.range 5).filterMap fun p => (imageAt f (field sel p 1) p).map fun i => (p, i.hdr)

/-- The headers of a selection's lasts. -/
def selLasts (f : Flash) (sel : Nat) : List Bytes := (List.range 7).filterMap fun k => (f.lasts.look? (8 * field sel k 1 + k + 1)).map fun e => e.1

/-- Step 7, lasts: the selected copy that passes its own check and R27, or the other bank's; neither leaves the last missing (R28). -/
def bootLast (s : State) (id : Nat) : State :=
  let good (b : Nat) := match s.flash.lasts.look? (8 * b + id) with
    | some (h, x, true) => if (lastFault s (h ++ x)).isNone && byteAt h 0 == id then some (h, x) else none
    | _ => none
  let b := lastBank s.flash id
  match good b with
  | some (h, x) => runLast id h x s
  | none => match good (1 - b) with | some (h, x) => runLast id h x s | none => s

/-- What a ledger's summary restores: retired channels, cores and spare cores, and seam lanes (R467). -/
def restoreDie (s : State) (die : Nat) : State :=
  let s := s.modLedger die fun l => { l.save { l.saved with powerOns := l.powerOns + 1 } with powerOns := l.powerOns + 1 }
  let l := s.ledger die
  let s := forAll l.channels s fun s c => s.modChan c fun x => { x with status := 4 }
  let s := forAll l.coresOut s fun s k => s.modCore (132 * die + k) fun c => { c with retired := true }
  let s := forAll l.spares s fun s e => s.modSpine fun x => { x with served := x.served.put (132 * die + e.2) (132 * die + 128 + e.1) }
  let s := forAll (l.coresOut.filter fun k => k < 128 && !(l.spares.any fun e => e.2 == k)) s fun s k =>
    let p := 132 * die + (k + 64) % 128
    (s.modSpine fun x => { x with served := x.served.put (132 * die + k) (x.served.look p p) }).modChip fun c => { c with noSpare := insertNat (132 * die + k) c.noSpare }
  forAll l.seamMap s fun s e => s.modSeam (e.1 / 2) (e.1 % 2) fun d => { d with spares := d.spares - 1, retired := d.retired ++ [e.2] }

/-- Steps 6 and 7 up to the self-tests: the images run, records migrate, lasts are read. Region dies with three lifetime fences for residue
faults are fenced (R436). -/
def startControl (s : State) : State :=
  let s := forAll [0, 1, 2, 4] s fun s p => runSelected p s
  let s := runSelected 3 s
  let s := setChip .selftest 16 s
  let s := migrate s
  let s := [1, 2, 3, 4, 5, 6, 7].foldl bootLast s
  let s := s.modCtl fun c => { c with svcAddr := (cfgBody s 3).getD [] }
  let s := forAll [0, 1, 2, 3, 4] s fun s d => restoreDie s d
  let s := s.modChip fun c => { c with lastBad := missingLast s }
  forAll [0, 1, 2, 3] s fun s r => if 3 ≤ (s.ledger r).fences then fenceRegion r 4 255 s else s

/-- Steps 2 to 6 once the module record stands. -/
def bootImages (s : State) : State :=
  if !s.flash.countOk then bootFails 3 s
  else
    let s := takeBcr s
    let f := s.flash
    let banks := (List.range 5).map fun p => bootBank f f.partSel p
    let sel := (List.range 5).foldl (fun m p => m + ((banks.getD p none).getD (field f.partSel p 1)) * 2 ^ p) 0
    let missing := ((List.range 5).find? fun p => p != 0 && (banks.getD p none).isNone)
    if (banks.getD 0 none).isNone then bootFails 4 s
    else
      let set := (selSet f sel).filter fun e => (banks.getD e.1 none).isSome
      let s := s.modChip fun c => { c with partBad := match missing with | some p => p + 1 | none => 0 }
      if compatible set (selLasts f f.lastSel) then startControl (s.modFlash fun x => { x with partSel := sel })
      else if compatible (selSet f f.prevPart) (selLasts f f.prevLast) && (List.range 5).all fun p => (validAt f (field f.prevPart p 1) p).isSome then
        startControl (writeBcr (fun x => { x with partSel := x.prevPart, lastSel := x.prevLast, cfgSel := x.prevCfg, trial := 0 }) (s.modChip fun c => { c with partBad := 0 }))
      else bootFails 5 s

/-- RESET_N goes high: the boot order of R417, with the counter at zero (R372). A region die whose identity does not hold is fenced (R414). -/
def execResetNRelease (boot : BootRun) (s : State) : Out :=
  if !s.chip.inReset then .next s
  else
    let lost := [0, 1, 2, 3, 4].filter fun d => let l := s.ledger d; !l.savedOk && !l.priorOk
    let s := s.modChip fun c => { c with inReset := false, st := .boot, reason := 0, noSummary := lost }
    if !boot.hubPuf then .next (bootFails 1 s)
    else if !s.flash.recordOk then .next (bootFails 2 s)
    else
      let bad := [0, 1, 2, 3].filter fun r => !(boot.dies.getD r true)
      .next (forAll bad (bootImages s) fun s r => if s.chip.st == .boot then s else fenceRegion r 5 255 s)

/-! Self-test (R436). -/

/-- How a channel's training ended (R333). -/
def trainChan (c : Nat) (t : ChanTrain) (s : State) : State :=
  if !chanServes s c then s
  else
    let s := s.modChan c fun x => { x with status := t.status, rdHeight := t.rdHeight, rdWidth := t.rdWidth, wrHeight := t.wrHeight, wrWidth := t.wrWidth }
    match t.status with
    | 2 => postEvent 0x3007 [BitVec.ofNat 8 c, 2, 0] s
    | 3 => retireChan c 3 0 (s.modChan c fun x => { x with status := 0 })
    | _ => s

/-- The channels of the region dies that run. -/
def liveChans (s : State) : List Nat := (List.range 128).filter fun c => (s.chip.regionFence.look? (c / 32)).isNone && chanServes s c

/-- A memory-training firmware in trial left a channel FAILED that served before (R427). (DEDUCED, log entry 131). -/
def trainingWorse (s : State) (res : SelfTest) : Bool := res.channels.any fun e => e.2.status == 3 && (liveChans s).contains e.1

/-- The self-test items end. A memory-training firmware in trial that lost a channel is reverted, and the items run again with the previous
image. (DEDUCED, log entry 131). -/
def execSelftestComplete (res : SelfTest) (s : State) : Out :=
  if s.chip.st != .selftest || s.chip.tested then .next s
  else if inTrial s 3 && trainingWorse s res then .next (revertPart 3 s)
  else
    let s := if inTrial s 3 then commitPart 3 s else s
    let s := s.modChip fun c => { c with tested := true, hubBad := !res.hubOk }
    let s := forAll (res.failed.filter (· < 4)) s fun s r => fenceRegion r 4 255 s
    let s := forAll (res.engines.filter (· < 64)) s fun s e => retireEngine e s
    let pass : ChanTrain := ⟨1, 0, 0, 0, 0⟩
    let s := forAll (liveChans s) s fun s c => trainChan c ((Tbl.look? res.channels c).getD pass) s
    .next (leaveSelftest s)

/-! The CXL reset (R374). -/

/-- PERST_N: configuration space, MSI-X, the session, staged edits, the event queue and the shadow compare; a released PERST_N trains the link
again. (DEDUCED, log entry 123). -/
def execPerstN (s : State) : Out :=
  let s := closeSession s
  .next (s.modHost fun h => { h with busMaster := false, msix := msixReset, msixPend := 0 })

/-! Supply warnings (R445). -/

/-- The peals' chunks that a predicate names are changed. -/
def mapChunks (f : Peal → Nat → Chunk → Chunk) (s : State) : State :=
  { s with peals := s.peals.map fun e => (e.1, { e.2 with chunks := e.2.chunks.map fun c => (c.1, f e.2 c.1 c.2) }) }

/-- A die's warning exposes the chunks between their opening and release whose home region or hub it is. -/
def exposeChunks (die : Nat) (s : State) : State :=
  mapChunks (fun pl c ch => if !ch.sent && (die == 4 || chunkRegion pl.desc c == die) then { ch with supply := true } else ch) s

/-- Change the monitored voltage of a die. -/
def setVdd (die mv : Nat) (s : State) : State := s.modChip fun c => { c with vdd := setNth 5 c.vdd die mv }

/-- VDD_CORE of a die falls below 0.66 V. -/
def execSupplyWarning (die mv : Nat) (s : State) : Out :=
  if s.chip.inReset || decide (5 ≤ die) || decide (660 ≤ mv) then .next s
  else
    let s := setVdd die mv s
    match s.chip.warn.look? die with
    | some w => .next (s.modChip fun c => { c with warn := c.warn.put die { w with lowest := min w.lowest mv } })
    | none =>
      let s := s.modChip fun c => { c with warn := c.warn.put die ⟨s.now, mv⟩ }
      .next (exposeChunks die (postEvent 0x4003 ([BitVec.ofNat 8 die, 0] ++ toLE 2 mv) s))

/-- The exposed chunks that wait complete, with no warning left on the dies concerned. -/
def recheckable (s : State) : List (Nat × Nat) :=
  (s.peals.map fun e => (e.2.chunks.filter fun c => c.2.supply && c.2.complete && !c.2.sent && supplyClear s e.2.desc c.1).map fun c => (e.1, c.1)).flatten

/-- Re-check an exposed chunk: its rows pass, or its step is voided with cause SUPPLY; so it is where a program formed results. -/
def recheck (p c : Nat) (s : State) : State :=
  let pl := s.peal p
  match pl.chunks.look? c with
  | none => s
  | some ch =>
    if !ch.supply then s
    else if badRows pl.desc ch then residueVoid [11] p c s
    else if ch.tainted then voidFor 11 p s
    else s.modChunk p c fun ch => { ch with supply := false }

/-- VDD_CORE has stayed at or above 0.67 V for 100 µs: the warning clears, with its event and its DROOP record. -/
def execSupplyWarningClear (die mv : Nat) (s : State) : Out :=
  match s.chip.warn.look? die with
  | none => .next s
  | some w =>
    if mv < 670 then .next s
    else
      let us := (s.now - w.since) / 1000
      let held := (s.peals.map fun e => (e.2.chunks.filter fun c => c.2.supply && c.2.complete && !c.2.sent && (die == 4 || chunkRegion e.2.desc c.1 == die)).length).foldl (· + ·) 0
      let s := postEvent 0x4004 ([BitVec.ofNat 8 die] ++ zeros 3 ++ toLE 4 us) (setVdd die mv s)
      let s := ledgerAdd die 0x07 (toLE 2 w.lowest ++ zeros 2 ++ toLE 4 us ++ toLE 4 held) s
      let s := s.modChip fun c => { c with warn := c.warn.del die, warnHeld := c.warnHeld.erase die, warnEnd := s.now }
      let s := settle 9 s
      .next (forAll (recheckable s) s fun s e => recheck e.1 e.2 s)

/-- A warning has lasted more than 1 ms: a degrading condition (R435). -/
def execSupplyWarningHeld (die : Nat) (s : State) : Out :=
  .next (if (s.chip.warn.look? die).isSome then settle 8 (s.modChip fun c => { c with warnHeld := insertNat die c.warnHeld }) else s)

/-! Reference clocks (R483). -/

/-- A reference is lost: the lanes it feeds lose lock, its channels fail tracking and are retired; reference 0 feeds the Welt and the service
port too. -/
def execRefclkLoss (clk : RefClk) (s : State) : Out :=
  match clk with
  | .cxl => .next ((s.modChip fun c => { c with cxlClk := false }).modHost fun h => { h with cxlUp := false })
  | .fabric r =>
    if 4 ≤ r then .next s
    else
      let s := s.modChip fun c => { c with refLost := insertNat r c.refLost, svcLink := c.svcLink && r != 0 }
      let lanes := (List.range 256).map (256 * r + ·) ++ (if r = 0 then (List.range 32).map (1024 + ·) else [])
      let s := forAll lanes s fun s l => loseLock l s
      .next (forAll ((List.range 32).map (32 * r + ·)) s fun s c => retireChan c 4 3 s)

end Sys2Proof.Machine
end

