-- ==== Sys2Proof/Machine/Control.lean ====
section
/-! DEFINITION. Machine/Control.lean: control cores, the warden, and the ends of an activation (R406 to R410, R428 to R430, R437, R439). -/
namespace Sys2Proof.Machine

/-! Crash and restart (R407, R408, R410). -/

/-- Crashes of the last 10 minutes. -/
def recentCrashes (s : State) : List Nat := s.ctl.crashAt.filter fun t => decide (s.now ≤ t + 600000000000)

/-- The control firmware in trial goes back to the image before it, and the cores restart into it as under PAUSE (R430). (DEDUCED, log entry 136). -/
def revertControl (s : State) : State :=
  let s := revertPart 0 s
  s.modCtl fun c => { c with crashed := [], safeTrial := false, act := some ⟨0, false, 0, []⟩ }

/-- A control core crashes: RESTARTS and the crash counts rise, an open handover ends, a trial of the control firmware reverts, and the third
crash in 10 minutes takes the chip to SAFE_MONITOR. (DEDUCED, log entry 136). -/
def crashCore (core : Nat) (s : State) : State :=
  if s.chip.inReset || s.chip.st == .boot || decide (4 ≤ core) || s.ctl.crashed.contains core then s
  else
    let s := dropFlight (bump 0x01 0 13 (bump 0x01 0 12 s))
    let s := s.modCtl fun c => { c with
      crashed := insertNat core c.crashed, restarts := c.restarts + 1, crashAt := recentCrashes s ++ [s.now]
      act := match c.act with | some a => if a.handover then none else some a | none => none }
    let n := s.ctl.crashAt.length
    let s := postEvent 0x4002 ([BitVec.ofNat 8 core] ++ zeros 3 ++ toLE 4 s.ctl.restarts.toNat ++ [BitVec.ofNat 8 n]) s
    let s := if inTrial s 0 then revertControl s else s
    if 3 ≤ n then settle 11 (s.modCtl fun c => { c with safe := true }) else s

/-- CORE_WATCHDOG_MISS: 10 ms of signals are missing. -/
def execCoreWatchdogMiss (core : Nat) (s : State) : Out := .next (crashCore core s)

/-- CORE_CRASH: a kernel fault, or an uncorrectable error in local memory or the journal. -/
def execCoreCrash (core : Nat) (s : State) : Out := .next (crashCore core s)

/-- CORE_RESTART_COMPLETE: with the last crashed core back, the control plane runs again. -/
def execCoreRestartComplete (core : Nat) (s : State) : Out :=
  if !s.ctl.crashed.contains core then .next s
  else
    let s := s.modCtl fun c => { c with crashed := c.crashed.erase core }
    .next (if coresDown s then s else resume s)

/-! The warden (R407, R420, R435). -/

/-- WARDEN_COMPARE_MISMATCH: the warden restarts and loses its index pointer; two restarts that fail within 1 s take the chip to DAMPED. -/
def execWardenCompareMismatch (restartOk : Bool) (s : State) : Out :=
  if s.chip.inReset then .next s
  else
    let s := s.modCtl fun c => { c with wardenN := c.wardenN + 1, lmsPtr := none }
    let s := postEvent 0x4011 (toLE 4 s.ctl.wardenN) s
    if restartOk then .next s
    else
      let ts := (s.ctl.wardenAt.filter fun t => decide (s.now ≤ t + 1000000000)) ++ [s.now]
      let s := s.modCtl fun c => { c with wardenAt := ts }
      .next (if 2 ≤ ts.length && s.chip.st != .boot then dampChip 14 s else s)

/-- UNCORRECTABLE_HUB_STATE: warden memory, or the measured images in hub SRAM (R439); both take the chip to DAMPED. -/
def execUncorrectableHubState (_loc : HubLoc) (s : State) : Out :=
  if s.chip.inReset then .next s
  else
    let s := bump 0x01 0 11 s
    .next (if s.chip.st == .boot then s else dampChip 13 s)

/-! The ends of an activation (R428, R429). -/

/-- PAUSE_RESTART_COMPLETE: the cores run the selected control firmware, which migrates the records at its first start; FW_ACTIVATE is
answered and the control plane resumes. -/
def execPauseRestartComplete (s : State) : Out :=
  match s.ctl.act with
  | none => .next s
  | some a =>
    if a.handover then .next s
    else
      let s := runSelected 0 (s.modCtl fun c => { c with act := none, trialAt := s.now })
      let s := if inTrial s 0 then migrate s else s
      let s := answerOp 0xC1 a.mbx.val (.ok (activateBody a.before 0)) s
      .next (if coresDown s then s else resume s)

/-- HANDOVER_CUT: the boot-control record is written, mailbox service moves to the new instances, and FW_ACTIVATE is answered. -/
def execHandoverCut (s : State) : Out :=
  match s.ctl.act with
  | none => .next s
  | some a =>
    if !a.handover || coresDown s then .next s
    else
      let s := migrate (runSelected 0 (selectStaged 0 s))
      .next (answerOp 0xC1 a.mbx.val (.ok (activateBody a.before 1)) (s.modCtl fun c => { c with act := none }))

/-- HANDOVER_TIMEOUT: no cut within 2 s; the new instances stop and nothing changes. -/
def execHandoverTimeout (s : State) : Out :=
  match s.ctl.act with
  | none => .next s
  | some a =>
    if !a.handover then .next s
    else
      let s := s.modCtl fun c => { c with act := none, safeTrial := false }
      .next (answerOp 0xC1 a.mbx.val { status := eAborted, detail := s.ctl.restarts.toNat % 65536 } s)

end Sys2Proof.Machine
end

