-- ==== Sys2Proof/Machine/Health.lean ====
section
/-! DEFINITION. Machine/Health.lean: throughput index, derating, core voltage, temperature, delay monitors and the health ledger (R17, R447, R448, R462 to R467, R475 to R481). -/
namespace Sys2Proof.Machine

/-! The throughput index and derating (R17, R478 to R480). -/

/-- THROUGHPUT_INDEX_REFRESH: the 16 monitor rates of a region, in units of 1/1,024 of each monitor's rate at 0.70 V and 105 °C; the index is
the slowest. -/
def execThroughputIndexRefresh (region : Nat) (rates : List Nat) (s : State) : Out :=
  if 4 ≤ region ∨ rates.length ≠ 16 then .next s
  else
    .next (s.modChip fun c => { c with
      ti := setNth 4 c.ti region (minOf (rates.headD 0) rates)
      monitors := (List.range 16).foldl (fun (t : Tbl Nat) k => t.put (16 * region + k) (nth rates k)) c.monitors })

/-- Read a curve (R480): points of increasing x with their rates. -/
def curveAt : List (Int × Nat) → Int → Nat
  | [], _ => 1024
  | [p], _ => p.2
  | p :: q :: t, x =>
    if x < p.1 then p.2
    else if x < q.1 then ((p.2 : Int) + ((q.2 : Int) - p.2) * (x - p.1) / (q.1 - p.1)).toNat
    else curveAt (q :: t) x

/-- The points of LAST_VDERATE. -/
def vPoints (b : Bytes) : List (Int × Nat) := (List.range (byteAt b 12)).map fun k => ((le b (16 + 4 * k) 2 : Int), le b (18 + 4 * k) 2)

/-- The Tj points of LAST_THERMAL. -/
def tPoints (b : Bytes) : List (Int × Nat) := (List.range (byteAt b 0)).map fun k => (signed (le b (4 + 4 * k) 2) 16, le b (6 + 4 * k) 2)

/-- D_r of a region (R480). (DESIGN CHOICE, log entry 5). -/
def derated (s : State) (r : Nat) : Nat :=
  let v (d : Nat) := curveAt (vPoints (s.lastBody 5)) (s.chip.vdd.getD d 0 : Nat)
  let t (d : Nat) := curveAt (tPoints (s.lastBody 4)) (s.chip.tj.getD d 0)
  [nth s.chip.ti r, v r, t r, v 4, t 4].foldl min 1024

/-- DERATE_COMPUTE, every 1 µs. -/
def execDerateCompute (s : State) : Out := .next (if s.chip.inReset then s else s.modChip fun c => { c with dr := (List.range 4).map (derated s) })

/-! Delay monitors (R447). -/

/-- DELAY_EXCURSION: a monitor stayed more than 5 % below its region's median; its rate is against that median, in units of 1/1,024. -/
def execDelayExcursion (region monitor rate : Nat) (s : State) : Out :=
  if s.chip.inReset || decide (4 ≤ region) || decide (16 ≤ monitor) || decide (19 * 1024 ≤ 20 * rate) then .next s
  else
    let s := ledgerAdd region 0x0C (toLE 1 monitor ++ zeros 1 ++ toLE 2 rate) (bump 0x05 region 7 s)
    .next (postEvent 0x3009 ([BitVec.ofNat 8 region, BitVec.ofNat 8 monitor] ++ toLE 2 rate) s)

/-! Core voltage (R475 to R477, R481). -/

/-- A setpoint moved toward a goal by at most a step. -/
def toward (cur goal step : Nat) : Nat := if cur < goal then min goal (cur + step) else max goal (cur - step)

/-- The next setpoint (R476): to VSET_TARGET first; with ADAPT by the lowest index; back within limits that a load has moved. (DEDUCED, log entry 141). -/
def nextSetpoint (s : State) : Nat :=
  let b := s.lastBody 5
  let cur := s.chip.setpoint
  let (target, lo, hi, step) := (le b 0 2, le b 2 2, le b 4 2, byteAt b 6)
  let m := minOf (nth s.chip.ti 0) s.chip.ti
  if !bit (byteAt b 7) 0 || !s.chip.atTarget then toward cur target step
  else if cur < lo then toward cur lo step
  else if hi < cur then toward cur hi step
  else if m < 1024 + le b 8 2 then min hi (cur + step)
  else if 1024 + le b 10 2 < m then max lo (cur - step)
  else cur

/-- The part may not lower a setpoint: a supply warning is asserted or cleared less than 100 ms ago. -/
def mayNotLower (s : State) : Bool := !s.chip.warn.isEmpty || (s.chip.warnEnd != 0 && decide (s.now < s.chip.warnEnd + 100000000))

/-- SETPOINT_STEP: the same setpoint goes to all five rails; steps are at least 10 µs apart. A rail that fails its transaction and three retries stops all writes until
reset, and the last setpoint that all acknowledged stays. (DEDUCED, log entry 141). -/
def execSetpointStep (acks : AvsAcks) (s : State) : Out :=
  if s.chip.inReset || s.chip.st == .boot || s.chip.avsStop || (s.lasts.look? 5).isNone then .next s
  else
    let new := nextSetpoint s
    let ok := acks.fails.length == 5 && acks.fails.all fun f => match f with | some n => decide (n ≤ 3) | none => false
    if new < s.chip.setpoint && mayNotLower s then .next s
    else if s.chip.stepAt != 0 && decide (s.now < s.chip.stepAt + 10000) then .next s
    else if new != s.chip.setpoint && !ok then .next (s.modChip fun c => { c with avsStop := true })
    else .next (s.modChip fun c => { c with setpoint := new, stepAt := if new == c.setpoint then c.stepAt else s.now, atTarget := c.atTarget || new == le (s.lastBody 5) 0 2 })

/-! Temperature (R448). -/

/-- The histogram bin of a value: below `lo`, then steps, then the last of 14 bins. (DEDUCED, log entry 142). -/
def histBin (x lo step : Int) : Nat := if x < lo then 0 else min 13 (1 + ((x - lo) / step).toNat)

/-- A sample joins the histograms of a die, and the slot counts it saw are kept (R463, R464). (DEDUCED, log entry 142). -/
def noteSample (die : Nat) (tj8 : Int) (s : State) : State :=
  let v : Int := (s.chip.vdd.getD die 0 : Nat)
  let s := s.modLedger die fun l => { l with
    tempHist := l.tempHist.upd (histBin tj8 360 40) 0 (· + 1), voltHist := l.voltHist.upd (histBin v 600 20) 0 (· + 1) }
  s.modLogs fun l => { l with mixBase := l.mixBase.put die (slotSums s die) }

/-- The DATA of the thermal events: die and Tj in °C. -/
def thermData (die : Nat) (tj8 : Int) : Bytes := [BitVec.ofNat 8 die, 0] ++ toLE 2 (twos (tj8 / 8) 16)

/-- TJ_SAMPLE, every 100 µs: warning at 115 °C, cleared below 110 °C; trip at 125 °C. -/
def execTjSample (die : Nat) (tj8 : Int) (s : State) : Out :=
  if s.chip.inReset || decide (5 ≤ die) then .next s
  else
    let s := noteSample die tj8 (s.modChip fun c => { c with tj := (List.range 5).map fun d => if d = die then tj8 else c.tj.getD d 0 })
    let hot := decide (920 ≤ tj8) && !s.chip.tjWarn.contains die
    let s := if hot then
        settle 7 ((ledgerAdd die 0x13 ([0, 0] ++ toLE 2 (twos tj8 16)) (postEvent 0x4005 (thermData die tj8) s)).modChip fun c => { c with tjWarn := insertNat die c.tjWarn })
      else s
    let s := if tj8 < 880 && s.chip.tjWarn.contains die then settle 9 (s.modChip fun c => { c with tjWarn := c.tjWarn.erase die }) else s
    if tj8 < 1000 || s.chip.thermN then .next s
    else
      let s := ledgerAdd die 0x13 ([1, 0] ++ toLE 2 (twos tj8 16)) (postEvent 0x4006 (thermData die tj8) s)
      let s := s.modChip fun c => { c with thermN := true }
      .next (if s.chip.st == .boot then s else dampChip 12 s)

/-! Hourly and daily records (R464). -/

/-- A counter summed over entries. -/
def ctrSum (s : State) (sec idx : Nat) (es : List Nat) : Nat := (es.map fun e => s.ctr sec e idx).foldl (· + ·) 0

/-- The counts that the hourly records of a die report, since power-up: ECC_HOURLY's seven, then RETRAIN_HOURLY's four. (DEDUCED, log entry 99). -/
def hourCounts (s : State) (die : Nat) : List Nat :=
  let blocks := (List.range 8).map (8 * die + ·)
  let chans := (List.range 32).map (32 * die + ·)
  let lanes := if die < 4 then (List.range 256).map (256 * die + ·) else (List.range 32).map (1024 + ·)
  let ports := if die < 4 then (List.range 256).map (256 * die + ·) else (List.range 4).map (1024 + ·)
  let ecc := if die < 4 then
      [ctrSum s 0x04 0 blocks, s.ctr 0x05 die 2, s.ctr 0x05 die 4, ctrSum s 0x0A 0 chans + ctrSum s 0x0A 4 chans, ctrSum s 0x0A 2 chans,
        ctrSum s 0x04 1 blocks + s.ctr 0x05 die 3 + s.ctr 0x05 die 5, ctrSum s 0x0A 1 chans + ctrSum s 0x0A 5 chans]
    else [0, 0, 0, 0, 0, s.ctr 0x01 0 11, 0]
  ecc ++ [ctrSum s 0x03 9 lanes, ctrSum s 0x03 10 lanes, ctrSum s 0x02 35 ports, if die < 4 then s.ctr 0x05 die 0 else 0]

/-- Records of the eye figures, six lanes each, in lane order; a lane not UP reads 0xFFFF twice. -/
def eyeRecords (s : State) (die : Nat) (eyes : List Nat) : List Bytes :=
  let (base, n) := if die < 4 then (256 * die, 256) else (1024, 32)
  let lane (k : Nat) : Bytes :=
    let up := match portOfLane s (base + k) with | some p => s.live p | none => false
    toLE 4 (if up then nth eyes k else 0xFFFFFFFF)
  (List.range (ceilDiv n 6)).map fun i => toLE 2 (base + 6 * i) ++ zeros 2 ++ ((List.range (min 6 (n - 6 * i))).map fun j => lane (6 * i + j)).flatten

/-- LEDGER_HOURLY of a die; `eyes` holds per lane the eye height in mV and, from bit 16, its width in mUI, as the SerDes firmware's monitor
gives them. The hub has no delay monitors. -/
def execLedgerHourly (die : Nat) (eyes : List Nat) (s : State) : Out :=
  if s.chip.inReset || decide (5 ≤ die) then .next s
  else
    let now := hourCounts s die
    let last := (s.ledger die).lastHour
    let d (i : Nat) := nth now i - last.look i 0
    let s := s.modLedger die fun l => { l with hours := l.hours + 1, lastHour := (List.range 11).map fun i => (i, nth now i) }
    let s := ledgerAdd die 0x02 (((List.range 7).map fun i => toLE 4 (d i)).flatten) s
    let s := forAll (eyeRecords s die eyes) s fun s b => ledgerAdd die 0x03 b s
    let rates := (List.range 16).foldl (fun m k => m + (s.chip.monitors.look (16 * die + k) 0 % 4096) * 2 ^ (12 * k)) 0
    let s := if die < 4 then ledgerAdd die 0x04 (toLE 24 rates) s else s
    .next (ledgerAdd die 0x08 (((List.range 4).map fun i => toLE 4 (d (7 + i))).flatten) s)

/-- Minutes of a histogram's 14 bins, from samples of 100 µs. -/
def histBytes (t : Tbl Nat) : Bytes := ((List.range 14).map fun i => toLE 2 (t.look i 0 / 600000)).flatten

/-- LEDGER_DAILY of a die: both histograms of the last 24 hours. -/
def execLedgerDaily (die : Nat) (s : State) : Out :=
  if s.chip.inReset || decide (5 ≤ die) then .next s
  else
    let l := s.ledger die
    let s := ledgerAdd die 0x06 (histBytes l.voltHist) (ledgerAdd die 0x05 (histBytes l.tempHist) s)
    .next (s.modLedger die fun l => { l with tempHist := [], voltHist := [] })

/-! The log in flash (R465 to R467). -/

/-- The erase block whose records have the lowest indices. -/
def oldestBlock (l : Ledger) : Option Nat :=
  (l.blocks.foldl (fun (best : Option (Nat × Nat)) b =>
    let low := minOf (2 ^ 64) b.2
    match best with | some (k, v) => if low < v then some (b.1, low) else some (k, v) | none => some (b.1, low)) none).map (·.1)

/-- An erase block is erased for reuse; one past 50,000 erasures, or that fails to erase, is retired, and its records go with it (R466). -/
def eraseBlock (k : Nat) (l : Ledger) : Ledger :=
  let gone := ((l.blocks.find? fun b => b.1 == k).map (·.2)).getD []
  let n := l.erases.look k 0 + 1
  { l with
    flash := l.flash.filter fun e => !gone.contains e.1, blocks := l.blocks.filter (fun b => b.1 != k), erases := l.erases.put k n
    wornOut := if 50000 < n || l.badErase.contains k then insertNat k l.wornOut else l.wornOut }

/-- A block for the next record opens: one never used, or the one with the lowest indices. -/
def openBlock (l : Ledger) : Ledger :=
  let free (l : Ledger) := ((List.range 222).map (34 + ·)).find? fun k => !(l.wornOut.contains k) && !(l.blocks.any fun b => b.1 == k)
  match free l with
  | some k => { l with blocks := l.blocks ++ [(k, [])] }
  | none =>
    match oldestBlock l with
    | none => l
    | some k =>
      let l := eraseBlock k l
      match free l with | some j => { l with blocks := l.blocks ++ [(j, [])] } | none => l

/-- Append one record: 1,023 to an erase block. -/
def appendRec (l : Ledger) (e : Nat × Bytes) : Ledger :=
  let l := match l.blocks.getLast? with | some b => if b.2.length < 1023 then l else openBlock l | none => openBlock l
  match l.blocks.getLast? with
  | none => l
  | some b => { l with flash := l.flash.put e.1 e.2, cache := l.cache.del e.1, blocks := l.blocks.dropLast ++ [(b.1, b.2 ++ [e.1])] }

/-- LEDGER_FLUSH: the summary is rewritten when it has changed, then the cached records are appended, critical ones first. (DEDUCED, log entry 143). -/
def flushLedger (l : Ledger) : Ledger :=
  let l := if l.summary = l.saved then l else l.save l.summary
  let crit (e : Nat × Bytes) := bit (byteAt e.2 9) 1
  ((l.cache.filter crit) ++ (l.cache.filter fun e => !crit e)).foldl appendRec l

/-- Append a die's cached records to flash. -/
def execLedgerFlush (die : Nat) (s : State) : Out :=
  .next (if s.chip.inReset || decide (5 ≤ die) then s else s.modLedger die flushLedger)

end Sys2Proof.Machine
end

