-- ==== Sys2Proof/Machine/Hub.lean ====
section
/-! DEFINITION. Machine/Hub.lean: the hub seams: the VC0 express path and what follows it in the order of R87 (chapter 03). -/
namespace Sys2Proof.Machine

/-! The order of a hub seam (R87). -/

/-- An item crosses its hub seam: a TWIN cell goes to the Welt ports, a control cell's entry is free, a marker reaches its die. -/
def hubCross (x : HubItem) (s : State) : State :=
  match x with
  | .twin _ c => sprayTwin c s
  | .control _ c => if c.shared then s else returnCredit c.org s
  | .marker d => latch d s

/-- The first item that a hub seam takes now: nothing that waits with it comes before it in the order of R87. -/
def hubNext (s : State) : Option HubItem :=
  let rec go : List HubItem → List HubItem → Option HubItem
    | _, [] => none
    | before, x :: t =>
      if hubTakes s (before ++ t.filter fun y => decide (y.place.2.2 < x.place.2.2)) x then some x else go (before ++ [x]) t
  go [] s.sched.hub

/-- Let cross what the hub seams take, at most `n` items. -/
def drainHub : Nat → State → State
  | 0, s => s
  | n + 1, s =>
    match hubNext s with
    | none => s
    | some x => drainHub n (hubCross x (s.modSched fun y => { y with hub := y.hub.erase x }))

/-! The VC0 express path (R86, R88). -/

/-- A VC0 cell crosses from block `i` to block `j`: over the hub seams of both regions, into an entry of the output block. -/
def expressCross (i j : Nat) (x : Nat × BufCell) (s : State) : State :=
  let s := (s.modBlock i fun b => { b with express := b.express.erase x }).modSched fun y => { y with expPtr := y.expPtr.put j ((i + 1) % 32) }
  let s := seamPassed (6 + regionOf j) 1 (seamPassed (6 + regionOf i) 0 (leaveBlock i x.2 s))
  if s.live x.1 then
    let (id, s) := newEnt j s
    s.modPort x.1 fun q => { q with vc0 := q.vc0 ++ [{ x.2 with ent := id, shared := true }] }
  else countDiscard x.2.org.port causePortState s

/-- A VC0 cell crosses the hub's express path to an output block: its express port serves the input blocks by round robin (R86);
a cell with no room ahead, or of a block that forwards nothing, stays in place (R15, R88). What waits at a hub seam behind VC0 cells goes once
none is left that could (R87). -/
def execExpressForward (outBlk : Nat) (s : State) : Out :=
  let ptr := s.sched.expPtr.look outBlk 0
  let s := match ((List.range 32).map fun k => (ptr + k) % 32).findSome? fun i => (expressGo s i outBlk).map fun x => (i, x) with
    | none => s
    | some (i, x) => expressCross i outBlk x s
  .next (drainHub s.sched.hub.length s)

/-- A freeze marker reaches a region die (R456): by the pair seam of a die that has latched, or by the hub seam, where it is the last in the
order of R87. -/
def execFreezeMarkerArrival (die : Nat) (s : State) : Out :=
  let sent := match s.logs.freeze with | some f => f.latched.any fun d => decide (d < 4) && d != die && !(silentDies s).contains d | none => false
  .next (if 4 ≤ die then s
    else if sent || hubTakes s s.sched.hub (.marker die) then latch die s
    else if s.logs.freeze.isNone || s.sched.hub.contains (.marker die) then s
    else hubWait (.marker die) s)

end Sys2Proof.Machine
end

