-- ==== Sys2Proof/Machine/Spot.lean ====
section
/-! DEFINITION. Machine/Spot.lean: the twin's copy of a chunk that spot duplication selects (chapters 07, 08). -/
namespace Sys2Proof.Machine

/-- The fields of a code word (R239). -/
def fieldsOf (w : Nat) : IWord :=
  ⟨BitVec.ofNat 4 (field w 22 4), BitVec.ofNat 4 (field w 18 4), BitVec.ofNat 4 (field w 14 4), BitVec.ofNat 4 (field w 10 4), BitVec.ofNat 10 w⟩

/-- Run a code word that R264 allows in ON_CONTRIB on a core; another ends the handler. -/
def runWord (core w : Nat) (s : State) : Out :=
  let i := fieldsOf w
  match w / 2 ^ 26 with
  | 0x01 => execLdc core i s
  | 0x03 => execSts core i s
  | 0x06 => execLdi core i s
  | 0x07 => if field w 6 4 = 10 then execMovCtx core i s else execMov core i s
  | 0x0A => execAccxVreg core i s
  | 0x0B => execUnacc core i s
  | 0x0C => execRndx core i s
  | 0x0E => execVsum core i s
  | 0x10 => execFadd core i s
  | 0x11 => execFsub core i s
  | 0x12 => execFmul core i s
  | 0x13 => execFfma core i s
  | 0x14 => execFmax core i s
  | 0x15 => execFmin core i s
  | 0x16 => execFdiv core i .agrees s
  | 0x17 => execFsqrt core i .agrees s
  | 0x18 => execFrsq core i .agrees s
  | 0x19 => execFscl core i s
  | 0x1A => execFabs core i s
  | 0x1B => execFneg core i s
  | 0x1C => execFclmp core i s
  | 0x20 => execIadd core i s
  | 0x21 => execIsub core i s
  | 0x22 => execImax core i s
  | 0x23 => execImin core i s
  | 0x24 => execAnd core i s
  | 0x25 => execOr core i s
  | 0x26 => execXor core i s
  | 0x27 => execShl core i s
  | 0x28 => execShr core i s
  | 0x29 => execShrArith core i s
  | 0x2C => execCvt core i s
  | 0x2D => execQnt core i s
  | 0x2E => execDqt core i s
  | 0x30 => execFcmp core i s
  | 0x31 => execIcmp core i s
  | 0x32 => execSel core i s
  | 0x38 => execBr core i s
  | 0x39 => execBrp core i s
  | 0x3A => execWaitSend core i s
  | 0x3B => execFence core i s
  | _ => .next (dropInv core s)

/-- Run a handler to its end; an admitted one takes at most 256 ops (R265). -/
def runHandler (core pid : Nat) : Nat → State → State
  | 0, s => s
  | n + 1, s =>
    match (s.core core).inv with
    | none => s
    | some i => match runWord core (codeWord s pid i.pc) s with
      | .next s => runHandler core pid n s
      | _ => s

/-- The twin accumulates a forwarded contribution as the home does (R220): what is added on arrival, then what the program's ON_CONTRIB does to
the row. It runs beside the machine: of its effects only the chunk is kept. -/
def spotCell (s : State) (p c : Nat) (k : Parked) (ch : Chunk) : Chunk :=
  let pl := s.peal p
  let d := pl.desc
  let pid := dProgram d
  let ch := match accumulates s pid with
    | some sq => ch.modRow k.cell.index fun r => r.accumulate d sq (ch.anchor.getD 0) k.cell
    | none => ch
  match userEntry s pid 0 with
  | none => ch
  | some e =>
    if fastPath s pid then ch
    else
      let core := coreOf s d c
      let pc := if (leadAccx s pid).isSome then e + 1 else e
      let i : Inv := { peal := p, entry := 0, x := k.cell.index, member := k.member, cell := some k.cell, pc := pc, round := pl.round, step := pl.step }
      let s := runHandler core pid 256 (setInv core i (s.modPeal p fun q => { q with chunks := q.chunks.put c ch }))
      ((s.peal p).chunks.look? c).getD ch

/-- The twin's copy of a selected chunk once every forwarded contribution is in. SPOT_FWD carries no MAXEXP: under ANCHOR_AUTO the anchor is taken
from the largest exponent of the forwarded data, which is what each member reports (R210). (DESIGN CHOICE, log entry 165). -/
def spotChunk (s : State) (p c : Nat) (cells : List Parked) : Chunk :=
  let d := (s.peal p).desc
  let es := (cells.map fun k => (cellElts d k.cell).map eltExp).flatten
  let a := if dAnchorAuto d then autoAnchor d es else dAnchorLsb d
  cells.foldl (fun ch k => spotCell s p c k ch) { anchor := some a }

/-- SPOT_FWD arrives: the twin keeps the contribution, and with the last one of the chunk accumulates it and returns its digest (R220). The copy
stays until the round ends (R221). -/
def execSpotFwdReceive (msg : TwinMsg) (s : State) : Out :=
  let s := takeTwin 3 msg s
  let p := le msg.head 0 2
  let pl := s.peal p
  let d := pl.desc
  let x := le msg.head 4 4
  if !twinOk 0x0A msg then .next (badTwin s)
  else if !twinPeal s p msg.tag || s.twin.st != .paired || pl.round ≠ byteAt msg.head 2 then .next s
  else
    let c := chunkOf d x
    let cell := mkCell tContrib 2 0 false false 0 0 (dTag d) (pealTs p pl.round x (byteAt msg.head 12) (le msg.head 14 2)) (msg.data.take 64)
    let ch := pl.spotRows.look c {}
    let cells := ch.parked ++ [⟨cell, le msg.head 8 4⟩]
    if cells.length < owedTotal s d c then .next (s.modPeal p fun q => { q with spotRows := q.spotRows.put c { ch with parked := cells } })
    else
      let copy := spotChunk s p c cells
      let dig := chunkDigest d c copy
      let s := s.modPeal p fun q => { q with spotRows := q.spotRows.put c { copy with complete := true, digest := some dig } }
      .next (sendTwinFrom (some (chunkRegion d c)) 0x0B 3 (dTag d) (toLE 2 p ++ toLE 1 pl.round ++ zeros 1 ++ toLE 4 c ++ toLE 8 dig.toNat) [] s)

end Sys2Proof.Machine
end

