-- ==== Sys2Proof/Machine/Dispatch.lean ====
section
/-! DEFINITION. Machine/Dispatch.lean: one arm per command, each a direct call of its meaning. -/
namespace Sys2Proof.Machine

def exec (i : Instr) (s : State) : Host.Outcome State Fault Refusal :=
  match i with
  | .hello m => Sys2Proof.Machine.execHello m s
  | .goodbye m => Sys2Proof.Machine.execGoodbye m s
  | .queryInfo m => Sys2Proof.Machine.execQueryInfo m s
  | .planLoad m => Sys2Proof.Machine.execPlanLoad m s
  | .planStatus m => Sys2Proof.Machine.execPlanStatus m s
  | .tableBegin m => Sys2Proof.Machine.execTableBegin m s
  | .tableCommit m => Sys2Proof.Machine.execTableCommit m s
  | .tableAbort m => Sys2Proof.Machine.execTableAbort m s
  | .tableAccessRead m => Sys2Proof.Machine.execTableAccessRead m s
  | .tableAccessWrite m => Sys2Proof.Machine.execTableAccessWrite m s
  | .tableAccessLock m => Sys2Proof.Machine.execTableAccessLock m s
  | .tableAccessUnlock m => Sys2Proof.Machine.execTableAccessUnlock m s
  | .tableAccessDiscard m => Sys2Proof.Machine.execTableAccessDiscard m s
  | .portConfig m => Sys2Proof.Machine.execPortConfig m s
  | .portConfigQosOnly m => Sys2Proof.Machine.execPortConfigQosOnly m s
  | .portConfigRemove m => Sys2Proof.Machine.execPortConfigRemove m s
  | .portFence m => Sys2Proof.Machine.execPortFence m s
  | .portUnfence m => Sys2Proof.Machine.execPortUnfence m s
  | .portDampDamp m => Sys2Proof.Machine.execPortDampDamp m s
  | .portDampRelease m => Sys2Proof.Machine.execPortDampRelease m s
  | .jobAdmit m => Sys2Proof.Machine.execJobAdmit m s
  | .jobRetire m => Sys2Proof.Machine.execJobRetire m s
  | .pealAdmit m => Sys2Proof.Machine.execPealAdmit m s
  | .pealArm m => Sys2Proof.Machine.execPealArm m s
  | .pealRetire m => Sys2Proof.Machine.execPealRetire m s
  | .pealStatus m => Sys2Proof.Machine.execPealStatus m s
  | .pealVoid m => Sys2Proof.Machine.execPealVoid m s
  | .shardCreate m => Sys2Proof.Machine.execShardCreate m s
  | .stepParams m => Sys2Proof.Machine.execStepParams m s
  | .stepCommitCommit m => Sys2Proof.Machine.execStepCommitCommit m s
  | .stepCommitRollback m => Sys2Proof.Machine.execStepCommitRollback m s
  | .shardExport m => Sys2Proof.Machine.execShardExport m s
  | .shardImport m => Sys2Proof.Machine.execShardImport m s
  | .twinPairPair m => Sys2Proof.Machine.execTwinPairPair m s
  | .twinPairUnpair m => Sys2Proof.Machine.execTwinPairUnpair m s
  | .twinStatus m => Sys2Proof.Machine.execTwinStatus m s
  | .takeoverGrant m => Sys2Proof.Machine.execTakeoverGrant m s
  | .twinRebuildStart m => Sys2Proof.Machine.execTwinRebuildStart m s
  | .twinRebuildAbort m => Sys2Proof.Machine.execTwinRebuildAbort m s
  | .circuitScheduleLoad m => Sys2Proof.Machine.execCircuitScheduleLoad m s
  | .circuitArmArm m => Sys2Proof.Machine.execCircuitArmArm m s
  | .circuitArmDisarm m => Sys2Proof.Machine.execCircuitArmDisarm m s
  | .timeSetSource m => Sys2Proof.Machine.execTimeSetSource m s
  | .timeStatus m => Sys2Proof.Machine.execTimeStatus m s
  | .snapshot m => Sys2Proof.Machine.execSnapshot m s
  | .healthRead m => Sys2Proof.Machine.execHealthRead m s
  | .eventRead m => Sys2Proof.Machine.execEventRead m s
  | .fwStageStatus m => Sys2Proof.Machine.execFwStageStatus m s
  | .fwActivate m => Sys2Proof.Machine.execFwActivate m s
  | .attest m => Sys2Proof.Machine.execAttest m s
  | .lastLoad m => Sys2Proof.Machine.execLastLoad m s
  | .lastQuery m => Sys2Proof.Machine.execLastQuery m s
  | .shadowConfig m => Sys2Proof.Machine.execShadowConfig m s
  | .messageReplay m => Sys2Proof.Machine.execMessageReplay m s
  | .mailboxOverrun mbx => Sys2Proof.Machine.execMailboxOverrun mbx s
  | .eqHeadWrite head => Sys2Proof.Machine.execEqHeadWrite head s
  | .registerWrite off data => Sys2Proof.Machine.execRegisterWrite off data s
  | .segmentLock segs => Sys2Proof.Machine.execSegmentLock segs s
  | .segmentUnlock segs => Sys2Proof.Machine.execSegmentUnlock segs s
  | .cxlMemWrite win off data => Sys2Proof.Machine.execCxlMemWrite win off data s
  | .programCheckDone pid => Sys2Proof.Machine.execProgramCheckDone pid s
  | .svcHello dg => Sys2Proof.Machine.execSvcHello dg s
  | .svcStatus dg => Sys2Proof.Machine.execSvcStatus dg s
  | .stageBegin dg => Sys2Proof.Machine.execStageBegin dg s
  | .stageData dg => Sys2Proof.Machine.execStageData dg s
  | .stageEnd dg => Sys2Proof.Machine.execStageEnd dg s
  | .stageAbort dg => Sys2Proof.Machine.execStageAbort dg s
  | .configRead dg => Sys2Proof.Machine.execConfigRead dg s
  | .configWrite dg => Sys2Proof.Machine.execConfigWrite dg s
  | .setOpk dg => Sys2Proof.Machine.execSetOpk dg s
  | .clearOpk dg => Sys2Proof.Machine.execClearOpk dg s
  | .ledgerRead dg => Sys2Proof.Machine.execLedgerRead dg s
  | .svcSessionIdle session => Sys2Proof.Machine.execSvcSessionIdle session s
  | .resetNAssert => Sys2Proof.Machine.execResetNAssert s
  | .resetNRelease boot => Sys2Proof.Machine.execResetNRelease boot s
  | .selftestComplete res => Sys2Proof.Machine.execSelftestComplete res s
  | .perstN => Sys2Proof.Machine.execPerstN s
  | .supplyWarning die mv => Sys2Proof.Machine.execSupplyWarning die mv s
  | .supplyWarningClear die mv => Sys2Proof.Machine.execSupplyWarningClear die mv s
  | .supplyWarningHeld die => Sys2Proof.Machine.execSupplyWarningHeld die s
  | .supplyReset die mv => Sys2Proof.Machine.execSupplyReset die mv s
  | .supplyFail rail => Sys2Proof.Machine.execSupplyFail rail s
  | .refclkLoss clk => Sys2Proof.Machine.execRefclkLoss clk s
  | .trefLoss => Sys2Proof.Machine.execTrefLoss s
  | .signalDetect port => Sys2Proof.Machine.execSignalDetect port s
  | .retrainInterval port => Sys2Proof.Machine.execRetrainInterval port s
  | .trainingStepDone port res => Sys2Proof.Machine.execTrainingStepDone port res s
  | .trainingStepFail port => Sys2Proof.Machine.execTrainingStepFail port s
  | .trainTimeout port => Sys2Proof.Machine.execTrainTimeout port s
  | .pcsLock lane => Sys2Proof.Machine.execPcsLock lane s
  | .pcsLossOfLock lane => Sys2Proof.Machine.execPcsLossOfLock lane s
  | .checkDwellEnd port serPpm => Sys2Proof.Machine.execCheckDwellEnd port serPpm s
  | .dampHoldExpiry port => Sys2Proof.Machine.execDampHoldExpiry port s
  | .serDamp port serPpm => Sys2Proof.Machine.execSerDamp port serPpm s
  | .stompRateLimit lane => Sys2Proof.Machine.execStompRateLimit lane s
  | .discoverySend port => Sys2Proof.Machine.execDiscoverySend port s
  | .discoveryReceive port cell => Sys2Proof.Machine.execDiscoveryReceive port cell s
  | .lcwReceive lane lcw => Sys2Proof.Machine.execLcwReceive lane lcw s
  | .lcwLoss lane => Sys2Proof.Machine.execLcwLoss lane s
  | .retryTimeout lane => Sys2Proof.Machine.execRetryTimeout lane s
  | .codewordVerdict lane v => Sys2Proof.Machine.execCodewordVerdict lane v s
  | .stompReceive lane cell => Sys2Proof.Machine.execStompReceive lane cell s
  | .linkStompReceive lane cell => Sys2Proof.Machine.execLinkStompReceive lane cell s
  | .cellReceive lane slot cell => Sys2Proof.Machine.execCellReceive lane slot cell s
  | .policerRefill port => Sys2Proof.Machine.execPolicerRefill port s
  | .qosRecordInstall port => Sys2Proof.Machine.execQosRecordInstall port s
  | .sharedPoolMove block port vc => Sys2Proof.Machine.execSharedPoolMove block port vc s
  | .replicationPendingPlace block => Sys2Proof.Machine.execReplicationPendingPlace block s
  | .schedulerWave engine lost => Sys2Proof.Machine.execSchedulerWave engine lost s
  | .localArbitration block => Sys2Proof.Machine.execLocalArbitration block s
  | .claim block port vc len engine inBlock => Sys2Proof.Machine.execClaim block port vc len engine inBlock s
  | .claimReply inBlock claim => Sys2Proof.Machine.execClaimReply inBlock claim s
  | .claimNoReply inBlock claim => Sys2Proof.Machine.execClaimNoReply inBlock claim s
  | .reservationExpiry block claim => Sys2Proof.Machine.execReservationExpiry block claim s
  | .engineStall engine => Sys2Proof.Machine.execEngineStall engine s
  | .trainArrival block inBlock port vc number => Sys2Proof.Machine.execTrainArrival block inBlock port vc number s
  | .expressForward outBlock => Sys2Proof.Machine.execExpressForward outBlock s
  | .transmitSlot port => Sys2Proof.Machine.execTransmitSlot port s
  | .seamFrameCrcFail seam dir lane => Sys2Proof.Machine.execSeamFrameCrcFail seam dir lane s
  | .seamLaneLoss seam dir => Sys2Proof.Machine.execSeamLaneLoss seam dir s
  | .bufferEccError e => Sys2Proof.Machine.execBufferEccError e s
  | .drainTimerExpiry => Sys2Proof.Machine.execDrainTimerExpiry s
  | .healthDecayTick => Sys2Proof.Machine.execHealthDecayTick s
  | .sampleExpiry region => Sys2Proof.Machine.execSampleExpiry region s
  | .echoCellTransit cell => Sys2Proof.Machine.execEchoCellTransit cell s
  | .seamLoadUpdate region pct => Sys2Proof.Machine.execSeamLoadUpdate region pct s
  | .windowReceive cell => Sys2Proof.Machine.execWindowReceive cell s
  | .windowTimeout win => Sys2Proof.Machine.execWindowTimeout win s
  | .windowRepeat peal member => Sys2Proof.Machine.execWindowRepeat peal member s
  | .pealContribReceive cell => Sys2Proof.Machine.execPealContribReceive cell s
  | .markEchoTimer peal member => Sys2Proof.Machine.execMarkEchoTimer peal member s
  | .verdictArrival core good => Sys2Proof.Machine.execVerdictArrival core good s
  | .pealExpReceive cell => Sys2Proof.Machine.execPealExpReceive cell s
  | .chunkOpen peal => Sys2Proof.Machine.execChunkOpen peal s
  | .chunkComplete peal chunk => Sys2Proof.Machine.execChunkComplete peal chunk s
  | .resultRelease peal chunk => Sys2Proof.Machine.execResultRelease peal chunk s
  | .sealedExpiry peal => Sys2Proof.Machine.execSealedExpiry peal s
  | .roundOpen peal => Sys2Proof.Machine.execRoundOpen peal s
  | .stepWatchdogExpiry peal => Sys2Proof.Machine.execStepWatchdogExpiry peal s
  | .retireComplete peal => Sys2Proof.Machine.execRetireComplete peal s
  | .repairRequestReceive cell => Sys2Proof.Machine.execRepairRequestReceive cell s
  | .spotFwdReceive msg => Sys2Proof.Machine.execSpotFwdReceive msg s
  | .spotDigestReceive msg => Sys2Proof.Machine.execSpotDigestReceive msg s
  | .spotDigestTimeout peal chunk => Sys2Proof.Machine.execSpotDigestTimeout peal chunk s
  | .onContrib core peal x member => Sys2Proof.Machine.execOnContrib core peal x member s
  | .onChunk core peal x => Sys2Proof.Machine.execOnChunk core peal x s
  | .onStepEnd core peal x => Sys2Proof.Machine.execOnStepEnd core peal x s
  | .onVoid core peal => Sys2Proof.Machine.execOnVoid core peal s
  | .ldc core w => Sys2Proof.Machine.execLdc core w s
  | .lds core w => Sys2Proof.Machine.execLds core w s
  | .sts core w => Sys2Proof.Machine.execSts core w s
  | .ldm core w => Sys2Proof.Machine.execLdm core w s
  | .stm core w => Sys2Proof.Machine.execStm core w s
  | .ldi core w => Sys2Proof.Machine.execLdi core w s
  | .mov core w => Sys2Proof.Machine.execMov core w s
  | .movCtx core w => Sys2Proof.Machine.execMovCtx core w s
  | .emit core w => Sys2Proof.Machine.execEmit core w s
  | .echo core w => Sys2Proof.Machine.execEcho core w s
  | .accxCell core w => Sys2Proof.Machine.execAccxCell core w s
  | .accxVreg core w => Sys2Proof.Machine.execAccxVreg core w s
  | .unacc core w => Sys2Proof.Machine.execUnacc core w s
  | .rndx core w => Sys2Proof.Machine.execRndx core w s
  | .chk core w => Sys2Proof.Machine.execChk core w s
  | .vsum core w => Sys2Proof.Machine.execVsum core w s
  | .fadd core w => Sys2Proof.Machine.execFadd core w s
  | .fsub core w => Sys2Proof.Machine.execFsub core w s
  | .fmul core w => Sys2Proof.Machine.execFmul core w s
  | .ffma core w => Sys2Proof.Machine.execFfma core w s
  | .fmax core w => Sys2Proof.Machine.execFmax core w s
  | .fmin core w => Sys2Proof.Machine.execFmin core w s
  | .fdiv core w check => Sys2Proof.Machine.execFdiv core w check s
  | .fsqrt core w check => Sys2Proof.Machine.execFsqrt core w check s
  | .frsq core w check => Sys2Proof.Machine.execFrsq core w check s
  | .fscl core w => Sys2Proof.Machine.execFscl core w s
  | .fabs core w => Sys2Proof.Machine.execFabs core w s
  | .fneg core w => Sys2Proof.Machine.execFneg core w s
  | .fclmp core w => Sys2Proof.Machine.execFclmp core w s
  | .iadd core w => Sys2Proof.Machine.execIadd core w s
  | .isub core w => Sys2Proof.Machine.execIsub core w s
  | .imax core w => Sys2Proof.Machine.execImax core w s
  | .imin core w => Sys2Proof.Machine.execImin core w s
  | .andOp core w => Sys2Proof.Machine.execAnd core w s
  | .orOp core w => Sys2Proof.Machine.execOr core w s
  | .xorOp core w => Sys2Proof.Machine.execXor core w s
  | .shl core w => Sys2Proof.Machine.execShl core w s
  | .shr core w => Sys2Proof.Machine.execShr core w s
  | .shrArith core w => Sys2Proof.Machine.execShrArith core w s
  | .cvt core w => Sys2Proof.Machine.execCvt core w s
  | .qnt core w => Sys2Proof.Machine.execQnt core w s
  | .dqt core w => Sys2Proof.Machine.execDqt core w s
  | .fcmp core w => Sys2Proof.Machine.execFcmp core w s
  | .icmp core w => Sys2Proof.Machine.execIcmp core w s
  | .sel core w => Sys2Proof.Machine.execSel core w s
  | .br core w => Sys2Proof.Machine.execBr core w s
  | .brp core w => Sys2Proof.Machine.execBrp core w s
  | .waitSend core w => Sys2Proof.Machine.execWaitSend core w s
  | .waitLink core w => Sys2Proof.Machine.execWaitLink core w s
  | .fenceOp core w => Sys2Proof.Machine.execFence core w s
  | .voidOp core w => Sys2Proof.Machine.execVoid core w s
  | .endInv core w => Sys2Proof.Machine.execEnd core w s
  | .normPartialForm tag normPeal trainStep => Sys2Proof.Machine.execNormPartialForm tag normPeal trainStep s
  | .normResend tag normPeal => Sys2Proof.Machine.execNormResend tag normPeal s
  | .normContribReceive cell => Sys2Proof.Machine.execNormContribReceive cell s
  | .normResultReceive cell => Sys2Proof.Machine.execNormResultReceive cell s
  | .normCopyReceive msg => Sys2Proof.Machine.execNormCopyReceive msg s
  | .pairHelloSend wp => Sys2Proof.Machine.execPairHelloSend wp s
  | .pairHelloReceive wp msg => Sys2Proof.Machine.execPairHelloReceive wp msg s
  | .heartbeatSend => Sys2Proof.Machine.execHeartbeatSend s
  | .heartbeatReceive msg => Sys2Proof.Machine.execHeartbeatReceive msg s
  | .heartbeatLoss => Sys2Proof.Machine.execHeartbeatLoss s
  | .dyingReceive msg => Sys2Proof.Machine.execDyingReceive msg s
  | .homesReassigned => Sys2Proof.Machine.execHomesReassigned s
  | .roundCtlReceive msg => Sys2Proof.Machine.execRoundCtlReceive msg s
  | .verdictReceive msg => Sys2Proof.Machine.execVerdictReceive msg s
  | .twinAckSend => Sys2Proof.Machine.execTwinAckSend s
  | .twinAckReceive msg => Sys2Proof.Machine.execTwinAckReceive msg s
  | .twinResend vc tseq => Sys2Proof.Machine.execTwinResend vc tseq s
  | .armCheckReceive msg => Sys2Proof.Machine.execArmCheckReceive msg s
  | .mirrorRowReceive msg => Sys2Proof.Machine.execMirrorRowReceive msg s
  | .digestsSend shard => Sys2Proof.Machine.execDigestsSend shard s
  | .digestsReceive msg => Sys2Proof.Machine.execDigestsReceive msg s
  | .digestsMissing shard => Sys2Proof.Machine.execDigestsMissing shard s
  | .copyDataReceive msg => Sys2Proof.Machine.execCopyDataReceive msg s
  | .copyCtlReceive msg => Sys2Proof.Machine.execCopyCtlReceive msg s
  | .sliceReqReceive msg => Sys2Proof.Machine.execSliceReqReceive msg s
  | .rebuildHoldExpiry peal => Sys2Proof.Machine.execRebuildHoldExpiry peal s
  | .probeSend wp => Sys2Proof.Machine.execProbeSend wp s
  | .probeReceive wp msg stamp => Sys2Proof.Machine.execProbeReceive wp msg stamp s
  | .probeEchoReceive wp msg stamp => Sys2Proof.Machine.execProbeEchoReceive wp msg stamp s
  | .weltFenceReceive wp msg => Sys2Proof.Machine.execWeltFenceReceive wp msg s
  | .fenceSend port => Sys2Proof.Machine.execFenceSend port s
  | .fenceCellReceive port cell => Sys2Proof.Machine.execFenceCellReceive port cell s
  | .patrolScrub channel frame burst res target => Sys2Proof.Machine.execPatrolScrub channel frame burst res target s
  | .memoryUe ue => Sys2Proof.Machine.execMemoryUe ue s
  | .dqsTracking channel ok => Sys2Proof.Machine.execDqsTracking channel ok s
  | .mr4Read package code mr4Mult tempC => Sys2Proof.Machine.execMr4Read package code mr4Mult tempC s
  | .stashRecordWrite port group => Sys2Proof.Machine.execStashRecordWrite port group s
  | .stashWriterWait port => Sys2Proof.Machine.execStashWriterWait port s
  | .edgeReleaseStop port => Sys2Proof.Machine.execEdgeReleaseStop port s
  | .circuitNoticeSend port => Sys2Proof.Machine.execCircuitNoticeSend port s
  | .edgeResendStop port => Sys2Proof.Machine.execEdgeResendStop port s
  | .slotEdge port => Sys2Proof.Machine.execSlotEdge port s
  | .switchSettled port => Sys2Proof.Machine.execSwitchSettled port s
  | .relockLimitExpiry port => Sys2Proof.Machine.execRelockLimitExpiry port s
  | .fullTrainDeadline port => Sys2Proof.Machine.execFullTrainDeadline port s
  | .circuitNoticeReceive port cell => Sys2Proof.Machine.execCircuitNoticeReceive port cell s
  | .announceSend port => Sys2Proof.Machine.execAnnounceSend port s
  | .announceReceive port cell => Sys2Proof.Machine.execAnnounceReceive port cell s
  | .announceTimeout port => Sys2Proof.Machine.execAnnounceTimeout port s
  | .timingReqSend port => Sys2Proof.Machine.execTimingReqSend port s
  | .timingReqReceive port cell stamp => Sys2Proof.Machine.execTimingReqReceive port cell stamp s
  | .timingRespReceive port cell stamp => Sys2Proof.Machine.execTimingRespReceive port cell stamp s
  | .ppsInEdge frcQ => Sys2Proof.Machine.execPpsInEdge frcQ s
  | .ppsInLoss => Sys2Proof.Machine.execPpsInLoss s
  | .ptpMessage p => Sys2Proof.Machine.execPtpMessage p s
  | .ptpMasterLoss => Sys2Proof.Machine.execPtpMasterLoss s
  | .holdoverExpiry => Sys2Proof.Machine.execHoldoverExpiry s
  | .ppsOutEdge => Sys2Proof.Machine.execPpsOutEdge s
  | .ppsOutEnd => Sys2Proof.Machine.execPpsOutEnd s
  | .coreWatchdogMiss core => Sys2Proof.Machine.execCoreWatchdogMiss core s
  | .coreRestartComplete core => Sys2Proof.Machine.execCoreRestartComplete core s
  | .wardenCompareMismatch restartOk => Sys2Proof.Machine.execWardenCompareMismatch restartOk s
  | .trialExpiry => Sys2Proof.Machine.execTrialExpiry s
  | .pauseRestartComplete => Sys2Proof.Machine.execPauseRestartComplete s
  | .handoverCut => Sys2Proof.Machine.execHandoverCut s
  | .handoverTimeout => Sys2Proof.Machine.execHandoverTimeout s
  | .throughputIndexRefresh region rates => Sys2Proof.Machine.execThroughputIndexRefresh region rates s
  | .derateCompute => Sys2Proof.Machine.execDerateCompute s
  | .delayExcursion region monitor rate => Sys2Proof.Machine.execDelayExcursion region monitor rate s
  | .setpointStep acks => Sys2Proof.Machine.execSetpointStep acks s
  | .tjSample die tj8 => Sys2Proof.Machine.execTjSample die tj8 s
  | .lastCellfmtActivate => Sys2Proof.Machine.execLastCellfmtActivate s
  | .shadowPass => Sys2Proof.Machine.execShadowPass s
  | .shadowRecheck seg => Sys2Proof.Machine.execShadowRecheck seg s
  | .freezeMarkerArrival die => Sys2Proof.Machine.execFreezeMarkerArrival die s
  | .ledgerHourly die eyes => Sys2Proof.Machine.execLedgerHourly die eyes s
  | .ledgerDaily die => Sys2Proof.Machine.execLedgerDaily die s
  | .ledgerFlush die => Sys2Proof.Machine.execLedgerFlush die s
  | .coreCrash core => Sys2Proof.Machine.execCoreCrash core s
  | .uncorrectableHubState loc => Sys2Proof.Machine.execUncorrectableHubState loc s
  | .leafReportExpiry chip => Sys2Proof.Machine.execLeafReportExpiry chip s
  | .serdesFirmwareFault => Sys2Proof.Machine.execSerdesFirmwareFault s
  | .servicePortLinkAttempt linkUp => Sys2Proof.Machine.execServicePortLinkAttempt linkUp s

end Sys2Proof.Machine
end

