-- ==== Sys2Proof/Machine/Step.lean ====
section
/-! DEFINITION. Machine/Step.lean: one step of the block: the command at the front of the queue, or one idle nanosecond. -/
namespace Sys2Proof.Machine

/-- The block with nothing to do: one nanosecond passes (R357) unless the module is held in reset. (DESIGN CHOICE, log entry 1). -/
def State.idle (s : State) : State :=
  if s.chip.inReset then s else tick s

/-- Take the command at the front of the queue and run it with the rest of the queue; an empty queue idles. (DESIGN CHOICE, log entry 1). -/
def step (s : State) : Host.Outcome State Fault Refusal :=
  match s.pending with
  | [] => .next s.idle
  | c :: rest => exec c { s with pending := rest }

/-- The state with the command that a word spells put at the front of its queue; no word of the table spells one. -/
def State.withFetchWord (s : State) (nbits w : Nat) : State :=
  match Sys2Proof.decodeTableWord nbits w with
  | some c => { s with pending := c :: s.pending }
  | none => s

end Sys2Proof.Machine
end

