-- ==== Sys2Proof/Safety.lean ====
section
/-! DEFINITION. Safety.lean: what the claims about the block say of a state and of a command. -/
namespace Sys2Proof.Machine

/-- Every byte memory of the block is in its canonical form. -/
def Mems.ok (m : Mems) : Prop :=
  Memory.wf tblDefault m.tbl = true ∧ Memory.wf tblDefault m.stg = true ∧ Memory.wf zeroDefault m.host = true ∧
  Memory.wf zeroDefault m.pstore = true ∧ Memory.wf zeroDefault m.bank = true

/-- The invariant every step keeps. -/
def State.memOk (s : State) : Prop := s.mem.ok

/-- A command completes in a state with a property. -/
def Completes (c : Instr) (s : State) (p : State → Prop) : Prop := ∃ t, exec c s = .next t ∧ p t

/-! Mailbox messages (R380 to R387). -/

/-- A message of an opcode is taken up and passes the checks of R384 that come before the opcode's own rules: CXL is in operation, the module is
out of reset, the mailbox is not BUSY, the SEQID is not the last one served, and no control core stands still. -/
def Served (op : Nat) (m : Msg) (s : State) : Prop :=
  s.host.cxlUp = true ∧ s.chip.inReset = false ∧ (s.mbx m.mbx.val).busy = false ∧
  ((s.mbx m.mbx.val).any && (s.mbx m.mbx.val).lastSeq == m.seqid) = false ∧ msgHeld s op m.mbx.val = false ∧
  msgCheck (ring op m s) op m = none

/-- A message is answered OK with a body; `t` is the state that the effect leaves before the response is written. -/
def AnswersOk (c : Instr) (op : Nat) (m : Msg) (s : State) (body : Bytes) (t : State) : Prop :=
  ∃ always : Bool, exec c s = .next (answer ⟨op, m, true⟩ ⟨eOk, 0, body, always⟩ t)

/-- A message has its effect now and is answered when a later event completes it; `t` is the state that the effect leaves. -/
def Defers (c : Instr) (op : Nat) (m : Msg) (s t : State) : Prop :=
  exec c s = .next (t.modMbx m.mbx.val fun x => { x with waiting := some ⟨op, m, true⟩ })

/-! Service datagrams (R423, R424). -/

/-- A datagram of a command is accepted in its session: a service link is up, the chip is past BOOT, version and KIND are right, the MAC is good and SEQ is above the
last accepted one. -/
def Accepted (cmd kind : Nat) (d : Dgram) (s : State) (x : Svc) : Prop :=
  svcUp s = true ∧ s.chip.st ≠ .boot ∧ s.svc d.session.toNat = some x ∧ d.ver = 1 ∧ d.kind.toNat = kind ∧ macOk cmd d x = true ∧ x.rxSeq < d.seq.toNat

/-- The state in which an accepted datagram is served: its SEQ and the time are kept in the session. -/
def svcIn (d : Dgram) (x : Svc) (s : State) : State :=
  { s with ctl := { s.ctl with sessions := s.ctl.sessions.put d.session.toNat { x with rxSeq := d.seq.toNat, at_ := s.now }, out := [] } }

/-! Instructions of the peal cores (R239 to R241). -/

/-- The program context of a core runs an invocation, a replica of its program gives the word, and the word is an instruction of the opcode. -/
def Issues (s : State) (core op : Nat) (w : IWord) (i : Inv) : Prop :=
  (s.core core).inv = some i ∧ fetchBad s i = false ∧ wordCheck op w = none

/-- The state after an instruction that makes the invocation `j` of `i` on the core: OPS_ISSUED counts its issue slots, and nothing else changes. -/
def Leaves (op core : Nat) (w : IWord) (i j : Inv) (s : State) : State := (countOps op core w i s).modCore core fun k => { k with inv := some j }

/-- The counts of branches taken once control comes to the next word: a loop that starts there counts from nothing (R262). -/
def Inv.counts (i : Inv) : Tbl (Nat × Nat) := i.taken.filter fun e => e.2.1 != i.pc + 1

/-- The lanes of V[D] that act take a value, every other lane of every register keeps its own, and the program goes on. -/
def Inv.vecResult (i : Inv) (w : IWord) (g : Nat → W32) : Inv :=
  { i with pc := i.pc + 1, taken := i.counts, v := i.v.mapIdx fun k x => if k / 32 = w.d.toNat ∧ i.acts w.c (k % 32) = true then g (k % 32) else x }

/-- S[D] takes a value, and the program goes on. -/
def Inv.scalResult (i : Inv) (w : IWord) (x : W32) : Inv := { i with pc := i.pc + 1, taken := i.counts, s := i.s.set w.d.toNat x }

/-- The lanes of A[D] that act take a value, SAT joins whether one of them was held at the bound, and the program goes on. -/
def Inv.accResult (i : Inv) (w : IWord) (g : Nat → ALane × Bool) : Inv :=
  { i with pc := i.pc + 1, taken := i.counts, sat := i.sat || (List.range 32).any fun l => i.acts w.c l && (g l).2
           a := i.a.mapIdx fun k x => if k / 32 = w.d.toNat % 4 ∧ i.acts w.c (k % 32) = true then (g (k % 32)).1 else x }

/-- A shift of an A lane: the 128-bit value by the count of IMM or of the other lane; NAN unless the lanes it reads are FINITE (R250). -/
def accShift (kind : Nat) (w : IWord) (x y : ALane) : ALane × Bool :=
  let im := w.imm.getLsbD 7
  if x.tag = 0 ∧ (im = true ∨ y.tag = 0) then
    (⟨signed (shiftN kind 128 (twos x.val 128) (if im then field w.imm.toNat 0 7 else field (twos y.val 128) 0 7)) 128, 0⟩, false)
  else (⟨0, 3⟩, false)

/-- P[D] takes a value, and the program goes on. -/
def Inv.predResult (i : Inv) (w : IWord) (x : W32) : Inv := { i with pc := i.pc + 1, taken := i.counts, p := i.p.set (w.d.toNat % 4) x }

end Sys2Proof.Machine
end

