-- ==== Sys2Proof/Certificates/Slice0/Obligations.lean ====
section
/-! DEFINITION. Certificates/Slice0/Obligations.lean: the statements about the block. -/
open Sys2Proof Sys2Proof.Machine

/-! The machine as a whole. -/

/-- A step with a command at the front of the queue is exec of that command on the state with the queue's rest. -/
def Obligations.StepRunsFrontCommand : Prop :=
  ∀ (s : State) (c : Instr) (rest : List Instr), s.pending = c :: rest → step s = exec c { s with pending := rest }

/-- The model's choice (log entry 1): on an empty queue the block idles one nanosecond, in which every core whose event queue is full counts
QUEUE_FULL_NS, and a module held in reset stands still. -/
def Obligations.StepIdlesOnAnEmptyQueue : Prop :=
  ∀ s : State, s.pending = [] →
    step s = .next (if s.chip.inReset then s else s.spine.cores.keys.foldl (fun s c => if eventsFull s c then bump 0x06 c 16 s else s)
      { s with time := { s.time with frc := s.time.frc + 1 } })

/-- At reset every byte memory is in its canonical form. -/
def Obligations.ResetMemoryIsCanonical : Prop :=
 State.reset.memOk

/-- Every step keeps every byte memory in its canonical form. -/
def Obligations.StepKeepsMemoryCanonical : Prop :=
  ∀ s t : State, s.memOk → step s = .next t → t.memOk

/-- Every command of every kind is carried out: none faults and none is refused. -/
def Obligations.EveryCommandCompletes : Prop :=
 ∀ (c : Instr) (s : State), ∃ t, exec c s = .next t

/-- No command changes the queue of commands that wait. -/
def Obligations.NoCommandTouchesTheQueue : Prop :=
 ∀ (c : Instr) (s t : State), exec c s = .next t → t.pending = s.pending

/-- No step lowers the SVN floor of a part, re-opens a reserved block of identity-key indices, or changes the module record. -/
def Obligations.FloorsAndKeyBlocksNeverFall : Prop :=
  ∀ s t : State, step s = .next t →
    (∀ p, p < 5 → floorOf s.flash p ≤ floorOf t.flash p) ∧ s.flash.lmsNext ≤ t.flash.lmsNext ∧ t.flash.record = s.flash.record

/-! Instructions of the peal cores (chapter 08). -/

/-- FP32 instructions: the rounded result enters S[D] in the scalar form, and the acting lanes of V[D] in the vector form, where FFMA and FCLMP, whose C
is an operand, write every lane; one op is counted and nothing else changes. The quotient and the roots are those whose self-check agrees. -/
def Obligations.FpInstructionsWriteTheirResult : Prop :=
  ∀ (core : Nat) (w : IWord) (s : State) (i : Inv),
    (∀ e ∈ ([(Instr.fadd core w, 0x10, fAdd), (.fsub core w, 0x11, fSub), (.fmul core w, 0x12, fMul), (.fmax core w, 0x14, fMax),
        (.fmin core w, 0x15, fMin), (.fdiv core w .agrees, 0x16, fDiv)] : List (Instr × Nat × (W32 → W32 → W32))), Issues s core e.2.1 w i →
      exec e.1 s = .next (Leaves e.2.1 core w i (if w.imm.getLsbD 9 then i.scalResult w (e.2.2 (i.sr w.a.toNat) (i.sr w.b.toNat))
        else i.vecResult w fun l => e.2.2 (i.vl w.a.toNat l) (i.vl w.b.toNat l)) s)) ∧
    (∀ e ∈ ([(Instr.fsqrt core w .agrees, 0x17, fSqrt), (.frsq core w .agrees, 0x18, fRsq), (.fabs core w, 0x1A, fAbs), (.fneg core w, 0x1B, fNeg),
        (.fscl core w, 0x19, fun x => fScl x (i.sr w.b.toNat).toInt)] : List (Instr × Nat × (W32 → W32))), Issues s core e.2.1 w i →
      exec e.1 s = .next (Leaves e.2.1 core w i (if w.imm.getLsbD 9 then i.scalResult w (e.2.2 (i.sr w.a.toNat))
        else i.vecResult w fun l => e.2.2 (i.vl w.a.toNat l)) s)) ∧
    (∀ e ∈ ([(Instr.ffma core w, 0x13, fFma), (.fclmp core w, 0x1C, fun a b c => fMin (fMax a b) c)] : List (Instr × Nat × (W32 → W32 → W32 → W32))),
      Issues s core e.2.1 w i →
      exec e.1 s = .next (Leaves e.2.1 core w i (if w.imm.getLsbD 9 then i.scalResult w (e.2.2 (i.sr w.a.toNat) (i.sr w.b.toNat) (i.sr w.c.toNat))
        else { i with pc := i.pc + 1, taken := i.counts, v := i.v.mapIdx fun k x =>
          if k / 32 = w.d.toNat then (e.2.2 (i.vl w.a.toNat (k % 32)) (i.vl w.b.toNat (k % 32)) (i.vl w.c.toNat (k % 32))) else x }) s))

/-- Integer and bit instructions: the acting lanes of V[D] (class V), S[D] (class S) or the acting lanes of A[D] (class A) take what the operation gives,
words modulo 2^32; a shift of words takes its count from IMM bits 6:0 or the low 7 bits of B, and gives 0, or all sign bits, for a count of 32 or
more. -/
def Obligations.IntegerInstructionsWriteTheirResult : Prop :=
  ∀ (core : Nat) (w : IWord) (s : State) (i : Inv),
    let count (y : W32) : Nat := if w.imm.getLsbD 7 then field w.imm.toNat 0 7 else field y.toNat 0 7
    ∀ e ∈ ([(Instr.iadd core w, 0x20, fun x y => x + y, aAdd false), (.isub core w, 0x21, fun x y => x - y, aAdd true),
        (.imax core w, 0x22, fun x y => if x.toInt < y.toInt then y else x, fun x y => (aExt true x y, false)),
        (.imin core w, 0x23, fun x y => if y.toInt < x.toInt then y else x, fun x y => (aExt false x y, false)),
        (.andOp core w, 0x24, fun x y => x &&& y, fun x y => (aBit (fun a b => a &&& b) x y, false)),
        (.orOp core w, 0x25, fun x y => x ||| y, fun x y => (aBit (fun a b => a ||| b) x y, false)),
        (.xorOp core w, 0x26, fun x y => x ^^^ y, fun x y => (aBit (fun a b => a ^^^ b) x y, false)),
        (.shl core w, 0x27, fun x y => if 32 ≤ count y then 0 else x <<< count y, accShift 0 w),
        (.shr core w, 0x28, fun x y => if 32 ≤ count y then 0 else x >>> count y, accShift 1 w),
        (.shrArith core w, 0x29, fun x y => x.sshiftRight (count y), accShift 2 w)] :
          List (Instr × Nat × (W32 → W32 → W32) × (ALane → ALane → ALane × Bool))), Issues s core e.2.1 w i →
      exec e.1 s = .next (Leaves e.2.1 core w i (match field w.imm.toNat 8 2 with
        | 0 => i.vecResult w fun l => e.2.2.1 (i.vl w.a.toNat l) (i.vl w.b.toNat l)
        | 1 => i.scalResult w (e.2.2.1 (i.sr w.a.toNat) (i.sr w.b.toNat))
        | _ => i.accResult w fun l => e.2.2.2 (i.al w.a.toNat l) (i.al w.b.toNat l)) s)

/-- Moves, the immediate load, selection and comparison write what R252 and R253 give, and nothing else. -/
def Obligations.MovesAndComparisonsWriteTheirResult : Prop :=
  ∀ (core : Nat) (w : IWord) (s : State) (i : Inv),
    let a := w.a.toNat
    let mode := field w.imm.toNat 6 4
    let mask (f : Nat → Bool) : W32 := BitVec.ofNat 32 (((List.range 32).map fun l => b2n (f l) * 2 ^ l).foldl (· + ·) 0)
    (Issues s core 0x06 w i → exec (.ldi core w) s = .next (Leaves 0x06 core w i (i.scalResult w (w.imm.signExtend 32)) s)) ∧
    (Issues s core 0x07 w i → mode ≠ 10 → exec (.mov core w) s = .next (Leaves 0x07 core w i (match mode with
      | 0 => i.vecResult w fun l => i.vl a l
      | 1 => i.vecResult w fun _ => i.sr a
      | 2 => i.scalResult w (i.vl a (field w.imm.toNat 0 5))
      | 3 => i.scalResult w (i.sr a)
      | 4 => i.accResult w fun l => (⟨(i.vl a l).toInt, 0⟩, false)
      | 5 => i.vecResult w fun l => BitVec.ofNat 32 (twos (i.al a l).val 32)
      | 6 => { i with pc := i.pc + 1, taken := i.counts, a := i.a.mapIdx fun k x => if k / 32 = w.d.toNat % 4 then i.al a (k % 32) else x }
      | 7 => i.predResult w (i.sr a)
      | 8 => i.scalResult w (i.pr a)
      | 9 => i.predResult w (i.pr a)
      | _ => { i with pc := i.pc + 1, taken := i.counts, a := i.a.mapIdx fun k x => if k / 32 = w.d.toNat % 4 then ⟨(i.sr a).toInt, 0⟩ else x }) s)) ∧
    (Issues s core 0x07 w i → mode = 10 → ctxOk i.entry (isUpdate (s.peal i.peal).desc) (field w.imm.toNat 0 5) = true →
      exec (.movCtx core w) s = .next (Leaves 0x07 core w i (i.scalResult w (BitVec.ofNat 32 (ctxValue s i (field w.imm.toNat 0 5)))) s)) ∧
    (Issues s core 0x32 w i → exec (.sel core w) s = .next (Leaves 0x32 core w i { i with
      pc := i.pc + 1
      taken := i.counts
      v := i.v.mapIdx fun k x => if k / 32 = w.d.toNat then (if (i.pr (w.c.toNat % 4)).getLsbD (k % 32) then i.vl a (k % 32) else i.vl w.b.toNat (k % 32)) else x } s)) ∧
    (Issues s core 0x30 w i → exec (.fcmp core w) s = .next (Leaves 0x30 core w i (i.predResult w
      (if w.imm.getLsbD 9 then (if fCmp (field w.imm.toNat 0 3) (i.sr a) (i.sr w.b.toNat) then 0xFFFFFFFF else 0)
       else mask fun l => fCmp (field w.imm.toNat 0 3) (i.vl a l) (i.vl w.b.toNat l))) s)) ∧
    (Issues s core 0x31 w i → exec (.icmp core w) s = .next (Leaves 0x31 core w i (i.predResult w
      (match field w.imm.toNat 8 2 with
       | 0 => mask fun l => iCmp (field w.imm.toNat 0 3) (w.imm.getLsbD 3) (i.vl a l) (i.vl w.b.toNat l)
       | 1 => if iCmp (field w.imm.toNat 0 3) (w.imm.getLsbD 3) (i.sr a) (i.sr w.b.toNat) then 0xFFFFFFFF else 0
       | _ => mask fun l => aCmp (field w.imm.toNat 0 3) (w.imm.getLsbD 3) ((Config.openElement s.free).getLsbD l) (i.al a l) (i.al w.b.toNat l))) s).draw)

/-- Conversions, RNDX and VSUM leave the invocation that R248 and R251 give; registers alone change, and a DQT and an RNDX take the peal's scale and the
row's anchor. -/
def Obligations.ConversionsChangeRegistersAlone : Prop :=
  ∀ (core : Nat) (w : IWord) (s : State) (i : Inv),
    let d := (s.peal i.peal).desc
    (Issues s core 0x2C w i → exec (.cvt core w) s = .next (Leaves 0x2C core w i { i.cvt w with pc := i.pc + 1, taken := i.counts } s)) ∧
    (Issues s core 0x2D w i → exec (.qnt core w) s = .next (Leaves 0x2D core w i { i.qnt w with pc := i.pc + 1, taken := i.counts } s)) ∧
    (Issues s core 0x2E w i → exec (.dqt core w) s = .next (Leaves 0x2E core w i { i.dqt (dInScale d) w with pc := i.pc + 1, taken := i.counts } s)) ∧
    (Issues s core 0x0C w i → exec (.rndx core w) s = .next (Leaves 0x0C core w i { i.rndx (dOutScale d) ((invRow s i).2.getD 0) w with pc := i.pc + 1, taken := i.counts } s)) ∧
    (Issues s core 0x0E w i → exec (.vsum core w) s = .next (Leaves 0x0E core w i { i.vsum w with pc := i.pc + 1, taken := i.counts } s)) ∧
    (∀ j : Inv, (j = i.cvt w ∨ j = i.qnt w ∨ j = i.dqt (dInScale d) w ∨ j = i.rndx (dOutScale d) ((invRow s i).2.getD 0) w ∨ j = i.vsum w) →
      j = { i with v := j.v, a := j.a, s := j.s, sat := j.sat } ∧ j.v.length = i.v.length ∧ j.a.length = i.a.length ∧ j.s.length = i.s.length)

/-- A load from a bound window, aligned and inside it, leaves the registers that R244 gives, counts itself and the slots and bytes its channels serve, and
nothing else changes. -/
def Obligations.LoadsFillTheirRegister : Prop :=
  ∀ (core : Nat) (w : IWord) (s : State) (i : Inv),
    let wb := accW (s.peal i.peal).desc
    let off := (i.sr w.a.toNat).toNat
    let b := winRead s core i (wWin w) off (sizeBytes (wSize w) wb)
    let tag (l : Nat) : Nat := if wWin w = 0 then (invRow s i).1.lane.getD (off / (wb / 8) + l) 0 else 0
    let word (o : Nat) : W32 := BitVec.ofNat 32 (le b o 4)
    ∀ e ∈ [(Instr.ldc core w, 0x01), (.lds core w, 0x02), (.ldm core w, 0x04)], Issues s core e.2 w i → accessOk s i w = true →
      let u := windowServed i (wWin w) off (sizeBytes (wSize w) wb) (countOps e.2 core w i s)
      (∃ l c, u = { s with logs := l, chans := c }) ∧ exec e.1 s = .next (u.modCore core fun k => { k with inv := some (match wSize w with
        | 0 => i.vecResult w fun l => word (4 * l)
        | 1 => { i with
            pc := i.pc + 1
            taken := i.counts
            v := i.v.mapIdx fun k x => if k / 32 = w.d.toNat ∧ k % 32 / 16 = wHalf w ∧ i.acts w.c (k % 32) = true then word (4 * (k % 32 % 16)) else x }
        | 2 => i.accResult w fun l =>
            (if 4 ≤ wWin w then exactLane wb (le b (l * wb / 8) (wb / 8)) else mkLane (tag l) (signed (le b (l * wb / 8) (wb / 8)) wb), false)
        | _ => i.scalResult w (word 0)) })

/-- A store writes its parts and no other byte: STS combines each word or lane with what PSTORE holds, STM writes the slice of SHARD_N; every other part
of the state but the core's program counter, OPS_ISSUED and, for STM, the slots and bytes its channels serve and the residues of the bank's stores stays. -/
def Obligations.StoresWriteTheirPartsAlone : Prop :=
  ∀ (core : Nat) (w : IWord) (s : State) (i : Inv), accessOk s i w = true →
    let d := (s.peal i.peal).desc
    let off := (i.sr w.a.toNat).toNat
    let t (op : Nat) (m : Mems) : State := { s with
      mem := m
      spine := (s.modCore core fun k => { k with inv := some { i with pc := i.pc + 1, taken := i.counts } }).spine
      logs := (countOps op core w i s).logs }
    (Issues s core 0x03 w i →
      let parts := i.storeParts (wSize w) (wHalf w) (accW d) false w.b.toNat w.c
      let base := pstoreAddr i.peal (core / 132) off
      ∃ p : Memory, exec (.sts core w) s = .next (t 0x03 { s.mem with pstore := p }) ∧
        (∀ a, (∀ x ∈ parts, a < base + x.1 ∨ base + x.1 + x.2.length ≤ a) → p.read zeroDefault a = s.mem.pstore.read zeroDefault a) ∧
        ∀ x ∈ parts, p.reads zeroDefault (base + x.1) x.2.length =
          toLE x.2.length (combine (field w.imm.toNat 0 4) (8 * x.2.length) (leNat (s.mem.pstore.reads zeroDefault (base + x.1) x.2.length)) (leNat x.2))) ∧
    (Issues s core 0x05 w i →
      let parts := i.storeParts (wSize w) (wHalf w) (accW d) true w.b.toNat w.c
      let base := sliceAddr s (dShard d) (nBank (s.shard (dShard d))) i.x + off
      let u := sliceServed true true (dShard d) (nBank (s.shard (dShard d))) i.x off (sizeBytes (wSize w) (accW d)) (countOps 0x05 core w i s)
      ∃ (p : Memory) (a b : Tbl Nat), exec (.stm core w) s = .next { t 0x05 { s.mem with bank := p, issued := a, landed := b } with logs := u.logs, chans := u.chans } ∧
        (∀ a, (∀ x ∈ parts, a < base + x.1 ∨ base + x.1 + x.2.length ≤ a) → p.read zeroDefault a = s.mem.bank.read zeroDefault a) ∧
        ∀ x ∈ parts, p.reads zeroDefault (base + x.1) x.2.length = x.2)

/-- The faults of R256: the invocation ends, its core and its peal count the fault under its row, and the round is voided, with cause STORE_ERROR after a
core fault for row 7 and with cause PROGRAM for the others. Row 0: an access unaligned, outside its window or in a window not bound. Row 1: a backward
branch taken beyond its bound. Row 2: an EMIT of a part the result has not or that was sent, and an END with a part missing. Row 3: an ECHO to a peal
that is not live or not of the tag. Row 4: an UNACC of a value that is not finite. Row 5: VOID. Row 7: a quotient or root that fails its self-check, and
for every instruction a word that no replica of its program gives. -/
def Obligations.ProgramFaultsEndTheInvocation : Prop :=
  ∀ (core : Nat) (w : IWord) (s : State) (i : Inv),
    let d := (s.peal i.peal).desc
    let fault (op row : Nat) : State :=
      let u := bump 0x06 core (7 + row) (bumpPeal i.peal (48 + row) 1 (dropInv core (countOps op core w i s)))
      if row = 7 then voidFor 14 i.peal (coreFault core 7 u) else voidFor 12 i.peal u
    let q := field w.imm.toNat 0 4
    let dest := ((i.pc : Int) + 1 + w.imm.toInt).toNat
    let ls := (List.range 32).filter fun l => i.acts w.c l && decide (32 * wHalf w + l < elems d)
    let target := s.peal (i.sr w.a.toNat).toNat
    (∀ e ∈ [(Instr.ldc core w, 0x01), (.lds core w, 0x02), (.sts core w, 0x03), (.ldm core w, 0x04), (.stm core w, 0x05)],
      Issues s core e.2 w i → accessOk s i w = false → exec e.1 s = .next (fault e.2 0)) ∧
    (Issues s core 0x38 w i → dest ≤ i.pc → (loopBound s (dProgram d) i.pc).getD 0 < (i.taken.look i.pc (dest, 0)).2 + 1 → exec (.br core w) s = .next (fault 0x38 1)) ∧
    (Issues s core 0x08 w i → (partsOf (dFmt d) (dResFmt d) ≤ q ∨ i.parts.any (fun x => x.part == q) = true ∨ partsDue d i.entry = 0) →
      exec (.emit core w) s = .next (fault 0x08 2)) ∧
    (Issues s core 0x3D w i → (∃ k, k < partsDue d i.entry ∧ i.parts.any (fun x => x.part == k) = false) → exec (.endInv core w) s = .next (fault 0x3D 2)) ∧
    (Issues s core 0x09 w i → (4096 ≤ (i.sr w.a.toNat).toNat ∨ dTag target.desc ≠ dTag d ∨ ¬(target.st = .armed ∨ target.st = .running)) →
      exec (.echo core w) s = .next (fault 0x09 3)) ∧
    (Issues s core 0x0B w i → field w.imm.toNat 8 2 = 1 → (∃ l ∈ ls, notFinite ((vregElts w i).getD l .nan) = true) → exec (.unacc core w) s = .next (fault 0x0B 4)) ∧
    (Issues s core 0x3C w i → exec (.voidOp core w) s = .next (fault 0x3C 5)) ∧
    (∀ e ∈ [(Instr.fdiv core w .failed, 0x16), (.fsqrt core w .failed, 0x17), (.frsq core w .failed, 0x18)], Issues s core e.2 w i →
      exec e.1 s = .next (fault e.2 7)) ∧
    (∀ op f, (s.core core).inv = some i → fetchBad s i = true → issue op core w s f = .next
      (voidFor 14 i.peal (coreFault core 7 (bump 0x06 core 14 (bumpPeal i.peal 55 1 (dropInv core s))))))

/-- ACCX, UNACC and CHK act on the row of the invocation's cell position: ACCX adds the cell or the acting lanes that lie in the row, UNACC takes away
what ACCX added, CHK sets P[D] where the residue matches, voids the round with cause RESIDUE where it does not, and waits while the row holds a
speculative input. -/
def Obligations.RowInstructionsActOnTheRow : Prop :=
  ∀ (core : Nat) (w : IWord) (s : State) (i : Inv),
    let d := (s.peal i.peal).desc
    let anchor := (invRow s i).2.getD 0
    let sq := w.imm.getLsbD 7
    let xs := vregElts w i
    let ls := (List.range 32).filter fun l => i.acts w.c l && decide (32 * wHalf w + l < elems d)
    let onRow (op : Nat) (f : Row → Row) : State := setInv core { i with pc := i.pc + 1, taken := i.counts } (modRowOf i f (countOps op core w i s))
    (Issues s core 0x0A w i → ∀ c, field w.imm.toNat 8 2 = 0 → i.cell = some c →
      exec (.accxCell core w) s = .next (onRow 0x0A fun r => r.accumulate d sq anchor c)) ∧
    (Issues s core 0x0A w i → field w.imm.toNat 8 2 = 1 →
      exec (.accxVreg core w) s = .next (onRow 0x0A fun r => ls.foldl (fun r l => addLane d sq false anchor (32 * wHalf w + l) (xs.getD l .nan) r) r)) ∧
    (Issues s core 0x0B w i → field w.imm.toNat 8 2 = 1 → (∀ l ∈ ls, notFinite (xs.getD l .nan) = false) →
      exec (.unacc core w) s = .next (onRow 0x0B fun r => ls.foldl (fun r l => addLane d sq true anchor (32 * wHalf w + l) (xs.getD l .nan) r) r)) ∧
    (Issues s core 0x0B w i → ∀ c, field w.imm.toNat 8 2 = 0 → i.cell = some c →
      let xs := if isCopy d then [] else cellElts d c
      (∀ x ∈ xs, notFinite x = false) →
      exec (.unacc core w) s = .next (onRow 0x0B fun r => (List.range xs.length).foldl (fun r l => addLane d sq true anchor l (xs.getD l .nan) r) r)) ∧
    (Issues s core 0x0D w i → (invRow s i).1.spec = 0 →
      (rowOk d (invRow s i).1 = true → exec (.chk core w) s = .next (Leaves 0x0D core w i (i.predResult w 0xFFFFFFFF) s)) ∧
      (rowOk d (invRow s i).1 = false →
        exec (.chk core w) s = .next (residueVoid [7] i.peal (chunkOf d i.x) (dropInv core (countOps 0x0D core w i s))))) ∧
    (Issues s core 0x0D w i → (invRow s i).1.spec ≠ 0 → exec (.chk core w) s = .next (Leaves 0x0D core w i i s))

/-- EMIT hands a part on with its side bytes, ECHO sends a contribution to a live peal of the same TAG once the window there reaches it and keeps it until
then. -/
def Obligations.EmitAndEchoSend : Prop :=
  ∀ (core : Nat) (w : IWord) (s : State) (i : Inv),
    let d := (s.peal i.peal).desc
    (Issues s core 0x08 w i →
      let n := partsOf (dFmt d) (dResFmt d)
      let q := field w.imm.toNat 0 4
      let sd := field (i.sr w.b.toNat).toNat 0 16
      let side := if isMx (dResFmt d) = false ∧ (1 < n ∨ 11 ≤ dResFmt d) then setField sd 0 4 q else sd
      q < n → i.parts.any (fun x => x.part == q) = false → partsDue d i.entry ≠ 0 →
      exec (.emit core w) s = .next (Leaves 0x08 core w i { i with pc := i.pc + 1, taken := i.counts, parts := i.parts ++ [⟨q, i.half w.a.toNat (wHalf w), side⟩] } s)) ∧
    (Issues s core 0x09 w i →
      let tp := (i.sr w.a.toNat).toNat
      let x := (i.sr w.d.toNat).toNat % 2 ^ 24
      let tl := s.peal tp
      let side := chunkSide tl.desc (chunkOf tl.desc x)
      let h := heldWin s tp side
      let cell := mkCell tContrib 2 s.fabric.epoch false false (homeFa tl.desc x) s.fabric.plan.selfFa (dTag tl.desc)
        (pealTs tp tl.round x (dFmt tl.desc) 0) (i.half w.b.toNat (wHalf w))
      let go := h.granted && precedes x h.limit
      let held := putWin tp side { h with cells := h.cells ++ [cell], next := if go && !precedes x h.next then x + 1 else h.next } (countOps 0x09 core w i s)
      tp < 4096 → dTag tl.desc = dTag d → (tl.st = .armed ∨ tl.st = .running) →
      exec (.echo core w) s = .next (setInv core { i with pc := i.pc + 1, taken := i.counts }
        (if go then holderSend tp side (core / 132 * 8 + core % 132 / 16 % 8) cell held else held)))

/-- Control: a branch goes to the word after it plus its signed offset, a backward one within its bound counts, and a loop that control enters at its
target from outside counts from nothing; WAIT SEND and FENCE go on at once; WAIT LINK, once the peal it names has sealed the round, binds LINKRES and
before that waits; END with every part emitted ends the invocation. -/
def Obligations.ControlInstructionsGoOn : Prop :=
  ∀ (core : Nat) (w : IWord) (s : State) (i : Inv),
    let d := (s.peal i.peal).desc
    let dest := ((i.pc : Int) + 1 + w.imm.toInt).toNat
    let ahead : Inv := { i with pc := dest, taken := i.taken.filter fun e => e.2.1 != dest }
    let n := (i.taken.look i.pc (dest, 0)).2 + 1
    let back : Inv := { i with pc := dest, taken := Tbl.put (i.taken.filter fun e => e.2.1 != dest || decide (i.pc ≤ e.1)) i.pc (dest, n) }
    let passes := predTest w.d.toNat (i.pr (w.c.toNat % 4))
    (Issues s core 0x38 w i → i.pc < dest → exec (.br core w) s = .next (Leaves 0x38 core w i ahead s)) ∧
    (Issues s core 0x38 w i → dest ≤ i.pc → n ≤ (loopBound s (dProgram d) i.pc).getD 0 → exec (.br core w) s = .next (Leaves 0x38 core w i back s)) ∧
    (Issues s core 0x39 w i → passes = true → i.pc < dest → exec (.brp core w) s = .next (Leaves 0x39 core w i ahead s)) ∧
    (Issues s core 0x39 w i → passes = true → dest ≤ i.pc → n ≤ (loopBound s (dProgram d) i.pc).getD 0 → exec (.brp core w) s = .next (Leaves 0x39 core w i back s)) ∧
    (Issues s core 0x39 w i → passes = false →
      exec (.brp core w) s = .next (Leaves 0x39 core w i { i with pc := i.pc + 1, taken := i.counts } s)) ∧
    (Issues s core 0x3A w i → w.imm = 0 → exec (.waitSend core w) s = .next (Leaves 0x3A core w i { i with pc := i.pc + 1, taken := i.counts } s)) ∧
    (Issues s core 0x3A w i → w.imm = 1 → linkSealed s i (i.sr w.a.toNat).toNat = true →
      exec (.waitLink core w) s = .next (Leaves 0x3A core w i { i with pc := i.pc + 1, taken := i.counts, link := some (i.sr w.a.toNat).toNat, stuck := false } s)) ∧
    (Issues s core 0x3A w i → w.imm = 1 → linkSealed s i (i.sr w.a.toNat).toNat = false →
      exec (.waitLink core w) s = .next (setInv core { i with stuck := true } s)) ∧
    (Issues s core 0x3B w i → exec (.fenceOp core w) s = .next (Leaves 0x3B core w i { i with pc := i.pc + 1, taken := i.counts } s)) ∧
    (Issues s core 0x3D w i → (∀ q, q < partsDue d i.entry → i.parts.any (fun x => x.part == q) = true) →
      exec (.endInv core w) s = .next (
        let u := dropInv core (countOps 0x3D core w i s)
        unparkCore core <| match i.entry with
        | 1 => endChunkRow i.peal i.x i.parts i.sat true u
        | 2 => endStep i.peal (if isUpdate d then i.x else core) i.mirror i.parts i.sat u
        | _ => joinSat i.peal i.x i.entry i.sat u))

/-- The entry points of a user program: ON_CONTRIB starts after its leading ACCX CELL for the first queued cell of the member and position, ON_CHUNK for a
row of a complete chunk, ON_STEP_END at a position or core whose chunks have all run, ON_VOID once the core is free; the invocation starts with zero
registers at the entry, and the core and the peal count it. Where the image leaves an entry point absent, the standard behaviour runs whole: ON_CHUNK
of a row whose residue holds forms the result parts of R268 and takes their issue slots, and a void reaches the core with nothing to run. -/
def Obligations.EntryPointsRun : Prop :=
  (∀ (core peal x : Nat) (s : State) (e : Nat),
     let pl := s.peal peal
     let d := pl.desc
     (∀ member q, (s.core core).queue.find? (fun q => q.1 == peal && q.2.1 == member && q.2.2.index == x) = some q →
       userEntry s (dProgram d) 0 = some e → coreFree s core peal = true →
       exec (.onContrib core peal x member) s = .next (unparkCore core (startInv core
         { peal := peal, entry := 0, x := x, member := (contributors s d).idxOf member, cell := some q.2.2, pc := if (leadAccx s (dProgram d)).isSome then e + 1 else e,
           round := pl.round, step := pl.step }
         (s.modCore core fun k => { k with queue := k.queue.erase q })))) ∧
     (rowWaits s core peal x = true → userEntry s (dProgram d) 1 = some e →
       exec (.onChunk core peal x) s = .next (startInv core { peal := peal, entry := 1, x := x, pc := e, round := pl.round, step := pl.step } s)) ∧
     (∀ mirror, stepWaits s core peal x = some mirror → libProgram (dProgram d) = false → userEntry s (dProgram d) 2 = some e →
       exec (.onStepEnd core peal x) s = .next (startInv core
         { peal := peal, entry := 2, x := if isUpdate d then x else 0, pc := e, round := pl.round, step := pl.step, mirror := mirror } s)) ∧
     (∀ c cause r t, (s.core core).voids.find? (fun v => v.1 == peal) = some (c, cause, r, t) → userEntry s (dProgram d) 3 = some e → (s.core core).inv = none →
       exec (.onVoid core peal) s = .next (startInv core { peal := peal, entry := 3, x := 0, pc := e, cause := cause, round := r, step := t } s))) ∧
  (∀ (core peal x : Nat) (s : State),
     let pl := s.peal peal
     let d := pl.desc
     let ch := pl.chunks.look (chunkOf d x) {}
     let r := ch.rows.look x {}
     let u (n : Nat) := dropInv core (bumpN 0x06 core 0 n (startInv core { peal := peal, entry := 1, x := x, round := pl.round, step := pl.step } s))
     (rowWaits s core peal x = true → userEntry s (dProgram d) 1 = none → isUpdate d = false → rowOk d r = true →
       exec (.onChunk core peal x) s = .next (unparkCore core
         (endChunkRow peal x (stdParts d r (ch.anchor.getD 0)).1 (stdParts d r (ch.anchor.getD 0)).2 false (u (standardIssue d))))) ∧
     (rowWaits s core peal x = true → userEntry s (dProgram d) 1 = none → rowOk d r = false →
       exec (.onChunk core peal x) s = .next (residueVoid [7] peal (chunkOf d x) (u 2))) ∧
     (∀ v, (s.core core).voids.find? (fun v => v.1 == peal) = some v → userEntry s (dProgram d) 3 = none →
       exec (.onVoid core peal) s = .next (s.modCore core fun k => { k with voids := k.voids.erase v })))

/-! Mailbox messages (chapter 14). -/

/-- A response completes its mailbox: BUSY clear, DONE set, MBX_LAST_SEQ the message's SEQID, and in PAYLOAD the response header with VER 1, RESPONSE set,
the opcode, the SEQID, the body length, STATUS and DETAIL; besides the mailbox only host memory and the MSI-X vector of the mailbox change. -/
def Obligations.ResponseCompletesTheMailbox : Prop :=
  ∀ (w : Waiting) (r : Reply) (s : State),
    let t := answer w r s
    let x := t.mbx w.msg.mbx.val
    let body := if r.status = eOk ∨ r.always = true then r.body else []
    x.busy = false ∧ x.done = true ∧ x.any = true ∧ x.lastSeq = w.msg.seqid ∧ x.waiting = none ∧
    (respAddr w.msg = none → x.payload.take (16 + body.length) =
      [1, BitVec.ofNat 8 (w.msg.flags.toNat % 2 + 2)] ++ toLE 2 w.op ++ toLE 4 w.msg.seqid.toNat ++ toLE 4 body.length ++ toLE 2 r.status ++ toLE 2 r.detail ++ body) ∧
    t = { s with host := t.host, mem := { s.mem with host := t.mem.host } } ∧
    (∀ n, n ≠ w.msg.mbx.val → t.mbx n = s.mbx n) ∧
    (respAddr w.msg = none → t.mem.host = s.mem.host)

/-- Sessions: HELLO opens one with the accepted map in force and the event queue at index 0, GOODBYE closes it; JOB_ADMIT holds the tag's mask; EVENT_READ
and HEALTH_READ copy log entries and ledger records to host memory. The messages that only report answer with their page, record or table and change
nothing else. -/
def Obligations.SessionsAndReportsTakeEffect : Prop :=
  (∀ (m : Msg) (s : State),
     (Served 0x01 m s → let r := ring 0x01 m s; let b := reqBody r m
       let acc := acceptedMap (BitVec.ofNat 64 (le b 0 8)) (le b 8 2 == libMajor r)
       zeroAt b 10 2 = true → eqSizeOk (le b 12 4) = true → le b 16 8 % 4096 = 0 → zeroAt b 24 8 = true → (heldState r = true → acc = r.host.features) →
       ∃ body, AnswersOk (.hello m) 0x01 m s (toLE 8 acc.toNat ++ body) { r with host := { r.host with
         session := true, features := acc, eqHead := 0, eqTail := 0, eqOn := le b 12 4 != 0, eqOverflow := false, eqDmaErr := false
         eqEntries := le b 12 4, eqAddr := le b 16 8, eqPhase := true, eqLost := false, v0Out := false } }) ∧
     (Served 0x02 m s → let r := ring 0x02 m s
       AnswersOk (.goodbye m) 0x02 m s [] (dropLocks r.mem.locked
         { r with host := { r.host with session := false, eqOn := false, shadow := { r.host.shadow with enable := false } } })) ∧
     (Served 0x50 m s → let r := ring 0x50 m s; let b := reqBody r m
       let mask := BitVec.ofNat 1024 (le b 8 128)
       le b 0 2 < 4096 → zeroAt b 2 6 = true → (∀ p ∈ maskPorts mask, r.hasPort p = true) → r.fabric.tags.look? (le b 0 2) = none →
       (∀ p ∈ maskPorts mask, (planRec r p).isSome = true ∧ planCode r p ∉ [1, 2, 3]) →
       AnswersOk (.jobAdmit m) 0x50 m s [] { r with fabric := { r.fabric with tags := r.fabric.tags.put (le b 0 2) mask } }) ∧
     (Served 0xB2 m s → let r := ring 0xB2 m s; let b := reqBody r m
       let es := (eventsFrom r (BitVec.ofNat 32 (le b 0 4))).take (le b 4 4)
       let data := (es.map fun e => e.bytes false false).flatten
       1 ≤ le b 4 4 → le b 4 4 ≤ 4096 → le b 8 8 % 64 = 0 → zeroAt b 16 8 = true → (es = [] ∨ r.dmaBad (le b 8 8) data.length = false) →
       ∃ x y, AnswersOk (.eventRead m) 0xB2 m s (x ++ toLE 4 es.length ++ y) (r.hostWrite (le b 8 8) data)) ∧
     (Served 0xB1 m s → let r := ring 0xB1 m s; let b := reqBody r m
       let rs := ledgerFrom r (byteAt b 0) (le b 8 8) (le b 4 4)
       let data := (rs.map fun e => fit 64 e.2).flatten
       byteAt b 0 < 5 → zeroAt b 1 3 = true → 1 ≤ le b 4 4 → le b 4 4 ≤ 65536 → zeroAt b 24 8 = true → (rs = [] ∨ r.dmaBad (le b 16 8) data.length = false) →
       ∃ x, AnswersOk (.healthRead m) 0xB1 m s (x ++ toLE 4 rs.length ++ toLE 4 data.length) (r.hostWrite (le b 16 8) data))) ∧
  (∀ (m : Msg) (s : State),
     (Served 0x10 m s → let r := ring 0x10 m s; let b := reqBody r m; byteAt b 0 < 4 → zeroAt b 1 7 = true →
       AnswersOk (.queryInfo m) 0x10 m s (match byteAt b 0 with
         | 0 => identityPage r
         | 1 => resourcePage r
         | 2 => ((List.range 128).map (chanRecord r)).flatten
         | _ => libraryPage) r) ∧
     (Served 0x21 m s → let r := ring 0x21 m s
       let ps := r.ports.keys.filter fun p => decide (p < 1024)
       AnswersOk (.planStatus m) 0x21 m s (((List.range 7).map fun c => toLE 2 (ps.filter fun p => planCode r p == c).length).flatten
         ++ toLE 2 ps.length ++ (ps.map (planEntry r)).flatten) r) ∧
     (Served 0x63 m s → let r := ring 0x63 m s; let b := reqBody r m; le b 0 2 < 4096 → zeroAt b 2 2 = true →
       AnswersOk (.pealStatus m) 0x63 m s (Sys2Proof.Machine.pealStatus r (le b 0 2)) r) ∧
     (Served 0x81 m s → AnswersOk (.twinStatus m) 0x81 m s (Sys2Proof.Machine.twinStatus (ring 0x81 m s)) (ring 0x81 m s)) ∧
     (Served 0xA1 m s → AnswersOk (.timeStatus m) 0xA1 m s (Sys2Proof.Machine.timeStatus (ring 0xA1 m s)) (ring 0xA1 m s)) ∧
     (Served 0xC0 m s → AnswersOk (.fwStageStatus m) 0xC0 m s (stageRecords (ring 0xC0 m s)) (ring 0xC0 m s)) ∧
     (Served 0xD1 m s → let r := ring 0xD1 m s; let b := reqBody r m; let id := byteAt b 0
       1 ≤ id → id ≤ 7 → zeroAt b 2 6 = true → ∀ l, r.lasts.look? id = some l →
       (byteAt b 1 = 0 → AnswersOk (.lastQuery m) 0xD1 m s (lastRead r id l.header l.body) r) ∧
       (byteAt b 1 = 1 → ∀ h x, l.pending = some (h, x) → AnswersOk (.lastQuery m) 0xD1 m s (h ++ x) r)))

/-- The plan and the table change: PLAN_LOAD installs the plan and re-judges the ports, TABLE_BEGIN opens the inactive bank, TABLE_COMMIT moves to the
next epoch and starts the drain timer, TABLE_ABORT closes the change, and the timer's end clears the drain. TABLE_ACCESS over a range whose fields
pass, in SAFE_MONITOR and DAMPED (READ apart) over segments of FENCE edits alone: READ copies the host's view of the range to host memory, LOCK locks
every segment not yet locked, UNLOCK publishes them, DISCARD drops their locks, WRITE edits the staging copies of locked segments. -/
def Obligations.TableMessagesTakeEffect : Prop :=
  (∀ (m : Msg) (s : State),
     (Served 0x20 m s → let r := ring 0x20 m s; let b := reqBody r m; let pl := planOf b
       firstOf (planHeader b ++ [(List.range (bodyRecs b).length).findSome? fun k => recCheck r b (bodyRecs b) k]) = none → pl.circOrder.length ≤ 128 →
       (∀ e ∈ r.ports, e.2.st = .up → conforms { r with fabric := { r.fabric with plan := pl } } e.1 = true) →
       ((pl.selfFa = r.fabric.plan.selfFa ∧ pl.twinChip = r.fabric.plan.twinChip) ∨ r.fabric.tags = []) →
       AnswersOk (.planLoad m) 0x20 m s [] (applyPlan pl r)) ∧
     (Served 0x30 m s → let r := ring 0x30 m s; let b := reqBody r m; let e := r.fabric.epoch
       zeroAt b 1 7 = true → r.fabric.open_ = false → r.fabric.drain = none → byteAt b 0 = e → byteAt b 0 < 4 →
       ∃ t : State, AnswersOk (.tableBegin m) 0x30 m s ([BitVec.ofNat 8 e, BitVec.ofNat 8 (1 - e % 2)] ++ zeros 6) t ∧
         t.fabric.open_ = true ∧ t.mem = (copyBanks r).mem ∧ t.ports = r.ports ∧ t.peals = r.peals ∧ t.host = r.host) ∧
     (Served 0x31 m s → let r := ring 0x31 m s; let b := reqBody r m; let drain := le b 0 4; let bank := 1 - r.fabric.epoch % 2
       (drain = 0 ∨ 100 ≤ drain ∧ drain ≤ 100000) → zeroAt b 4 4 = true → r.fabric.open_ = true →
       (∀ g ∈ r.mem.locked, (segOf g).bank ≠ some bank) → commitFail r bank = none →
       let t := commitCut drain r
       AnswersOk (.tableCommit m) 0x31 m s ([BitVec.ofNat 8 t.fabric.epoch, 0] ++ zeros 14) t ∧ t.fabric.epoch = (r.fabric.epoch + 1) % 4 ∧
         t.fabric.open_ = false ∧ t.fabric.drain = some (if drain = 0 then 500 else drain)) ∧
     (Served 0x32 m s → let r := ring 0x32 m s
       r.fabric.open_ = true → AnswersOk (.tableAbort m) 0x32 m s [] (abortChange r) ∧ (abortChange r).fabric.open_ = false) ∧
     exec .drainTimerExpiry s = .next { s with fabric := { s.fabric with drain := none } }) ∧
  (∀ (m : Msg) (s : State), Served 0x33 m s →
     let r := ring 0x33 m s
     let b := reqBody r m
     let off := le b 8 8
     let len := le b 4 4
     let host := le b 16 8
     let segs := segsOf off len
     let locked := (segs.filter r.isLocked).length
     let allowed : Prop := restricted r = true → ∀ g ∈ segs, fenceSeg r g = true
     (accessCheck (withAction 0 0 b) = none → (len = 0 ∨ r.dmaBad host len = false) →
       ∃ first, AnswersOk (.tableAccessRead m) 0x33 m s (toLE 4 len ++ first) (r.hostWrite host (hostView r off len))) ∧
     (accessCheck (withAction 0 1 b) = none → allowed → segs.findSome? (fun g => (writeRefusal r g).map fun x => (g, x)) = none →
       (len = 0 ∨ r.dmaBad host len = false) →
       (∀ p ∈ piecesOf off (r.hostRead host len), segOf (p.1 / 4096) ≠ .bitmap → editRefused r p.1 p.2 = false) →
       AnswersOk (.tableAccessWrite m) 0x33 m s (toLE 4 len ++ toLE 4 noSeg) ((piecesOf off (r.hostRead host len)).foldl
         (fun s p => if segOf (p.1 / 4096) = .bitmap then writeBits false p.1 (bitsOf p.1 p.2).1 (bitsOf p.1 p.2).2 s
           else putStaged (stagedEdit s p.1 p.2).1 (stagedEdit s p.1 p.2).2.1 s) r)) ∧
     (accessCheck (withAction 0 2 b) = none → allowed → (∀ g ∈ segs, (segOf g).lockable = true) →
       let new := segs.filter fun g => !r.isLocked g
       r.mem.locked.length + new.length ≤ 4096 →
       AnswersOk (.tableAccessLock m) 0x33 m s (toLE 4 new.length ++ toLE 4 noSeg) (new.foldl (fun s g => lockSeg g s) r)) ∧
     (accessCheck (withAction 0 3 b) = none → allowed →
       ∃ first, AnswersOk (.tableAccessUnlock m) 0x33 m s (toLE 4 locked ++ first) (releaseSegs true segs r).2) ∧
     (accessCheck (withAction 0 4 b) = none → allowed →
       AnswersOk (.tableAccessDiscard m) 0x33 m s (toLE 4 locked ++ toLE 4 noSeg) (dropLocks segs r)))

/-- The port messages: PORT_CONFIG applies its fields and waits for the refill boundary of the QoS record, REMOVE takes a DOWN port out, PORT_FENCE,
PORT_UNFENCE and PORT_DAMP move the port, and the response names the state before and after. -/
def Obligations.PortMessagesTakeEffect : Prop :=
  ∀ (m : Msg) (s : State),
    (Served 0x40 m s →
      let r := ring 0x40 m s
      let b := withBits false false (reqBody r m)
      let p := le b 0 2
      let w := 2 ^ byteAt b 2
      let q := r.port p
      firstOf (configFields b) = none → p % w = 0 → overlaps r p w = false → qosCheck b w = none → (bit (byteAt b 3) 1 = true → reachBreaks r = false) →
      (r.hasPort p = false ∨ (q.width = w ∧ q.longReach = bit (byteAt b 3) 1 ∧ q.profile = byteAt b 4) ∨ q.st = .down ∨ q.st = .absent ∨ q.st = .fenced) →
      Defers (.portConfig m) 0x40 m s (configure b m.mbx r)) ∧
    (Served 0x40 m s →
      let r := ring 0x40 m s
      let b := withBits true false (reqBody r m)
      let q := r.port (le b 0 2)
      firstOf (configFields b) = none → r.hasPort (le b 0 2) = true → 2 ^ byteAt b 2 = q.width → bit (byteAt b 3) 0 = q.enabled → bit (byteAt b 3) 1 = q.longReach →
      byteAt b 4 = q.profile → qosCheck b q.width = none →
      Defers (.portConfigQosOnly m) 0x40 m s (r.modPort (le b 0 2) fun q => { q with qosNext := some ((b.drop 16).take 192), qosMbx := q.qosMbx ++ [m.mbx] })) ∧
    (Served 0x40 m s →
      let r := ring 0x40 m s
      let b := withBits false true (reqBody r m)
      firstOf (configFields b) = none → firstOf (qosReserved b) = none → r.hasPort (le b 0 2) = true → (r.port (le b 0 2)).st = .down →
      AnswersOk (.portConfigRemove m) 0x40 m s [] (removePort (le b 0 2) r)) ∧
    ∀ e ∈ ([(Instr.portFence m, 0x41, none, fun _ _ => true, fencePort), (.portUnfence m, 0x42, none, fun t p => (t.port p).st == .fenced, unfencePort),
        (.portDampDamp m, 0x43, some 0, fun t p => (t.port p).st != .fenced && (t.port p).enabled, hostDamp),
        (.portDampRelease m, 0x43, some 1, fun t p => !condemned t p, releasePort)] :
          List (Instr × Nat × Option Nat × (State → Nat → Bool) × (Nat → State → State))), Served e.2.1 m s →
      let r := ring e.2.1 m s
      let b := match e.2.2.1 with | some a => withAction 2 a (reqBody r m) | none => reqBody r m
      let p := le b 0 2
      portThere r p = true → (e.2.2.1 = none → byteAt b 2 = 0) → byteAt b 3 = 0 → e.2.2.2.1 s p = true →
      AnswersOk e.1 e.2.1 m s [BitVec.ofNat 8 (r.port p).st.code, BitVec.ofNat 8 ((e.2.2.2.2 p r).port p).st.code, 0, 0] (e.2.2.2.2 p r)

/-- Tags and peals: JOB_RETIRE clears the tag and retires its peals, PEAL_ADMIT enrols the peal where it fits, PEAL_ARM arms it (a twinned one sends
ARM_CHECK and waits), PEAL_RETIRE waits for FREE, PEAL_VOID voids the live round with cause HOST. -/
def Obligations.PealMessagesTakeEffect : Prop :=
  ∀ (m : Msg) (s : State),
    (Served 0x51 m s → let r := ring 0x51 m s; let b := reqBody r m; let tag := le b 0 2
      tag < 4096 → zeroAt b 2 2 = true → (r.fabric.tags.look? tag).isSome = true →
      let ps := (r.peals.filter fun e => dTag e.2.desc == tag && e.2.st != .free && e.2.st != .retiring).map (·.1)
      AnswersOk (.jobRetire m) 0x51 m s [] (freeShards tag (ps.foldl (fun s p => retirePeal p s)
        (clearMulticast tag { r with fabric := { r.fabric with tags := r.fabric.tags.del tag } })))) ∧
    (Served 0x60 m s → let r := ring 0x60 m s; let d := BitVec.ofNat 512 (le (reqBody r m) 0 64)
      ∀ pl base, firstOf (admitChecks r d) = none → placement r d = some pl → memberFit r (dMembers d) = some base → memberRoom r d = true →
      AnswersOk (.pealAdmit m) 0x60 m s (toLE 4 base ++ toLE 1 (b2n pl.1) ++ zeros 3) (enrol d base pl r)) ∧
    (Served 0x61 m s → let r := ring 0x61 m s; let b := reqBody r m; let p := le b 0 2
      p < 4096 → zeroAt b 2 2 = true → firstOf (armChecks r p) = none →
      (dTwinned (r.peal p).desc = false → let q := (armPeal p r).peal p
        AnswersOk (.pealArm m) 0x61 m s (toLE 8 q.step ++ toLE 1 q.round ++ toLE 1 (b2n q.isOpen) ++ zeros 6) (armPeal p r)) ∧
      (dTwinned (r.peal p).desc = true → Defers (.pealArm m) 0x61 m s (sendArmCheck p (r.modPeal p fun q => { q with armMbx := q.armMbx ++ [m.mbx] })))) ∧
    (Served 0x62 m s → let r := ring 0x62 m s; let b := reqBody r m; let p := le b 0 2
      p < 4096 → zeroAt b 2 2 = true → (r.peal p).st ≠ .free →
      Defers (.pealRetire m) 0x62 m s ((if (r.peal p).st = .retiring then r else retirePeal p r).modPeal p fun q => { q with retireMbx := q.retireMbx ++ [m.mbx] })) ∧
    (Served 0x64 m s → let r := ring 0x64 m s; let b := reqBody r m; let p := le b 0 2
      p < 4096 → byteAt b 2 < 2 → zeroAt b 3 1 = true → roundLive (r.peal p) = true →
      AnswersOk (.pealVoid m) 0x64 m s [] (voidPeal [1] (byteAt b 2 == 1) none false p r))

/-- Shards and steps: SHARD_CREATE makes the shard LOADING, STEP_PARAMS stores the block of the next step, COMMIT and ROLLBACK act on the step,
SHARD_EXPORT copies slices of a bank to host memory and SHARD_IMPORT writes host slices into the bank that is not live. -/
def Obligations.ShardMessagesTakeEffect : Prop :=
  ∀ (m : Msg) (s : State),
    (Served 0x70 m s → let r := ring 0x70 m s; let b := reqBody r m; let d := BitVec.ofNat 512 (le b 0 64); let k := field d.toNat 0 12
      let start := (Config.extentStart r.free).toNat
      shardFault d = none → recordFault (normRecords b) = none → shardConsistent d (normRecords b) = true → (shTwinned d = true → r.host.features.getLsbD 3 = true) →
      (r.fabric.tags.look? (shTag d)).isSome = true → (r.shard k).st = .free → (r.peal (shNormPeal d)).st = .free → shardRoom r d start = true →
      AnswersOk (.shardCreate m) 0x70 m s [] (createShard k d (normRecords b) start r)) ∧
    (Served 0x71 m s → let r := ring 0x71 m s; let b := reqBody r m; let p := le b 0 2
      p < 4096 → zeroAt b 2 6 = true → zeroAt b 24 8 = true → updatePeal r p = true → le b 8 8 = nextParams (r.peal p) → notLost r p = true →
      AnswersOk (.stepParams m) 0x71 m s [] (tryOpen p (r.modPeal p fun q =>
        { q with params := q.params.put (le b 8 8) ⟨le b 16 8, fit 256 (b.drop 32)⟩, ready := false }))) ∧
    (Served 0x72 m s → let r := ring 0x72 m s; let b := reqBody r m; let p := le b 0 2; let pl := r.peal p
      firstOf (commitFields r b) = none → (le b 8 8 < pl.step ∨ pl.isOpen = true ∧ pl.step = le b 8 8) →
      AnswersOk (.stepCommitCommit m) 0x72 m s [] (commitStep p (le b 8 8) r)) ∧
    (Served 0x72 m s → let r := ring 0x72 m s; let b := reqBody r m
      firstOf (commitFields r b) = none → rollbackOk r (le b 0 2) (le b 8 8) = true →
      AnswersOk (.stepCommitRollback m) 0x72 m s [] (rollback (le b 0 2) false r)) ∧
    (Served 0x73 m s → let r := ring 0x73 m s; let b := reqBody r m; let k := le b 0 2; let sh := r.shard k
      let pend := byteAt b 2 == 1; let x := le b 8 4; let n := le b 12 4; let len := n * sliceBytes sh.desc
      let data := sliceRead r k (if pend then nBank sh else sh.live) x 0 len
      k < 4096 → byteAt b 2 < 2 → firstOf (moveFields b) = none → zeroAt b 24 8 = true → (sh.st = .ready ∨ sh.st = .bound) → (pend = true → sh.pending = true) →
      x + n ≤ shCells sh.desc → r.dmaBad (le b 16 8) len = false →
      ∃ head, AnswersOk (.shardExport m) 0x73 m s (head ++ toLE 4 (crc32c data) ++ toLE 4 len) (bumpN 0x08 k 7 len ((sliceServed false false k (if pend then nBank sh else sh.live) x 0 len r).hostWrite (le b 16 8) data))) ∧
    (Served 0x74 m s → let r := ring 0x74 m s; let b := reqBody r m; let k := le b 0 2; let sh := r.shard k
      let final := byteAt b 2 == 1; let x := le b 8 4; let n := le b 12 4; let len := n * sliceBytes sh.desc; let data := r.hostRead (le b 16 8) len
      k < 4096 → byteAt b 2 < 2 → firstOf (moveFields b) = none → zeroAt b 28 4 = true →
      (sh.st = .loading ∨ sh.st = .ready ∨ sh.st = .bound ∧ (r.peal sh.peal).st = .admitted) → x = sh.nextCell → x + n ≤ shCells sh.desc →
      (final = true → x + n = shCells sh.desc) → r.dmaBad (le b 16 8) len = false → crc32c data = le b 24 4 →
      let t := bumpN 0x08 k 8 len ((sliceStore k (nBank sh) x 0 data r).modShard k fun y => { y with nextCell := x + n })
      AnswersOk (.shardImport m) 0x74 m s [] (if final then finishImport k (le b 32 8) t else t))

/-- The twin pair: PAIR keeps the pairing parameters and asks for agreement, UNPAIR returns to SOLO, TAKEOVER_GRANT takes over from ORPHAN, START and
ABORT begin and stop a rebuild. -/
def Obligations.PairMessagesTakeEffect : Prop :=
  ∀ (m : Msg) (s : State),
    (Served 0x80 m s → let r := ring 0x80 m s; let b := reqBody r m
      le b 8 8 ≠ 0 → le b 8 8 = r.fabric.plan.twinChip.toNat → 8 ≤ byteAt b 1 → byteAt b 1 ≤ 64 → zeroAt b 2 2 = true → 10 ≤ le b 4 4 → le b 4 4 ≤ 1000 →
      10 ≤ le b 16 4 → le b 16 4 ≤ 60000 → zeroAt b 20 12 = true → r.twin.st = .solo →
      AnswersOk (.twinPairPair m) 0x80 m s []
        { r with twin := { r.twin with asked := true, agreeFail := 0, quorum := byteAt b 1, deadUs := le b 4 4, holdMs := le b 16 4 } }) ∧
    (Served 0x80 m s → let r := ring 0x80 m s; let b := reqBody r m
      zeroAt b 2 2 = true → zeroAt b 20 12 = true → twinnedAdmitted r = false → r.twin.st ≠ .takeover →
      AnswersOk (.twinPairUnpair m) 0x80 m s [] (pairTo .solo { r with twin := { r.twin with asked := false } })) ∧
    (Served 0x82 m s → let r := ring 0x82 m s; let b := reqBody r m
      le b 0 8 = r.fabric.plan.twinChip.toNat → zeroAt b 8 8 = true → (r.twin.st = .orphan → AnswersOk (.takeoverGrant m) 0x82 m s [] (takeOver r)) ∧
      (r.twin.st = .takeover ∨ r.twin.st = .solo ∧ r.twin.tookOver = true → AnswersOk (.takeoverGrant m) 0x82 m s [] r)) ∧
    (Served 0x83 m s → let r := ring 0x83 m s; let b := reqBody r m
      let t := { r with twin := { r.twin with rebuild := true, rejoin := false, moved := if r.twin.rebuild then r.twin.moved else 0 } }
      firstOf (rebuildFields r b) = none → r.twin.st = .syncing → r.twin.isNew = false →
      AnswersOk (.twinRebuildStart m) 0x83 m s [] (tryPaired ((twinnedPeals t).foldl (fun s p => tryOpen p s) t))) ∧
    (Served 0x83 m s → let r := ring 0x83 m s; let b := reqBody r m
      firstOf (rebuildFields r b) = none → r.twin.rebuild = true → AnswersOk (.twinRebuildAbort m) 0x83 m s [] (abortRebuild r))

/-- Circuits and time: a schedule that passes its checks is installed or becomes the successor, ARM starts the port at the first edge from now, DISARM of
an armed port takes effect at the next edge and of one not armed changes nothing, TIME_SET_SOURCE applies its parameters. -/
def Obligations.CircuitAndTimeMessagesTakeEffect : Prop :=
  ∀ (m : Msg) (s : State),
    (Served 0x90 m s → let r := ring 0x90 m s; let b := reqBody r m
      firstOf (scheduleChecks r b) = none → AnswersOk (.circuitScheduleLoad m) 0x90 m s [] (loadSchedule b r)) ∧
    (Served 0x91 m s → let r := ring 0x91 m s; let b := withAction 2 0 (reqBody r m); let p := le b 0 2; let c := r.circOf p
      restricted r = false → firstOf (armFields b) = none → timeLocked r = true → (r.port p).st ≠ .fenced → c.armed = false → ∀ sc, c.sched = some sc →
      let e := edgeFrom sc (ntCeil r)
      AnswersOk (.circuitArmArm m) 0x91 m s [] (r.modCirc p fun c => { c with
        armed := true, disarm := false, started := false, ended := sc.cycles != 0 && decide (sc.cycles ≤ e.2.1), suspended := false
        slot := e.1, cycle := e.2.1, edge := e.2.2, failed := false, release := false, resend := true, darkAt := r.now })) ∧
    (Served 0x91 m s → let r := ring 0x91 m s; let b := withAction 2 1 (reqBody r m); let p := le b 0 2; let c := r.circOf p
      firstOf (armFields b) = none →
      (c.armed = false → AnswersOk (.circuitArmDisarm m) 0x91 m s [] r) ∧
      (c.armed = true → ¬(c.ended = true ∧ c.succ = none) → AnswersOk (.circuitArmDisarm m) 0x91 m s [] (r.modCirc p fun c => { c with disarm := true })) ∧
      (c.armed = true → c.ended = true → c.succ = none → AnswersOk (.circuitArmDisarm m) 0x91 m s [] (disarmNow p r))) ∧
    (Served 0xA0 m s → let r := ring 0xA0 m s; let b := reqBody r m; let mask := byteAt b 0; let tod := le b 8 8
      mask ≠ 0 → mask < 16 → zeroAt b 2 2 = true → 1 ≤ le b 4 4 → le b 4 4 ≤ 3600000 → (bit mask 1 = true → tod % 1000000000 = 0) →
      (bit mask 3 = true → tod ≠ 0 ∧ r.time.valid = false) → (bit mask 1 = false → bit mask 3 = false → tod = 0) → le b 16 2 ≤ 10000 → le b 18 2 ≤ 10000 → zeroAt b 21 11 = true →
      AnswersOk (.timeSetSource m) 0xA0 m s [] (putCfg 1 1 (putLE b 8 8 0) (applyTime b r)))

/-- Control messages: SNAPSHOT freezes the hub and the silent dies and answers when the last die has latched, FW_ACTIVATE selects the staged image, ATTEST
takes the next index of the identity key, LAST_LOAD installs the last, SHADOW_CONFIG sets the compare. -/
def Obligations.ControlMessagesTakeEffect : Prop :=
  ∀ (m : Msg) (s : State),
    (Served 0xB0 m s → let r := ring 0xB0 m s; let b := reqBody r m
      byteAt b 0 = 0 → zeroAt b 1 7 = true → r.logs.freeze = none →
      Defers (.snapshot m) 0xB0 m s ((silentDies r ++ [4]).foldl (fun s d => latch d s)
        { r with logs := { r.logs with freeze := some ⟨[], { stamp := BitVec.ofNat 80 r.stamp, valid := r.time.valid, chip := r.chip.st.code }, m.mbx⟩ } })) ∧
    (Served 0xC1 m s → let r := ring 0xC1 m s; let b := reqBody r m; let p := byteAt b 0
      let st := (stagedImage r p).getD ⟨[], false, false⟩
      let act : Activation := ⟨p, false, m.mbx, verTriple (partHdr r p)⟩
      p < 5 → zeroAt b 1 7 = true → zeroAt b 14 2 = true → r.ctl.stageSt.look p 0 = 2 → (b.drop 8).take 6 = verTriple st.hdr → r.ctl.act = none → r.flash.trial = 0 →
      (r.chip.st = .service ∨ r.chip.st = .pairing ∨ r.chip.st = .degraded ∨ r.chip.st = .safeMonitor ∧ p = 0) → imageValid r.flash p st = true →
      compatible (setWith r p st.hdr) (lastsWith r p) = true → (p = 1 → majorOf st.hdr = libMajor r ∨ heldPeals r = []) → twinAgrees r p st.hdr = true →
      (p = 0 → wantsHandover r = true → needsPause st.hdr = false → r.host.features.getLsbD 5 = true →
        Defers (.fwActivate m) 0xC1 m s { r with ctl := { r.ctl with act := some { act with handover := true }, safeTrial := r.chip.st == .safeMonitor } }) ∧
      (p ≠ 0 → AnswersOk (.fwActivate m) 0xC1 m s (activateBody act.before 0) (loadPart p (selectStaged p r))) ∧
      (p = 0 → (wantsHandover r = false ∨ needsPause st.hdr = true) → let t := selectStaged p r
        Defers (.fwActivate m) 0xC1 m s (bump 0x01 0 12 (dropFlight
          { t with ctl := { t.ctl with act := some act, safeTrial := t.chip.st == .safeMonitor, restarts := t.ctl.restarts + 1 } })))) ∧
    (Served 0xC2 m s → let r := ring 0xC2 m s; let b := reqBody r m
      zeroAt b 32 8 = true → r.flash.lmsNext < lmsBlocks → (∀ t, r.ctl.quoteAt = some t → t + 10000000000 ≤ r.now) →
      let x := nextIndex r
      let q := quoteBody x.2 (b.take 32) x.1
      AnswersOk (.attest m) 0xC2 m s (q ++ fit 1932 (Config.lmsSign x.1 q)) { x.2 with ctl := { x.2.ctl with lmsPtr := some (x.1 + 1), quoteAt := some x.2.now } }) ∧
    (Served 0xD0 m s → let r := ring 0xD0 m s; let b := reqBody r m; let id := byteAt b 0
      lastFault r b = none → lastPending r id = false → r.ctl.stageSt.look 4 0 ≠ 2 → inTrial r 4 = false →
      let t := installLast b r
      AnswersOk (.lastLoad m) 0xD0 m s (toLE 1 id ++ toLE 1 (b2n (lastPending t id)) ++ zeros 6) (leaveSelftest t)) ∧
    (Served 0xE0 m s → let r := ring 0xE0 m s; let b := reqBody r m
      byteAt b 0 < 2 → byteAt b 1 < 64 → (byteAt b 0 = 1 → byteAt b 1 ≠ 0) → zeroAt b 2 2 = true → 1 ≤ le b 4 4 → le b 4 4 ≤ 3600 → le b 8 8 % 4096 = 0 →
      10 ≤ le b 16 4 → le b 16 4 ≤ 1000 → zeroAt b 20 12 = true →
      AnswersOk (.shadowConfig m) 0xE0 m s []
        { r with host := { r.host with shadow := { enable := byteAt b 0 == 1, tables := byteAt b 1, passS := le b 4 4, addr := le b 8 8, maxMbps := le b 16 4 } } })

/-- A RING with the SEQID of the last message executes nothing and writes the saved response again: its header and, for a response in PAYLOAD, its body
into PAYLOAD, or its body to the host buffer, with RESP_LOST set in the header where that buffer cannot be written. DONE is set and BUSY clear, and no
other mailbox changes. A RING while BUSY sets OVERRUN alone. -/
def Obligations.ReplayAndOverrunExecuteNothing : Prop :=
  ∀ (m : Msg) (s : State),
    let n := m.mbx.val
    let x := s.mbx n
    let hdr := x.saved.take 16
    let body := x.saved.drop 16
    let late : State := { s with host := { s.host with mbx := s.host.mbx.put n { x with overrun := true } } }
    (s.host.cxlUp = true → s.chip.inReset = false → x.any = true → x.lastSeq = m.seqid → x.busy = false →
      ∃ t, exec (.messageReplay m) s = .next t ∧ t = { s with host := t.host, mem := { s.mem with host := t.mem.host } } ∧
        (t.mbx n).busy = false ∧ (t.mbx n).done = true ∧ (t.mbx n).lastSeq = m.seqid ∧ (t.mbx n).saved = x.saved ∧ (t.mbx n).savedIn = x.savedIn ∧
        (∀ k, k ≠ n → t.mbx k = s.mbx k) ∧
        (x.savedIn = none → (t.mbx n).payload.take x.saved.length = x.saved ∧ t.mem.host = s.mem.host) ∧
        (∀ a, x.savedIn = some a → (body = [] ∨ s.dmaBad a body.length = false) →
          (t.mbx n).payload.take hdr.length = hdr ∧ t.mem.host = (s.hostWrite a body).mem.host) ∧
        (∀ a, x.savedIn = some a → body ≠ [] → s.dmaBad a body.length = true →
          let lost := putBytes hdr 1 [BitVec.ofNat 8 (byteAt hdr 1 + 4)]
          (t.mbx n).payload.take lost.length = lost ∧ t.mem.host = s.mem.host)) ∧
    (s.host.cxlUp = true → s.chip.inReset = false → x.any = true → x.lastSeq = m.seqid → x.busy = true → exec (.messageReplay m) s = .next late) ∧
    (x.busy = true → exec (.mailboxOverrun n) s = .next late)

/-! Host writes and the service port (chapters 14, 15). -/

/-- Host writes with CXL in operation: EQ_HEAD frees ring entries, a register write writes its bytes in ascending order, lock bits lock and publish
segments, a CXL.mem write to the table window edits piece by piece; without CXL_MEM_WINDOWS a window write is dropped with cause FEATURE, and one to
the snapshot window with cause READ_ONLY. The checker of a user program that is CHECKING ends: ADMITTED with its worst-case op counts where the image
passes, REJECTED with the reason and the word where not. -/
def Obligations.HostWritesAndTheCheckerTakeEffect : Prop :=
  (∀ (s : State) (head : BitVec 16) (off : Nat) (data : Bytes) (segs : List Nat), s.host.cxlUp = true → s.chip.inReset = false →
     let gs := segs.foldl (fun l g => insertNat g l) []
     exec (.eqHeadWrite head) s = .next { s with host := { s.host with eqHead := head.toNat, v0Out := false } } ∧
     exec (.registerWrite off data) s = .next ((data.mapIdx fun k v => (off + k, v)).foldl (fun s e => writeByte e.1 e.2 s) s) ∧
     (s.host.features.getLsbD 8 = true →
       exec (.segmentLock segs) s = .next (writeBits true (segs.headD 0 / 8) gs [] s) ∧
       exec (.segmentUnlock segs) s = .next (writeBits true (segs.headD 0 / 8) [] gs s) ∧
       exec (.cxlMemWrite .table off data) s = .next ((piecesOf off data).foldl (fun s p => cxlPiece p.1 p.2 s) s) ∧
       exec (.cxlMemWrite .snapshot off data) s = .next (cxlDrop dropReadOnly off s)) ∧
     (s.host.features.getLsbD 8 = false → ∀ win,
       exec (.cxlMemWrite win off data) s = .next (cxlDrop dropFeature off s) ∧
       exec (.segmentLock segs) s = .next (cxlDrop dropFeature (segs.headD 0 / 8) s) ∧ exec (.segmentUnlock segs) s = .next (cxlDrop dropFeature (segs.headD 0 / 8) s))) ∧
  (∀ (s : State) (pid : Nat), userProgram pid = true → progState s pid = 1 →
     let wc := ((List.range 4).map fun e => (wcOf (imageOf s pid) e).1).foldl max 0
     (checkProgram s pid = none → exec (.programCheckDone pid) s = .next (setVerdict pid 2 0 0 wc s)) ∧
     (∀ r o, checkProgram s pid = some (r, o) → exec (.programCheckDone pid) s = .next (setVerdict pid 3 r o (if r = 13 then wc else 0) s)))

/-- Sessions of the service port: HELLO opens a session under the key of both nonces and answers with the part's nonce, the session, the serial and the
chip; STATUS reports; SET_OPK and CLEAR_OPK change the operator key; an idle session expires with its staging; a link attempt that fails switches the
mode. Staging and records over the service port: an accepted STAGE_BEGIN rewrites the slot, STAGE_DATA keeps a chunk whose hash holds and
acknowledges, STAGE_END marks the slot, STAGE_ABORT discards; CONFIG_READ, CONFIG_WRITE and LEDGER_READ serve records. -/
def Obligations.ServicePortCommandsTakeEffect : Prop :=
  (∀ (d : Dgram) (s : State),
     (svcUp s = true → s.chip.st ≠ .boot → d.ver = 1 → d.kind = 0 → d.body.length = 32 →
       let nonce := toLE 32 (Config.nonceP s.free).toNat
       let key := match s.opk with | some k => fit 32 (Config.hmac k ([0x73, 0x76, 0x63] ++ d.body ++ nonce)) | none => []
       let n := s.ctl.nextSess
       let t := { s with free := s.free + 1, ctl := { s.ctl with
         nextSess := (n + 1) % 4294967296, sessions := s.ctl.sessions.put n ⟨key, 0, 0, s.now, false, false⟩, out := [] } }
       exec (.svcHello d) s = .next (svcSend 1 0x01 n eOk false (nonce ++ toLE 4 n ++ fit 12 s.flash.record.serial ++ toLE 8 s.hubId.toNat ++ toLE 1 (b2n s.opk.isSome)) t)) ∧
     (svcUp s = true → d.ver = 1 → d.kind = 0 →
       exec (.svcStatus d) s = .next (svcSend 1 0x02 d.session.toNat eOk false (toLE 1 s.chip.st.code ++ toLE 1 s.chip.reason ++ stageRecords s) { s with ctl := { s.ctl with out := [] } })) ∧
     (svcUp s = true → s.chip.st ≠ .boot → s.opk = none → d.ver = 1 → d.kind = 0 → s.now < 600000000000 → d.body.length = 32 →
       exec (.setOpk d) s = .next (svcSend 1 0x30 d.session.toNat eOk false [] (changeOpk (putCfg 4 knownVer d.body { s with ctl := { s.ctl with out := [] } })))) ∧
     (∀ x, Accepted 0x30 0 d s x → s.opk ≠ none → x.stale = false → d.body.length = 32 →
       exec (.setOpk d) s = .next (svcReply 0x30 d.session.toNat eOk [] (changeOpk (putCfg 4 knownVer d.body (svcIn d x s))))) ∧
     (svcUp s = true → s.chip.st ≠ .boot → d.ver = 1 → d.kind = 0 →
       let t := { s with ctl := { s.ctl with out := [] } }
       exec (.clearOpk d) s = .next (if Config.hssVerify (fit 12 s.flash.record.serial) d.body = true then svcSend 1 0x31 d.session.toNat eOk false []
           (changeOpk { t with flash := { s.flash with cfg := s.flash.cfg.del (256 * s.flash.cfgSel + 4) } })
         else svcSend 1 0x31 d.session.toNat eAuth false [] t)) ∧
     (∀ n x, s.svc n = some x →
       let t := match s.ctl.staging with | some g => if g.session = n then endStaging g.part 0 s else s | none => s
       exec (.svcSessionIdle n) s = .next { t with ctl := { t.ctl with
         sessions := t.ctl.sessions.del n, svcAddr := if x.wrote then (cfgBody s 3).getD [] else s.ctl.svcAddr } }) ∧
     (s.chip.inReset = false → s.chip.svcLink = false →
       exec (.servicePortLinkAttempt false) s = .next { s with chip := { s.chip with svcMode := !s.chip.svcMode } } ∧
       (s.chip.refLost.contains 0 = false → exec (.servicePortLinkAttempt true) s = .next { s with chip := { s.chip with svcLink := true } }))) ∧
  (∀ (d : Dgram) (s : State) (x : Svc),
     let n := d.session.toNat
     let r := svcIn d x s
     (Accepted 0x10 0 d s x → d.body.length = 8 → let p := byteAt d.body 0; let len := le d.body 4 4
       p < 5 → zeroAt d.body 1 3 = true → 4096 ≤ len → len ≤ slotBytes p → inTrial r p = false → (∀ a, r.ctl.act = some a → a.part ≠ p) →
       (∀ g, r.ctl.staging = some g → g.session = n) → (p = 4 → lastPending r 7 = false) →
       let t := match r.ctl.staging with | some g => setStage g.part 0 r | none => r
       let bank := stageBank t p
       let t := { t with flash := { t.flash with images := t.flash.images.del (5 * bank + p), lasts := if p = 4 then t.flash.lasts.filter fun e => e.1 / 8 != bank else t.flash.lasts } }
       exec (.stageBegin d) s = .next (svcReply 0x10 n eOk [] (setStage p 1 { t with ctl := { t.ctl with staging := some ⟨n, p, len, []⟩ } }))) ∧
     (∀ g, Accepted 0x11 2 d s x → r.ctl.staging = some g → g.session = n →
       let k := le d.body 0 4
       let data := d.body.drop 36
       let g' := { g with chunks := g.chunks.put k data }
       k < ceilDiv g.len 1024 → data.length = min 1024 (g.len - 1024 * k) → (d.body.drop 4).take 32 = fit 32 (Config.sha256 data) →
       let t := { r with ctl := { r.ctl with staging := some g' } }
       let early := decide (k < 4) && (g.chunks.look? k).isNone && decide (4 ≤ nextChunk g')
       (early = false ∨ earlyCheck t g.part (chunkBytes g' 0 4) = none → exec (.stageData d) s = .next (stageAck n g' t)) ∧
       (∀ e, early = true → earlyCheck t g.part (chunkBytes g' 0 4) = some e → exec (.stageData d) s = .next (svcReply 0x13 n e [] (endStaging g.part 3 t)))) ∧
     (∀ g, Accepted 0x13 0 d s x → r.ctl.staging = some g → g.session = n →
       let img := chunkBytes g 0 (ceilDiv g.len 1024)
       let bank := stageBank r g.part
       let ok := (earlyCheck r g.part (img.take 4096)).isNone && payloadOk img
       let t := { r with flash := { r.flash with
         images := r.flash.images.put (5 * bank + g.part) ⟨img.take 128, Config.hssVerify (img.take 128) ((img.drop 128).take 2964), payloadOk img⟩
         lasts := if g.part = 4 then [1, 2, 3, 4, 5, 6, 7].foldl (fun (t : Tbl (Bytes × Bytes × Bool)) k => t.put (8 * bank + k) (stagedLast img k)) r.flash.lasts else r.flash.lasts } }
       exec (.stageEnd d) s = .next (svcReply 0x13 n (if ok then eOk else eAuth) [] (endStaging g.part (if ok then 2 else 3) t))) ∧
     (∀ g, Accepted 0x14 0 d s x → r.ctl.staging = some g → g.session = n → exec (.stageAbort d) s = .next (svcReply 0x14 n eOk [] (endStaging g.part 0 r))) ∧
     (∀ b, Accepted 0x20 0 d s x → d.body.length = 2 → 1 ≤ le d.body 0 2 → le d.body 0 2 ≤ 4 → cfgBody r (le d.body 0 2) = some b →
       exec (.configRead d) s = .next (svcReply 0x20 n eOk (if le d.body 0 2 = 4 then Config.sealOpk b else b) r)) ∧
     (∀ t, Accepted 0x21 0 d s x → cfgType d.body.length = some t → t ≠ 0 → cfgOk t d.body = true → inTrial r 0 = false →
       let u := putCfg t knownVer d.body r
       exec (.configWrite d) s = .next (svcReply 0x21 n eOk []
         (if t = 3 then { u with ctl := { u.ctl with sessions := u.ctl.sessions.mod n fun y => { y with wrote := true } } } else u))) ∧
     (Accepted 0x40 0 d s x → d.body.length = 32 → byteAt d.body 0 < 5 → zeroAt d.body 1 3 = true → 1 ≤ le d.body 4 4 → le d.body 4 4 ≤ 65536 → zeroAt d.body 24 8 = true →
       let rs := ledgerFrom r (byteAt d.body 0) (le d.body 8 8) (le d.body 4 4)
       ∃ head, exec (.ledgerRead d) s = .next (svcReply 0x40 n eOk (head ++ toLE 4 rs.length ++ toLE 4 (64 * rs.length)) (sendRecords n (rs.length + 1) rs r))))

/-! Reset, supplies and clocks (chapters 15, 18). -/

/-- RESET_N, a supply reset and a failed supply leave the same state: every register as at reset and the module held; the flash, the ledgers' logs and
host memory stay. -/
def Obligations.ResetsLeaveTheResetState : Prop :=
  ∀ (s : State),
    let t : State := { State.reset with
      flash := s.flash, free := s.free, pending := s.pending
      mem := { State.reset.mem with host := s.mem.host, dmaFail := s.mem.dmaFail }
      logs := { State.reset.logs with ledgers := s.logs.ledgers.map fun e => (e.1, e.2.afterReset) } }
    exec .resetNAssert s = .next t ∧ (∀ die mv, die < 5 → mv < 580 → exec (.supplyReset die mv) s = .next t) ∧
    (∀ rail, rail < 7 → exec (.supplyFail rail) s = .next t) ∧ t.chip.inReset = true

/-- VDD_CORE below 0.58 V on any die resets the module as RESET_N does, and nothing goes to the twin. -/
def Obligations.LowCoreSupplyResetsAsResetN : Prop :=
  ∀ (s : State) (die mv : Nat), die < 5 → mv < 580 →
    exec (.supplyReset die mv) s = exec .resetNAssert s ∧ ∀ t, exec (.supplyReset die mv) s = .next t → t.twin = State.reset.twin

/-- Release of RESET_N boots: where the hub's identity or the module record fails the chip stays in BOOT with its reason, otherwise the selected images
start; the self-test's end fences failed regions, retires failed engines, trains the memory channels and leaves SELFTEST; PERST_N closes the session
and resets Bus Master Enable and the MSI-X table. -/
def Obligations.BootAndHostResetTakeEffect : Prop :=
  ∀ (s : State),
    (∀ boot : BootRun, s.chip.inReset = true →
      let r := { s with chip := { s.chip with inReset := false, st := .boot, reason := 0 } }
      (boot.hubPuf = false → exec (.resetNRelease boot) s = .next { r with chip := { r.chip with reason := 1 } }) ∧
      (boot.hubPuf = true → s.flash.recordOk = false → exec (.resetNRelease boot) s = .next { r with chip := { r.chip with reason := 2 } }) ∧
      (boot.hubPuf = true → s.flash.recordOk = true → (∀ r, r < 4 → boot.dies.getD r true = true) → exec (.resetNRelease boot) s = .next (bootImages r))) ∧
    (∀ res : SelfTest, s.chip.st = .selftest → s.chip.tested = false → (inTrial s 3 = true → trainingWorse s res = false) →
      let r := if inTrial s 3 then commitPart 3 s else s
      let t := { r with chip := { r.chip with tested := true, hubBad := !res.hubOk } }
      let t := (res.failed.filter fun r => decide (r < 4)).foldl (fun s r => fenceRegion r 4 255 s) t
      let t := (res.engines.filter fun e => decide (e < 64)).foldl (fun s e => retireEngine e s) t
      exec (.selftestComplete res) s = .next (leaveSelftest
        ((liveChans t).foldl (fun s c => trainChan c ((Tbl.look? res.channels c).getD ⟨1, 0, 0, 0, 0⟩) s) t))) ∧
    (let t := dropLocks s.mem.locked { s with host := { s.host with session := false, eqOn := false, shadow := { s.host.shadow with enable := false } } }
     exec .perstN s = .next { t with host := { t.host with busMaster := false, msix := msixReset, msixPend := 0 } })

/-- Supply warnings: the first one of a die is kept with its time, posts its event and exposes the open chunks, a further one lowers what is kept; its end
posts and logs and re-checks the chunks; one held becomes a degrading condition. Clocks: losing the CXL reference takes CXL down, losing a region's
fabric reference takes lock from its lanes and its memory channels out; losing TREF makes valid time DRIFTING and other time FREE with no source. -/
def Obligations.SuppliesAndClocksTakeEffect : Prop :=
  (∀ (s : State) (die mv : Nat),
     (s.chip.inReset = false → die < 5 → mv < 660 →
       let r := { s with chip := { s.chip with vdd := setNth 5 s.chip.vdd die mv } }
       (s.chip.warn.look? die = none → exec (.supplyWarning die mv) s = .next (exposeChunks die (postEvent 0x4003 ([BitVec.ofNat 8 die, 0] ++ toLE 2 mv)
         { r with chip := { r.chip with warn := r.chip.warn.put die ⟨s.now, mv⟩ } }))) ∧
       (∀ w, s.chip.warn.look? die = some w →
         exec (.supplyWarning die mv) s = .next { r with chip := { r.chip with warn := r.chip.warn.put die { w with lowest := min w.lowest mv } } })) ∧
     (∀ w, s.chip.warn.look? die = some w → 670 ≤ mv →
       let us := (s.now - w.since) / 1000
       let ended (t : State) : State := settle 9 { t with chip := { t.chip with warn := t.chip.warn.del die, warnHeld := t.chip.warnHeld.erase die, warnEnd := t.now } }
       ∃ held : Nat,
         let t := ended (ledgerAdd die 0x07 (toLE 2 w.lowest ++ zeros 2 ++ toLE 4 us ++ toLE 4 held)
           (postEvent 0x4004 ([BitVec.ofNat 8 die] ++ zeros 3 ++ toLE 4 us) { s with chip := { s.chip with vdd := setNth 5 s.chip.vdd die mv } }))
         exec (.supplyWarningClear die mv) s = .next ((recheckable t).foldl (fun s e => recheck e.1 e.2 s) t)) ∧
     ((s.chip.warn.look? die).isSome = true →
       exec (.supplyWarningHeld die) s = .next (settle 8 { s with chip := { s.chip with warnHeld := insertNat die s.chip.warnHeld } }))) ∧
  (∀ (s : State),
     exec (.refclkLoss .cxl) s = .next { s with chip := { s.chip with cxlClk := false }, host := { s.host with cxlUp := false } } ∧
     (∀ r, r < 4 →
       let t := { s with chip := { s.chip with refLost := insertNat r s.chip.refLost, svcLink := s.chip.svcLink && r != 0 } }
       let t := ((List.range 256).map (256 * r + ·) ++ (if r = 0 then (List.range 32).map (1024 + ·) else [])).foldl (fun s l => loseLock l s) t
       exec (.refclkLoss (.fabric r)) s = .next (((List.range 32).map (32 * r + ·)).foldl (fun s c => retireChan c 4 3 s) t)) ∧
     (let t := { s with chip := { s.chip with tref := false } }
      let u := { t with time := { t.time with src := 0, port := none, samples := [], lastAt := none } }
      exec .trefLoss s = .next (if s.time.valid then (if s.time.st = .drifting then t else circuitsLoseLock (timeTo .drifting t))
        else (if s.time.st = .free then u else timeTo .free u))))

/-! Ports and lanes (chapters 02, 05). -/

/-- Events that start training or move a port: a signal or an interval starts the FULL sequence where the port may train, the training limit ends it, the
end of a timed hold starts it again; a port that may not train keeps its state. Training steps: a completed step leaves its effect and the next step
starts, the last one takes the port to CHECK; a step that fails, or completes without what it needs, is passed over where it is OPTIONAL, and any other
starts the sequence again, a WARM one as FULL unless the port is an armed circuit port. -/
def Obligations.PortsTrainAndTimeOut : Prop :=
  (∀ (s : State) (p : Nat),
     (let t := s.modPort p fun q => { q with signal := true }
      (mayTrain t p = true → exec (.signalDetect p) s = .next (startTraining p 1 t)) ∧ (mayTrain t p = false → exec (.signalDetect p) s = .next t)) ∧
     (mayTrain s p = true → exec (.retrainInterval p) s = .next (startTraining p 1 s)) ∧
     (mayTrain s p = false → exec (.retrainInterval p) s = .next s) ∧
     ((s.port p).st = .training → (isCircuit s p && (s.circOf p).armed) = false →
       exec (.trainTimeout p) s = .next (enter p (if (planRec s p).isSome then .absent else .down) 3 s)) ∧
     (∀ ms, (s.port p).st = .damped → (s.port p).hold = .timed ms → condemned s p = false → (s.port p).enabled = true →
       exec (.dampHoldExpiry p) s = .next (startTraining p 14 s))) ∧
  (∀ (s : State) (p : Nat) (t : Train), (s.port p).st = .training → (s.port p).train = some t →
     let step := t.steps.getD t.idx []
     let failed : State := if bit (byteAt step 1) 1 = true then nextStep p t s else startSeq p (t.warm && (isCircuit s p && (s.circOf p).armed)) s
     (∀ res, stepOk s p step res = true → exec (.trainingStepDone p res) s = .next (nextStep p t (stepEffect p (byteAt step 0) res s))) ∧
     (∀ res, stepOk s p step res = false → exec (.trainingStepDone p res) s = .next failed) ∧
     exec (.trainingStepFail p) s = .next failed ∧
     (∀ u, t.idx + 1 < t.steps.length →
       nextStep p t u = stepStart p (t.steps.getD (t.idx + 1) []) (u.modPort p fun q => { q with train := some { t with idx := t.idx + 1 } })) ∧
     (∀ u st, byteAt st 0 ≠ 8 → stepStart p st u = u))

/-- Lock and errors: lock is taken at once, losing it counts and takes an UP port out; a symbol error ratio above the limit and a dwell whose measured
ratio or flight time is out of range are faults of the port, counted alone on a FENCED one, a good dwell lets CHECK end; too many stomps stop a lane's
speculation; each limit is the one in force when its window began. DISCOVERY: an
active fabric port sends its own cell; a cell that is the second of two alike judges the neighbour, a first one is kept, one whose payload breaks its
rules is discarded. -/
def Obligations.LinkErrorsAndDiscoveryAct : Prop :=
  (∀ (s : State) (p lane ser : Nat),
     (laneOk lane = true → exec (.pcsLock lane) s = .next (s.modLane lane fun l =>
       if l.locked then l else { l with locked := true, rxBlk := 0, rxCw := 0, rxUe := [], ended := [] })) ∧
     (laneOk lane = true → exec (.pcsLossOfLock lane) s = .next (loseLock lane s)) ∧
     ((s.port p).st = .check → (s.port p).checkMax.getD (sm s 0x08 4) < ser → exec (.checkDwellEnd p ser) s = .next (portFault p 10 s)) ∧
     (∀ f, (s.port p).st = .check → ser ≤ (s.port p).checkMax.getD (sm s 0x08 4) → (s.port p).flight = some f →
       (reachLimit s p < f → exec (.checkDwellEnd p ser) s = .next (portFault p 11 s)) ∧
       (f ≤ reachLimit s p → exec (.checkDwellEnd p ser) s = .next (tryUp p (s.modPort p fun q => { q with dwellOk := true })))) ∧
     (let max := (s.port p).serMax.getD (sm s 0x0C 4)
      let t := s.modPort p fun q => { q with serMax := some (sm s 0x0C 4) }
      (max < ser → ((s.port p).st = .up ∨ (s.port p).st = .check ∨ (s.port p).st = .quarantine) → exec (.serDamp p ser) s = .next (portFault p 10 t)) ∧
      (max < ser → (s.port p).st = .fenced → exec (.serDamp p ser) s = .next (bump 0x20 (portEntry p) 1 t)) ∧
      (ser ≤ max → exec (.serDamp p ser) s = .next t)) ∧
     (laneOk lane = true →
       let l := s.lane lane
       let max := l.stompMax.getD (sm s 0x28 4)
       (l.stomps * 1000000 ≤ max * l.sent →
         exec (.stompRateLimit lane) s = .next (s.modLane lane fun l => { l with stomps := 0, sent := 0, stompMax := some (sm s 0x28 4) })) ∧
       (max * l.sent < l.stomps * 1000000 →
         let t := s.modLane lane fun l => { l with stomps := 0, sent := 0, stompMax := some (sm s 0x28 4), specOff := true }
         exec (.stompRateLimit lane) s = .next (if l.specOff then t else postEvent 0x1003 (toLE 2 lane) t)))) ∧
  (∀ (s : State) (p : Nat) (c : Cell), isWelt p = false → ((s.port p).st = .check ∨ (s.port p).st = .quarantine ∨ (s.port p).st = .up) →
     exec (.discoverySend p) s = .next (sendLinkCell p (discoveryCell s p) s) ∧
     (c.crcOk = true → c.typ = tDiscovery →
       (heardOf c = none → exec (.discoveryReceive p c) s = .next (countDiscard (some p) causeEncoding s)) ∧
       (∀ h, heardOf c = some h →
         ((s.port p).heard ≠ some h → exec (.discoveryReceive p c) s = .next (s.modPort p fun q => { q with heard := some h })) ∧
         ((s.port p).heard = some h → exec (.discoveryReceive p c) s = .next (onJudged p h (s.modPort p fun q => { q with judged := some h }))))))

/-- A good link control word ends the block, acknowledges, returns credit, and carries NAK, PORT_REFUSED and the peer's state, a NAK for a block of the
fourth attempt being a fault of the port; a bad one ends its block in sequence and acknowledges nothing, and the fourth bad or lost one in a row is a
fault of the port. Retry and stomps: no answer in time sends the oldest unacknowledged block and what follows again, a LINK STOMP sends again from the
LSN it names, and a STOMP for a cell the lane still knows takes it back (with TAIL also what came after it on its VC); one for a cell it no longer
knows is a fault of the port. -/
def Obligations.ControlWordsAndRetriesAct : Prop :=
  (∀ (s : State) (lane p : Nat) (w : BitVec 128), portOfLane s lane = some p → (s.port p).st ≠ .down → (s.port p).st ≠ .absent → (s.lane lane).locked = true →
     let ack := BitVec.ofNat 16 (lcwF w 96 16)
     (lcwOk w = true →
       let t := s.modLane lane fun l => { l with lostLcws := 0 }
       let t := if (s.port p).st = .training then syncLane lane p w t else endBlock lane p (BitVec.ofNat 16 (lcwF w 112 16)) (lcwF w 27 3) t
       let t := takeCredits lane p w (ackBlocks lane p ack t)
       let n := ack + 1
       let t := if bit w.toNat 31 = true then
           (if (t.lane lane).unacked.any (fun b => b.lsn == n && decide (4 ≤ b.attempt)) then linkFault p 7 t
            else if (t.lane lane).nakSeen then t else startAttempt lane p n t)
         else t.modLane lane fun l => { l with nakSeen := false }
       exec (.lcwReceive lane w) s = .next (peerState p (lcwF w 24 3) (t.modPort p fun q => { q with refused := bit w.toNat 30 }))) ∧
     (lcwOk w = false →
       let t := bump 0x03 lane 4 s
       let t := if (s.port p).st = .training then t else endBlock lane p (t.lane lane).rxLsn 0 t
       let t := t.modLane lane fun l => { l with lostLcws := l.lostLcws + 1 }
       (((t.port p).st = .up ∨ (t.port p).st = .check ∨ (t.port p).st = .quarantine) → 4 ≤ (t.lane lane).lostLcws →
         exec (.lcwReceive lane w) s = .next (portFault p 8 t)) ∧
       ((t.lane lane).lostLcws < 4 → exec (.lcwReceive lane w) s = .next t)) ∧
     (let t := s.modLane lane fun l => { l with lostLcws := 4 }
      ((s.port p).st = .up ∨ (s.port p).st = .check ∨ (s.port p).st = .quarantine) → exec (.lcwLoss lane) s = .next (portFault p 8 t))) ∧
  (∀ (s : State) (lane p : Nat) (c : Cell), portOfLane s lane = some p →
     (∀ b rest, (s.lane lane).unacked = b :: rest → exec (.retryTimeout lane) s = .next (startAttempt lane p b.lsn s)) ∧
     (c.typ = tStomp → Cell.ok c = true → c.crcOk = true →
       let st := (s.port p).st
       let link := bit c.hdr.toNat 35
       let cmd (l : Nat) (x : Cell) : Instr := if link = true then .linkStompReceive l x else .stompReceive l x
       ((st = .damped ∨ st = .fenced) → exec (cmd lane c) s = .next (countDiscard (some p) causePortState s)) ∧
       ((st = .down ∨ st = .training ∨ st = .absent) → exec (cmd lane c) s = .next s) ∧
       ((st = .up ∨ st = .check ∨ st = .quarantine) →
         (stompOk s c = false → exec (cmd lane c) s = .next (countDiscard (some p) causeEncoding s)) ∧
         (stompOk s c = true →
           let t := bump 0x03 lane 6 s
           let lsn := BitVec.ofNat 16 (c.f 43 16)
           let slot := c.f 39 4
           let tail := bit c.hdr.toNat 34
           let tl := ((lanesOf t p).find? fun l => (t.lane l).pos == c.f 36 3).getD lane
           let known := (t.lane tl).fates.find? fun f => f.lsn == lsn && f.slot == slot
           (link = true → exec (cmd lane c) s = .next (startAttempt lane p lsn t)) ∧
           (link = false → known = none → exec (cmd lane c) s = .next (portFault p 9 t)) ∧
           (∀ f, link = false → known = some f → exec (cmd lane c) s = .next (withdrawAll false tail ((tl, f) ::
             (if tail = true then (laterOn t p lsn slot (c.f 36 3)).filter fun x => x.2.cell.vc == f.cell.vc && credited x.2.cell else [])) t))))))

/-- FEC verdicts: every codeword is counted, with its corrected symbols; a corrected cell replaces the one taken up before; an uncorrectable codeword
makes its block bad from the first slot it touches, as does a cell whose codewords are all in and whose CRC fails; a block whose codewords are all in
is acknowledged. A cell received on a locked lane of a port with a link: one before the slot a resend starts from is passed over, one whose codewords
are in and whose CRC is good is taken up in port-slot order, one with a bad CRC makes the block bad from there; while a resend is awaited a cell is
kept, and on a lane without lock the block is bad. The refill boundary of a fabric port installs the QoS record that waits, refills the buckets and
meters the held cells again; a transmit slot of a port with a link fills the next slot while fewer than 128 blocks are unacknowledged. -/
def Obligations.LanesReceiveAndSend : Prop :=
  (∀ (s : State) (lane p : Nat) (v : Verdict), portOfLane s lane = some p →
     let t := bump 0x03 lane 0 s
     let t := if v.symbols = 0 then t else bumpN 0x03 lane 2 v.symbols (bump 0x03 lane 1 t)
     let cw := (t.lane lane).rxCw
     let t := t.modLane lane fun l => { l with rxCw := cw + 1 }
     let failed (u : State) : State := match (u.lane lane).fates.find? fun x => decide (lastCw x.blk x.slot = cw) && !x.cell.crcOk with
       | some x => badFrom lane p x.lsn x.slot u
       | none => u
     let taken (u : State) : State := merge p (u.modLane lane fun l =>
       Lane.confirm { l with rxq := l.rxq.map fun x => (x.1, x.2 || decide (lastCw x.1.blk x.1.slot < l.rxCw)) })
     (v.uncorrectable = false →
       exec (.codewordVerdict lane v) s = .next (taken (failed (v.changed.foldl (fun s x => verdictCell lane p ((cwSlot cw).1 + x.1) x.2.1 x.2.2 s) t)))) ∧
     (v.uncorrectable = true →
       let u := bump 0x03 lane 3 (t.modLane lane fun l => { l with rxUe := l.rxUe ++ [cw] })
       (ueSlot (u.lane lane) cw = none → exec (.codewordVerdict lane v) s = .next (taken (failed u))) ∧
       (∀ lsn slot, ueSlot (u.lane lane) cw = some (lsn, slot) → linked (u.port p).st = true →
         exec (.codewordVerdict lane v) s = .next (taken (failed (badFrom lane p lsn slot u)))))) ∧
  (∀ (s : State) (lane p slot : Nat) (c : Cell), portOfLane s lane = some p → laneOk lane = true → Cell.ok c = true → slot < 16 →
     let l := s.lane lane
     (l.locked = false → exec (.cellReceive lane slot c) s = .next (badUnlocked lane p s)) ∧
     (l.locked = true → linked (s.port p).st = true →
       let known := decide (lastCw l.rxBlk slot < l.rxCw)
       (l.rxBad = false → slot < l.rxFrom → exec (.cellReceive lane slot c) s = .next s) ∧
       (l.rxBad = false → l.rxFrom ≤ slot → known = true → (c.crcOk = false ∨ l.ueAt l.rxBlk slot = true) →
         exec (.cellReceive lane slot c) s = .next (badFrom lane p l.rxLsn slot (countDiscard (some p) causeCrc s))) ∧
       (l.rxBad = false → l.rxFrom ≤ slot → (known = false ∨ c.crcOk = true ∧ l.ueAt l.rxBlk slot = false) →
         let x : RxCell := ⟨l.rxLsn, slot, l.rxBlk, c⟩
         exec (.cellReceive lane slot c) s = .next (merge p (s.modLane lane fun l => { l with
           rxSlot := slot + 1
           fates := l.fates.filter (fun f => decide ((l.rxLsn - f.lsn).toNat * 16 + slot < 128 + f.slot) && !(f.lsn == l.rxLsn && f.slot == slot)) ++ [x]
           rxq := l.rxq ++ [(x, known || speculating s lane)] }))) ∧
       (l.rxBad = true → l.badNow = false →
         exec (.cellReceive lane slot c) s = .next (s.modLane lane fun l => { l with stage := l.stage ++ [(slot, c)] })))) ∧
  (∀ (s : State) (p : Nat), s.hasPort p = true →
     (isWelt p = false → exec (.policerRefill p) s = .next (refillBoundary p (installQos p s))) ∧
     (isWelt p = false → (s.port p).qosNext.isSome = true → exec (.qosRecordInstall p) s = .next (refillBoundary p (installQos p s))) ∧
     ((s.port p).st ≠ .down → (s.port p).st ≠ .training → (s.port p).st ≠ .absent → (s.lane (nextLane s p)).unacked.length < 128 →
       exec (.transmitSlot p) s = .next (fillSlot p (nextLane s p) s)))

/-! The switch and path health (chapters 01, 03, 04). -/

/-- The shared pool: a cell whose pending copies are gone takes its shared entry and returns its credit; otherwise the first cell of an input port and VC
that can move leaves the credited allocation, a unicast cell for its VOQ with its credit returned, a multicast cell for its copies; a pending cell or
copy that can be placed is placed, and a cell of the chip's own whose output no longer takes cells is routed again. Trains and the express path: a
train that reaches its block, with no earlier train of its engine on the way, ends its match and enters in its turn; a VC0 cell is forwarded by the
pointer of its output block, to its port or, where that no longer takes cells, to the discards, and what waited behind it at the hub seam follows; a
stalled engine is retired once. -/
def Obligations.CellsCrossTheSwitch : Prop :=
  (∀ (s : State) (n p vc : Nat),
     (∀ c, awaiting s n p vc = some c → 0 < sharedFree s n →
       exec (.sharedPoolMove n p vc) s = .next (enterPool n c (s.modBlock n fun b => { b with await := b.await.erase c }))) ∧
     (∀ a dst c rest, awaiting s n p vc = none →
       ((s.block n).alloc.find? fun a => (a.copies.any fun x => x.2.org.port == some p && x.2.org.vc == vc) && movable s n vc a) = some a →
       a.copies = (dst, c) :: rest →
       let t := s.modBlock n fun b => { b with alloc := b.alloc.erase a }
       (a.mc = false → exec (.sharedPoolMove n p vc) s = .next (returnCredit c.org (joinVoq n dst { c with shared := true } t))) ∧
       (a.mc = true → exec (.sharedPoolMove n p vc) s = .next (settleLost (settleCopies n c (writeCopies n a.copies t))))) ∧
     (∀ x, ((s.block n).pend.find? fun x => !copyLive s x.1 x.2 || voqOk s n x.1 x.2.cell.vc) = some x →
       let t := s.modBlock n fun b => { b with pend := b.pend.erase x }
       (isCopyCell x.2 = true → exec (.replicationPendingPlace n) s = .next (settleLost (settleCopies n x.2 (writeCopies n [x] t)))) ∧
       (isCopyCell x.2 = false → copyLive t x.1 x.2 = true → exec (.replicationPendingPlace n) s = .next (settleLost (joinVoq n x.1 { x.2 with shared := true } t))) ∧
       (isCopyCell x.2 = false → copyLive t x.1 x.2 = false → exec (.replicationPendingPlace n) s = .next (settleLost (rechooseCell n x.2 t))))) ∧
  (∀ (s : State) (n i p vc no e : Nat),
     (∀ t, outBlock p = n → (s.sched.trains.find? fun t => t.inB == i && t.port == p && t.vc == vc && t.number == no && !t.early) = some t →
       (wayBusy s t = true → exec (.trainArrival n i p vc no) s = .next s) ∧
       (wayBusy s t = false →
         let u := if regionOf i = regionOf n then s else seamPassed (pairSeam (regionOf i) (regionOf n)) (seamDirOf i n) s
         exec (.trainArrival n i p vc no) s = .next (trainHere n i p vc no (endMatch t.id u)))) ∧
     (∀ k x, (((List.range 32).map fun k => (s.sched.expPtr.look n 0 + k) % 32).findSome? fun i =>
         if blockDead s i then none else match expressHead s i n with | some x => if expressRoom s x.1 then some (i, x) else none | none => none) = some (k, x) →
       let t := (s.modBlock k fun b => { b with express := b.express.erase x }).modSched fun y => { y with expPtr := y.expPtr.put n ((k + 1) % 32) }
       let t := seamPassed (6 + regionOf n) 1 (seamPassed (6 + regionOf k) 0 (leaveBlock k x.2 t))
       exec (.expressForward n) s = .next (drainHub s.sched.hub.length (if t.live x.1 then
           (newEnt n t).2.modPort x.1 fun q => { q with vc0 := q.vc0 ++ [{ x.2 with ent := (newEnt n t).1, shared := true }] }
         else countDiscard x.2.org.port causePortState t))) ∧
     (e < 64 → (s.sched.engines.look e {}).retired = false →
       let t := s.modSched fun x => { x with engines := x.engines.put e { s.sched.engines.look e {} with retired := true } }
       exec (.engineStall e) s = .next (settle 4 (postEvent 0x4007 [BitVec.ofNat 8 e, BitVec.ofNat 8 (enginesRetired t)] t))) ∧
     ((s.sched.engines.look e {}).retired = true → exec (.engineStall e) s = .next s))

/-- A wave and the local arbiter: an engine in service computes its matching over the requests that arrived whole (a sideband word with a bad CRC-8 is
counted and acts on nothing), each matched input block that finds a VOQ sends its CLAIM; the local arbiter claims, is answered and sends at once.
Claims: an output block answers the CLAIM it holds; the reply binds the train where no earlier claim of the VOQ waits; no reply leaves an empty train
and a count; an unused reservation is released and counted; a CLAIM on a way with no match is counted and its slots are refused. -/
def Obligations.WavesAndClaimsAct : Prop :=
  (∀ (s : State) (e n : Nat) (lost : SideLoss),
     (e < 64 → (s.sched.engines.look e {}).retired = false →
       let w := runWave s e lost.requests (s.sched.engines.look e {})
       let t := (lost.requests.filter fun r => r.1 < 32).foldl (fun s r => bump 0x04 r.1 7 s)
         (s.modSched fun x => { x with engines := x.engines.put e w.2, floorPtr := w.1.ptr })
       exec (.schedulerWave e lost) s = .next (w.1.made.foldl (fun s m =>
         let known := !(lost.outCopies.contains (m.i, m.j))
         let s := if known then s else bump 0x04 m.j 7 s
         if lost.inCopies.contains (m.i, m.j) then bump 0x04 m.i 7 s else match selectVoq m.i m.j s with
         | (none, s) => s
         | (some (p, vc), s) => ((makeClaim e m.i m.j p vc known s).2).modSched fun x => { x with matches_ := x.matches_ ++ [{ m with id := (makeClaim e m.i m.j p vc known s).1.id }] }) t)) ∧
     (∀ t, selectVoq n n s = (none, t) → exec (.localArbitration n) s = .next t) ∧
     (∀ p vc t c u c' g, selectVoq n n s = (some (p, vc), t) → makeClaim 64 n n p vc true t = (c, u) →
       ((answerClaim c u).sched.claims.find? (·.id == c.id)) = some c' → c'.reply = some g →
       exec (.localArbitration n) s = .next (trainHere n n p vc c.number (bindTrain c' g (answerClaim c u))))) ∧
  (∀ (s : State) (n p vc len e i id : Nat),
     let refused (t : State) : State := if p < 1024 ∧ t.hasPort p = true then addDebt p (min 16 len) t else t
     (∀ c, findClaim s n p vc len e i = some c → exec (.claim n p vc len e i) s = .next
         (if c.known then answerClaim c s
          else emptyTrain c (refused (bump 0x20 (4096 + n) 10 (s.modSched fun x => { x with claims := x.claims.filter (·.id != c.id) }))))) ∧
     (findClaim s n p vc len e i = none → exec (.claim n p vc len e i) s = .next
         (if outBlock p = n then refused (bump 0x20 (4096 + n) 10 s) else bump 0x20 (4096 + n) 10 s)) ∧
     (∀ c, (s.sched.claims.find? fun c => c.id == id && c.inB == i && !c.bound) = some c →
       (∀ g, c.reply = some g → (∀ d ∈ s.sched.claims, d.inB = i → d.port = c.port → d.vc = c.vc → d.bound = false → c.id ≤ d.id) →
         exec (.claimReply i id) s = .next (bindTrain c g s)) ∧
       exec (.claimNoReply i id) s = .next (emptyTrain c (bump 0x04 i 8 (s.modSched fun x => { x with
         claims := (x.claims.filter (·.id != c.id)) ++ (if c.reply.isSome then [{ c with bound := true }] else []) })))) ∧
     (∀ c g, (s.sched.claims.find? fun c => c.id == id && c.outB == n) = some c → c.reply = some g →
       let t := releaseReserve c g (bump 0x04 n 9 (s.modSched fun x => { x with claims := x.claims.filter (·.id != c.id) }))
       exec (.reservationExpiry n id) s = .next (if c.bound then t else emptyTrain c t)))

/-- Seams and memory errors: a bad frame is tried again, a failure of its fourth retry takes a spare; a seam without spares narrows by one lane down to one half,
below which a region is fenced; an uncorrectable error of a memory has the effect of its kind and a correctable one of a buffer counts, the third in
24 hours retiring the entry, which then counts no more; a corrected error of the control complex counts HUB_CE. -/
def Obligations.SeamsAndMemoryErrorsAct : Prop :=
  ∀ (s : State) (m dir lane b n r : Nat),
    (m < 10 → dir < 2 →
      let d := s.seam m dir
      let t := bump 0x05 (seamRegion m dir) 0 s
      (d.attempts < 4 → exec (.seamFrameCrcFail m dir lane) s = .next (t.modSeam m dir fun x => { x with attempts := x.attempts + 1 })) ∧
      (4 ≤ d.attempts → d.spares = 0 → exec (.seamFrameCrcFail m dir lane) s = .next (t.modSeam m dir fun x => { x with attempts := 0 })) ∧
      (4 ≤ d.attempts → d.spares ≠ 0 →
        let u := t.modSeam m dir fun x => { x with attempts := 0, spares := x.spares - 1, retired := x.retired ++ [lane] }
        let u := u.modLedger (seamRegion m dir) fun l => { l with seamMap := l.seamMap ++ [(2 * m + dir, lane)] }
        exec (.seamFrameCrcFail m dir lane) s = .next (ledgerAdd (seamRegion m dir) 0x12
          [BitVec.ofNat 8 m, BitVec.ofNat 8 lane, BitVec.ofNat 8 ((if m < 6 then 4 else 2) - d.spares)] (bump 0x05 (seamRegion m dir) 1 u))) ∧
      (d.spares = 0 → d.width ≤ 4 → exec (.seamLaneLoss m dir) s = .next (fenceRegion (seamVictim s m) 0 m (s.modSeam m dir fun x => { x with width := 0 }))) ∧
      (d.spares = 0 → 4 < d.width → exec (.seamLaneLoss m dir) s = .next (postEvent 0x3002 [BitVec.ofNat 8 m, BitVec.ofNat 8 (d.width - 1)]
        (s.modSeam m dir fun x => { x with width := x.width - 1 })))) ∧
    (n < 199728 → (s.block b).retired.contains n = false →
     exec (.bufferEccError (.buffer b n true)) s = .next (retireEntry b n (dropEntry b n (bump 0x04 b 1 s))) ∧
     (let ts := lastDay s ((s.block b).ceTimes.look n [])
      let t := bump 0x04 b 0 (s.modBlock b fun k => { k with ceTimes := k.ceTimes.put n ts })
      exec (.bufferEccError (.buffer b n false)) s = .next (if 3 ≤ ts.length then retireEntry b n t else t))) ∧
    ((199728 ≤ n ∨ (s.block b).retired.contains n = true) → ∀ ue, exec (.bufferEccError (.buffer b n ue)) s = .next s) ∧
    exec (.bufferEccError .complex) s = .next (bump 0x01 0 10 s) ∧
    exec (.bufferEccError (.control b n true)) s = .next (fenceBlock b n s) ∧
    exec (.bufferEccError (.store r true)) s = .next (fenceRegion r 2 255 (bump 0x05 r 3 s)) ∧
    exec (.bufferEccError (.engine n true)) s = .next (retireEngine n (bump 0x01 0 11 s))

/-- Path health: a decay tick visits every segment, the mistake nibble with every sixteenth; the samples past the horizon go; an ECHO credits the oldest
matching sample and frees it; the seam load is latched busy from AFFINITY_ON and idle below AFFINITY_OFF, and in between kept. -/
def Obligations.PathHealthIsUpdated : Prop :=
  ∀ (s : State) (c : Cell) (r pct : Nat),
    (let n := s.fabric.decays + 1
     exec .healthDecayTick s = .next (((List.range 32).map (64 + ·)).foldl (fun s g => decaySeg (n % 16 == 0) g s) (s.modFabric fun f => { f with decays := n % 16 }))) ∧
    exec (.sampleExpiry r) s = .next (s.modFabric fun f => { f with samples := f.samples.mod r fun l => l.filter fun x => decide (s.now < x.at_ + f.plan.horizonMs * 1000000) }) ∧
    (c.typ = tEcho →
      let t := if forChip s c.dst then (takeIn c s).2 else s
      (∀ x, oldest (((List.range 4).map fun r => (t.fabric.samples.look r []).filter (echoMatches c)).flatten) = some x →
        let k := ((List.range 4).find? fun r => (t.fabric.samples.look r []).contains x).getD 0
        let u := t.modFabric fun f => { f with samples := f.samples.mod k fun l => l.erase x }
        exec (.echoCellTransit c) s = .next (healthUpdate (64 * x.g + x.m) (.mark (64 * x.g + x.m) (field c.hdr.toNat 9 6) u.now) (bump 0x05 k 9 u)))) ∧
    ∃ t, exec (.seamLoadUpdate r pct) s = .next t ∧ t = { s with fabric := { s.fabric with seamBusy := t.fabric.seamBusy } } ∧
      (∀ k, k ≠ r → t.fabric.seamBusy[k]? = s.fabric.seamBusy[k]?) ∧
      (∀ b, s.fabric.seamBusy[r]? = some b → t.fabric.seamBusy[r]? =
        some (if s.fabric.plan.affOn ≤ pct then true else if pct < s.fabric.plan.affOff then false else b))

/-- Windows at a holder and a grantor: a WINDOW of the running round (SCOPE 1) or of a flow of the grantor (SCOPE 0) that goes back on neither LIMIT nor
ACK, or is the first, moves the holder's window, drops what is acknowledged and sends what LIMIT newly admits; WINDOW_TIMEOUT_US sends the
unacknowledged cells again in the order of their index and marks the path, RETRIES times; the grantor repeats its WINDOW while it is open. -/
def Obligations.WindowsAreHeldAndRepeated : Prop :=
  ∀ (s : State) (c : Cell) (win p m : Nat),
    (let q := field c.hdr.toNat 47 12
     let t := (takeIn c s).2
     let pl := t.peal q
     let w := namedWin t c
     let h := w.2
     let limit := field c.hdr.toNat 20 24
     let ack := le c.payload 0 3
     c.typ = tWindow → c.crcOk = true → forChip t c.dst = true → zeroAt c.payload 3 61 = true →
      (bit c.hdr.toNat 46 = true → pl.st ≠ .free ∧ c.tag = dTag pl.desc ∧ field c.hdr.toNat 44 2 = pl.round) →
      (h.granted = true → precedes limit h.limit = false ∧ precedes ack h.ack = false) →
      let moved := !h.granted || h.limit != limit || h.ack != ack
      let keep := h.cells.filter fun x => !precedes x.index ack
      exec (.windowReceive c) s = .next ((keep.filter fun x => precedes x.index limit && !(h.granted && precedes x.index h.limit)).foldl
        (fun s x => holderSend q (w.1 / 4096 - 1) (pealBlock pl.desc) x s)
        { t with fabric := { t.fabric with wins := t.fabric.wins.put w.1 { h with
          granted := true, limit := limit, ack := ack, cells := keep, retries := if moved then 0 else h.retries, stopped := h.stopped && !moved } } })) ∧
    (∀ h, s.fabric.wins.look? win = some h →
      let side := win / 4096 - 1
      let sent := (h.cells.filter fun x => h.granted && precedes x.index h.limit).foldl (fun l x => insertIndex h.ack x l) []
      sent ≠ [] → h.stopped = false → h.round = (s.peal h.id).round → (s.peal h.id).st ≠ .free →
      let t := bump 0x20 0 9 s
      let t := match h.path with | some (g, k) => healthUpdate (64 * g + k) (.timeout (64 * g + k) t.now) t | none => t
      let t := bump 0x05 (lowRegion (t.peal h.id).desc) 10 t
      let last := decide (h.maxTry ≤ h.retries + 1)
      let t := putWin h.id side { h with retries := h.retries + 1, stopped := last } t
      let u := sent.foldl (fun s x => holderSend h.id side (pealBlock (s.peal h.id).desc) x s) t
      exec (.windowTimeout win) s = .next (if last then postEvent 0x2003 ([BitVec.ofNat 8 h.scope, 0] ++ toLE 2 h.id ++ toLE 4 h.grantor ++ [BitVec.ofNat 8 h.round]) u else u)) ∧
    ((s.peal p).isOpen = true → ((s.peal p).wins.look? m).isSome = true → ((s.peal p).win m).ack < winLimit (s.peal p) m →
      let w := sendWindow p m (bumpPeal p 14 1 s)
      exec (.windowRepeat p m) s = .next (voidSent { fenced := if w.1 then [m] else [] } p w.2))

/-! Peals at their home (chapters 06, 07). -/

/-- Contributions: a bad CRC takes the cell in and does nothing more, a failed check of R177 rejects it under its counter, a good one is accepted; where
R214 lets the home add it at once it is added and waits for its verdict, unless the undo ring is full; a good verdict commits it and a bad one takes
it back. A PEAL_EXP that passes the checks is kept for its chunk, resolves the anchor when it is the last, and is a duplicate when it comes again; a
repair request voids a SEALED round of its number; a mark is echoed when its timer ends. -/
def Obligations.ContributionsAndReportsAreJudged : Prop :=
  (∀ (s : State) (c : Cell) (core : Nat),
     let p := c.flow
     let t := (takeIn c s).2
     (((s.peal p).st = .free ∨ coreTakes s c = true) →
       (speculates s c = true → (s.core (cellCore s (s.peal p).desc c.index)).ring.length < 16 → exec (.pealContribReceive c) s = .next (specAdd c t)) ∧
       (speculates s c = true → 16 ≤ (s.core (cellCore s (s.peal p).desc c.index)).ring.length → exec (.pealContribReceive c) s = .next (bumpPeal p 37 1 s)) ∧
       (speculates s c = false → c.crcOk = false → exec (.pealContribReceive c) s = .next t) ∧
       (∀ why, speculates s c = false → c.crcOk = true → judgeContrib t c false = some why → exec (.pealContribReceive c) s = .next (rejectContrib c why t)) ∧
       (speculates s c = false → c.crcOk = true → judgeContrib t c false = none →
         exec (.pealContribReceive c) s = .next (commitContrib p (((t.peal p).fas.look? c.src).getD 0) c false t))) ∧
     (∀ u rest good, (s.core core).ring = u :: rest → (fastPath s (dProgram (s.peal u.peal).desc) = true ∨ eventsFull s core = false) →
       let t := s.modCore core fun k => { k with ring := rest }
       (∀ why, judgeContrib t u.cell false = some why → exec (.verdictArrival core good) s = .next (rejectContrib u.cell why (specUndo u t))) ∧
       (judgeContrib t u.cell false = none → good = true → u.bad = false →
         exec (.verdictArrival core good) s = .next (commitContrib u.peal (((t.peal u.peal).fas.look? u.cell.src).getD 0) u.cell true t)) ∧
       (judgeContrib t u.cell false = none → (good = false ∨ u.bad = true) → exec (.verdictArrival core good) s = .next (specUndo u t)))) ∧
  (∀ (s : State) (c : Cell) (p m : Nat),
     (let q := c.flow
      let t := (takeIn c s).2
      let k := chunkOf (t.peal q).desc c.index
      let m := ((t.peal q).fas.look? c.src).getD 0
      c.crcOk = true →
       (∀ why, judgeContrib t c true = some why → exec (.pealExpReceive c) s = .next (rejectContrib c why t)) ∧
       (judgeContrib t c true = none → zeroAt c.payload 2 62 = true → (((t.peal q).win m).exps.contains k) = true → exec (.pealExpReceive c) s = .next (rejectContrib c 6 t)) ∧
       (judgeContrib t c true = none → zeroAt c.payload 2 62 = true → (((t.peal q).win m).exps.contains k) = false →
         exec (.pealExpReceive c) s = .next (resolveAnchor q k (countMark q m c (t.modPeal q fun y => { y with
           wins := y.wins.upd m {} fun w => { w with exps := insertNat k w.exps, heardAt := t.now }
           chunks := y.chunks.mod k fun ch => { ch with exps := ch.exps.put m (signed (le c.payload 0 2) 16) } }))))) ∧
     (let q := c.flow
      let t := (takeIn c s).2
      zeroAt c.payload 3 61 = true →
       ((s.peal q).st = .free ∨ dTag (s.peal q).desc ≠ c.tag → exec (.repairRequestReceive c) s = .next (bump 0x01 0 0 t)) ∧
       ((s.peal q).st ≠ .free → dTag (s.peal q).desc = c.tag → (s.peal q).st = .sealed → (s.peal q).round = c.f 44 2 →
         exec (.repairRequestReceive c) s = .next (voidFor 5 q (bumpPeal q 12 1 t))) ∧
       ((s.peal q).st ≠ .free → dTag (s.peal q).desc = c.tag → ((s.peal q).st ≠ .sealed ∨ (s.peal q).round ≠ c.f 44 2) →
         exec (.repairRequestReceive c) s = .next (bumpPeal q 12 1 t))) ∧
     exec (.markEchoTimer p m) s = .next (sendEcho p m s))

/-- Chunks: an open peal opens its next chunk; a chunk whose contributions are all in completes with its flags, its loss, its residue check and its
digest; the results of a releasable chunk are sent, its slot is freed and the last one seals the round. The life of a round: a SEALED round ends with
its step advanced and the next round to open (a paired KIND 5 peal only with agreeing digests), a delayed round opens when its guards let it, and the
watchdog voids a RUNNING round with cause 2, each WAIT LINK it finds unmet counted under row 6. A RETIRING peal whose cores are quiet is FREE with its
member words and PSTORE zero, its shard unbound and every PEAL_RETIRE that waits answered. -/
def Obligations.ChunksAndRoundsGoOn : Prop :=
  (∀ (s : State) (p k : Nat),
     ((s.peal p).isOpen = true → exec (.chunkOpen p) s = .next (refreshWindows p (openOne p s))) ∧
     (chunkReady s p k = true →
       let d := (s.peal p).desc
       let ch := (s.peal p).chunks.look k {}
       let rows := ch.rows.map (·.2)
       let loss := (rows.map (·.loss)).foldl (· + ·) 0
       let sat := rows.any (·.sat)
       let nan := rows.any (·.nan)
       let inf := rows.any (·.inf)
       let t := s.modChunk p k fun x => { x with
         complete := true, doneAt := s.now, satted := sat, digest := if ch.spot = .waiting then some (chunkDigest d k ch) else none }
       let t := bumpPeal p 31 loss (bumpPeal p 8 1 (t.modPeal p fun q => { q with loss := min (2 ^ 64 - 1) (q.loss + loss) }))
       let a := addFlags p sat nan inf (bumpPeal p 34 (b2n inf) (bumpPeal p 33 (b2n nan) (bumpPeal p 32 (b2n sat) t)))
       let bad := badRows d ch
       let again := ch.supply && supplyClear a.2 d k
       let t := if again = true ∧ bad = false then a.2.modChunk p k fun ch => { ch with supply := false } else a.2
       let causes := (if a.1 then [6] else []) ++ (if bad then [if again then 11 else 7] else [])
       exec (.chunkComplete p k) s = .next (compareSpot p k (if bad = true then residueVoid causes p k t else voidPeal causes false none false p t))) ∧
     (releasable s p k = true →
       let d := (s.peal p).desc
       let a := (chunkCells d k).foldl (fun a x => releaseCell p x a) (({} : Sent), s)
       let t := voidSent a.1 p a.2
       exec (.resultRelease p k) s = .next (if (t.peal p).isOpen = false then t else
         trySeal p (refreshWindows p (openChunks p (chunkCount d)
           ((t.modChunk p k fun ch => { ch with sent := true, released := true, rows := [] }).modPeal p fun q =>
             { q with outs := q.outs.filter fun e => chunkOf d e.1 != k })))))) ∧
  (∀ (s : State) (p : Nat),
     ((s.peal p).st = .sealed → (isUpdate (s.peal p).desc = false ∨ pairedFor s (s.peal p) = false ∨ (s.peal p).agreed = true) →
       exec (.sealedExpiry p) s = .next (armNext p (((s.peal p).round + 1) % 4)
         ((makePending p s).modPeal p fun q => { q.dropRound with step := q.step + 1, replays := 0 }))) ∧
     exec (.roundOpen p) s = .next (tryOpen p s) ∧
     ((s.peal p).st = .running → exec (.stepWatchdogExpiry p) s = .next (voidFor 2 p (s.spine.cores.keys.foldl (fun t c => match (t.core c).inv with
       | some i => if i.peal = p ∧ i.stuck = true then bump 0x06 c 13 (bumpPeal p 54 1 t) else t
       | none => t) s))) ∧
     ((s.peal p).st ≠ .running → exec (.stepWatchdogExpiry p) s = .next s) ∧
     ((s.peal p).st = .retiring →
       let d := (s.peal p).desc
       let t := zeroMembers (dMemberBase d) (memberSpan (dMembers d)) s
       let t := if isUpdate d then unbindShard (dShard d) t else t
       let t := { t with mem := { t.mem with pstore := t.mem.pstore.clear (pstoreAddr p 0 0) (2 ^ 28) } }
       exec (.retireComplete p) s = .next (tryPaired ((s.peal p).retireMbx.foldl (fun t n => answerOp 0x62 n.val (.ok []) t)
         (t.modPeal p fun _ => { freeAt := some t.now, oldTag := dTag d, oldDog := dWatchdogMs d })))) ∧
     ((s.peal p).st ≠ .retiring → exec (.retireComplete p) s = .next s))

/-- Spot duplication: the twin keeps a forwarded contribution, with the last one of the chunk it accumulates them all and returns the digest of its copy,
which stays until the round ends; the home compares the digest that arrives, and one that does not come in time voids the round with cause 8. -/
def Obligations.SpotDuplicationCompares : Prop :=
  ∀ (s : State) (m : TwinMsg) (q k : Nat),
    (let t := takeTwin 3 m s
     let p := le m.head 0 2
     let d := (t.peal p).desc
     let x := le m.head 4 4
     let c := chunkOf d x
     let cell := mkCell tContrib 2 0 false false 0 0 (dTag d) (pealTs p (t.peal p).round x (byteAt m.head 12) (le m.head 14 2)) (m.data.take 64)
     let cells := ((t.peal p).spotRows.look c {}).parked ++ [⟨cell, le m.head 8 4⟩]
     twinOk 0x0A m = true → twinPeal t p m.tag = true → t.twin.st = .paired → (t.peal p).round = byteAt m.head 2 →
      (cells.length < owedTotal t d c → exec (.spotFwdReceive m) s = .next (t.modPeal p fun y => { y with
        spotRows := y.spotRows.put c { (t.peal p).spotRows.look c {} with parked := cells } })) ∧
      (owedTotal t d c ≤ cells.length →
        let copy := spotChunk t p c cells
        exec (.spotFwdReceive m) s = .next (sendTwinFrom (some (chunkRegion d c)) 0x0B 3 (dTag d) (toLE 2 p ++ toLE 1 (t.peal p).round ++ zeros 1 ++ toLE 4 c
          ++ toLE 8 (chunkDigest d c copy).toNat) [] (t.modPeal p fun y => { y with
            spotRows := y.spotRows.put c { copy with complete := true, digest := some (chunkDigest d c copy) } })))) ∧
    (let t := takeTwin 3 m s
     let p := le m.head 0 2
     let c := le m.head 4 4
     twinOk 0x0B m = true → twinPeal t p m.tag = true → (t.peal p).round = byteAt m.head 2 → (t.peal p).isOpen = true →
      exec (.spotDigestReceive m) s = .next (compareSpot p c (t.modChunk p c fun ch => { ch with twinDig := some (BitVec.ofNat 64 (le m.head 8 8)) }))) ∧
    (∀ ch, (s.peal q).chunks.look? k = some ch → ch.complete = true → ch.spot = .waiting → s.twin.st = .paired → (s.peal q).isOpen = true →
      exec (.spotDigestTimeout q k) s = .next (voidFor 8 q (bumpPeal q 42 1 s)))

/-! The norm exchange, the twin pair and memory (chapters 09, 10, 11). -/

/-- The norm exchange: a group whose peals are ready forms its partials and, with the last of them, the sum that goes to the norm home; it is sent again
while no result came; the home stores a new Q, answers a repeated or conflicting one with its sealed result and counts a stale one; a result of the
current TRY is kept, any other counted; the twin keeps the copy of a Q. -/
def Obligations.NormExchangeTakesEffect : Prop :=
  ∀ (s : State) (tag np ts : Nat) (c : Cell) (m : TwinMsg),
    (let key := normKey tag np
     normDone s tag np ts ≠ [] →
      let t := (normDone s tag np ts).foldl (fun s p => modNorm key ts (fun n => { n with partials := n.partials.put p (pealPartial s p) }) s) s
      let n := (normSteps t key).look ts {}
      let all := (normGroup t tag np).map (·.2)
      let q := (all.map fun p => n.partials.look p 0).foldl (· + ·) 0
      ((∃ p ∈ all, n.partials.look? p = none) → exec (.normPartialForm tag np ts) s = .next t) ∧
      ((∀ p ∈ all, n.partials.look? p ≠ none) → exec (.normPartialForm tag np ts) s = .next (sendNorm tag np ts
        (modNorm key ts (fun n => { n with sum := some q, result := if n.sum = some q then n.result else none }) t)))) ∧
    exec (.normResend tag np) s = .next ((((normSteps s (normKey tag np)).filter fun e => e.2.sum.isSome && e.2.result.isNone).map (·.1)).foldl
      (fun s t => sendNorm tag np t ((normGroup s tag np).foldl (fun s k => bump 0x08 k.1 3 s) s)) s) ∧
    (let t := (takeIn c s).2
     let np := c.flow
     let q := le c.payload 0 16
     let x := le c.payload 16 8
     let tr := byteAt c.payload 25
     c.crcOk = true → byteAt c.payload 24 ≤ 1 → zeroAt c.payload 26 38 = true →
      ∀ h, t.spine.homes.look? np = some h → h.tag = c.tag → (h.list.any fun e => e.1 == c.src) = true → normServes t np = true →
        (normRecord h x tr = none → exec (.normContribReceive c) s = .next (bump 0x09 np 3 t)) ∧
        (∀ g r, normRecord h x tr = some (g, r) → r.total = none →
          exec (.normContribReceive c) s = .next (trySealNorm np x (copyNorm np c.src x tr q (bit (byteAt c.payload 24) 0)
            (modHome np (fun _ => { g with recs := g.recs.put x (r.store g c.src q (bit (byteAt c.payload 24) 0)) }) (bump 0x09 np 0 t))))) ∧
        (∀ g r, normRecord h x tr = some (g, r) → r.total ≠ none →
          let same := r.qs.look? c.src == some q
          exec (.normContribReceive c) s = .next (sendNormResult g.tag np x c.dst c.src r (!same) (bump 0x09 np (if same then 1 else 2) t)))) ∧
    (let t := (takeIn c s).2
     let x := le c.payload 16 8
     let key := normKey c.tag c.flow
     c.crcOk = true → byteAt c.payload 24 ≤ 1 → zeroAt c.payload 26 2 = true → zeroAt c.payload 32 32 = true →
      (∀ n, (normSteps t key).look? x = some n → n.sum.isSome = true → n.tries % 256 = byteAt c.payload 25 →
        exec (.normResultReceive c) s = .next (modNorm key x (fun n => { n with result := some c.payload }) t)) ∧
      ((∀ n, (normSteps t key).look? x = some n → ¬(n.sum.isSome = true ∧ n.tries % 256 = byteAt c.payload 25)) →
        exec (.normResultReceive c) s = .next (bump 0x20 0 11 t))) ∧
    (let t := takeTwin 1 m s
     let np := le m.head 0 2
     let x := le m.head 8 8
     twinOk 0x12 m = true → ∀ h g r, t.spine.homes.look? np = some h → normRecord h x (byteAt m.head 2) = some (g, r) → r.total = none →
      exec (.normCopyReceive m) s = .next (modHome np (fun _ => { g with
        recs := g.recs.put x (r.store g (field (le m.head 4 4) 0 20) (le m.head 16 16) (bit (byteAt m.head 3) 0)) }) t))

/-- Pairing: a Welt port in CHECK or QUARANTINE, or UP while the pair is SOLO or SYNCING, sends PAIR_HELLO; one received is kept, the second of two alike
judges the port, and it drives the pair state: in SOLO, once the host has asked, agreement is judged whoever sent it, and in another state the twin is
heard. A chip not SOLO sends HEARTBEAT and ACK; a HEARTBEAT of the twin is heard, one of another chip is not; its loss orphans a PAIRED chip, and one
SYNCING with a joined peal, and ends any other SYNCING in SOLO with held rounds opened; DYING of the whole twin takes over, of regions takes those;
TAKEOVER ends with every home reassigned. -/
def Obligations.PairStatesFollowTheTwin : Prop :=
  (∀ (s : State) (wp : Nat) (m : TwinMsg),
    let p := weltPort wp
    let st := (s.port p).st
    (wp < 4 → (st = .check ∨ st = .quarantine ∨ (st = .up ∧ (s.twin.st = .solo ∨ s.twin.st = .syncing))) →
      exec (.pairHelloSend wp) s = .next (sendLinkCell p (linkTwin s 0x01 (helloBody s wp)) s)) ∧
    (let h := fit 64 m.head
     let ours := s.fabric.plan.twinChip != 0 && BitVec.ofNat 64 (le h 0 8) == s.fabric.plan.twinChip
     let twice := s.twin.heard.look? p == some h
     let t := s.modTwin fun t => { t with heard := t.heard.put p h, agreed := if twice then t.agreed.put p h else t.agreed, peer := if ours then h else t.peer }
     let t := if twice = false then t else if ours = false then (if st = .quarantine then t else enter p .quarantine 5 t)
       else if st = .quarantine then enter p .check 4 t else tryUp p t
     wp < 4 → (st = .check ∨ st = .quarantine ∨ st = .up) → m.tmsg = 0x01 → twinOk 0x01 m = true →
      (t.twin.st = .solo → exec (.pairHelloReceive wp m) s = .next (if t.twin.asked then judgeAgreement h t else t)) ∧
      (t.twin.st ≠ .solo → exec (.pairHelloReceive wp m) s = .next (if ours = true then heardAgain (byteAt h 12) (byteAt h 34 % 16) false t else t)))) ∧
  (∀ s : State, s.twin.st ≠ .solo →
    let n := s.twin.hbSent + 1
    exec .heartbeatSend s = .next (sendTwin 0x02 0 0 (toLE 8 s.hubId.toNat ++ toLE 1 s.twin.st.code ++ toLE 1 s.twin.taken ++ zeros 2 ++ toLE 4 n.toNat) []
      (s.modTwin fun t => { t with hbSent := n })) ∧
    exec .twinAckSend s = .next (sendTwin 0x06 5 0 ((List.range 8).map fun v => toLE 4 ((nth s.twin.rxSeq v + 4294967295) % 4294967296)).flatten [] s)) ∧
  (∀ (s : State) (m : TwinMsg),
    let t := takeTwin 0 m s
    let twins : Prop := t.fabric.plan.twinChip ≠ 0 ∧ BitVec.ofNat 64 (le m.head 0 8) = t.fabric.plan.twinChip
    (twinOk 0x02 m = true → (twins → exec (.heartbeatReceive m) s = .next (heardAgain (byteAt m.head 8) (byteAt m.head 9 % 16) true t)) ∧
      (¬twins → exec (.heartbeatReceive m) s = .next t)) ∧
    (twinOk 0x03 m = true → twins →
      (byteAt m.head 8 = 0 → (t.twin.st = .syncing ∨ t.twin.st = .paired ∨ t.twin.st = .orphan) → exec (.dyingReceive m) s = .next (takeOver t)) ∧
      (byteAt m.head 8 ≠ 0 →
        let g := byteAt m.head 9 % 16
        let u := bump 0x0E 0 6 (t.modTwin fun t => { t with taken := t.taken ||| g })
        exec (.dyingReceive m) s = .next ((twinnedPeals u).foldl (fun s p =>
          if (s.peal p).isOpen && (dRegionMask (s.peal p).desc &&& g) != 0 then voidPeal [10] false none true p s else s) u)))) ∧
  (∀ s : State,
    let joined : Prop := ∃ p ∈ twinnedPeals s, (s.peal p).joined = true
    (s.twin.st = .paired → exec .heartbeatLoss s = .next (tryQuorum (voidTwinned true (pairTo .orphan s)))) ∧
    (s.twin.st = .syncing → joined → exec .heartbeatLoss s = .next (tryQuorum (voidTwinned true (pairTo .orphan s)))) ∧
    (s.twin.st = .syncing → ¬joined → exec .heartbeatLoss s = .next (((twinnedPeals s).filter fun p => (s.peal p).heldRebuild).foldl
      (fun s p => tryOpen p (s.modPeal p fun q => { q with heldRebuild := false })) (pairTo .solo s))) ∧
    (s.twin.st = .takeover →
      let t := if s.twin.isNew = true ∨ s.twin.rejoin = true then s.spine.shards.keys.foldl (fun s k =>
          if shTwinned (s.shard k).desc && !((s.shard k).st == .bound && (s.peal (s.shard k).peal).joined) then loseShard k s else s) s else s
      let t := t.modTwin fun t => { t with tookOver := true, taken := 15 }
      let t := (twinnedPeals t).foldl (fun s p => s.modPeal p fun q => { q with joined := false, heldRebuild := false }) t
      let t := trySealAll (pairTo .solo (bump 0x0E 0 6 t))
      exec .homesReassigned s = .next ((twinnedPeals t).foldl (fun s p => tryOpen p s) t)))

/-- Rounds across the pair: a ROUND_CTL OPEN is kept as the twin's readiness for its round and step and lets a round that waits for it open (a peal that
re-joins takes its round and step from it), VOID voids the round it names, ROLLBACK rolls an update back and COMMIT commits; a MIRROR_ROW lands in the
staging bank of the position; both chips' digests are sent and compared and a verdict is applied; digests that do not come void with cause 9; ACK frees
what it covers, and a cell not acknowledged goes again while the pair state uses its message. -/
def Obligations.TwinRoundsTakeEffect : Prop :=
  (∀ (s : State) (m : TwinMsg),
    (let p := le m.head 0 2
     let pl := s.peal p
     let t := takeTwin 0 m s
     let round := byteAt m.head 3
     let step := le m.head 8 8
     twinOk 0x04 m = true → twinPeal t p m.tag = true →
      (byteAt m.head 2 = 0 →
        let u := t.modPeal p fun q => { q with twinReady := some (round, step, le m.head 16 4) }
        (pl.st = .armed ∧ pl.isOpen = false ∧ pl.waiting = true →
          exec (.roundCtlReceive m) s = .next (tryOpen p (if pl.rejoins = true then u.modPeal p fun q => { q with round := round, step := step } else u))) ∧
        (¬(pl.st = .armed ∧ pl.isOpen = false ∧ pl.waiting = true) → exec (.roundCtlReceive m) s = .next u)) ∧
      (byteAt m.head 2 = 1 →
        (roundLive pl = true → pl.round = round → exec (.roundCtlReceive m) s =
          .next (voidPeal [byteAt m.head 4] (byteAt m.head 5 % 2 == 1) none true p (if byteAt m.head 4 = 8 then recheckSpots p t else t))) ∧
        (roundLive pl = false ∨ pl.round ≠ round → exec (.roundCtlReceive m) s = .next t)) ∧
      (byteAt m.head 2 = 2 →
        (rollbackOk t p step = true → exec (.roundCtlReceive m) s = .next (rollback p true t)) ∧
        (rollbackOk t p step = false → exec (.roundCtlReceive m) s = .next t)) ∧
      (byteAt m.head 2 = 3 → exec (.roundCtlReceive m) s = .next (tryOpen p (t.modPeal p fun q => { q with twinCommit := some step })))) ∧
    (let p := le m.head 0 2
     let d := (s.peal p).desc
     let x := le m.head 4 4
     let t := takeTwin 2 m s
     twinOk 0x08 m = true → twinPeal s p m.tag = true → isUpdate d = true → (s.peal p).round = byteAt m.head 2 → x < dStepCells d → (s.peal p).isOpen = true →
      isHome t (s.peal p) (chunkOf d x) = false →
      exec (.mirrorRowReceive m) s = .next ((sliceStore (dShard d) (nBank (t.shard (dShard d))) x 0 (fit (8 * elems d) m.data ++ (m.head.drop 8).take 4) t).modPeal p fun q =>
        { q with landed := insertNat x q.landed })) ∧
    (let us : Tbl W64 := (List.range (le m.head 20 4)).map fun i => (le m.head 16 4 + i, BitVec.ofNat 64 (le m.data (8 * i) 8))
     twinOk 0x09 m = true → exec (.digestsReceive m) s =
      .next (compareDigests (le m.head 0 2) ((takeTwin 1 m s).modTwin fun t => { t with theirs := t.theirs.put (le m.head 0 2) ⟨le m.head 8 8, us⟩ }))) ∧
    (twinOk 0x05 m = true →
      exec (.verdictReceive m) s = .next (applyVerdict (le m.head 0 2) (le m.head 8 8) (byteAt m.head 2 == 0) (le m.head 16 4) (takeTwin 0 m s))) ∧
    (let ack (v : Nat) : Nat := le m.head (4 * v) 4
     twinOk 0x06 m = true →
      exec (.twinAckReceive m) s = .next (trySealAll (((takeTwin 5 m s).modTwin fun t => { t with unacked := t.unacked.filter fun u => !ackCovers (ack u.vc) u.tseq }).modSpine fun x =>
        { x with homes := x.homes.map fun h => (h.1, { h.2 with recs := h.2.recs.map fun r => (r.1, { r.2 with uncopied := r.2.uncopied.filter fun u => !ackCovers (ack 1) u.2 }) }) })))) ∧
  (∀ (s : State) (k p : Nat), boundPeal s k = some p → pairedFor s (s.peal p) = true →
    ((s.peal p).isOpen = true → stepEndsDone s (s.peal p) = true → s.twin.mine.look? k = none →
      let sd := (s.shard k).desc
      let us := (List.range (unitCount sd)).map fun u => (u, unitDigest s k (nBank (s.shard k)) u)
      exec (.digestsSend k) s = .next (compareDigests k ((sendTwin 0x09 1 (shTag sd) (toLE 2 k ++ zeros 6 ++ toLE 8 (s.peal p).step ++ toLE 4 0 ++ toLE 4 us.length)
        ((us.map fun u => toLE 8 u.2.toNat).flatten) (bumpN 0x0E 0 2 us.length s)).modTwin fun t => { t with mine := t.mine.put k ⟨(s.peal p).step, us⟩ }))) ∧
    ((s.twin.mine.look? k).isSome = true → s.twin.theirs.look? k = none → (s.peal p).agreed = false → exec (.digestsMissing k) s = .next (voidFor 9 p s))) ∧
  (∀ (s : State) (vc : Nat) (seq : BitVec 32),
    let uses : Prop := s.twin.st = .syncing ∨ s.twin.st = .paired ∨ (s.twin.st ≠ .solo ∧ (vc = 0 ∨ vc = 5))
    (∀ u, (s.twin.unacked.find? fun u => u.vc == vc && u.tseq == seq) = some u → uses → exec (.twinResend vc seq) s = .next (sprayTwin u.cell (bump 0x0E 0 5 s))) ∧
    (¬uses → exec (.twinResend vc seq) s = .next s))

/-- Rebuild and copies: ARM_CHECK decides a waiting PEAL_ARM or is answered and lets a peal join its survivor, copied slices are written (a repair clears
what it restores), COPY_CTL ABORT returns the shard to LOADING with the copied bank cleared and COPIED completes it, a slice request is answered from
this chip's copy, and a peal that did not join in REBUILD_HOLD_MS opens its round with the copy aborted. -/
def Obligations.RebuildCopiesTakeEffect : Prop :=
  ∀ (s : State) (m : TwinMsg) (q : Nat),
    (let p := le m.head 0 2 % 4096
     let pl := s.peal p
     let survives (s : State) : Prop := dTwinned pl.desc = true ∧ s.twin.st = .syncing ∧ s.twin.isNew = false ∧ pl.joined = false
     twinOk 0x07 m = true →
      (pl.armMbx ≠ [] → exec (.armCheckReceive m) s = .next (decideArm p (fit 64 m.head) (takeTwin 7 m s))) ∧
      (pl.armMbx = [] → ¬(survives s ∧ pl.isOpen = true) →
        let t := sendArmCheck p (takeTwin 7 m s)
        let joins : Prop := survives t ∧ armAgrees t p (fit 64 m.head) = true ∧ pl.st ≠ .retiring
        (joins → exec (.armCheckReceive m) s = .next (joinPeal p t)) ∧ (¬joins → exec (.armCheckReceive m) s = .next t)) ∧
      (pl.armMbx = [] → survives s → pl.isOpen = true → exec (.armCheckReceive m) s = .next s)) ∧
    (let t := takeTwin 4 m s
     let k := le m.head 0 2
     let d := (t.shard k).desc
     let x := le m.head 4 4
     let n := le m.head 8 4
     let b := m.data.take (n * sliceBytes d)
     twinOk 0x0C m = true → (m.data.drop (n * sliceBytes d)).all (· == 0) = true →
     (t.shard k).st ≠ .free → (t.shard k).st ≠ .lost → b.length = n * sliceBytes d → crc32c b = le m.head 12 4 → x + n ≤ shCells d →
      let u := sliceStore k (byteAt m.head 2 % 2) x 0 b t
      (byteAt m.head 3 = 0 → t.twin.st = .syncing → t.twin.rebuild = false →
        exec (.copyDataReceive m) s = .next (u.modTwin fun t => { t with moved := t.moved + b.length })) ∧
      (byteAt m.head 3 ≠ 0 →
        let v := u.modShard k fun sh => { sh with badSlices := sh.badSlices.filter fun y => !(y.1 == byteAt m.head 2 % 2 && decide (x ≤ y.2) && decide (y.2 < x + n)) }
        (∀ p, boundPeal v k = some p → exec (.copyDataReceive m) s = .next (tryOpen p v)) ∧
        (boundPeal v k = none → exec (.copyDataReceive m) s = .next v))) ∧
    (let t := takeTwin 0 m s
     let k := le m.head 0 2
     let sh := t.shard k
     let bank := byteAt m.head 3 % 2
     let named : Prop := ∃ e ∈ t.peals, e.2.st ≠ .free ∧ isUpdate e.2.desc = true ∧ dShard e.2.desc = k
     twinOk 0x0D m = true → sh.st ≠ .free → sh.st ≠ .lost → t.twin.st = .syncing → t.twin.rebuild = false →
      (byteAt m.head 2 = 2 → ¬(sh.st = .bound ∧ (t.peal sh.peal).joined = true) →
        exec (.copyCtlReceive m) s = .next (clearBank k bank (t.modShard k fun y => { y with st := .loading, copied := false }))) ∧
      (byteAt m.head 2 = 3 → ∀ st, (named → st = .bound) → (¬named → st = .ready) → exec (.copyCtlReceive m) s = .next (t.modShard k fun y => { y with
        st := st, live := bank, copied := true, pending := false, committed := false
        step := BitVec.ofNat 64 (le m.head 8 8), train := BitVec.ofNat 64 (le m.head 16 8) })) ∧
      (byteAt m.head 2 < 2 → exec (.copyCtlReceive m) s = .next t)) ∧
    (let t := takeTwin 4 m s
     let k := le m.head 0 2
     twinOk 0x0E m = true → (t.shard k).st ≠ .free → (t.shard k).st ≠ .lost →
      exec (.sliceReqReceive m) s = .next (((List.range (le m.head 8 4)).filter fun i => decide (le m.head 4 4 + i < shCells (t.shard k).desc)).foldl
        (fun s i => sendCopyData k (byteAt m.head 2 % 2) 1 (le m.head 4 4 + i) s) t)) ∧
    (∀ c, s.twin.copying = some c → c.peal = q → (s.peal q).joined = false → (s.peal q).heldRebuild = true →
      let t := match c.shard with | some k => sendCopyCtl k 2 s | none => s
      exec (.rebuildHoldExpiry q) s = .next (openRound q ((t.modTwin fun t => { t with copying := none }).modPeal q fun y => { y with heldRebuild := false })))

/-- Probes and FENCE: a Welt port sends PROBE with the next sequence number, answers one with PROBE_ECHO and measures by an echo of a stamp it kept,
counting a late one; a DAMPED or FENCED port announces its scope, state and unit; a FENCE of a neighbour not UP takes the port to CHECK; a leaf's
report on the twin is kept while it says so and counts toward the quorum for 10 ms. -/
def Obligations.ProbesAndFencesAct : Prop :=
  ∀ (s : State) (wp p : Nat) (m : TwinMsg) (stamp : BitVec 80) (c : Cell) (chip : BitVec 64),
    (wp < 4 → let w := weltPort wp
      (((s.port w).st = .check ∨ (s.port w).st = .up) →
        let x := nextTseq w 1 s
        exec (.probeSend wp) s = .next (sendLinkCell w (linkTwin x.2 0x0F (zeros 10 ++ toLE 2 x.1)) x.2)) ∧
      (timingState (s.port w).st = true → m.tmsg = 0x0F → twinOk 0x0F m = true →
        exec (.probeReceive wp m stamp) s = .next (sendLinkCell w (linkTwin s 0x10 (zeros 10 ++ toLE 10 stamp.toNat ++ toLE 2 (le m.head 10 2))) s)) ∧
      (timingState (s.port w).st = true → m.tmsg = 0x10 → twinOk 0x10 m = true →
        let x := takeStamp w (le m.head 20 2) s
        (x.1 = none → exec (.probeEchoReceive wp m stamp) s = .next (bump 0x20 (portEntry w) 8 x.2)) ∧
        (∀ t1, x.1 = some t1 → exec (.probeEchoReceive wp m stamp) s = .next (exchange w t1 (le m.head 10 10) (le m.head 0 10) stamp.toNat x.2).2.2)) ∧
      (twinOk 0x11 m = true → (s.port w).st = .up → byteAt m.head 1 ≠ 4 → exec (.weltFenceReceive wp m) s = .next (enter w .check 13 s)) ∧
      (twinOk 0x11 m = true → byteAt m.head 1 = 4 → exec (.weltFenceReceive wp m) s = .next s)) ∧
    (s.hasPort p = true → ((s.port p).st = .damped ∨ (s.port p).st = .fenced) →
      let f := fenceScope s p
      (isWelt p = true → exec (.fenceSend p) s = .next (sendLinkCell p (linkTwin s 0x11 (toLE 1 ((p - 1024) / 8) ++ toLE 1 (s.port p).st.code ++ toLE 1 f.1 ++ zeros 1
        ++ toLE 1 f.2.1 ++ toLE 1 f.2.2 ++ zeros 2 ++ toLE 8 s.hubId.toNat)) s)) ∧
      (isWelt p = false → exec (.fenceSend p) s = .next (sendLinkCell p (linkCell s tFence (place f.1 56 3 + place (s.port p).st.code 53 3 + place p 43 10)
        (toLE 8 s.hubId.toNat ++ zeros 12 ++ toLE 1 f.2.1 ++ toLE 1 f.2.2)) s))) ∧
    (isWelt p = false → (s.port p).st = .up → c.crcOk = true → c.typ = tFence → fenceOk c = true →
      (c.f 56 3 < 4 → exec (.fenceCellReceive p c) s = .next (if c.f 53 3 = 4 then s else enter p .check 13 s)) ∧
      (4 ≤ c.f 56 3 →
        let sender := le c.payload 0 8
        let fits := portRole s p == 0 && (planCode s p == 0 || planCode s p == 6)
          && sender == (match planRec s p with | some r => r.peerChip.toNat | none => 0) && s.fabric.plan.twinChip != 0 && le c.payload 8 8 == s.fabric.plan.twinChip.toNat
        (fits = true → byteAt c.payload 16 = 1 → 1 ≤ byteAt c.payload 17 →
          exec (.fenceCellReceive p c) s = .next (tryQuorum (s.modTwin fun t => { t with reports := t.reports.put sender s.now }))) ∧
        (fits = true → ¬(byteAt c.payload 16 = 1 ∧ 1 ≤ byteAt c.payload 17) → 1 ≤ byteAt c.payload 18 →
          exec (.fenceCellReceive p c) s = .next (s.modTwin fun t => { t with reports := t.reports.del sender })) ∧
        (fits = false → exec (.fenceCellReceive p c) s = .next (bump 0x01 0 3 s)))) ∧
    exec (.leafReportExpiry chip) s = .next (s.modTwin fun t => { t with reports := t.reports.del chip.toNat })

/-- LPDDR channels: a scrubbed error of a serving channel is counted under its kind and has its effect, a corrected one toward its frame; of a read, link
ECC corrects a single-bit error and has an uncorrectable one read again at most twice, both counted, and inline ECC then judges the data; tracking that
succeeds clears the failures and the second failure in a row retires the channel; MR4 sets the multiplier of the package's four channels. -/
def Obligations.MemoryChannelsAct : Prop :=
  ∀ (s : State) (c f burst p code mult temp : Nat) (tgt : UeTarget) (ue : MemUe),
    (c < 128 → burst < 64 → chanLive s c = true →
      exec (.patrolScrub c f burst .clean tgt) s = .next s ∧
      exec (.patrolScrub c f burst .corrected tgt) s = .next (ceFrame c f tgt (bumpChan c 4 1 s)) ∧
      exec (.patrolScrub c f burst .uncorrectable tgt) s = .next (ueHandle c f tgt false (bumpChan c 5 1 s)) ∧
      exec (.patrolScrub c f burst .poisoned tgt) s = .next (ueHandle c f tgt true (bumpChan c 6 1 s))) ∧
    (ue.channel < 128 → chanLive s ue.channel = true →
      let h := ue.channel
      let n := (ue.link.takeWhile (· == .uncorrectable)).length
      let t := if n ≤ 2 ∧ ue.link[n]? = some .single then bumpChan h 2 1 s else s
      let t := if n = 0 then t else bumpChan h 3 (min 2 n) t
      exec (.memoryUe ue) s = .next (match ue.ecc with
        | .clean => t
        | .corrected => ceFrame h ue.frame ue.target (bumpChan h 0 1 t)
        | .uncorrectable => ueHandle h ue.frame ue.target false (bumpChan h 1 1 t)
        | .poisoned => ueHandle h ue.frame ue.target true (bumpChan h 6 1 t))) ∧
    (c < 128 → chanServes s c = true →
      (∃ ns, ns ≤ 400 ∧ exec (.dqsTracking c true) s = .next (bumpChan c 21 ns ({ s with free := s.free + 1 }.modChan c fun x => { x with trackBad := 0 }))) ∧
      (let t := s.modChan c fun x => { x with trackBad := x.trackBad + 1 }
       exec (.dqsTracking c false) s = .next (if 2 ≤ (t.chan c).trackBad then retireChan c 4 3 t else t))) ∧
    (p < 32 →
      let m := if 105 < temp then 4 else max mult (thermalMult (s.lastBody 4) temp)
      let t := [0, 1, 2, 3].foldl (fun s k => setMult (4 * p + k) code m s) s
      exec (.mr4Read p code mult temp) s = .next (if 105 < temp then postEvent 0x3008 ([BitVec.ofNat 8 p, 0] ++ toLE 2 temp) t else t))

/-! Circuits and time (chapters 12, 13). -/

/-- Circuit ports: a partial stash record closes, the cell at the stash writer enters once a record is free; before an edge that does not continue the
circuit release and resends stop and the notice goes out; a notice more than 100 ns off is counted and reported; the edge begins the next slot or ends
the schedule, an armed port with a disarm waiting is disarmed; the settled switch trains WARM or FULL; a slot not UP at its limit and FULL training at
its deadline fail. -/
def Obligations.CircuitEdgesTakeEffect : Prop :=
  ∀ (s : State) (p g : Nat) (cell : Cell),
    let c := s.circOf p
    let q := c.queues.look g {}
    (q.fill ≠ 0 → exec (.stashRecordWrite p g) s = .next (recordServed true p g q.recNo (s.modCirc p fun c => { c with queues := c.queues.put g { q with fill := 0, recNo := q.recNo + 1 } }))) ∧
    (q.fill = 0 → exec (.stashRecordWrite p g) s = .next s) ∧
    (∀ k b rest t, c.writer = (k, b) :: rest → stashTake s p k b = some t →
      exec (.stashWriterWait p) s = .next (bumpCirc p 11 (t.now - c.writerAt) (t.modCirc p fun c => { c with writer := rest, writerAt := t.now }))) ∧
    (c.armed = true → nextContinues c = false →
      exec (.edgeReleaseStop p) s = .next (s.modCirc p fun c => { c with release := false }) ∧
      exec (.edgeResendStop p) s = .next (s.modCirc p fun c => { c with resend := false }) ∧
      (∀ sc k cyc x, (s.port p).st = .up → nextSlot c = some (sc, k, cyc) → sc.slots[k]? = some x →
        exec (.circuitNoticeSend p) s = .next (sendLinkCell p (noticeCell s p k cyc sc x) s))) ∧
    ((s.port p).st = .up → cell.crcOk = true → cell.typ = tCircuit → c.armed = true → zeroAt cell.payload 24 40 = true →
      let skew : Int := (le cell.payload 0 8 : Int) - (c.edge : Int)
      exec (.circuitNoticeReceive p cell) s = .next (if 100 < skew.natAbs then postEvent 0x1005 (toLE 2 p ++ zeros 2 ++ toLE 8 (twos skew 64)) (bumpCirc p 5 1 s) else s)) ∧
    (c.armed = true → c.disarm = true → exec (.slotEdge p) s = .next (disarmNow p (goDark p s))) ∧
    (c.armed = true → c.disarm = false → nextSlot c = none →
      let t := (goDark p s).modCirc p fun y => { y with
        ended := true, started := true, release := false, failed := false, edge := match y.succ with | some su => su.start | none => y.edge }
      exec (.slotEdge p) s = .next (if c.succ.isNone then loseAll p t else t)) ∧
    (∀ sc k cyc x, c.armed = true → c.disarm = false → nextSlot c = some (sc, k, cyc) → sc.slots[k]? = some x →
      let idle := match curSlot c with | some a => a.dark && x.dark | none => false
      exec (.slotEdge p) s = .next (beginSlot p sc k cyc (nextContinues c) x (if nextContinues c || idle then s else goDark p s))) ∧
    (∀ x, curSlot c = some x → c.armed = true → x.dark = false → c.failed = false →
      (c.suspended = false → (s.port p).st = .down → (s.port p).enabled = true →
        ((lanesOf s p).all (eqHas s p) = true → exec (.switchSettled p) s = .next (startSeq p true (enter p .training 1 s))) ∧
        ((lanesOf s p).all (eqHas s p) = false →
          exec (.switchSettled p) s = .next (startSeq p false (enter p .training 1 (bumpCirc p 4 1 (s.modCirc p fun c => { c with full := true })))))) ∧
      (c.full = false → c.opened = false → c.suspended = false → (s.port p).st ≠ .fenced → (s.port p).st ≠ .damped →
        exec (.relockLimitExpiry p) s = .next (failSlot p 1 0 (enter p .down 3 s))) ∧
      (c.full = true → (s.port p).st = .training → exec (.fullTrainDeadline p) s = .next (failSlot p 2 0 (enter p .down 3 s))))

/-- Time messages on a fabric port: a good ANNOUNCE is kept and the source chosen again, its absence takes it away; a REQ is answered with the receive
stamp, a RESP that matches a kept stamp gives an offset that steers the clock where the port is the source; each is sent with the next sequence
number. -/
def Obligations.TimingCellsTakeEffect : Prop :=
  ∀ (s : State) (p : Nat) (c : Cell) (stamp : BitVec 80),
    (isWelt p = false → timingState (s.port p).st = true →
      exec (.announceSend p) s = .next (sendTiming p 0 (toLE 8 (gmNow s).id.toNat ++ toLE 1 (gmNow s).prio ++ toLE 1 (gmNow s).source ++ toLE 1 (gmNow s).steps
        ++ toLE 1 s.time.st.code ++ toLE 8 (gmNow s).parent.toNat ++ toLE 8 s.hubId.toNat) s)) ∧
    (isWelt p = false → ((s.port p).st = .check ∨ (s.port p).st = .up) → exec (.timingReqSend p) s = .next (sendTiming p 1 [] s)) ∧
    (takesTiming s p c 0 = true → announceOk c.payload = true →
      let b := c.payload
      let a : Announce := { gm := BitVec.ofNat 64 (le b 0 8), prio := byteAt b 8, source := byteAt b 9, steps := byteAt b 10, tstate := byteAt b 11, parent := BitVec.ofNat 64 (le b 12 8), chip := BitVec.ofNat 64 (le b 20 8), at_ := s.now }
      exec (.announceReceive p c) s = .next (reselect (s.modPort p fun q => { q with ann := some a }))) ∧
    exec (.announceTimeout p) s = .next (reselect (s.modPort p fun q => { q with ann := none })) ∧
    (takesTiming s p c 1 = true → zeroAt c.payload 10 54 = true →
      exec (.timingReqReceive p c stamp) s = .next (sendTiming p 2 (zeros 10 ++ toLE 10 stamp.toNat ++ toLE 2 (c.f 40 16)) s)) ∧
    (takesTiming s p c 2 = true → zeroAt c.payload 22 42 = true →
      let x := takeStamp p (le c.payload 20 2) s
      (x.1 = none → exec (.timingRespReceive p c stamp) s = .next (bumpTime 2 x.2)) ∧
      (∀ t1, x.1 = some t1 →
        let e := exchange p t1 (le c.payload 10 10) (le c.payload 0 10) stamp.toNat (bumpTime 0 x.2)
        (e.2.1 = false → exec (.timingRespReceive p c stamp) s = .next (bumpTime 1 e.2.2)) ∧
        (e.2.1 = true → exec (.timingRespReceive p c stamp) s =
          .next (if e.2.2.time.src = 1 ∧ e.2.2.time.port = some p then measure e.1 e.2.2.now e.2.2 else e.2.2))))

/-- Time references: a PPS edge that is no glitch is kept and, on the PPS source with a time of day, measured; its loss and a lost 1588 master choose the
source again; the master's messages are kept and measured at each Sync; HOLDOVER that lasts too long drifts; PPS_OUT rises only while locked. -/
def Obligations.TimeReferencesTakeEffect : Prop :=
  ∀ (s : State) (f prio : Nat) (id : W64) (t1 t2 : BitVec 80),
    let mine : Bool := match s.time.ptp with | some (m, _) => m == id | none => false
    let glitch : Bool := match s.time.ppsAt with | some a => decide (4000 < (((f : Int) - a) - 4000000000).natAbs) | none => false
    (glitch = true → exec (.ppsInEdge f) s = .next (bumpTime 6 s)) ∧
    (glitch = false →
      let tod : Option Nat := if s.time.tod ≠ 0 ∧ bit s.time.mask 1 then some s.time.tod else match s.time.ppsTod, s.time.ppsAt with | some x, some _ => some (x + 1000000000) | _, _ => none
      let t := reselect (s.modTime fun t => { t with ppsAt := some f, ppsTod := tod, ppsOk := true, tod := 0 })
      (t.time.src ≠ 2 → exec (.ppsInEdge f) s = .next t) ∧
      (tod = none → exec (.ppsInEdge f) s = .next t) ∧
      (∀ x, t.time.src = 2 → tod = some x →
        exec (.ppsInEdge f) s = .next (measure (2 * stampDiff (x * 65536) (ntAtQ t.time f s.time.inDelay)) (f / 4) t))) ∧
    exec .ppsInLoss s = .next (reselect (s.modTime fun t => { t with ppsAt := none, ppsTod := none, ppsOk := false })) ∧
    exec .ptpMasterLoss s = .next (reselect (s.modTime fun t => { t with ptp := none, ptpSync := none, ptpDelay := none })) ∧
    exec (.ptpMessage .other) s = .next s ∧
    (mine = true → exec (.ptpMessage (.announce id prio true)) s = .next (s.modTime fun t => { t with ptp := some (id, prio) })) ∧
    (mine = false → exec (.ptpMessage (.announce id prio true)) s = .next (reselect (s.modTime fun t => { t with
      ptp := some (id, prio), ptpSync := none, ptpDelay := none, lastAt := if s.time.src = 3 then none else t.lastAt }))) ∧
    (mine = true →
      let u := s.modTime fun t => { t with ptpSync := some (t1.toNat, t2.toNat) }
      (∀ d, s.time.ptpDelay = some d → s.time.src = 3 → exec (.ptpMessage (.sync id t1 t2)) s = .next (measure (2 * stampDiff t1.toNat t2.toNat + d) u.now u)) ∧
      (s.time.ptpDelay = none → exec (.ptpMessage (.sync id t1 t2)) s = .next u) ∧
      (∀ a b, s.time.ptpSync = some (a, b) → exec (.ptpMessage (.delayResp id t1 t2)) s = .next (s.modTime fun t => { t with
        ptpDelay := some (stampDiff b a + stampDiff t2.toNat t1.toNat) }))) ∧
    (s.time.st = .holdover → exec .holdoverExpiry s = .next (circuitsLoseLock (timeTo .drifting s))) ∧
    exec .ppsOutEdge s = .next (if timeLocked s then s.modTime fun t => { t with ppsOut := true } else s) ∧
    exec .ppsOutEnd s = .next (s.modTime fun t => { t with ppsOut := false })

/-! The control plane and the health of the dies (chapters 15, 16, 17, 18). -/

/-- Control cores: a miss or a crash takes the core out and counts, the last restart brings the control plane back, a warden mismatch restarts it and the
second failed restart in a second damps the chip, as does uncorrectable state of the hub; an activation ends with its answer at the restart, at the
handover's cut, or at its timeout; a trial that lasts commits, a SerDes fault in its trial reverts. -/
def Obligations.ControlCoresTakeEffect : Prop :=
  ∀ (s : State) (core : Nat) (loc : HubLoc),
    exec (.coreWatchdogMiss core) s = .next (crashCore core s) ∧ exec (.coreCrash core) s = .next (crashCore core s) ∧
    (s.ctl.crashed.contains core = true →
      let t := s.modCtl fun c => { c with crashed := c.crashed.erase core }
      exec (.coreRestartComplete core) s = .next (if coresDown t then t else resume t)) ∧
    (s.chip.inReset = false →
      let t := s.modCtl fun c => { c with wardenN := c.wardenN + 1, lmsPtr := none }
      let t := postEvent 0x4011 (toLE 4 t.ctl.wardenN) t
      exec (.wardenCompareMismatch true) s = .next t ∧
      (let ts := (t.ctl.wardenAt.filter fun x => decide (t.now ≤ x + 1000000000)) ++ [t.now]
       let u := t.modCtl fun c => { c with wardenAt := ts }
       exec (.wardenCompareMismatch false) s = .next (if 2 ≤ ts.length && u.chip.st != .boot then dampChip 14 u else u))) ∧
    (s.chip.inReset = false →
      let t := bump 0x01 0 11 s
      exec (.uncorrectableHubState loc) s = .next (if t.chip.st = .boot then t else dampChip 13 t)) ∧
    (∀ a, s.ctl.act = some a → a.handover = false →
      let t := runSelected 0 (s.modCtl fun c => { c with act := none, trialAt := s.now })
      let t := answerOp 0xC1 a.mbx.val (.ok (activateBody a.before 0)) (if inTrial t 0 then migrate t else t)
      exec .pauseRestartComplete s = .next (if coresDown t then t else resume t)) ∧
    (∀ a, s.ctl.act = some a → a.handover = true →
      (coresDown s = false → exec .handoverCut s = .next (answerOp 0xC1 a.mbx.val (.ok (activateBody a.before 1)) ((migrate (runSelected 0 (selectStaged 0 s))).modCtl fun c => { c with act := none }))) ∧
      (let t := s.modCtl fun c => { c with act := none, safeTrial := false }
       exec .handoverTimeout s = .next (answerOp 0xC1 a.mbx.val { status := eAborted, detail := t.ctl.restarts.toNat % 65536 } t))) ∧
    exec .trialExpiry s = .next ([0, 1, 2, 4].foldl (fun s p => if inTrial s p && (p != 0 || !coresDown s) then commitPart p s else s) s) ∧
    (inTrial s 2 = true → exec .serdesFirmwareFault s = .next (revertPart 2 s))

/-- Rates, voltage and temperature: the index of a region is its slowest monitor, D_r is the least of the index and the curves, an excursion counts and
reports, the setpoint steps where every rail takes it, a sample is kept, warns from 115 °C, clears below 110 °C and trips from 125 °C. -/
def Obligations.MonitorsTakeEffect : Prop :=
  ∀ (s : State) (r mon rate : Nat) (rates : List Nat) (acks : AvsAcks) (tj : Int),
    (r < 4 → rates.length = 16 →
      ∃ t, exec (.throughputIndexRefresh r rates) s = .next t ∧ t = { s with chip := { s.chip with ti := t.chip.ti, monitors := t.chip.monitors } } ∧
        t.chip.ti = setNth 4 s.chip.ti r (minOf (rates.headD 0) rates) ∧ (∀ k, k < 16 → t.chip.monitors.look (16 * r + k) 0 = nth rates k)) ∧
    (s.chip.inReset = false → exec .derateCompute s = .next (s.modChip fun c => { c with dr := (List.range 4).map (derated s) })) ∧
    (s.chip.inReset = false → r < 4 → mon < 16 → 20 * rate < 19 * 1024 → exec (.delayExcursion r mon rate) s =
      .next (postEvent 0x3009 ([BitVec.ofNat 8 r, BitVec.ofNat 8 mon] ++ toLE 2 rate) (ledgerAdd r 0x0C (toLE 1 mon ++ zeros 1 ++ toLE 2 rate) (bump 0x05 r 7 s)))) ∧
    (s.chip.inReset = false → s.chip.st ≠ .boot → s.chip.avsStop = false → (s.lasts.look? 5).isSome = true →
      let new := nextSetpoint s
      let ok := acks.fails.length == 5 && acks.fails.all fun f => match f with | some n => decide (n ≤ 3) | none => false
      ((s.chip.setpoint ≤ new ∨ mayNotLower s = false) → (s.chip.stepAt = 0 ∨ s.chip.stepAt + 10000 ≤ s.now) →
        (new ≠ s.chip.setpoint → ok = false → exec (.setpointStep acks) s = .next (s.modChip fun c => { c with avsStop := true })) ∧
        (new = s.chip.setpoint → exec (.setpointStep acks) s = .next (s.modChip fun c => { c with atTarget := c.atTarget || new == le (s.lastBody 5) 0 2 })) ∧
        (new ≠ s.chip.setpoint → ok = true → exec (.setpointStep acks) s =
          .next (s.modChip fun c => { c with setpoint := new, stepAt := s.now, atTarget := c.atTarget || new == le (s.lastBody 5) 0 2 }))) ∧
      (new < s.chip.setpoint → mayNotLower s = true → exec (.setpointStep acks) s = .next s)) ∧
    (s.chip.inReset = false → r < 5 →
      let t := noteSample r tj (s.modChip fun c => { c with tj := (List.range 5).map fun d => if d = r then tj else c.tj.getD d 0 })
      (880 ≤ tj → tj < 920 → exec (.tjSample r tj) s = .next t) ∧
      (tj < 880 → exec (.tjSample r tj) s = .next (if t.chip.tjWarn.contains r then settle 9 (t.modChip fun c => { c with tjWarn := c.tjWarn.erase r }) else t)) ∧
      (let u := if t.chip.tjWarn.contains r then t
         else settle 7 ((ledgerAdd r 0x13 ([0, 0] ++ toLE 2 (twos tj 16)) (postEvent 0x4005 (thermData r tj) t)).modChip fun c => { c with tjWarn := insertNat r c.tjWarn })
       let v := (ledgerAdd r 0x13 ([1, 0] ++ toLE 2 (twos tj 16)) (postEvent 0x4006 (thermData r tj) u)).modChip fun c => { c with thermN := true }
       (920 ≤ tj → tj < 1000 → exec (.tjSample r tj) s = .next u) ∧
       (1000 ≤ tj → u.chip.thermN = false → exec (.tjSample r tj) s = .next (if v.chip.st = .boot then v else dampChip 12 v))))

/-- Records and passes: a pending LAST_CELLFMT takes effect with no tag admitted, a shadow pass marks what differs and the second read reports what still
does, a marker latches its die once nothing goes before it at its hub seam, the hourly, daily and flush commands write the ledger of their die. -/
def Obligations.RecordsAndPassesTakeEffect : Prop :=
  ∀ (s : State) (die seg : Nat) (eyes : List Nat),
    (∀ l h b, s.lasts.look? 7 = some l → l.pending = some (h, b) → s.fabric.tags = [] →
      exec .lastCellfmtActivate s = .next (writeBcr (fun f => { f with lastSel := setBit f.lastSel 6 (1 - lastBank f 7) }) (runLast 7 h b s))) ∧
    (s.host.shadow.enable = true →
      let gs := (shadowSegs s).filter fun g => !s.isLocked g
      (∀ g, (gs.find? fun g => s.dmaBad (s.host.shadow.addr + 4096 * g) 4096) = some g → exec .shadowPass s = .next (shadowStop g s)) ∧
      ((gs.find? fun g => s.dmaBad (s.host.shadow.addr + 4096 * g) 4096) = none → exec .shadowPass s = .next (s.modHost fun h => { h with
        shadow := { h.shadow with suspects := gs.filter fun g => (shadowDiff s g).isSome, drifted := [], unlocked := [] } }))) ∧
    (s.host.shadow.enable = true → s.host.shadow.suspects.contains seg = true →
      (s.dmaBad (s.host.shadow.addr + 4096 * seg) 4096 = true → exec (.shadowRecheck seg) s = .next (shadowStop seg s)) ∧
      (s.dmaBad (s.host.shadow.addr + 4096 * seg) 4096 = false →
        let t := s.modHost fun x => { x with shadow := { x.shadow with suspects := x.shadow.suspects.erase seg } }
        exec (.shadowRecheck seg) s = .next (match shadowDiff t seg with
          | some off => if t.isLocked seg = true ∨ s.host.shadow.unlocked.contains seg = true ∨ s.host.shadow.drifted.contains seg = true then t
            else postEvent 0x400A (toLE 8 off) (t.modHost fun x => { x with shadow := { x.shadow with drifted := x.shadow.drifted ++ [seg] } })
          | none => t))) ∧
    (die < 4 → hubTakes s s.sched.hub (.marker die) = true → exec (.freezeMarkerArrival die) s = .next (latch die s)) ∧
    (die < 4 → hubTakes s s.sched.hub (.marker die) = false → s.sched.hub.contains (.marker die) = false →
      ∀ z, s.logs.freeze = some z → (z.latched.any fun d => decide (d < 4) && d != die && !(silentDies s).contains d) = false →
      exec (.freezeMarkerArrival die) s = .next { s with sched := { s.sched with hub := s.sched.hub ++ [.marker die] } }) ∧
    (s.chip.inReset = false → die < 5 →
      exec (.ledgerFlush die) s = .next (s.modLedger die flushLedger) ∧
      (let t := ledgerAdd die 0x06 (histBytes (s.ledger die).voltHist) (ledgerAdd die 0x05 (histBytes (s.ledger die).tempHist) s)
       exec (.ledgerDaily die) s = .next (t.modLedger die fun l => { l with tempHist := [], voltHist := [] })) ∧
      (let now := hourCounts s die
       let d (i : Nat) := nth now i - (s.ledger die).lastHour.look i 0
       let t := s.modLedger die fun l => { l with hours := l.hours + 1, lastHour := (List.range 11).map fun i => (i, nth now i) }
       let t := ledgerAdd die 0x02 (((List.range 7).map fun i => toLE 4 (d i)).flatten) t
       let t := (eyeRecords t die eyes).foldl (fun s b => ledgerAdd die 0x03 b s) t
       let rates := (List.range 16).foldl (fun m k => m + (t.chip.monitors.look (16 * die + k) 0 % 4096) * 2 ^ (12 * k)) 0
       let t := if die < 4 then ledgerAdd die 0x04 (toLE 24 rates) t else t
       exec (.ledgerHourly die eyes) s = .next (ledgerAdd die 0x08 (((List.range 4).map fun i => toLE 4 (d (7 + i))).flatten) t)))

/-! Exact accumulation (chapter 07). -/

/-- A NaN or infinite input leaves the lane's integer as it was, moves the lane's state by the table of R201 and sets the row's NAN or INF bit; for SUMSQ
either infinity counts as +Inf. The table is commutative and associative. -/
def Obligations.SpecialInputsSetLaneStateAndFlags : Prop :=
  (∀ (r : Row) (d : BitVec 512) (sq : Bool) (anchor : Int) (c : Cell) (i st : Nat) (x : Elt),
    sums d = true → i < elems d → (cellElts d c)[i]? = some x → r.lane.getD i 0 = st →
    let t := r.accumulate d sq anchor c
    let squared := dOp d = 3 ∨ (dOp d = 4 ∧ sq = true)
    ((∀ n m e, x ≠ .fin n m e) → -(2 ^ (accW d - 1)) ≤ r.at i → r.at i < 2 ^ (accW d - 1) → t.at i = r.at i) ∧
    (x = .nan → t.lane.getD i 0 = 3 ∧ t.nan = true) ∧
    ((x = .inf false ∨ x = .inf true ∧ squared) → t.inf = true ∧
      (st = 0 → t.lane.getD i 0 = 1) ∧ (st = 1 → t.lane.getD i 0 = 1) ∧ (st = 2 → t.lane.getD i 0 = 3) ∧ (st = 3 → t.lane.getD i 0 = 3)) ∧
    (x = .inf true → ¬squared → t.inf = true ∧
      (st = 0 → t.lane.getD i 0 = 2) ∧ (st = 1 → t.lane.getD i 0 = 3) ∧ (st = 2 → t.lane.getD i 0 = 2) ∧ (st = 3 → t.lane.getD i 0 = 3))) ∧
  (∀ a b c, a < 4 → b < 4 → c < 4 → laneJoin a b = laneJoin b a ∧ laneJoin (laneJoin a b) c = laneJoin a (laneJoin b c))

/-- A row's LOSS rises by the finite inputs that are not zero and whose integer on the grid is zero; an input rounded but not lost counts nothing. -/
def Obligations.LossCountsTheInputsThatVanish : Prop :=
  ∀ (r : Row) (d : BitVec 512) (sq : Bool) (anchor : Int) (c : Cell), sums d = true →
    let xs := (cellElts d c).map fun x => if dOp d = 3 ∨ (dOp d = 4 ∧ sq = true) then x.square else x
    (r.accumulate d sq anchor c).loss = r.loss + (xs.filter fun x => match x with | .fin _ m _ => decide (m ≠ 0 ∧ (gridIn (accW d) anchor x).n = 0) | _ => false).length
end

