-- ==== Sys2Proof/Laws/Commands.lean ====
section
/-! SUPPORT. Laws/Commands.lean: what the shared operations of the commands answer: a served mailbox message and an issued instruction. -/
namespace Sys2Proof.Machine

/-- Counting changes the logs alone. -/
theorem bumpN_frame (sec ent idx n : Nat) (s : State) : ∃ l, bumpN sec ent idx n s = { s with logs := l } := by
  simp only [bumpN]
  split
  · exact ⟨_, rfl⟩
  · exact ⟨_, rfl⟩

/-- Counting an instruction's issue slots changes the logs alone. -/
theorem countOps_frame (op core : Nat) (w : IWord) (i : Inv) (s : State) : ∃ l, countOps op core w i s = { s with logs := l } :=
  bumpN_frame _ _ _ _ _

/-- An issued instruction has its effect once OPS_ISSUED has counted its slots. -/
theorem issue_eq {s : State} {core op : Nat} {w : IWord} {i : Inv} (h : Issues s core op w i) (f : Inv → State → State) :
    issue op core w s f = .next (f i (countOps op core w i s)) := by
  simp [issue, h.1, h.2.1, h.2.2]

/-- An instruction between registers leaves the changed invocation, one word on. -/
theorem regOp_eq {s : State} {core op : Nat} {w : IWord} {i : Inv} (h : Issues s core op w i) (f : Inv → Inv) :
    regOp op core w s f = .next (Leaves op core w i (f i).next s) := by
  simp only [regOp, issue_eq h]; rfl

theorem vecResult_eq (i : Inv) (w : IWord) (g : Nat → W32) : (i.setV w.d.toNat (i.lane? w.c g)).next = i.vecResult w g := by
  simp only [Inv.setV, Inv.next, Inv.vecResult, Inv.lane?, Inv.counts]
  congr 1
  apply List.ext_getElem <;> simp
  intro n h1
  by_cases h : n / 32 = w.d.toNat <;> by_cases k : i.acts w.c (n % 32) = true <;> simp [h, k]

theorem accResult_eq (i : Inv) (w : IWord) (g : Nat → ALane × Bool) :
    ({ i.setA w.d.toNat (i.lane? w.c fun l => (g l).1) with
        sat := i.sat || (List.range 32).any fun l => i.acts w.c l && (g l).2 } : Inv).next = i.accResult w g := by
  simp only [Inv.setA, Inv.next, Inv.accResult, Inv.lane?, Inv.counts]
  congr 1
  apply List.ext_getElem <;> simp
  intro n h1
  by_cases h : n / 32 = w.d.toNat % 4 <;> by_cases k : i.acts w.c (n % 32) = true <;> simp [h, k]

/-- A served message reaches its opcode's own rules with the mailbox rung. -/
theorem runMsg_eq {op : Nat} {m : Msg} {s : State} (h : Served op m s) (f : Bytes → State → Option Reply × State) :
    runMsg op m s f = match f (reqBody (ring op m s) m) (ring op m s) with
      | (some r, t) => .next (answer ⟨op, m, true⟩ r t)
      | (none, t) => .next (t.modMbx m.mbx.val fun x => { x with waiting := some ⟨op, m, true⟩ }) := by
  obtain ⟨h1, h2, h3, h4, h5, h6⟩ := h
  have look (t : Tbl Mailbox) (k : Nat) (x : Mailbox) : (t.put k x).look k {} = x := by
    unfold Tbl.look
    induction t with
    | nil => simp [Tbl.put, Tbl.look?]
    | cons e t ih =>
      obtain ⟨j, b⟩ := e
      simp only [Tbl.put]
      split
      · simp [Tbl.look?]
      · split
        · simp [Tbl.look?]
        · rename_i a b
          simp only [Tbl.look?]
          rw [if_neg (fun h => b h.symm)]
          exact ih
  have hr : (ring op m s).mbx m.mbx.val = { s.mbx m.mbx.val with busy := true, done := false, payload := putBytes (fit 4032 (s.mbx m.mbx.val).payload) 0 ((msgBytes op m).take 4032) } := by
    simp only [ring, State.modMbx, State.mbx, Tbl.upd, look]
  have hany : (((ring op m s).mbx m.mbx.val).any && ((ring op m s).mbx m.mbx.val).lastSeq == m.seqid) = false := by rw [hr]; exact h4
  have hheld : msgHeld (ring op m s) op m.mbx.val = false := h5
  unfold runMsg
  simp only [h1, h2, h3, hany, hheld, h6, Bool.not_true, Bool.or_self, Bool.false_eq_true, if_false]
  all_goals
    generalize f (reqBody (ring op m s) m) (ring op m s) = x
    obtain ⟨o, t⟩ := x
    cases o <;> rfl

/-- An accepted datagram is served with its SEQ kept. -/
theorem svcCommand_eq {cmd kind : Nat} {d : Dgram} {s : State} {x : Svc} (h : Accepted cmd kind d s x) (f : Nat → State → State) :
    svcCommand cmd kind d s f = .next (f d.session.toNat (svcIn d x s)) := by
  obtain ⟨h1, h2, h3, h4, h5, h6, h7⟩ := h
  unfold svcCommand
  have hb : (s.chip.st == CState.boot) = false := by simpa using h2
  have hq : decide (d.seq.toNat ≤ x.rxSeq) = false := by simpa using h7
  simp only [h1, hb, h3, h4, h5, h6, hq, Bool.not_true, Bool.or_self, Bool.false_eq_true, if_false, bne_self_eq_false]
  rfl

/-- Service checks that all pass. -/
theorem svcChecked_none {l : List (Option Nat)} {len : Bool} (hl : len = true) (h : firstOf l = none) (cmd n : Nat) (s : State) (f : State → State) :
    svcChecked cmd n len l s f = f s := by
  subst hl
  simp only [svcChecked, need, if_true, firstOf, h]

/-- Checks that all pass: OK with the body, and the effect. -/
theorem checked_none {l : List (Option Reply)} (h : firstOf l = none) (b : Bytes) (s t : State) : checked l b s t = (some (.ok b), t) := by
  simp only [checked, h]

/-- A check-list passes exactly when every check passes. -/
theorem firstOf_none {α : Type} (l : List (Option α)) : firstOf l = none ↔ ∀ x ∈ l, x = none := by
  induction l with
  | nil => simp [firstOf]
  | cons a t ih => cases a <;> simp [firstOf, ih]

theorem need_none {α : Type} (c : Bool) (a : α) : need c a = none ↔ c = true := by cases c <;> simp [need]

end Sys2Proof.Machine
end

