-- ==== Sys2Proof/Laws/Exec.lean ====
section
/-! SUPPORT. Laws/Exec.lean: what exec calls for each command, so that no proof unfolds the dispatch. -/
namespace Sys2Proof.Laws
open Sys2Proof.Machine

@[simp] theorem exec_hello {a0} {s} : exec (.hello a0) s = execHello a0 s := rfl
@[simp] theorem exec_goodbye {a0} {s} : exec (.goodbye a0) s = execGoodbye a0 s := rfl
@[simp] theorem exec_queryInfo {a0} {s} : exec (.queryInfo a0) s = execQueryInfo a0 s := rfl
@[simp] theorem exec_planLoad {a0} {s} : exec (.planLoad a0) s = execPlanLoad a0 s := rfl
@[simp] theorem exec_planStatus {a0} {s} : exec (.planStatus a0) s = execPlanStatus a0 s := rfl
@[simp] theorem exec_tableBegin {a0} {s} : exec (.tableBegin a0) s = execTableBegin a0 s := rfl
@[simp] theorem exec_tableCommit {a0} {s} : exec (.tableCommit a0) s = execTableCommit a0 s := rfl
@[simp] theorem exec_tableAbort {a0} {s} : exec (.tableAbort a0) s = execTableAbort a0 s := rfl
@[simp] theorem exec_tableAccessRead {a0} {s} : exec (.tableAccessRead a0) s = execTableAccessRead a0 s := rfl
@[simp] theorem exec_tableAccessWrite {a0} {s} : exec (.tableAccessWrite a0) s = execTableAccessWrite a0 s := rfl
@[simp] theorem exec_tableAccessLock {a0} {s} : exec (.tableAccessLock a0) s = execTableAccessLock a0 s := rfl
@[simp] theorem exec_tableAccessUnlock {a0} {s} : exec (.tableAccessUnlock a0) s = execTableAccessUnlock a0 s := rfl
@[simp] theorem exec_tableAccessDiscard {a0} {s} : exec (.tableAccessDiscard a0) s = execTableAccessDiscard a0 s := rfl
@[simp] theorem exec_portConfig {a0} {s} : exec (.portConfig a0) s = execPortConfig a0 s := rfl
@[simp] theorem exec_portConfigQosOnly {a0} {s} : exec (.portConfigQosOnly a0) s = execPortConfigQosOnly a0 s := rfl
@[simp] theorem exec_portConfigRemove {a0} {s} : exec (.portConfigRemove a0) s = execPortConfigRemove a0 s := rfl
@[simp] theorem exec_portFence {a0} {s} : exec (.portFence a0) s = execPortFence a0 s := rfl
@[simp] theorem exec_portUnfence {a0} {s} : exec (.portUnfence a0) s = execPortUnfence a0 s := rfl
@[simp] theorem exec_portDampDamp {a0} {s} : exec (.portDampDamp a0) s = execPortDampDamp a0 s := rfl
@[simp] theorem exec_portDampRelease {a0} {s} : exec (.portDampRelease a0) s = execPortDampRelease a0 s := rfl
@[simp] theorem exec_jobAdmit {a0} {s} : exec (.jobAdmit a0) s = execJobAdmit a0 s := rfl
@[simp] theorem exec_jobRetire {a0} {s} : exec (.jobRetire a0) s = execJobRetire a0 s := rfl
@[simp] theorem exec_pealAdmit {a0} {s} : exec (.pealAdmit a0) s = execPealAdmit a0 s := rfl
@[simp] theorem exec_pealArm {a0} {s} : exec (.pealArm a0) s = execPealArm a0 s := rfl
@[simp] theorem exec_pealRetire {a0} {s} : exec (.pealRetire a0) s = execPealRetire a0 s := rfl
@[simp] theorem exec_pealStatus {a0} {s} : exec (.pealStatus a0) s = execPealStatus a0 s := rfl
@[simp] theorem exec_pealVoid {a0} {s} : exec (.pealVoid a0) s = execPealVoid a0 s := rfl
@[simp] theorem exec_shardCreate {a0} {s} : exec (.shardCreate a0) s = execShardCreate a0 s := rfl
@[simp] theorem exec_stepParams {a0} {s} : exec (.stepParams a0) s = execStepParams a0 s := rfl
@[simp] theorem exec_stepCommitCommit {a0} {s} : exec (.stepCommitCommit a0) s = execStepCommitCommit a0 s := rfl
@[simp] theorem exec_stepCommitRollback {a0} {s} : exec (.stepCommitRollback a0) s = execStepCommitRollback a0 s := rfl
@[simp] theorem exec_shardExport {a0} {s} : exec (.shardExport a0) s = execShardExport a0 s := rfl
@[simp] theorem exec_shardImport {a0} {s} : exec (.shardImport a0) s = execShardImport a0 s := rfl
@[simp] theorem exec_twinPairPair {a0} {s} : exec (.twinPairPair a0) s = execTwinPairPair a0 s := rfl
@[simp] theorem exec_twinPairUnpair {a0} {s} : exec (.twinPairUnpair a0) s = execTwinPairUnpair a0 s := rfl
@[simp] theorem exec_twinStatus {a0} {s} : exec (.twinStatus a0) s = execTwinStatus a0 s := rfl
@[simp] theorem exec_takeoverGrant {a0} {s} : exec (.takeoverGrant a0) s = execTakeoverGrant a0 s := rfl
@[simp] theorem exec_twinRebuildStart {a0} {s} : exec (.twinRebuildStart a0) s = execTwinRebuildStart a0 s := rfl
@[simp] theorem exec_twinRebuildAbort {a0} {s} : exec (.twinRebuildAbort a0) s = execTwinRebuildAbort a0 s := rfl
@[simp] theorem exec_circuitScheduleLoad {a0} {s} : exec (.circuitScheduleLoad a0) s = execCircuitScheduleLoad a0 s := rfl
@[simp] theorem exec_circuitArmArm {a0} {s} : exec (.circuitArmArm a0) s = execCircuitArmArm a0 s := rfl
@[simp] theorem exec_circuitArmDisarm {a0} {s} : exec (.circuitArmDisarm a0) s = execCircuitArmDisarm a0 s := rfl
@[simp] theorem exec_timeSetSource {a0} {s} : exec (.timeSetSource a0) s = execTimeSetSource a0 s := rfl
@[simp] theorem exec_timeStatus {a0} {s} : exec (.timeStatus a0) s = execTimeStatus a0 s := rfl
@[simp] theorem exec_snapshot {a0} {s} : exec (.snapshot a0) s = execSnapshot a0 s := rfl
@[simp] theorem exec_healthRead {a0} {s} : exec (.healthRead a0) s = execHealthRead a0 s := rfl
@[simp] theorem exec_eventRead {a0} {s} : exec (.eventRead a0) s = execEventRead a0 s := rfl
@[simp] theorem exec_fwStageStatus {a0} {s} : exec (.fwStageStatus a0) s = execFwStageStatus a0 s := rfl
@[simp] theorem exec_fwActivate {a0} {s} : exec (.fwActivate a0) s = execFwActivate a0 s := rfl
@[simp] theorem exec_attest {a0} {s} : exec (.attest a0) s = execAttest a0 s := rfl
@[simp] theorem exec_lastLoad {a0} {s} : exec (.lastLoad a0) s = execLastLoad a0 s := rfl
@[simp] theorem exec_lastQuery {a0} {s} : exec (.lastQuery a0) s = execLastQuery a0 s := rfl
@[simp] theorem exec_shadowConfig {a0} {s} : exec (.shadowConfig a0) s = execShadowConfig a0 s := rfl
@[simp] theorem exec_messageReplay {a0} {s} : exec (.messageReplay a0) s = execMessageReplay a0 s := rfl
@[simp] theorem exec_mailboxOverrun {a0} {s} : exec (.mailboxOverrun a0) s = execMailboxOverrun a0 s := rfl
@[simp] theorem exec_eqHeadWrite {a0} {s} : exec (.eqHeadWrite a0) s = execEqHeadWrite a0 s := rfl
@[simp] theorem exec_registerWrite {a0} {a1} {s} : exec (.registerWrite a0 a1) s = execRegisterWrite a0 a1 s := rfl
@[simp] theorem exec_segmentLock {a0} {s} : exec (.segmentLock a0) s = execSegmentLock a0 s := rfl
@[simp] theorem exec_segmentUnlock {a0} {s} : exec (.segmentUnlock a0) s = execSegmentUnlock a0 s := rfl
@[simp] theorem exec_cxlMemWrite {a0} {a1} {a2} {s} : exec (.cxlMemWrite a0 a1 a2) s = execCxlMemWrite a0 a1 a2 s := rfl
@[simp] theorem exec_programCheckDone {a0} {s} : exec (.programCheckDone a0) s = execProgramCheckDone a0 s := rfl
@[simp] theorem exec_svcHello {a0} {s} : exec (.svcHello a0) s = execSvcHello a0 s := rfl
@[simp] theorem exec_svcStatus {a0} {s} : exec (.svcStatus a0) s = execSvcStatus a0 s := rfl
@[simp] theorem exec_stageBegin {a0} {s} : exec (.stageBegin a0) s = execStageBegin a0 s := rfl
@[simp] theorem exec_stageData {a0} {s} : exec (.stageData a0) s = execStageData a0 s := rfl
@[simp] theorem exec_stageEnd {a0} {s} : exec (.stageEnd a0) s = execStageEnd a0 s := rfl
@[simp] theorem exec_stageAbort {a0} {s} : exec (.stageAbort a0) s = execStageAbort a0 s := rfl
@[simp] theorem exec_configRead {a0} {s} : exec (.configRead a0) s = execConfigRead a0 s := rfl
@[simp] theorem exec_configWrite {a0} {s} : exec (.configWrite a0) s = execConfigWrite a0 s := rfl
@[simp] theorem exec_setOpk {a0} {s} : exec (.setOpk a0) s = execSetOpk a0 s := rfl
@[simp] theorem exec_clearOpk {a0} {s} : exec (.clearOpk a0) s = execClearOpk a0 s := rfl
@[simp] theorem exec_ledgerRead {a0} {s} : exec (.ledgerRead a0) s = execLedgerRead a0 s := rfl
@[simp] theorem exec_svcSessionIdle {a0} {s} : exec (.svcSessionIdle a0) s = execSvcSessionIdle a0 s := rfl
@[simp] theorem exec_resetNAssert {s} : exec .resetNAssert s = execResetNAssert s := rfl
@[simp] theorem exec_resetNRelease {a0} {s} : exec (.resetNRelease a0) s = execResetNRelease a0 s := rfl
@[simp] theorem exec_selftestComplete {a0} {s} : exec (.selftestComplete a0) s = execSelftestComplete a0 s := rfl
@[simp] theorem exec_perstN {s} : exec .perstN s = execPerstN s := rfl
@[simp] theorem exec_supplyWarning {a0} {a1} {s} : exec (.supplyWarning a0 a1) s = execSupplyWarning a0 a1 s := rfl
@[simp] theorem exec_supplyWarningClear {a0} {a1} {s} : exec (.supplyWarningClear a0 a1) s = execSupplyWarningClear a0 a1 s := rfl
@[simp] theorem exec_supplyWarningHeld {a0} {s} : exec (.supplyWarningHeld a0) s = execSupplyWarningHeld a0 s := rfl
@[simp] theorem exec_supplyReset {a0} {a1} {s} : exec (.supplyReset a0 a1) s = execSupplyReset a0 a1 s := rfl
@[simp] theorem exec_supplyFail {a0} {s} : exec (.supplyFail a0) s = execSupplyFail a0 s := rfl
@[simp] theorem exec_refclkLoss {a0} {s} : exec (.refclkLoss a0) s = execRefclkLoss a0 s := rfl
@[simp] theorem exec_trefLoss {s} : exec .trefLoss s = execTrefLoss s := rfl
@[simp] theorem exec_signalDetect {a0} {s} : exec (.signalDetect a0) s = execSignalDetect a0 s := rfl
@[simp] theorem exec_retrainInterval {a0} {s} : exec (.retrainInterval a0) s = execRetrainInterval a0 s := rfl
@[simp] theorem exec_trainingStepDone {a0} {a1} {s} : exec (.trainingStepDone a0 a1) s = execTrainingStepDone a0 a1 s := rfl
@[simp] theorem exec_trainingStepFail {a0} {s} : exec (.trainingStepFail a0) s = execTrainingStepFail a0 s := rfl
@[simp] theorem exec_trainTimeout {a0} {s} : exec (.trainTimeout a0) s = execTrainTimeout a0 s := rfl
@[simp] theorem exec_pcsLock {a0} {s} : exec (.pcsLock a0) s = execPcsLock a0 s := rfl
@[simp] theorem exec_pcsLossOfLock {a0} {s} : exec (.pcsLossOfLock a0) s = execPcsLossOfLock a0 s := rfl
@[simp] theorem exec_checkDwellEnd {a0} {a1} {s} : exec (.checkDwellEnd a0 a1) s = execCheckDwellEnd a0 a1 s := rfl
@[simp] theorem exec_dampHoldExpiry {a0} {s} : exec (.dampHoldExpiry a0) s = execDampHoldExpiry a0 s := rfl
@[simp] theorem exec_serDamp {a0} {a1} {s} : exec (.serDamp a0 a1) s = execSerDamp a0 a1 s := rfl
@[simp] theorem exec_stompRateLimit {a0} {s} : exec (.stompRateLimit a0) s = execStompRateLimit a0 s := rfl
@[simp] theorem exec_discoverySend {a0} {s} : exec (.discoverySend a0) s = execDiscoverySend a0 s := rfl
@[simp] theorem exec_discoveryReceive {a0} {a1} {s} : exec (.discoveryReceive a0 a1) s = execDiscoveryReceive a0 a1 s := rfl
@[simp] theorem exec_lcwReceive {a0} {a1} {s} : exec (.lcwReceive a0 a1) s = execLcwReceive a0 a1 s := rfl
@[simp] theorem exec_lcwLoss {a0} {s} : exec (.lcwLoss a0) s = execLcwLoss a0 s := rfl
@[simp] theorem exec_retryTimeout {a0} {s} : exec (.retryTimeout a0) s = execRetryTimeout a0 s := rfl
@[simp] theorem exec_codewordVerdict {a0} {a1} {s} : exec (.codewordVerdict a0 a1) s = execCodewordVerdict a0 a1 s := rfl
@[simp] theorem exec_stompReceive {a0} {a1} {s} : exec (.stompReceive a0 a1) s = execStompReceive a0 a1 s := rfl
@[simp] theorem exec_linkStompReceive {a0} {a1} {s} : exec (.linkStompReceive a0 a1) s = execLinkStompReceive a0 a1 s := rfl
@[simp] theorem exec_cellReceive {a0} {a1} {a2} {s} : exec (.cellReceive a0 a1 a2) s = execCellReceive a0 a1 a2 s := rfl
@[simp] theorem exec_policerRefill {a0} {s} : exec (.policerRefill a0) s = execPolicerRefill a0 s := rfl
@[simp] theorem exec_qosRecordInstall {a0} {s} : exec (.qosRecordInstall a0) s = execQosRecordInstall a0 s := rfl
@[simp] theorem exec_sharedPoolMove {a0} {a1} {a2} {s} : exec (.sharedPoolMove a0 a1 a2) s = execSharedPoolMove a0 a1 a2 s := rfl
@[simp] theorem exec_replicationPendingPlace {a0} {s} : exec (.replicationPendingPlace a0) s = execReplicationPendingPlace a0 s := rfl
@[simp] theorem exec_schedulerWave {a0 a1} {s} : exec (.schedulerWave a0 a1) s = execSchedulerWave a0 a1 s := rfl
@[simp] theorem exec_localArbitration {a0} {s} : exec (.localArbitration a0) s = execLocalArbitration a0 s := rfl
@[simp] theorem exec_claim {a0} {a1} {a2} {a3} {a4} {a5} {s} : exec (.claim a0 a1 a2 a3 a4 a5) s = execClaim a0 a1 a2 a3 a4 a5 s := rfl
@[simp] theorem exec_claimReply {a0} {a1} {s} : exec (.claimReply a0 a1) s = execClaimReply a0 a1 s := rfl
@[simp] theorem exec_claimNoReply {a0} {a1} {s} : exec (.claimNoReply a0 a1) s = execClaimNoReply a0 a1 s := rfl
@[simp] theorem exec_reservationExpiry {a0} {a1} {s} : exec (.reservationExpiry a0 a1) s = execReservationExpiry a0 a1 s := rfl
@[simp] theorem exec_engineStall {a0} {s} : exec (.engineStall a0) s = execEngineStall a0 s := rfl
@[simp] theorem exec_trainArrival {a0} {a1} {a2} {a3} {a4} {s} : exec (.trainArrival a0 a1 a2 a3 a4) s = execTrainArrival a0 a1 a2 a3 a4 s := rfl
@[simp] theorem exec_expressForward {a0} {s} : exec (.expressForward a0) s = execExpressForward a0 s := rfl
@[simp] theorem exec_transmitSlot {a0} {s} : exec (.transmitSlot a0) s = execTransmitSlot a0 s := rfl
@[simp] theorem exec_seamFrameCrcFail {a0} {a1} {a2} {s} : exec (.seamFrameCrcFail a0 a1 a2) s = execSeamFrameCrcFail a0 a1 a2 s := rfl
@[simp] theorem exec_seamLaneLoss {a0} {a1} {s} : exec (.seamLaneLoss a0 a1) s = execSeamLaneLoss a0 a1 s := rfl
@[simp] theorem exec_bufferEccError {a0} {s} : exec (.bufferEccError a0) s = execBufferEccError a0 s := rfl
@[simp] theorem exec_drainTimerExpiry {s} : exec .drainTimerExpiry s = execDrainTimerExpiry s := rfl
@[simp] theorem exec_healthDecayTick {s} : exec .healthDecayTick s = execHealthDecayTick s := rfl
@[simp] theorem exec_sampleExpiry {a0} {s} : exec (.sampleExpiry a0) s = execSampleExpiry a0 s := rfl
@[simp] theorem exec_echoCellTransit {a0} {s} : exec (.echoCellTransit a0) s = execEchoCellTransit a0 s := rfl
@[simp] theorem exec_seamLoadUpdate {a0} {a1} {s} : exec (.seamLoadUpdate a0 a1) s = execSeamLoadUpdate a0 a1 s := rfl
@[simp] theorem exec_windowReceive {a0} {s} : exec (.windowReceive a0) s = execWindowReceive a0 s := rfl
@[simp] theorem exec_windowTimeout {a0} {s} : exec (.windowTimeout a0) s = execWindowTimeout a0 s := rfl
@[simp] theorem exec_windowRepeat {a0} {a1} {s} : exec (.windowRepeat a0 a1) s = execWindowRepeat a0 a1 s := rfl
@[simp] theorem exec_pealContribReceive {a0} {s} : exec (.pealContribReceive a0) s = execPealContribReceive a0 s := rfl
@[simp] theorem exec_markEchoTimer {a0} {a1} {s} : exec (.markEchoTimer a0 a1) s = execMarkEchoTimer a0 a1 s := rfl
@[simp] theorem exec_verdictArrival {a0} {a1} {s} : exec (.verdictArrival a0 a1) s = execVerdictArrival a0 a1 s := rfl
@[simp] theorem exec_pealExpReceive {a0} {s} : exec (.pealExpReceive a0) s = execPealExpReceive a0 s := rfl
@[simp] theorem exec_chunkOpen {a0} {s} : exec (.chunkOpen a0) s = execChunkOpen a0 s := rfl
@[simp] theorem exec_chunkComplete {a0} {a1} {s} : exec (.chunkComplete a0 a1) s = execChunkComplete a0 a1 s := rfl
@[simp] theorem exec_resultRelease {a0} {a1} {s} : exec (.resultRelease a0 a1) s = execResultRelease a0 a1 s := rfl
@[simp] theorem exec_sealedExpiry {a0} {s} : exec (.sealedExpiry a0) s = execSealedExpiry a0 s := rfl
@[simp] theorem exec_roundOpen {a0} {s} : exec (.roundOpen a0) s = execRoundOpen a0 s := rfl
@[simp] theorem exec_stepWatchdogExpiry {a0} {s} : exec (.stepWatchdogExpiry a0) s = execStepWatchdogExpiry a0 s := rfl
@[simp] theorem exec_retireComplete {a0} {s} : exec (.retireComplete a0) s = execRetireComplete a0 s := rfl
@[simp] theorem exec_repairRequestReceive {a0} {s} : exec (.repairRequestReceive a0) s = execRepairRequestReceive a0 s := rfl
@[simp] theorem exec_spotFwdReceive {a0} {s} : exec (.spotFwdReceive a0) s = execSpotFwdReceive a0 s := rfl
@[simp] theorem exec_spotDigestReceive {a0} {s} : exec (.spotDigestReceive a0) s = execSpotDigestReceive a0 s := rfl
@[simp] theorem exec_spotDigestTimeout {a0} {a1} {s} : exec (.spotDigestTimeout a0 a1) s = execSpotDigestTimeout a0 a1 s := rfl
@[simp] theorem exec_onContrib {a0} {a1} {a2} {a3} {s} : exec (.onContrib a0 a1 a2 a3) s = execOnContrib a0 a1 a2 a3 s := rfl
@[simp] theorem exec_onChunk {a0} {a1} {a2} {s} : exec (.onChunk a0 a1 a2) s = execOnChunk a0 a1 a2 s := rfl
@[simp] theorem exec_onStepEnd {a0} {a1} {a2} {s} : exec (.onStepEnd a0 a1 a2) s = execOnStepEnd a0 a1 a2 s := rfl
@[simp] theorem exec_onVoid {a0} {a1} {s} : exec (.onVoid a0 a1) s = execOnVoid a0 a1 s := rfl
@[simp] theorem exec_ldc {a0} {a1} {s} : exec (.ldc a0 a1) s = execLdc a0 a1 s := rfl
@[simp] theorem exec_lds {a0} {a1} {s} : exec (.lds a0 a1) s = execLds a0 a1 s := rfl
@[simp] theorem exec_sts {a0} {a1} {s} : exec (.sts a0 a1) s = execSts a0 a1 s := rfl
@[simp] theorem exec_ldm {a0} {a1} {s} : exec (.ldm a0 a1) s = execLdm a0 a1 s := rfl
@[simp] theorem exec_stm {a0} {a1} {s} : exec (.stm a0 a1) s = execStm a0 a1 s := rfl
@[simp] theorem exec_ldi {a0} {a1} {s} : exec (.ldi a0 a1) s = execLdi a0 a1 s := rfl
@[simp] theorem exec_mov {a0} {a1} {s} : exec (.mov a0 a1) s = execMov a0 a1 s := rfl
@[simp] theorem exec_movCtx {a0} {a1} {s} : exec (.movCtx a0 a1) s = execMovCtx a0 a1 s := rfl
@[simp] theorem exec_emit {a0} {a1} {s} : exec (.emit a0 a1) s = execEmit a0 a1 s := rfl
@[simp] theorem exec_echo {a0} {a1} {s} : exec (.echo a0 a1) s = execEcho a0 a1 s := rfl
@[simp] theorem exec_accxCell {a0} {a1} {s} : exec (.accxCell a0 a1) s = execAccxCell a0 a1 s := rfl
@[simp] theorem exec_accxVreg {a0} {a1} {s} : exec (.accxVreg a0 a1) s = execAccxVreg a0 a1 s := rfl
@[simp] theorem exec_unacc {a0} {a1} {s} : exec (.unacc a0 a1) s = execUnacc a0 a1 s := rfl
@[simp] theorem exec_rndx {a0} {a1} {s} : exec (.rndx a0 a1) s = execRndx a0 a1 s := rfl
@[simp] theorem exec_chk {a0} {a1} {s} : exec (.chk a0 a1) s = execChk a0 a1 s := rfl
@[simp] theorem exec_vsum {a0} {a1} {s} : exec (.vsum a0 a1) s = execVsum a0 a1 s := rfl
@[simp] theorem exec_fadd {a0} {a1} {s} : exec (.fadd a0 a1) s = execFadd a0 a1 s := rfl
@[simp] theorem exec_fsub {a0} {a1} {s} : exec (.fsub a0 a1) s = execFsub a0 a1 s := rfl
@[simp] theorem exec_fmul {a0} {a1} {s} : exec (.fmul a0 a1) s = execFmul a0 a1 s := rfl
@[simp] theorem exec_ffma {a0} {a1} {s} : exec (.ffma a0 a1) s = execFfma a0 a1 s := rfl
@[simp] theorem exec_fmax {a0} {a1} {s} : exec (.fmax a0 a1) s = execFmax a0 a1 s := rfl
@[simp] theorem exec_fmin {a0} {a1} {s} : exec (.fmin a0 a1) s = execFmin a0 a1 s := rfl
@[simp] theorem exec_fdiv {a0} {a1} {a2} {s} : exec (.fdiv a0 a1 a2) s = execFdiv a0 a1 a2 s := rfl
@[simp] theorem exec_fsqrt {a0} {a1} {a2} {s} : exec (.fsqrt a0 a1 a2) s = execFsqrt a0 a1 a2 s := rfl
@[simp] theorem exec_frsq {a0} {a1} {a2} {s} : exec (.frsq a0 a1 a2) s = execFrsq a0 a1 a2 s := rfl
@[simp] theorem exec_fscl {a0} {a1} {s} : exec (.fscl a0 a1) s = execFscl a0 a1 s := rfl
@[simp] theorem exec_fabs {a0} {a1} {s} : exec (.fabs a0 a1) s = execFabs a0 a1 s := rfl
@[simp] theorem exec_fneg {a0} {a1} {s} : exec (.fneg a0 a1) s = execFneg a0 a1 s := rfl
@[simp] theorem exec_fclmp {a0} {a1} {s} : exec (.fclmp a0 a1) s = execFclmp a0 a1 s := rfl
@[simp] theorem exec_iadd {a0} {a1} {s} : exec (.iadd a0 a1) s = execIadd a0 a1 s := rfl
@[simp] theorem exec_isub {a0} {a1} {s} : exec (.isub a0 a1) s = execIsub a0 a1 s := rfl
@[simp] theorem exec_imax {a0} {a1} {s} : exec (.imax a0 a1) s = execImax a0 a1 s := rfl
@[simp] theorem exec_imin {a0} {a1} {s} : exec (.imin a0 a1) s = execImin a0 a1 s := rfl
@[simp] theorem exec_andOp {a0} {a1} {s} : exec (.andOp a0 a1) s = execAnd a0 a1 s := rfl
@[simp] theorem exec_orOp {a0} {a1} {s} : exec (.orOp a0 a1) s = execOr a0 a1 s := rfl
@[simp] theorem exec_xorOp {a0} {a1} {s} : exec (.xorOp a0 a1) s = execXor a0 a1 s := rfl
@[simp] theorem exec_shl {a0} {a1} {s} : exec (.shl a0 a1) s = execShl a0 a1 s := rfl
@[simp] theorem exec_shr {a0} {a1} {s} : exec (.shr a0 a1) s = execShr a0 a1 s := rfl
@[simp] theorem exec_shrArith {a0} {a1} {s} : exec (.shrArith a0 a1) s = execShrArith a0 a1 s := rfl
@[simp] theorem exec_cvt {a0} {a1} {s} : exec (.cvt a0 a1) s = execCvt a0 a1 s := rfl
@[simp] theorem exec_qnt {a0} {a1} {s} : exec (.qnt a0 a1) s = execQnt a0 a1 s := rfl
@[simp] theorem exec_dqt {a0} {a1} {s} : exec (.dqt a0 a1) s = execDqt a0 a1 s := rfl
@[simp] theorem exec_fcmp {a0} {a1} {s} : exec (.fcmp a0 a1) s = execFcmp a0 a1 s := rfl
@[simp] theorem exec_icmp {a0} {a1} {s} : exec (.icmp a0 a1) s = execIcmp a0 a1 s := rfl
@[simp] theorem exec_sel {a0} {a1} {s} : exec (.sel a0 a1) s = execSel a0 a1 s := rfl
@[simp] theorem exec_br {a0} {a1} {s} : exec (.br a0 a1) s = execBr a0 a1 s := rfl
@[simp] theorem exec_brp {a0} {a1} {s} : exec (.brp a0 a1) s = execBrp a0 a1 s := rfl
@[simp] theorem exec_waitSend {a0} {a1} {s} : exec (.waitSend a0 a1) s = execWaitSend a0 a1 s := rfl
@[simp] theorem exec_waitLink {a0} {a1} {s} : exec (.waitLink a0 a1) s = execWaitLink a0 a1 s := rfl
@[simp] theorem exec_fenceOp {a0} {a1} {s} : exec (.fenceOp a0 a1) s = execFence a0 a1 s := rfl
@[simp] theorem exec_voidOp {a0} {a1} {s} : exec (.voidOp a0 a1) s = execVoid a0 a1 s := rfl
@[simp] theorem exec_endInv {a0} {a1} {s} : exec (.endInv a0 a1) s = execEnd a0 a1 s := rfl
@[simp] theorem exec_normPartialForm {a0} {a1} {a2} {s} : exec (.normPartialForm a0 a1 a2) s = execNormPartialForm a0 a1 a2 s := rfl
@[simp] theorem exec_normResend {a0} {a1} {s} : exec (.normResend a0 a1) s = execNormResend a0 a1 s := rfl
@[simp] theorem exec_normContribReceive {a0} {s} : exec (.normContribReceive a0) s = execNormContribReceive a0 s := rfl
@[simp] theorem exec_normResultReceive {a0} {s} : exec (.normResultReceive a0) s = execNormResultReceive a0 s := rfl
@[simp] theorem exec_normCopyReceive {a0} {s} : exec (.normCopyReceive a0) s = execNormCopyReceive a0 s := rfl
@[simp] theorem exec_pairHelloSend {a0} {s} : exec (.pairHelloSend a0) s = execPairHelloSend a0 s := rfl
@[simp] theorem exec_pairHelloReceive {a0} {a1} {s} : exec (.pairHelloReceive a0 a1) s = execPairHelloReceive a0 a1 s := rfl
@[simp] theorem exec_heartbeatSend {s} : exec .heartbeatSend s = execHeartbeatSend s := rfl
@[simp] theorem exec_heartbeatReceive {a0} {s} : exec (.heartbeatReceive a0) s = execHeartbeatReceive a0 s := rfl
@[simp] theorem exec_heartbeatLoss {s} : exec .heartbeatLoss s = execHeartbeatLoss s := rfl
@[simp] theorem exec_dyingReceive {a0} {s} : exec (.dyingReceive a0) s = execDyingReceive a0 s := rfl
@[simp] theorem exec_homesReassigned {s} : exec .homesReassigned s = execHomesReassigned s := rfl
@[simp] theorem exec_roundCtlReceive {a0} {s} : exec (.roundCtlReceive a0) s = execRoundCtlReceive a0 s := rfl
@[simp] theorem exec_verdictReceive {a0} {s} : exec (.verdictReceive a0) s = execVerdictReceive a0 s := rfl
@[simp] theorem exec_twinAckSend {s} : exec .twinAckSend s = execTwinAckSend s := rfl
@[simp] theorem exec_twinAckReceive {a0} {s} : exec (.twinAckReceive a0) s = execTwinAckReceive a0 s := rfl
@[simp] theorem exec_twinResend {a0} {a1} {s} : exec (.twinResend a0 a1) s = execTwinResend a0 a1 s := rfl
@[simp] theorem exec_armCheckReceive {a0} {s} : exec (.armCheckReceive a0) s = execArmCheckReceive a0 s := rfl
@[simp] theorem exec_mirrorRowReceive {a0} {s} : exec (.mirrorRowReceive a0) s = execMirrorRowReceive a0 s := rfl
@[simp] theorem exec_digestsSend {a0} {s} : exec (.digestsSend a0) s = execDigestsSend a0 s := rfl
@[simp] theorem exec_digestsReceive {a0} {s} : exec (.digestsReceive a0) s = execDigestsReceive a0 s := rfl
@[simp] theorem exec_digestsMissing {a0} {s} : exec (.digestsMissing a0) s = execDigestsMissing a0 s := rfl
@[simp] theorem exec_copyDataReceive {a0} {s} : exec (.copyDataReceive a0) s = execCopyDataReceive a0 s := rfl
@[simp] theorem exec_copyCtlReceive {a0} {s} : exec (.copyCtlReceive a0) s = execCopyCtlReceive a0 s := rfl
@[simp] theorem exec_sliceReqReceive {a0} {s} : exec (.sliceReqReceive a0) s = execSliceReqReceive a0 s := rfl
@[simp] theorem exec_rebuildHoldExpiry {a0} {s} : exec (.rebuildHoldExpiry a0) s = execRebuildHoldExpiry a0 s := rfl
@[simp] theorem exec_probeSend {a0} {s} : exec (.probeSend a0) s = execProbeSend a0 s := rfl
@[simp] theorem exec_probeReceive {a0} {a1} {a2} {s} : exec (.probeReceive a0 a1 a2) s = execProbeReceive a0 a1 a2 s := rfl
@[simp] theorem exec_probeEchoReceive {a0} {a1} {a2} {s} : exec (.probeEchoReceive a0 a1 a2) s = execProbeEchoReceive a0 a1 a2 s := rfl
@[simp] theorem exec_weltFenceReceive {a0} {a1} {s} : exec (.weltFenceReceive a0 a1) s = execWeltFenceReceive a0 a1 s := rfl
@[simp] theorem exec_fenceSend {a0} {s} : exec (.fenceSend a0) s = execFenceSend a0 s := rfl
@[simp] theorem exec_fenceCellReceive {a0} {a1} {s} : exec (.fenceCellReceive a0 a1) s = execFenceCellReceive a0 a1 s := rfl
@[simp] theorem exec_patrolScrub {a0} {a1} {a2} {a3} {a4} {s} : exec (.patrolScrub a0 a1 a2 a3 a4) s = execPatrolScrub a0 a1 a2 a3 a4 s := rfl
@[simp] theorem exec_memoryUe {a0} {s} : exec (.memoryUe a0) s = execMemoryUe a0 s := rfl
@[simp] theorem exec_dqsTracking {a0} {a1} {s} : exec (.dqsTracking a0 a1) s = execDqsTracking a0 a1 s := rfl
@[simp] theorem exec_mr4Read {a0} {a1} {a2} {a3} {s} : exec (.mr4Read a0 a1 a2 a3) s = execMr4Read a0 a1 a2 a3 s := rfl
@[simp] theorem exec_stashRecordWrite {a0} {a1} {s} : exec (.stashRecordWrite a0 a1) s = execStashRecordWrite a0 a1 s := rfl
@[simp] theorem exec_stashWriterWait {a0} {s} : exec (.stashWriterWait a0) s = execStashWriterWait a0 s := rfl
@[simp] theorem exec_edgeReleaseStop {a0} {s} : exec (.edgeReleaseStop a0) s = execEdgeReleaseStop a0 s := rfl
@[simp] theorem exec_circuitNoticeSend {a0} {s} : exec (.circuitNoticeSend a0) s = execCircuitNoticeSend a0 s := rfl
@[simp] theorem exec_edgeResendStop {a0} {s} : exec (.edgeResendStop a0) s = execEdgeResendStop a0 s := rfl
@[simp] theorem exec_slotEdge {a0} {s} : exec (.slotEdge a0) s = execSlotEdge a0 s := rfl
@[simp] theorem exec_switchSettled {a0} {s} : exec (.switchSettled a0) s = execSwitchSettled a0 s := rfl
@[simp] theorem exec_relockLimitExpiry {a0} {s} : exec (.relockLimitExpiry a0) s = execRelockLimitExpiry a0 s := rfl
@[simp] theorem exec_fullTrainDeadline {a0} {s} : exec (.fullTrainDeadline a0) s = execFullTrainDeadline a0 s := rfl
@[simp] theorem exec_circuitNoticeReceive {a0} {a1} {s} : exec (.circuitNoticeReceive a0 a1) s = execCircuitNoticeReceive a0 a1 s := rfl
@[simp] theorem exec_announceSend {a0} {s} : exec (.announceSend a0) s = execAnnounceSend a0 s := rfl
@[simp] theorem exec_announceReceive {a0} {a1} {s} : exec (.announceReceive a0 a1) s = execAnnounceReceive a0 a1 s := rfl
@[simp] theorem exec_announceTimeout {a0} {s} : exec (.announceTimeout a0) s = execAnnounceTimeout a0 s := rfl
@[simp] theorem exec_timingReqSend {a0} {s} : exec (.timingReqSend a0) s = execTimingReqSend a0 s := rfl
@[simp] theorem exec_timingReqReceive {a0} {a1} {a2} {s} : exec (.timingReqReceive a0 a1 a2) s = execTimingReqReceive a0 a1 a2 s := rfl
@[simp] theorem exec_timingRespReceive {a0} {a1} {a2} {s} : exec (.timingRespReceive a0 a1 a2) s = execTimingRespReceive a0 a1 a2 s := rfl
@[simp] theorem exec_ppsInEdge {a0} {s} : exec (.ppsInEdge a0) s = execPpsInEdge a0 s := rfl
@[simp] theorem exec_ppsInLoss {s} : exec .ppsInLoss s = execPpsInLoss s := rfl
@[simp] theorem exec_ptpMessage {a0} {s} : exec (.ptpMessage a0) s = execPtpMessage a0 s := rfl
@[simp] theorem exec_ptpMasterLoss {s} : exec .ptpMasterLoss s = execPtpMasterLoss s := rfl
@[simp] theorem exec_holdoverExpiry {s} : exec .holdoverExpiry s = execHoldoverExpiry s := rfl
@[simp] theorem exec_ppsOutEdge {s} : exec .ppsOutEdge s = execPpsOutEdge s := rfl
@[simp] theorem exec_ppsOutEnd {s} : exec .ppsOutEnd s = execPpsOutEnd s := rfl
@[simp] theorem exec_coreWatchdogMiss {a0} {s} : exec (.coreWatchdogMiss a0) s = execCoreWatchdogMiss a0 s := rfl
@[simp] theorem exec_coreRestartComplete {a0} {s} : exec (.coreRestartComplete a0) s = execCoreRestartComplete a0 s := rfl
@[simp] theorem exec_wardenCompareMismatch {a0} {s} : exec (.wardenCompareMismatch a0) s = execWardenCompareMismatch a0 s := rfl
@[simp] theorem exec_trialExpiry {s} : exec .trialExpiry s = execTrialExpiry s := rfl
@[simp] theorem exec_pauseRestartComplete {s} : exec .pauseRestartComplete s = execPauseRestartComplete s := rfl
@[simp] theorem exec_handoverCut {s} : exec .handoverCut s = execHandoverCut s := rfl
@[simp] theorem exec_handoverTimeout {s} : exec .handoverTimeout s = execHandoverTimeout s := rfl
@[simp] theorem exec_throughputIndexRefresh {a0} {a1} {s} : exec (.throughputIndexRefresh a0 a1) s = execThroughputIndexRefresh a0 a1 s := rfl
@[simp] theorem exec_derateCompute {s} : exec .derateCompute s = execDerateCompute s := rfl
@[simp] theorem exec_delayExcursion {a0} {a1} {a2} {s} : exec (.delayExcursion a0 a1 a2) s = execDelayExcursion a0 a1 a2 s := rfl
@[simp] theorem exec_setpointStep {a0} {s} : exec (.setpointStep a0) s = execSetpointStep a0 s := rfl
@[simp] theorem exec_tjSample {a0} {a1} {s} : exec (.tjSample a0 a1) s = execTjSample a0 a1 s := rfl
@[simp] theorem exec_lastCellfmtActivate {s} : exec .lastCellfmtActivate s = execLastCellfmtActivate s := rfl
@[simp] theorem exec_shadowPass {s} : exec .shadowPass s = execShadowPass s := rfl
@[simp] theorem exec_shadowRecheck {a0} {s} : exec (.shadowRecheck a0) s = execShadowRecheck a0 s := rfl
@[simp] theorem exec_freezeMarkerArrival {a0} {s} : exec (.freezeMarkerArrival a0) s = execFreezeMarkerArrival a0 s := rfl
@[simp] theorem exec_ledgerHourly {a0} {a1} {s} : exec (.ledgerHourly a0 a1) s = execLedgerHourly a0 a1 s := rfl
@[simp] theorem exec_ledgerDaily {a0} {s} : exec (.ledgerDaily a0) s = execLedgerDaily a0 s := rfl
@[simp] theorem exec_ledgerFlush {a0} {s} : exec (.ledgerFlush a0) s = execLedgerFlush a0 s := rfl
@[simp] theorem exec_coreCrash {a0} {s} : exec (.coreCrash a0) s = execCoreCrash a0 s := rfl
@[simp] theorem exec_uncorrectableHubState {a0} {s} : exec (.uncorrectableHubState a0) s = execUncorrectableHubState a0 s := rfl
@[simp] theorem exec_leafReportExpiry {a0} {s} : exec (.leafReportExpiry a0) s = execLeafReportExpiry a0 s := rfl
@[simp] theorem exec_serdesFirmwareFault {s} : exec .serdesFirmwareFault s = execSerdesFirmwareFault s := rfl
@[simp] theorem exec_servicePortLinkAttempt {a0} {s} : exec (.servicePortLinkAttempt a0) s = execServicePortLinkAttempt a0 s := rfl

end Sys2Proof.Laws
end

