-- ==== Sys2Proof/Laws/Memory.lean ====
section
/-! SUPPORT. Laws/Memory.lean: the byte memories keep their canonical form, and a read gives what was last written. -/
namespace Sys2Proof.Machine

theorem Memory.wfFrom_le {d : Nat → Byte} {lo lo' : Nat} {m : Memory} (hle : lo' ≤ lo) (h : Memory.wfFrom d lo m = true) :
    Memory.wfFrom d lo' m = true := by
  cases m with
  | nil => rfl
  | cons e t =>
    obtain ⟨a, v⟩ := e
    simp only [Memory.wfFrom, Bool.and_eq_true, decide_eq_true_eq] at h ⊢
    exact ⟨⟨by omega, h.1.2⟩, h.2⟩

theorem Memory.drop1_wfFrom {d : Nat → Byte} (m : Memory) (lo a : Nat) (h : Memory.wfFrom d lo m = true) :
    Memory.wfFrom d lo (Memory.drop1 m a) = true := by
  induction m generalizing lo with
  | nil => rfl
  | cons e t ih =>
    obtain ⟨j, b⟩ := e
    simp only [Memory.wfFrom, Bool.and_eq_true, decide_eq_true_eq] at h
    simp only [Memory.drop1]
    split
    · exact Memory.wfFrom_le (by omega) h.2
    · simp only [Memory.wfFrom, Bool.and_eq_true, decide_eq_true_eq]
      exact ⟨h.1, ih _ h.2⟩

theorem Memory.enter_wfFrom {d : Nat → Byte} (m : Memory) (lo a : Nat) (v : Byte) (hlo : lo ≤ a) (hv : v ≠ d a)
    (h : Memory.wfFrom d lo m = true) : Memory.wfFrom d lo (Memory.enter m a v) = true := by
  induction m generalizing lo with
  | nil => simp [Memory.enter, Memory.wfFrom, hlo, hv]
  | cons e t ih =>
    obtain ⟨j, b⟩ := e
    simp only [Memory.wfFrom, Bool.and_eq_true, decide_eq_true_eq, bne_iff_ne, ne_eq] at h
    simp only [Memory.enter]
    split
    · simp only [Memory.wfFrom, Bool.and_eq_true, decide_eq_true_eq, bne_iff_ne, ne_eq]
      exact ⟨⟨hlo, hv⟩, ⟨by omega, h.1.2⟩, h.2⟩
    · split
      · subst_vars
        simp only [Memory.wfFrom, Bool.and_eq_true, decide_eq_true_eq, bne_iff_ne, ne_eq]
        exact ⟨⟨hlo, hv⟩, h.2⟩
      · simp only [Memory.wfFrom, Bool.and_eq_true, decide_eq_true_eq, bne_iff_ne, ne_eq]
        exact ⟨h.1, ih _ (by omega) h.2⟩

/-- A write keeps the canonical form. -/
theorem Memory.write_wf {d : Nat → Byte} {m : Memory} (a : Nat) (v : Byte) (h : Memory.wf d m = true) : Memory.wf d (Memory.write d m a v) = true := by
  unfold Memory.write Memory.wf at *
  split
  · exact Memory.drop1_wfFrom _ _ _ h
  · exact Memory.enter_wfFrom _ _ _ _ (Nat.zero_le _) ‹_› h

/-- A write of a byte string keeps the canonical form. -/
theorem Memory.writes_wf {d : Nat → Byte} {m : Memory} (a : Nat) (b : Bytes) (h : Memory.wf d m = true) : Memory.wf d (Memory.writes d m a b) = true := by
  induction b generalizing m a with
  | nil => exact h
  | cons v t ih => exact ih _ (Memory.write_wf _ _ h)

theorem Memory.filter_wfFrom {d : Nat → Byte} (m : Memory) (lo : Nat) (p : Host.Cell → Bool) (h : Memory.wfFrom d lo m = true) :
    Memory.wfFrom d lo (m.filter p) = true := by
  induction m generalizing lo with
  | nil => rfl
  | cons e t ih =>
    obtain ⟨a, v⟩ := e
    simp only [Memory.wfFrom, Bool.and_eq_true, decide_eq_true_eq] at h
    rw [List.filter_cons]
    split
    · simp only [Memory.wfFrom, Bool.and_eq_true, decide_eq_true_eq]
      exact ⟨h.1, ih _ h.2⟩
    · exact Memory.wfFrom_le (by omega) (ih _ h.2)

/-- Dropping entries keeps the canonical form. -/
theorem Memory.filter_wf {d : Nat → Byte} {m : Memory} (p : Host.Cell → Bool) (h : Memory.wf d m = true) : Memory.wf d (m.filter p) = true :=
  Memory.filter_wfFrom _ _ _ h

/-- Clearing a range keeps the canonical form. -/
theorem Memory.clear_wf {d : Nat → Byte} {m : Memory} (lo n : Nat) (h : Memory.wf d m = true) : Memory.wf d (m.clear lo n) = true :=
  Memory.filter_wf _ h

/-- A run of single writes keeps the canonical form. -/
theorem Memory.foldl_write_wf {d : Nat → Byte} {α : Type} (l : List α) (f : α → Nat) (g : α → Byte) {m : Memory} (h : Memory.wf d m = true) :
    Memory.wf d (l.foldl (fun m e => Memory.write d m (f e) (g e)) m) = true := by
  induction l generalizing m with
  | nil => exact h
  | cons e t ih => exact ih (Memory.write_wf _ _ h)

/-- A run of cleared ranges keeps the canonical form. -/
theorem Memory.foldl_clear_wf {d : Nat → Byte} (l : List Nat) (f : Nat → Nat) (n : Nat) {m : Memory} (h : Memory.wf d m = true) :
    Memory.wf d (l.foldl (fun m g => m.clear (f g) n) m) = true := by
  induction l generalizing m with
  | nil => exact h
  | cons e t ih => exact ih (Memory.clear_wf _ _ h)

/-! Reads. -/

theorem Memory.read_below {d : Nat → Byte} (m : Memory) (lo a : Nat) (h : Memory.wfFrom d lo m = true) (ha : a < lo) : Memory.read d m a = d a := by
  induction m generalizing lo with
  | nil => rfl
  | cons e t ih =>
    obtain ⟨j, b⟩ := e
    simp only [Memory.wfFrom, Bool.and_eq_true, decide_eq_true_eq] at h
    simp only [Memory.read]
    rw [if_neg (by omega)]
    exact ih _ h.2 (by omega)

theorem Memory.read_drop1 {d : Nat → Byte} (m : Memory) (lo a i : Nat) (h : Memory.wfFrom d lo m = true) :
    Memory.read d (Memory.drop1 m a) i = if i = a then d a else Memory.read d m i := by
  induction m generalizing lo with
  | nil =>
    simp only [Memory.drop1, Memory.read]
    split
    · subst_vars; rfl
    · rfl
  | cons e t ih =>
    obtain ⟨j, b⟩ := e
    simp only [Memory.wfFrom, Bool.and_eq_true, decide_eq_true_eq] at h
    simp only [Memory.drop1]
    split
    · subst_vars
      by_cases hi : i = j
      · subst hi; simp only [if_true]; exact Memory.read_below _ _ _ h.2 (by omega)
      · simp [Memory.read, hi, Ne.symm hi]
    · simp only [Memory.read, ih _ h.2]
      split
      · subst_vars; rw [if_neg (by omega)]
      · rfl

theorem Memory.read_enter {d : Nat → Byte} (m : Memory) (a i : Nat) (v : Byte) :
    Memory.read d (Memory.enter m a v) i = if i = a then v else Memory.read d m i := by
  induction m with
  | nil =>
    simp only [Memory.enter, Memory.read]
    by_cases h : i = a
    · simp [h]
    · simp [h, Ne.symm h]
  | cons e t ih =>
    obtain ⟨j, b⟩ := e
    simp only [Memory.enter]
    split
    · simp only [Memory.read]
      by_cases h : i = a
      · simp [h]
      · simp [h, Ne.symm h]
    · split
      · subst_vars
        simp only [Memory.read]
        by_cases h : i = j
        · simp [h]
        · simp [h, Ne.symm h]
      · simp only [Memory.read, ih]
        split
        · subst_vars; rw [if_neg (by omega)]
        · rfl

/-- A read gives the byte last written at its address and leaves every other address alone. -/
theorem Memory.read_write {d : Nat → Byte} {m : Memory} (a i : Nat) (v : Byte) (h : Memory.wf d m = true) :
    Memory.read d (Memory.write d m a v) i = if i = a then v else Memory.read d m i := by
  unfold Memory.write
  split
  · rw [Memory.read_drop1 _ _ _ _ h]; split <;> simp_all
  · exact Memory.read_enter _ _ _ _

end Sys2Proof.Machine
end

