-- ==== Sys2Proof/Laws/Keeps.lean ====
section
/-! SUPPORT. Laws/Keeps.lean: what every operation of the block keeps: the waiting commands, the canonical form of the byte memories, the
rollback floors, the index of the identity key and the module record; and the lemmas from which that follows operation by operation. -/
namespace Sys2Proof.Machine

set_option linter.unusedSimpArgs false
set_option linter.unusedTactic false
set_option linter.unreachableTactic false

/-- `t` comes from `s` by operations that leave alone what no command may disturb. -/
structure Keeps (s t : State) : Prop where
  queue  : t.pending = s.pending
  draws  : s.free ≤ t.free
  mem    : s.memOk → t.memOk
  floors : ∀ p, p < 5 → floorOf s.flash p ≤ floorOf t.flash p
  lms    : s.flash.lmsNext ≤ t.flash.lmsNext
  record : t.flash.record = s.flash.record

/-- Every next state that an outcome answers keeps it. -/
def KeepsOut (s : State) (o : Out) : Prop := ∀ t, o = .next t → Keeps s t

/-- The state of a pair keeps it. -/
def KeepsP {β : Type} (s : State) (x : β × State) : Prop := Keeps s x.2

/-- The state of a triple keeps it. -/
def KeepsT {β γ : Type} (s : State) (x : β × γ × State) : Prop := Keeps s x.2.2

theorem Keeps.refl (s : State) : Keeps s s := ⟨rfl, Nat.le_refl _, id, fun _ _ => Nat.le_refl _, Nat.le_refl _, rfl⟩

theorem Keeps.trans {s t u : State} (h : Keeps s t) (k : Keeps t u) : Keeps s u :=
  ⟨k.queue.trans h.queue, Nat.le_trans h.draws k.draws, fun m => k.mem (h.mem m), fun p hp => Nat.le_trans (h.floors p hp) (k.floors p hp),
    Nat.le_trans h.lms k.lms, k.record.trans h.record⟩

/-- A change of other fields keeps it. -/
theorem Keeps.of_same {s0 s t : State} (h : Keeps s0 s) (hp : t.pending = s.pending) (hf : t.free = s.free) (hm : t.mem = s.mem)
    (hl : t.flash = s.flash) : Keeps s0 t :=
  h.trans ⟨hp, Nat.le_of_eq hf.symm, by unfold State.memOk; rw [hm]; exact id, fun p _ => by rw [hl], by rw [hl], by rw [hl]⟩

/-- A change of the byte memories that keeps their form keeps it. -/
theorem Keeps.of_mem {s0 s : State} (f : Mems → Mems) (h : Keeps s0 s) (hm : s.mem.ok → (f s.mem).ok) : Keeps s0 (s.modMem f) :=
  h.trans ⟨rfl, Nat.le_refl _, hm, fun _ _ => Nat.le_refl _, Nat.le_refl _, rfl⟩

/-- A change of the flash that lowers neither a floor nor the key's index keeps it. -/
theorem Keeps.of_flash {s0 s : State} (f : Flash → Flash) (h : Keeps s0 s) (hf : ∀ p, p < 5 → floorOf s.flash p ≤ floorOf (f s.flash) p)
    (hl : s.flash.lmsNext ≤ (f s.flash).lmsNext) (hr : (f s.flash).record = s.flash.record) : Keeps s0 (s.modFlash f) :=
  h.trans ⟨rfl, Nat.le_refl _, id, hf, hl, hr⟩

/-! A change of one field that holds nothing of this. -/

theorem keeps_set_lanes {s0 s : State} (x) : Keeps s0 { s with lanes := x } ↔ Keeps s0 s :=
  ⟨fun h => h.of_same rfl rfl rfl rfl, fun h => h.of_same rfl rfl rfl rfl⟩

theorem keeps_set_ports {s0 s : State} (x) : Keeps s0 { s with ports := x } ↔ Keeps s0 s :=
  ⟨fun h => h.of_same rfl rfl rfl rfl, fun h => h.of_same rfl rfl rfl rfl⟩

theorem keeps_set_blocks {s0 s : State} (x) : Keeps s0 { s with blocks := x } ↔ Keeps s0 s :=
  ⟨fun h => h.of_same rfl rfl rfl rfl, fun h => h.of_same rfl rfl rfl rfl⟩

theorem keeps_set_sched {s0 s : State} (x) : Keeps s0 { s with sched := x } ↔ Keeps s0 s :=
  ⟨fun h => h.of_same rfl rfl rfl rfl, fun h => h.of_same rfl rfl rfl rfl⟩

theorem keeps_set_fabric {s0 s : State} (x) : Keeps s0 { s with fabric := x } ↔ Keeps s0 s :=
  ⟨fun h => h.of_same rfl rfl rfl rfl, fun h => h.of_same rfl rfl rfl rfl⟩

theorem keeps_set_lasts {s0 s : State} (x) : Keeps s0 { s with lasts := x } ↔ Keeps s0 s :=
  ⟨fun h => h.of_same rfl rfl rfl rfl, fun h => h.of_same rfl rfl rfl rfl⟩

theorem keeps_set_host {s0 s : State} (x) : Keeps s0 { s with host := x } ↔ Keeps s0 s :=
  ⟨fun h => h.of_same rfl rfl rfl rfl, fun h => h.of_same rfl rfl rfl rfl⟩

theorem keeps_set_logs {s0 s : State} (x) : Keeps s0 { s with logs := x } ↔ Keeps s0 s :=
  ⟨fun h => h.of_same rfl rfl rfl rfl, fun h => h.of_same rfl rfl rfl rfl⟩

theorem keeps_set_chip {s0 s : State} (x) : Keeps s0 { s with chip := x } ↔ Keeps s0 s :=
  ⟨fun h => h.of_same rfl rfl rfl rfl, fun h => h.of_same rfl rfl rfl rfl⟩

theorem keeps_set_ctl {s0 s : State} (x) : Keeps s0 { s with ctl := x } ↔ Keeps s0 s :=
  ⟨fun h => h.of_same rfl rfl rfl rfl, fun h => h.of_same rfl rfl rfl rfl⟩

theorem keeps_set_time {s0 s : State} (x) : Keeps s0 { s with time := x } ↔ Keeps s0 s :=
  ⟨fun h => h.of_same rfl rfl rfl rfl, fun h => h.of_same rfl rfl rfl rfl⟩

theorem keeps_set_twin {s0 s : State} (x) : Keeps s0 { s with twin := x } ↔ Keeps s0 s :=
  ⟨fun h => h.of_same rfl rfl rfl rfl, fun h => h.of_same rfl rfl rfl rfl⟩

theorem keeps_set_peals {s0 s : State} (x) : Keeps s0 { s with peals := x } ↔ Keeps s0 s :=
  ⟨fun h => h.of_same rfl rfl rfl rfl, fun h => h.of_same rfl rfl rfl rfl⟩

theorem keeps_set_spine {s0 s : State} (x) : Keeps s0 { s with spine := x } ↔ Keeps s0 s :=
  ⟨fun h => h.of_same rfl rfl rfl rfl, fun h => h.of_same rfl rfl rfl rfl⟩

theorem keeps_set_circ {s0 s : State} (x) : Keeps s0 { s with circ := x } ↔ Keeps s0 s :=
  ⟨fun h => h.of_same rfl rfl rfl rfl, fun h => h.of_same rfl rfl rfl rfl⟩

theorem keeps_set_chans {s0 s : State} (x) : Keeps s0 { s with chans := x } ↔ Keeps s0 s :=
  ⟨fun h => h.of_same rfl rfl rfl rfl, fun h => h.of_same rfl rfl rfl rfl⟩

theorem Keeps.ite {s0 : State} {c : Prop} [Decidable c] {a b : State} (ha : c → Keeps s0 a) (hb : ¬c → Keeps s0 b) : Keeps s0 (if c then a else b) := by
  split
  · exact ha ‹_›
  · exact hb ‹_›

theorem KeepsP.ite {β : Type} {s0 : State} {c : Prop} [Decidable c] {a b : β × State} (ha : c → KeepsP s0 a) (hb : ¬c → KeepsP s0 b) :
    KeepsP s0 (if c then a else b) := by
  split
  · exact ha ‹_›
  · exact hb ‹_›

theorem KeepsT.ite {β γ : Type} {s0 : State} {c : Prop} [Decidable c] {a b : β × γ × State} (ha : c → KeepsT s0 a) (hb : ¬c → KeepsT s0 b) :
    KeepsT s0 (if c then a else b) := by
  split
  · exact ha ‹_›
  · exact hb ‹_›

theorem KeepsOut.ite {s0 : State} {c : Prop} [Decidable c] {a b : Out} (ha : c → KeepsOut s0 a) (hb : ¬c → KeepsOut s0 b) :
    KeepsOut s0 (if c then a else b) := by
  split
  · exact ha ‹_›
  · exact hb ‹_›

theorem keepsP_mk {β : Type} {s0 s : State} {b : β} : KeepsP s0 (b, s) ↔ Keeps s0 s := Iff.rfl

theorem keepsT_mk {β γ : Type} {s0 s : State} {b : β} {c : γ} : KeepsT s0 (b, c, s) ↔ Keeps s0 s := Iff.rfl

theorem keeps_snd {β : Type} {s0 : State} {x : β × State} : Keeps s0 x.2 ↔ KeepsP s0 x := Iff.rfl

theorem keeps_snd_snd {β γ : Type} {s0 : State} {x : β × γ × State} : Keeps s0 x.2.2 ↔ KeepsT s0 x := Iff.rfl

theorem KeepsP.get {β : Type} {s0 : State} {x : β × State} {r : β} {t : State} (e : x = (r, t)) (h : KeepsP s0 x) : Keeps s0 t := by
  rw [e] at h; exact h

theorem KeepsT.get {β γ : Type} {s0 : State} {x : β × γ × State} {r : β} {q : γ} {t : State} (e : x = (r, q, t)) (h : KeepsT s0 x) : Keeps s0 t := by
  rw [e] at h; exact h

theorem KeepsOut.next {s0 s : State} (h : Keeps s0 s) : KeepsOut s0 (.next s) := by
  intro t e; cases e; exact h

theorem KeepsOut.refused {s0 : State} (r : Refusal) : KeepsOut s0 (.refused r) := by
  intro t e; cases e

theorem forAll_keeps {α : Type} {s0 s : State} (l : List α) (f : State → α → State) (h : Keeps s0 s)
    (hf : ∀ s a, Keeps s0 s → Keeps s0 (f s a)) : Keeps s0 (forAll l s f) := by
  unfold forAll
  induction l generalizing s with
  | nil => exact h
  | cons a l ih => exact ih (hf _ _ h)

theorem foldl_keeps {α : Type} {s0 s : State} (l : List α) (f : State → α → State) (h : Keeps s0 s)
    (hf : ∀ s a, Keeps s0 s → Keeps s0 (f s a)) : Keeps s0 (l.foldl f s) := forAll_keeps l f h hf

theorem foldl_pair_keeps {α β : Type} {s0 : State} (l : List α) (f : β × State → α → β × State) (x : β × State) (h : KeepsP s0 x)
    (hf : ∀ x a, KeepsP s0 x → KeepsP s0 (f x a)) : KeepsP s0 (l.foldl f x) := by
  induction l generalizing x with
  | nil => exact h
  | cons a l ih => exact ih _ (hf _ _ h)

theorem State.iff_keeps {s0 s : State} (c : Bool) (f : State → State) (h : Keeps s0 s) (hf : ∀ s, Keeps s0 s → Keeps s0 (f s)) :
    Keeps s0 (s.iff c f) := by
  unfold State.iff; split
  · exact hf _ h
  · exact h

theorem State.draw_keeps {s0 s : State} (h : Keeps s0 s) : Keeps s0 s.draw :=
  h.trans ⟨rfl, Nat.le_succ _, id, fun _ _ => Nat.le_refl _, Nat.le_refl _, rfl⟩

theorem State.hostWrite_keeps {s0 s : State} (a : Nat) (b : Bytes) (h : Keeps s0 s) : Keeps s0 (s.hostWrite a b) :=
  Keeps.of_mem _ h fun m => ⟨m.1, m.2.1, Memory.writes_wf _ _ m.2.2.1, m.2.2.2.1, m.2.2.2.2⟩

theorem State.tblPut_keeps {s0 s : State} (a : Nat) (b : Bytes) (h : Keeps s0 s) : Keeps s0 (s.tblPut a b) :=
  Keeps.of_mem _ h fun m => ⟨Memory.writes_wf _ _ m.1, m.2⟩

theorem pstore_writes_keeps {s0 s : State} (a : Nat) (b : Bytes) (h : Keeps s0 s) :
    Keeps s0 (s.modMem fun m => { m with pstore := m.pstore.writes zeroDefault a b }) :=
  Keeps.of_mem _ h fun m => ⟨m.1, m.2.1, m.2.2.1, Memory.writes_wf _ _ m.2.2.2.1, m.2.2.2.2⟩

theorem writeBcr_keeps {s0 s : State} (f : Flash → Flash) (h : Keeps s0 s) (hf : ∀ x, (f x).floors = x.floors) (hl : ∀ x, (f x).lmsNext = x.lmsNext)
    (hr : ∀ x, (f x).record = x.record) : Keeps s0 (writeBcr f s) := by
  unfold writeBcr
  refine Keeps.of_flash _ h (fun p _ => ?_) ?_ ?_
  · simp [floorOf, hf]
  · simp [hl]
  · simp [hr]

end Sys2Proof.Machine
end

