-- ==== Sys2Proof/Laws/KeepsOps.lean ====
section
/-! SUPPORT. Laws/KeepsOps.lean: what the operations of Machine/Ops.lean keep. -/
namespace Sys2Proof.Machine

set_option linter.unusedSimpArgs false
set_option linter.unusedTactic false
set_option linter.unreachableTactic false

theorem State.modLane_keeps {s0 : State} (s : State) (n : ℕ) (f : Lane → Lane) (hs : Keeps s0 s) : Keeps s0 (State.modLane s n f) := by
  unfold State.modLane
  repeat' first
    | with_reducible assumption
    | with_reducible refine Keeps.ite (fun _ => ?_) (fun _ => ?_)
    | with_reducible refine foldl_keeps _ _ ?_ (fun _ _ h => ?_)
    | with_reducible refine foldl_pair_keeps _ _ _ ?_ (fun _ _ h => ?_)
    | simp only [keeps_set_lanes, keeps_set_ports, keeps_set_blocks, keeps_set_sched, keeps_set_fabric, keeps_set_lasts, keeps_set_host, keeps_set_logs, keeps_set_chip, keeps_set_ctl, keeps_set_time, keeps_set_twin, keeps_set_peals, keeps_set_spine, keeps_set_circ, keeps_set_chans]

theorem State.modPort_keeps {s0 : State} (s : State) (p : ℕ) (f : Port → Port) (hs : Keeps s0 s) : Keeps s0 (State.modPort s p f) := by
  unfold State.modPort
  repeat' first
    | with_reducible assumption
    | with_reducible refine Keeps.ite (fun _ => ?_) (fun _ => ?_)
    | with_reducible refine foldl_keeps _ _ ?_ (fun _ _ h => ?_)
    | with_reducible refine foldl_pair_keeps _ _ _ ?_ (fun _ _ h => ?_)
    | simp only [keeps_set_lanes, keeps_set_ports, keeps_set_blocks, keeps_set_sched, keeps_set_fabric, keeps_set_lasts, keeps_set_host, keeps_set_logs, keeps_set_chip, keeps_set_ctl, keeps_set_time, keeps_set_twin, keeps_set_peals, keeps_set_spine, keeps_set_circ, keeps_set_chans]

theorem State.modBlock_keeps {s0 : State} (s : State) (b : ℕ) (f : Block → Block) (hs : Keeps s0 s) : Keeps s0 (State.modBlock s b f) := by
  unfold State.modBlock
  repeat' first
    | with_reducible assumption
    | with_reducible refine Keeps.ite (fun _ => ?_) (fun _ => ?_)
    | with_reducible refine foldl_keeps _ _ ?_ (fun _ _ h => ?_)
    | with_reducible refine foldl_pair_keeps _ _ _ ?_ (fun _ _ h => ?_)
    | simp only [keeps_set_lanes, keeps_set_ports, keeps_set_blocks, keeps_set_sched, keeps_set_fabric, keeps_set_lasts, keeps_set_host, keeps_set_logs, keeps_set_chip, keeps_set_ctl, keeps_set_time, keeps_set_twin, keeps_set_peals, keeps_set_spine, keeps_set_circ, keeps_set_chans]

theorem State.modMbx_keeps {s0 : State} (s : State) (n : ℕ) (f : Mailbox → Mailbox) (hs : Keeps s0 s) : Keeps s0 (State.modMbx s n f) := by
  unfold State.modMbx
  repeat' first
    | with_reducible assumption
    | with_reducible refine Keeps.ite (fun _ => ?_) (fun _ => ?_)
    | with_reducible refine foldl_keeps _ _ ?_ (fun _ _ h => ?_)
    | with_reducible refine foldl_pair_keeps _ _ _ ?_ (fun _ _ h => ?_)
    | simp only [keeps_set_lanes, keeps_set_ports, keeps_set_blocks, keeps_set_sched, keeps_set_fabric, keeps_set_lasts, keeps_set_host, keeps_set_logs, keeps_set_chip, keeps_set_ctl, keeps_set_time, keeps_set_twin, keeps_set_peals, keeps_set_spine, keeps_set_circ, keeps_set_chans]

theorem State.modChip_keeps {s0 : State} (s : State) (f : Chip → Chip) (hs : Keeps s0 s) : Keeps s0 (State.modChip s f) := by
  unfold State.modChip
  repeat' first
    | with_reducible assumption
    | with_reducible refine Keeps.ite (fun _ => ?_) (fun _ => ?_)
    | with_reducible refine foldl_keeps _ _ ?_ (fun _ _ h => ?_)
    | with_reducible refine foldl_pair_keeps _ _ _ ?_ (fun _ _ h => ?_)
    | simp only [keeps_set_lanes, keeps_set_ports, keeps_set_blocks, keeps_set_sched, keeps_set_fabric, keeps_set_lasts, keeps_set_host, keeps_set_logs, keeps_set_chip, keeps_set_ctl, keeps_set_time, keeps_set_twin, keeps_set_peals, keeps_set_spine, keeps_set_circ, keeps_set_chans]

theorem State.modLogs_keeps {s0 : State} (s : State) (f : Logs → Logs) (hs : Keeps s0 s) : Keeps s0 (State.modLogs s f) := by
  unfold State.modLogs
  repeat' first
    | with_reducible assumption
    | with_reducible refine Keeps.ite (fun _ => ?_) (fun _ => ?_)
    | with_reducible refine foldl_keeps _ _ ?_ (fun _ _ h => ?_)
    | with_reducible refine foldl_pair_keeps _ _ _ ?_ (fun _ _ h => ?_)
    | simp only [keeps_set_lanes, keeps_set_ports, keeps_set_blocks, keeps_set_sched, keeps_set_fabric, keeps_set_lasts, keeps_set_host, keeps_set_logs, keeps_set_chip, keeps_set_ctl, keeps_set_time, keeps_set_twin, keeps_set_peals, keeps_set_spine, keeps_set_circ, keeps_set_chans]

theorem State.modHost_keeps {s0 : State} (s : State) (f : HostIf → HostIf) (hs : Keeps s0 s) : Keeps s0 (State.modHost s f) := by
  unfold State.modHost
  repeat' first
    | with_reducible assumption
    | with_reducible refine Keeps.ite (fun _ => ?_) (fun _ => ?_)
    | with_reducible refine foldl_keeps _ _ ?_ (fun _ _ h => ?_)
    | with_reducible refine foldl_pair_keeps _ _ _ ?_ (fun _ _ h => ?_)
    | simp only [keeps_set_lanes, keeps_set_ports, keeps_set_blocks, keeps_set_sched, keeps_set_fabric, keeps_set_lasts, keeps_set_host, keeps_set_logs, keeps_set_chip, keeps_set_ctl, keeps_set_time, keeps_set_twin, keeps_set_peals, keeps_set_spine, keeps_set_circ, keeps_set_chans]

theorem State.modFabric_keeps {s0 : State} (s : State) (f : Fabric → Fabric) (hs : Keeps s0 s) : Keeps s0 (State.modFabric s f) := by
  unfold State.modFabric
  repeat' first
    | with_reducible assumption
    | with_reducible refine Keeps.ite (fun _ => ?_) (fun _ => ?_)
    | with_reducible refine foldl_keeps _ _ ?_ (fun _ _ h => ?_)
    | with_reducible refine foldl_pair_keeps _ _ _ ?_ (fun _ _ h => ?_)
    | simp only [keeps_set_lanes, keeps_set_ports, keeps_set_blocks, keeps_set_sched, keeps_set_fabric, keeps_set_lasts, keeps_set_host, keeps_set_logs, keeps_set_chip, keeps_set_ctl, keeps_set_time, keeps_set_twin, keeps_set_peals, keeps_set_spine, keeps_set_circ, keeps_set_chans]

theorem State.modTwin_keeps {s0 : State} (s : State) (f : Twin → Twin) (hs : Keeps s0 s) : Keeps s0 (State.modTwin s f) := by
  unfold State.modTwin
  repeat' first
    | with_reducible assumption
    | with_reducible refine Keeps.ite (fun _ => ?_) (fun _ => ?_)
    | with_reducible refine foldl_keeps _ _ ?_ (fun _ _ h => ?_)
    | with_reducible refine foldl_pair_keeps _ _ _ ?_ (fun _ _ h => ?_)
    | simp only [keeps_set_lanes, keeps_set_ports, keeps_set_blocks, keeps_set_sched, keeps_set_fabric, keeps_set_lasts, keeps_set_host, keeps_set_logs, keeps_set_chip, keeps_set_ctl, keeps_set_time, keeps_set_twin, keeps_set_peals, keeps_set_spine, keeps_set_circ, keeps_set_chans]

theorem State.modCtl_keeps {s0 : State} (s : State) (f : Ctl → Ctl) (hs : Keeps s0 s) : Keeps s0 (State.modCtl s f) := by
  unfold State.modCtl
  repeat' first
    | with_reducible assumption
    | with_reducible refine Keeps.ite (fun _ => ?_) (fun _ => ?_)
    | with_reducible refine foldl_keeps _ _ ?_ (fun _ _ h => ?_)
    | with_reducible refine foldl_pair_keeps _ _ _ ?_ (fun _ _ h => ?_)
    | simp only [keeps_set_lanes, keeps_set_ports, keeps_set_blocks, keeps_set_sched, keeps_set_fabric, keeps_set_lasts, keeps_set_host, keeps_set_logs, keeps_set_chip, keeps_set_ctl, keeps_set_time, keeps_set_twin, keeps_set_peals, keeps_set_spine, keeps_set_circ, keeps_set_chans]

theorem State.modTime_keeps {s0 : State} (s : State) (f : Time → Time) (hs : Keeps s0 s) : Keeps s0 (State.modTime s f) := by
  unfold State.modTime
  repeat' first
    | with_reducible assumption
    | with_reducible refine Keeps.ite (fun _ => ?_) (fun _ => ?_)
    | with_reducible refine foldl_keeps _ _ ?_ (fun _ _ h => ?_)
    | with_reducible refine foldl_pair_keeps _ _ _ ?_ (fun _ _ h => ?_)
    | simp only [keeps_set_lanes, keeps_set_ports, keeps_set_blocks, keeps_set_sched, keeps_set_fabric, keeps_set_lasts, keeps_set_host, keeps_set_logs, keeps_set_chip, keeps_set_ctl, keeps_set_time, keeps_set_twin, keeps_set_peals, keeps_set_spine, keeps_set_circ, keeps_set_chans]

theorem State.modLedger_keeps {s0 : State} (s : State) (die : ℕ) (f : Ledger → Ledger) (hs : Keeps s0 s) : Keeps s0 (State.modLedger s die f) := by
  unfold State.modLedger
  repeat' first
    | with_reducible assumption
    | with_reducible refine Keeps.ite (fun _ => ?_) (fun _ => ?_)
    | with_reducible refine foldl_keeps _ _ ?_ (fun _ _ h => ?_)
    | with_reducible refine foldl_pair_keeps _ _ _ ?_ (fun _ _ h => ?_)
    | with_reducible refine State.modLogs_keeps _ _ ?_

theorem ledgerAdd_keeps {s0 : State} (die : ℕ) (typ : ℕ) (payload : Bytes) (s : State) (hs : Keeps s0 s) : Keeps s0 (ledgerAdd die typ payload s) := by
  unfold ledgerAdd
  repeat' first
    | with_reducible assumption
    | with_reducible refine Keeps.ite (fun _ => ?_) (fun _ => ?_)
    | with_reducible refine foldl_keeps _ _ ?_ (fun _ _ h => ?_)
    | with_reducible refine foldl_pair_keeps _ _ _ ?_ (fun _ _ h => ?_)
    | with_reducible refine State.modLedger_keeps _ _ _ ?_
    | with_reducible refine State.modLogs_keeps _ _ ?_

theorem bumpN_keeps {s0 : State} (sec : ℕ) (ent : ℕ) (idx : ℕ) (n : ℕ) (s : State) (hs : Keeps s0 s) : Keeps s0 (bumpN sec ent idx n s) := by
  unfold bumpN
  repeat' first
    | with_reducible assumption
    | with_reducible refine Keeps.ite (fun _ => ?_) (fun _ => ?_)
    | with_reducible refine foldl_keeps _ _ ?_ (fun _ _ h => ?_)
    | with_reducible refine foldl_pair_keeps _ _ _ ?_ (fun _ _ h => ?_)
    | with_reducible refine State.modLogs_keeps _ _ ?_
    | with_reducible refine ledgerAdd_keeps _ _ _ _ ?_

theorem bump_keeps {s0 : State} (sec : ℕ) (ent : ℕ) (idx : ℕ) (s : State) (hs : Keeps s0 s) : Keeps s0 (bump sec ent idx s) := by
  unfold bump
  repeat' first
    | with_reducible assumption
    | with_reducible refine Keeps.ite (fun _ => ?_) (fun _ => ?_)
    | with_reducible refine foldl_keeps _ _ ?_ (fun _ _ h => ?_)
    | with_reducible refine foldl_pair_keeps _ _ _ ?_ (fun _ _ h => ?_)
    | with_reducible refine bumpN_keeps _ _ _ _ _ ?_

theorem bumpPort_keeps {s0 : State} (p : ℕ) (idx : ℕ) (s : State) (hs : Keeps s0 s) : Keeps s0 (bumpPort p idx s) := by
  unfold bumpPort
  repeat' first
    | with_reducible assumption
    | with_reducible refine Keeps.ite (fun _ => ?_) (fun _ => ?_)
    | with_reducible refine foldl_keeps _ _ ?_ (fun _ _ h => ?_)
    | with_reducible refine foldl_pair_keeps _ _ _ ?_ (fun _ _ h => ?_)
    | with_reducible refine bump_keeps _ _ _ _ ?_

theorem bumpPortN_keeps {s0 : State} (p : ℕ) (idx : ℕ) (n : ℕ) (s : State) (hs : Keeps s0 s) : Keeps s0 (bumpPortN p idx n s) := by
  unfold bumpPortN
  repeat' first
    | with_reducible assumption
    | with_reducible refine Keeps.ite (fun _ => ?_) (fun _ => ?_)
    | with_reducible refine foldl_keeps _ _ ?_ (fun _ _ h => ?_)
    | with_reducible refine foldl_pair_keeps _ _ _ ?_ (fun _ _ h => ?_)
    | with_reducible refine bumpN_keeps _ _ _ _ _ ?_

theorem zeroCtrs_keeps {s0 : State} (sec : ℕ) (ent : ℕ) (s : State) (hs : Keeps s0 s) : Keeps s0 (zeroCtrs sec ent s) := by
  unfold zeroCtrs
  repeat' first
    | with_reducible assumption
    | with_reducible refine Keeps.ite (fun _ => ?_) (fun _ => ?_)
    | with_reducible refine foldl_keeps _ _ ?_ (fun _ _ h => ?_)
    | with_reducible refine foldl_pair_keeps _ _ _ ?_ (fun _ _ h => ?_)
    | with_reducible refine State.modLogs_keeps _ _ ?_

theorem countDiscard_keeps {s0 : State} (p : Option Nat) (cause : Nat) (s : State) (hs : Keeps s0 s) : Keeps s0 (countDiscard p cause s) := by
  unfold countDiscard
  repeat' first
    | with_reducible assumption
    | with_reducible refine Keeps.ite (fun _ => ?_) (fun _ => ?_)
    | with_reducible refine foldl_keeps _ _ ?_ (fun _ _ h => ?_)
    | with_reducible refine foldl_pair_keeps _ _ _ ?_ (fun _ _ h => ?_)
    | with_reducible refine bumpPort_keeps _ _ _ ?_
    | with_reducible refine bump_keeps _ _ _ _ ?_
    | simp only [keeps_set_lanes, keeps_set_ports, keeps_set_blocks, keeps_set_sched, keeps_set_fabric, keeps_set_lasts, keeps_set_host, keeps_set_logs, keeps_set_chip, keeps_set_ctl, keeps_set_time, keeps_set_twin, keeps_set_peals, keeps_set_spine, keeps_set_circ, keeps_set_chans]
    | refine KeepsP.get (by with_reducible assumption) ?_
    | refine KeepsT.get (by with_reducible assumption) ?_
    | simp only [keeps_snd_snd]
    | simp only [keeps_snd]
    | simp only [keepsP_mk]
    | with_reducible refine KeepsP.ite (fun _ => ?_) (fun _ => ?_)
    | split

theorem signal_keeps {s0 : State} (v : ℕ) (s : State) (hs : Keeps s0 s) : Keeps s0 (signal v s) := by
  unfold signal
  repeat' first
    | with_reducible assumption
    | with_reducible refine Keeps.ite (fun _ => ?_) (fun _ => ?_)
    | with_reducible refine foldl_keeps _ _ ?_ (fun _ _ h => ?_)
    | with_reducible refine foldl_pair_keeps _ _ _ ?_ (fun _ _ h => ?_)
    | with_reducible refine State.modHost_keeps _ _ ?_

theorem eqFail_keeps {s0 : State} (s : State) (hs : Keeps s0 s) : Keeps s0 (eqFail s) := by
  unfold eqFail
  repeat' first
    | with_reducible assumption
    | with_reducible refine Keeps.ite (fun _ => ?_) (fun _ => ?_)
    | with_reducible refine foldl_keeps _ _ ?_ (fun _ _ h => ?_)
    | with_reducible refine foldl_pair_keeps _ _ _ ?_ (fun _ _ h => ?_)
    | with_reducible refine State.modHost_keeps _ _ ?_
    | with_reducible refine signal_keeps _ _ ?_

theorem eqPut_keeps {s0 : State} (e : Event) (s : State) (hs : Keeps s0 s) : Keeps s0 (eqPut e s) := by
  unfold eqPut
  repeat' first
    | with_reducible assumption
    | with_reducible refine Keeps.ite (fun _ => ?_) (fun _ => ?_)
    | with_reducible refine foldl_keeps _ _ ?_ (fun _ _ h => ?_)
    | with_reducible refine foldl_pair_keeps _ _ _ ?_ (fun _ _ h => ?_)
    | with_reducible refine State.hostWrite_keeps _ _ ?_
    | with_reducible refine bump_keeps _ _ _ _ ?_
    | with_reducible refine signal_keeps _ _ ?_
    | with_reducible refine State.modHost_keeps _ _ ?_
    | with_reducible refine eqFail_keeps _ ?_

theorem postEvent_keeps {s0 : State} (code : ℕ) (data : Bytes) (s : State) (hs : Keeps s0 s) : Keeps s0 (postEvent code data s) := by
  unfold postEvent
  repeat' first
    | with_reducible assumption
    | with_reducible refine Keeps.ite (fun _ => ?_) (fun _ => ?_)
    | with_reducible refine foldl_keeps _ _ ?_ (fun _ _ h => ?_)
    | with_reducible refine foldl_pair_keeps _ _ _ ?_ (fun _ _ h => ?_)
    | with_reducible refine State.modLogs_keeps _ _ ?_
    | with_reducible refine eqPut_keeps _ _ ?_

end Sys2Proof.Machine
end

