-- ==== Sys2Proof/Laws/KeepsRoute.lean ====
section
/-! SUPPORT. Laws/KeepsRoute.lean: what the operations of Machine/Route.lean keep. -/
namespace Sys2Proof.Machine

set_option linter.unusedSimpArgs false
set_option linter.unusedTactic false
set_option linter.unreachableTactic false

theorem hubWait_keeps {s0 : State} (x : HubItem) (s : State) (hs : Keeps s0 s) : Keeps s0 (hubWait x s) := by
  unfold hubWait
  repeat' first
    | with_reducible assumption
    | with_reducible refine Keeps.ite (fun _ => ?_) (fun _ => ?_)
    | with_reducible refine foldl_keeps _ _ ?_ (fun _ _ h => ?_)
    | with_reducible refine foldl_pair_keeps _ _ _ ?_ (fun _ _ h => ?_)
    | simp only [keeps_set_lanes, keeps_set_ports, keeps_set_blocks, keeps_set_sched, keeps_set_fabric, keeps_set_lasts, keeps_set_host, keeps_set_logs, keeps_set_chip, keeps_set_ctl, keeps_set_time, keeps_set_twin, keeps_set_peals, keeps_set_spine, keeps_set_circ, keeps_set_chans]
    | refine KeepsP.get (by with_reducible assumption) ?_
    | refine KeepsT.get (by with_reducible assumption) ?_
    | simp only [keeps_snd_snd]
    | simp only [keeps_snd]
    | simp only [keepsP_mk]
    | with_reducible refine KeepsP.ite (fun _ => ?_) (fun _ => ?_)
    | split

theorem freeRoom_keeps {s0 : State} (o : Origin) (s : State) (hs : Keeps s0 s) : Keeps s0 (freeRoom o s) := by
  unfold freeRoom
  repeat' first
    | with_reducible assumption
    | with_reducible refine Keeps.ite (fun _ => ?_) (fun _ => ?_)
    | with_reducible refine foldl_keeps _ _ ?_ (fun _ _ h => ?_)
    | with_reducible refine foldl_pair_keeps _ _ _ ?_ (fun _ _ h => ?_)
    | with_reducible refine State.modPort_keeps _ _ _ ?_
    | simp only [keeps_set_lanes, keeps_set_ports, keeps_set_blocks, keeps_set_sched, keeps_set_fabric, keeps_set_lasts, keeps_set_host, keeps_set_logs, keeps_set_chip, keeps_set_ctl, keeps_set_time, keeps_set_twin, keeps_set_peals, keeps_set_spine, keeps_set_circ, keeps_set_chans]
    | refine KeepsP.get (by with_reducible assumption) ?_
    | refine KeepsT.get (by with_reducible assumption) ?_
    | simp only [keeps_snd_snd]
    | simp only [keeps_snd]
    | simp only [keepsP_mk]
    | with_reducible refine KeepsP.ite (fun _ => ?_) (fun _ => ?_)
    | split

theorem returnCredit_keeps {s0 : State} (o : Origin) (s : State) (hs : Keeps s0 s) : Keeps s0 (returnCredit o s) := by
  unfold returnCredit
  repeat' first
    | with_reducible assumption
    | with_reducible refine Keeps.ite (fun _ => ?_) (fun _ => ?_)
    | with_reducible refine foldl_keeps _ _ ?_ (fun _ _ h => ?_)
    | with_reducible refine foldl_pair_keeps _ _ _ ?_ (fun _ _ h => ?_)
    | with_reducible refine State.modLane_keeps _ _ _ ?_
    | with_reducible refine freeRoom_keeps _ _ ?_
    | simp only [keeps_set_lanes, keeps_set_ports, keeps_set_blocks, keeps_set_sched, keeps_set_fabric, keeps_set_lasts, keeps_set_host, keeps_set_logs, keeps_set_chip, keeps_set_ctl, keeps_set_time, keeps_set_twin, keeps_set_peals, keeps_set_spine, keeps_set_circ, keeps_set_chans]
    | refine KeepsP.get (by with_reducible assumption) ?_
    | refine KeepsT.get (by with_reducible assumption) ?_
    | simp only [keeps_snd_snd]
    | simp only [keeps_snd]
    | simp only [keepsP_mk]
    | with_reducible refine KeepsP.ite (fun _ => ?_) (fun _ => ?_)
    | split

theorem leaveBlock_keeps {s0 : State} (n : Nat) (c : BufCell) (s : State) (hs : Keeps s0 s) : Keeps s0 (leaveBlock n c s) := by
  unfold leaveBlock
  repeat' first
    | with_reducible assumption
    | with_reducible refine Keeps.ite (fun _ => ?_) (fun _ => ?_)
    | with_reducible refine foldl_keeps _ _ ?_ (fun _ _ h => ?_)
    | with_reducible refine foldl_pair_keeps _ _ _ ?_ (fun _ _ h => ?_)
    | with_reducible refine returnCredit_keeps _ _ ?_
    | with_reducible refine State.modBlock_keeps _ _ _ ?_
    | simp only [keeps_set_lanes, keeps_set_ports, keeps_set_blocks, keeps_set_sched, keeps_set_fabric, keeps_set_lasts, keeps_set_host, keeps_set_logs, keeps_set_chip, keeps_set_ctl, keeps_set_time, keeps_set_twin, keeps_set_peals, keeps_set_spine, keeps_set_circ, keeps_set_chans]
    | refine KeepsP.get (by with_reducible assumption) ?_
    | refine KeepsT.get (by with_reducible assumption) ?_
    | simp only [keeps_snd_snd]
    | simp only [keeps_snd]
    | simp only [keepsP_mk]
    | with_reducible refine KeepsP.ite (fun _ => ?_) (fun _ => ?_)
    | split

theorem dropCell_keeps {s0 : State} (c : BufCell) (cause : ℕ) (s : State) (hs : Keeps s0 s) : Keeps s0 (dropCell c cause s) := by
  unfold dropCell
  repeat' first
    | with_reducible assumption
    | with_reducible refine Keeps.ite (fun _ => ?_) (fun _ => ?_)
    | with_reducible refine foldl_keeps _ _ ?_ (fun _ _ h => ?_)
    | with_reducible refine foldl_pair_keeps _ _ _ ?_ (fun _ _ h => ?_)
    | with_reducible refine countDiscard_keeps _ _ _ ?_
    | with_reducible refine returnCredit_keeps _ _ ?_

theorem markCell_keeps {s0 : State} (c : BufCell) (d : ℕ) (s : State) (hs : Keeps s0 s) : KeepsP s0 (markCell c d s) := by
  unfold markCell
  repeat' first
    | with_reducible assumption
    | with_reducible refine KeepsP.ite (fun _ => ?_) (fun _ => ?_)
    | simp only [keepsP_mk]
    | with_reducible refine Keeps.ite (fun _ => ?_) (fun _ => ?_)
    | with_reducible refine foldl_keeps _ _ ?_ (fun _ _ h => ?_)
    | with_reducible refine foldl_pair_keeps _ _ _ ?_ (fun _ _ h => ?_)
    | with_reducible refine State.draw_keeps ?_

theorem joinVoq_keeps {s0 : State} (n : ℕ) (p : ℕ) (c : BufCell) (s : State) (hs : Keeps s0 s) : Keeps s0 (joinVoq n p c s) := by
  unfold joinVoq
  repeat' first
    | with_reducible assumption
    | with_reducible refine Keeps.ite (fun _ => ?_) (fun _ => ?_)
    | with_reducible refine foldl_keeps _ _ ?_ (fun _ _ h => ?_)
    | with_reducible refine foldl_pair_keeps _ _ _ ?_ (fun _ _ h => ?_)
    | with_reducible refine markCell_keeps _ _ _ ?_
    | with_reducible refine State.modBlock_keeps _ _ _ ?_
    | with_reducible refine bumpPort_keeps _ _ _ ?_
    | simp only [keeps_set_lanes, keeps_set_ports, keeps_set_blocks, keeps_set_sched, keeps_set_fabric, keeps_set_lasts, keeps_set_host, keeps_set_logs, keeps_set_chip, keeps_set_ctl, keeps_set_time, keeps_set_twin, keeps_set_peals, keeps_set_spine, keeps_set_circ, keeps_set_chans]
    | refine KeepsP.get (by with_reducible assumption) ?_
    | refine KeepsT.get (by with_reducible assumption) ?_
    | simp only [keeps_snd_snd]
    | simp only [keeps_snd]

theorem joinExpress_keeps {s0 : State} (n : ℕ) (p : ℕ) (c : BufCell) (s : State) (hs : Keeps s0 s) : Keeps s0 (joinExpress n p c s) := by
  unfold joinExpress
  repeat' first
    | with_reducible assumption
    | with_reducible refine Keeps.ite (fun _ => ?_) (fun _ => ?_)
    | with_reducible refine foldl_keeps _ _ ?_ (fun _ _ h => ?_)
    | with_reducible refine foldl_pair_keeps _ _ _ ?_ (fun _ _ h => ?_)
    | with_reducible refine State.modPort_keeps _ _ _ ?_
    | with_reducible refine State.modBlock_keeps _ _ _ ?_

theorem joinQueue_keeps {s0 : State} (n : Nat) (p : Nat) (c : BufCell) (s : State) (hs : Keeps s0 s) : Keeps s0 (joinQueue n p c s) := by
  unfold joinQueue
  repeat' first
    | with_reducible assumption
    | with_reducible refine Keeps.ite (fun _ => ?_) (fun _ => ?_)
    | with_reducible refine foldl_keeps _ _ ?_ (fun _ _ h => ?_)
    | with_reducible refine foldl_pair_keeps _ _ _ ?_ (fun _ _ h => ?_)
    | with_reducible refine joinExpress_keeps _ _ _ _ ?_
    | with_reducible refine joinVoq_keeps _ _ _ _ ?_
    | with_reducible refine State.modBlock_keeps _ _ _ ?_
    | simp only [keeps_set_lanes, keeps_set_ports, keeps_set_blocks, keeps_set_sched, keeps_set_fabric, keeps_set_lasts, keeps_set_host, keeps_set_logs, keeps_set_chip, keeps_set_ctl, keeps_set_time, keeps_set_twin, keeps_set_peals, keeps_set_spine, keeps_set_circ, keeps_set_chans]
    | refine KeepsP.get (by with_reducible assumption) ?_
    | refine KeepsT.get (by with_reducible assumption) ?_
    | simp only [keeps_snd_snd]
    | simp only [keeps_snd]
    | simp only [keepsP_mk]
    | with_reducible refine KeepsP.ite (fun _ => ?_) (fun _ => ?_)
    | split

theorem sprayPick_keeps {s0 : State} (n : ℕ) (tbl : ℕ) (bank : ℕ) (idx : ℕ) (vc : ℕ) (cand : List (ℕ × ℕ × ℕ)) (s : State) (hs : Keeps s0 s) : KeepsP s0 (sprayPick n tbl bank idx vc cand s) := by
  unfold sprayPick
  repeat' first
    | with_reducible assumption
    | with_reducible refine KeepsP.ite (fun _ => ?_) (fun _ => ?_)
    | simp only [keepsP_mk]
    | with_reducible refine Keeps.ite (fun _ => ?_) (fun _ => ?_)
    | with_reducible refine forAll_keeps _ _ ?_ (fun _ _ h => ?_)
    | with_reducible refine foldl_keeps _ _ ?_ (fun _ _ h => ?_)
    | with_reducible refine foldl_pair_keeps _ _ _ ?_ (fun _ _ h => ?_)
    | with_reducible refine State.modBlock_keeps _ _ _ ?_
    | simp only [keeps_set_lanes, keeps_set_ports, keeps_set_blocks, keeps_set_sched, keeps_set_fabric, keeps_set_lasts, keeps_set_host, keeps_set_logs, keeps_set_chip, keeps_set_ctl, keeps_set_time, keeps_set_twin, keeps_set_peals, keeps_set_spine, keeps_set_circ, keeps_set_chans]
    | refine KeepsP.get (by with_reducible assumption) ?_
    | refine KeepsT.get (by with_reducible assumption) ?_
    | simp only [keeps_snd_snd]
    | simp only [keeps_snd]
    | simp only [keepsP_mk]
    | with_reducible refine KeepsP.ite (fun _ => ?_) (fun _ => ?_)
    | split

theorem chooseFrom_keeps {s0 : State} (n : ℕ) (tbl : ℕ) (bank : ℕ) (idx : ℕ) (c : Cell) (s : State) (hs : Keeps s0 s) : KeepsP s0 (chooseFrom n tbl bank idx c s) := by
  unfold chooseFrom
  repeat' first
    | with_reducible assumption
    | with_reducible refine KeepsP.ite (fun _ => ?_) (fun _ => ?_)
    | simp only [keepsP_mk]
    | with_reducible refine Keeps.ite (fun _ => ?_) (fun _ => ?_)
    | with_reducible refine foldl_keeps _ _ ?_ (fun _ _ h => ?_)
    | with_reducible refine foldl_pair_keeps _ _ _ ?_ (fun _ _ h => ?_)
    | with_reducible refine sprayPick_keeps _ _ _ _ _ _ _ ?_
    | simp only [keeps_set_lanes, keeps_set_ports, keeps_set_blocks, keeps_set_sched, keeps_set_fabric, keeps_set_lasts, keeps_set_host, keeps_set_logs, keeps_set_chip, keeps_set_ctl, keeps_set_time, keeps_set_twin, keeps_set_peals, keeps_set_spine, keeps_set_circ, keeps_set_chans]
    | refine KeepsP.get (by with_reducible assumption) ?_
    | refine KeepsT.get (by with_reducible assumption) ?_
    | simp only [keeps_snd_snd]
    | simp only [keeps_snd]
    | simp only [keepsP_mk]
    | with_reducible refine KeepsP.ite (fun _ => ?_) (fun _ => ?_)
    | split

theorem readException_keeps {s0 : State} (n : ℕ) (bank : ℕ) (dst : ℕ) (s : State) (hs : Keeps s0 s) : KeepsP s0 (readException n bank dst s) := by
  unfold readException
  repeat' first
    | with_reducible assumption
    | with_reducible refine KeepsP.ite (fun _ => ?_) (fun _ => ?_)
    | simp only [keepsP_mk]
    | with_reducible refine Keeps.ite (fun _ => ?_) (fun _ => ?_)
    | with_reducible refine foldl_keeps _ _ ?_ (fun _ _ h => ?_)
    | with_reducible refine foldl_pair_keeps _ _ _ ?_ (fun _ _ h => ?_)
    | with_reducible refine bump_keeps _ _ _ _ ?_
    | with_reducible refine State.modBlock_keeps _ _ _ ?_

theorem routeUnicast_keeps {s0 : State} (n : ℕ) (bank : ℕ) (c : Cell) (s : State) (hs : Keeps s0 s) : KeepsP s0 (routeUnicast n bank c s) := by
  unfold routeUnicast
  repeat' first
    | with_reducible assumption
    | with_reducible refine KeepsP.ite (fun _ => ?_) (fun _ => ?_)
    | simp only [keepsP_mk]
    | with_reducible refine Keeps.ite (fun _ => ?_) (fun _ => ?_)
    | with_reducible refine foldl_keeps _ _ ?_ (fun _ _ h => ?_)
    | with_reducible refine foldl_pair_keeps _ _ _ ?_ (fun _ _ h => ?_)
    | with_reducible refine bump_keeps _ _ _ _ ?_
    | with_reducible refine readException_keeps _ _ _ _ ?_
    | with_reducible refine chooseFrom_keeps _ _ _ _ _ _ ?_
    | simp only [keeps_set_lanes, keeps_set_ports, keeps_set_blocks, keeps_set_sched, keeps_set_fabric, keeps_set_lasts, keeps_set_host, keeps_set_logs, keeps_set_chip, keeps_set_ctl, keeps_set_time, keeps_set_twin, keeps_set_peals, keeps_set_spine, keeps_set_circ, keeps_set_chans]
    | refine KeepsP.get (by with_reducible assumption) ?_
    | refine KeepsT.get (by with_reducible assumption) ?_
    | simp only [keeps_snd_snd]
    | simp only [keeps_snd]

theorem sampleCell_keeps {s0 : State} (n : ℕ) (c : Cell) (r : Route) (s : State) (hs : Keeps s0 s) : Keeps s0 (sampleCell n c r s) := by
  unfold sampleCell
  repeat' first
    | with_reducible assumption
    | with_reducible refine Keeps.ite (fun _ => ?_) (fun _ => ?_)
    | with_reducible refine foldl_keeps _ _ ?_ (fun _ _ h => ?_)
    | with_reducible refine foldl_pair_keeps _ _ _ ?_ (fun _ _ h => ?_)
    | with_reducible refine State.draw_keeps ?_
    | with_reducible refine State.modFabric_keeps _ _ ?_
    | simp only [keeps_set_lanes, keeps_set_ports, keeps_set_blocks, keeps_set_sched, keeps_set_fabric, keeps_set_lasts, keeps_set_host, keeps_set_logs, keeps_set_chip, keeps_set_ctl, keeps_set_time, keeps_set_twin, keeps_set_peals, keeps_set_spine, keeps_set_circ, keeps_set_chans]
    | refine KeepsP.get (by with_reducible assumption) ?_
    | refine KeepsT.get (by with_reducible assumption) ?_
    | simp only [keeps_snd_snd]
    | simp only [keeps_snd]
    | simp only [keepsP_mk]
    | with_reducible refine KeepsP.ite (fun _ => ?_) (fun _ => ?_)
    | split

theorem freshId_keeps {s0 : State} (s : State) (hs : Keeps s0 s) : KeepsP s0 (freshId s) := by
  unfold freshId
  repeat' first
    | with_reducible assumption
    | with_reducible refine KeepsP.ite (fun _ => ?_) (fun _ => ?_)
    | simp only [keepsP_mk]
    | with_reducible refine Keeps.ite (fun _ => ?_) (fun _ => ?_)
    | with_reducible refine foldl_keeps _ _ ?_ (fun _ _ h => ?_)
    | with_reducible refine foldl_pair_keeps _ _ _ ?_ (fun _ _ h => ?_)
    | simp only [keeps_set_lanes, keeps_set_ports, keeps_set_blocks, keeps_set_sched, keeps_set_fabric, keeps_set_lasts, keeps_set_host, keeps_set_logs, keeps_set_chip, keeps_set_ctl, keeps_set_time, keeps_set_twin, keeps_set_peals, keeps_set_spine, keeps_set_circ, keeps_set_chans]
    | refine KeepsP.get (by with_reducible assumption) ?_
    | refine KeepsT.get (by with_reducible assumption) ?_
    | simp only [keeps_snd_snd]
    | simp only [keeps_snd]
    | simp only [keepsP_mk]
    | with_reducible refine KeepsP.ite (fun _ => ?_) (fun _ => ?_)
    | split

theorem takeEntry_keeps {s0 : State} (n : Nat) (id : Nat) (s : State) (hs : Keeps s0 s) : Keeps s0 (takeEntry n id s) := by
  unfold takeEntry
  repeat' first
    | with_reducible assumption
    | with_reducible refine Keeps.ite (fun _ => ?_) (fun _ => ?_)
    | with_reducible refine foldl_keeps _ _ ?_ (fun _ _ h => ?_)
    | with_reducible refine foldl_pair_keeps _ _ _ ?_ (fun _ _ h => ?_)
    | with_reducible refine State.modBlock_keeps _ _ _ ?_
    | simp only [keeps_set_lanes, keeps_set_ports, keeps_set_blocks, keeps_set_sched, keeps_set_fabric, keeps_set_lasts, keeps_set_host, keeps_set_logs, keeps_set_chip, keeps_set_ctl, keeps_set_time, keeps_set_twin, keeps_set_peals, keeps_set_spine, keeps_set_circ, keeps_set_chans]
    | refine KeepsP.get (by with_reducible assumption) ?_
    | refine KeepsT.get (by with_reducible assumption) ?_
    | simp only [keeps_snd_snd]
    | simp only [keeps_snd]
    | simp only [keepsP_mk]
    | with_reducible refine KeepsP.ite (fun _ => ?_) (fun _ => ?_)
    | split

theorem newEnt_keeps {s0 : State} (n : Nat) (s : State) (hs : Keeps s0 s) : KeepsP s0 (newEnt n s) := by
  unfold newEnt
  repeat' first
    | with_reducible assumption
    | with_reducible refine KeepsP.ite (fun _ => ?_) (fun _ => ?_)
    | simp only [keepsP_mk]
    | with_reducible refine Keeps.ite (fun _ => ?_) (fun _ => ?_)
    | with_reducible refine foldl_keeps _ _ ?_ (fun _ _ h => ?_)
    | with_reducible refine foldl_pair_keeps _ _ _ ?_ (fun _ _ h => ?_)
    | with_reducible refine freshId_keeps _ ?_
    | with_reducible refine takeEntry_keeps _ _ _ ?_
    | simp only [keeps_set_lanes, keeps_set_ports, keeps_set_blocks, keeps_set_sched, keeps_set_fabric, keeps_set_lasts, keeps_set_host, keeps_set_logs, keeps_set_chip, keeps_set_ctl, keeps_set_time, keeps_set_twin, keeps_set_peals, keeps_set_spine, keeps_set_circ, keeps_set_chans]
    | refine KeepsP.get (by with_reducible assumption) ?_
    | refine KeepsT.get (by with_reducible assumption) ?_
    | simp only [keeps_snd_snd]
    | simp only [keeps_snd]
    | simp only [keepsP_mk]
    | with_reducible refine KeepsP.ite (fun _ => ?_) (fun _ => ?_)
    | split

theorem place1_keeps {s0 : State} (n : ℕ) (p : ℕ) (c : BufCell) (s : State) (hs : Keeps s0 s) : Keeps s0 (place1 n p c s) := by
  unfold place1
  repeat' first
    | with_reducible assumption
    | with_reducible refine Keeps.ite (fun _ => ?_) (fun _ => ?_)
    | with_reducible refine foldl_keeps _ _ ?_ (fun _ _ h => ?_)
    | with_reducible refine foldl_pair_keeps _ _ _ ?_ (fun _ _ h => ?_)
    | with_reducible refine joinQueue_keeps _ _ _ _ ?_
    | with_reducible refine State.modBlock_keeps _ _ _ ?_

theorem countEnd_keeps {s0 : State} (c : Cell) (s : State) (hs : Keeps s0 s) : Keeps s0 (countEnd c s) := by
  unfold countEnd
  repeat' first
    | with_reducible assumption
    | with_reducible refine Keeps.ite (fun _ => ?_) (fun _ => ?_)
    | with_reducible refine foldl_keeps _ _ ?_ (fun _ _ h => ?_)
    | with_reducible refine foldl_pair_keeps _ _ _ ?_ (fun _ _ h => ?_)
    | with_reducible refine bump_keeps _ _ _ _ ?_
    | simp only [keeps_set_lanes, keeps_set_ports, keeps_set_blocks, keeps_set_sched, keeps_set_fabric, keeps_set_lasts, keeps_set_host, keeps_set_logs, keeps_set_chip, keeps_set_ctl, keeps_set_time, keeps_set_twin, keeps_set_peals, keeps_set_spine, keeps_set_circ, keeps_set_chans]
    | refine KeepsP.get (by with_reducible assumption) ?_
    | refine KeepsT.get (by with_reducible assumption) ?_
    | simp only [keeps_snd_snd]
    | simp only [keeps_snd]
    | simp only [keepsP_mk]
    | with_reducible refine KeepsP.ite (fun _ => ?_) (fun _ => ?_)
    | split

theorem toControl_keeps {s0 : State} (n : Nat) (c : BufCell) (s : State) (hs : Keeps s0 s) : Keeps s0 (toControl n c s) := by
  unfold toControl
  repeat' first
    | with_reducible assumption
    | with_reducible refine Keeps.ite (fun _ => ?_) (fun _ => ?_)
    | with_reducible refine foldl_keeps _ _ ?_ (fun _ _ h => ?_)
    | with_reducible refine foldl_pair_keeps _ _ _ ?_ (fun _ _ h => ?_)
    | with_reducible refine returnCredit_keeps _ _ ?_
    | with_reducible refine hubWait_keeps _ _ ?_
    | simp only [keeps_set_lanes, keeps_set_ports, keeps_set_blocks, keeps_set_sched, keeps_set_fabric, keeps_set_lasts, keeps_set_host, keeps_set_logs, keeps_set_chip, keeps_set_ctl, keeps_set_time, keeps_set_twin, keeps_set_peals, keeps_set_spine, keeps_set_circ, keeps_set_chans]
    | refine KeepsP.get (by with_reducible assumption) ?_
    | refine KeepsT.get (by with_reducible assumption) ?_
    | simp only [keeps_snd_snd]
    | simp only [keeps_snd]
    | simp only [keepsP_mk]
    | with_reducible refine KeepsP.ite (fun _ => ?_) (fun _ => ?_)
    | split

theorem applyRoute_keeps {s0 : State} (n : Nat) (c : BufCell) (r : Routed) (s : State) (hs : Keeps s0 s) : Keeps s0 (applyRoute n c r s) := by
  unfold applyRoute
  repeat' first
    | with_reducible assumption
    | with_reducible refine Keeps.ite (fun _ => ?_) (fun _ => ?_)
    | with_reducible refine foldl_keeps _ _ ?_ (fun _ _ h => ?_)
    | with_reducible refine foldl_pair_keeps _ _ _ ?_ (fun _ _ h => ?_)
    | with_reducible refine dropCell_keeps _ _ _ ?_
    | with_reducible refine toControl_keeps _ _ _ ?_
    | with_reducible refine countEnd_keeps _ _ ?_
    | with_reducible refine place1_keeps _ _ _ _ ?_
    | with_reducible refine sampleCell_keeps _ _ _ _ ?_
    | simp only [keeps_set_lanes, keeps_set_ports, keeps_set_blocks, keeps_set_sched, keeps_set_fabric, keeps_set_lasts, keeps_set_host, keeps_set_logs, keeps_set_chip, keeps_set_ctl, keeps_set_time, keeps_set_twin, keeps_set_peals, keeps_set_spine, keeps_set_circ, keeps_set_chans]
    | refine KeepsP.get (by with_reducible assumption) ?_
    | refine KeepsT.get (by with_reducible assumption) ?_
    | simp only [keeps_snd_snd]
    | simp only [keeps_snd]
    | simp only [keepsP_mk]
    | with_reducible refine KeepsP.ite (fun _ => ?_) (fun _ => ?_)
    | split

theorem chooseCopies_keeps {s0 : State} (n : ℕ) (bank : ℕ) (c : BufCell) (a : List McTarget) (a1 : List ℕ) (a2 : List McTarget) (a3 : List (ℕ × BufCell)) (a4 : State) (ha4 : Keeps s0 a4) : KeepsT s0 (chooseCopies n bank c a a1 a2 a3 a4) := by
  induction a generalizing a1 a2 a3 a4 with
  | nil => unfold chooseCopies; simp only [keepsT_mk]; with_reducible assumption
  | cons t ts ih =>
    unfold chooseCopies
    repeat' first
      | with_reducible assumption
      | with_reducible refine KeepsT.ite (fun _ => ?_) (fun _ => ?_)
      | simp only [keepsT_mk]
      | with_reducible refine Keeps.ite (fun _ => ?_) (fun _ => ?_)
      | with_reducible refine foldl_keeps _ _ ?_ (fun _ _ h => ?_)
      | with_reducible refine foldl_pair_keeps _ _ _ ?_ (fun _ _ h => ?_)
      | simp only [keeps_set_lanes, keeps_set_ports, keeps_set_blocks, keeps_set_sched, keeps_set_fabric, keeps_set_lasts, keeps_set_host, keeps_set_logs, keeps_set_chip, keeps_set_ctl, keeps_set_time, keeps_set_twin, keeps_set_peals, keeps_set_spine, keeps_set_circ, keeps_set_chans]
      | with_reducible refine ih _ _ _ _ ?_
      | with_reducible refine countDiscard_keeps _ _ _ ?_
      | with_reducible refine bump_keeps _ _ _ _ ?_
      | refine KeepsP.get (by with_reducible assumption) ?_
      | refine KeepsT.get (by with_reducible assumption) ?_
      | simp only [keeps_snd_snd]
      | simp only [keeps_snd]
      | simp only [keepsP_mk]
      | with_reducible refine KeepsP.ite (fun _ => ?_) (fun _ => ?_)
      | dsimp -iota -proj only
      | split

theorem writeCopy_keeps {s0 : State} (n : ℕ) (p : ℕ) (c : BufCell) (s : State) (hs : Keeps s0 s) : Keeps s0 (writeCopy n p c s) := by
  unfold writeCopy
  repeat' first
    | with_reducible assumption
    | with_reducible refine Keeps.ite (fun _ => ?_) (fun _ => ?_)
    | with_reducible refine foldl_keeps _ _ ?_ (fun _ _ h => ?_)
    | with_reducible refine foldl_pair_keeps _ _ _ ?_ (fun _ _ h => ?_)
    | with_reducible refine joinVoq_keeps _ _ _ _ ?_
    | with_reducible refine bump_keeps _ _ _ _ ?_

theorem routeMcast_keeps {s0 : State} (n : ℕ) (bank : ℕ) (c : BufCell) (s : State) (hs : Keeps s0 s) : Keeps s0 (routeMcast n bank c s) := by
  unfold routeMcast
  repeat' first
    | with_reducible assumption
    | with_reducible refine Keeps.ite (fun _ => ?_) (fun _ => ?_)
    | with_reducible refine foldl_keeps _ _ ?_ (fun _ _ h => ?_)
    | with_reducible refine foldl_pair_keeps _ _ _ ?_ (fun _ _ h => ?_)
    | with_reducible refine dropCell_keeps _ _ _ ?_
    | with_reducible refine chooseCopies_keeps _ _ _ _ _ _ _ _ ?_
    | with_reducible refine State.modBlock_keeps _ _ _ ?_
    | simp only [keeps_set_lanes, keeps_set_ports, keeps_set_blocks, keeps_set_sched, keeps_set_fabric, keeps_set_lasts, keeps_set_host, keeps_set_logs, keeps_set_chip, keeps_set_ctl, keeps_set_time, keeps_set_twin, keeps_set_peals, keeps_set_spine, keeps_set_circ, keeps_set_chans]
    | refine KeepsP.get (by with_reducible assumption) ?_
    | refine KeepsT.get (by with_reducible assumption) ?_
    | simp only [keeps_snd_snd]
    | simp only [keeps_snd]
    | simp only [keepsP_mk]
    | with_reducible refine KeepsP.ite (fun _ => ?_) (fun _ => ?_)
    | split

theorem ingress_keeps {s0 : State} (n : ℕ) (c : BufCell) (s : State) (hs : Keeps s0 s) : Keeps s0 (ingress n c s) := by
  unfold ingress
  repeat' first
    | with_reducible assumption
    | with_reducible refine Keeps.ite (fun _ => ?_) (fun _ => ?_)
    | with_reducible refine foldl_keeps _ _ ?_ (fun _ _ h => ?_)
    | with_reducible refine foldl_pair_keeps _ _ _ ?_ (fun _ _ h => ?_)
    | with_reducible refine dropCell_keeps _ _ _ ?_
    | with_reducible refine routeMcast_keeps _ _ _ _ ?_
    | with_reducible refine routeUnicast_keeps _ _ _ _ ?_
    | with_reducible refine applyRoute_keeps _ _ _ _ ?_
    | simp only [keeps_set_lanes, keeps_set_ports, keeps_set_blocks, keeps_set_sched, keeps_set_fabric, keeps_set_lasts, keeps_set_host, keeps_set_logs, keeps_set_chip, keeps_set_ctl, keeps_set_time, keeps_set_twin, keeps_set_peals, keeps_set_spine, keeps_set_circ, keeps_set_chans]
    | refine KeepsP.get (by with_reducible assumption) ?_
    | refine KeepsT.get (by with_reducible assumption) ?_
    | simp only [keeps_snd_snd]
    | simp only [keeps_snd]
    | simp only [keepsP_mk]
    | with_reducible refine KeepsP.ite (fun _ => ?_) (fun _ => ?_)
    | split

theorem originate_keeps {s0 : State} (n : Nat) (cell : Cell) (s : State) (hs : Keeps s0 s) : KeepsP s0 (originate n cell s) := by
  unfold originate
  repeat' first
    | with_reducible assumption
    | with_reducible refine KeepsP.ite (fun _ => ?_) (fun _ => ?_)
    | simp only [keepsP_mk]
    | with_reducible refine Keeps.ite (fun _ => ?_) (fun _ => ?_)
    | with_reducible refine foldl_keeps _ _ ?_ (fun _ _ h => ?_)
    | with_reducible refine foldl_pair_keeps _ _ _ ?_ (fun _ _ h => ?_)
    | with_reducible refine newEnt_keeps _ _ ?_
    | with_reducible refine routeUnicast_keeps _ _ _ _ ?_
    | with_reducible refine applyRoute_keeps _ _ _ _ ?_
    | simp only [keeps_set_lanes, keeps_set_ports, keeps_set_blocks, keeps_set_sched, keeps_set_fabric, keeps_set_lasts, keeps_set_host, keeps_set_logs, keeps_set_chip, keeps_set_ctl, keeps_set_time, keeps_set_twin, keeps_set_peals, keeps_set_spine, keeps_set_circ, keeps_set_chans]
    | refine KeepsP.get (by with_reducible assumption) ?_
    | refine KeepsT.get (by with_reducible assumption) ?_
    | simp only [keeps_snd_snd]
    | simp only [keeps_snd]
    | simp only [keepsP_mk]
    | with_reducible refine KeepsP.ite (fun _ => ?_) (fun _ => ?_)
    | split

theorem sendCell_keeps {s0 : State} (n : ℕ) (cell : Cell) (s : State) (hs : Keeps s0 s) : Keeps s0 (sendCell n cell s) := by
  unfold sendCell
  repeat' first
    | with_reducible assumption
    | with_reducible refine Keeps.ite (fun _ => ?_) (fun _ => ?_)
    | with_reducible refine foldl_keeps _ _ ?_ (fun _ _ h => ?_)
    | with_reducible refine foldl_pair_keeps _ _ _ ?_ (fun _ _ h => ?_)
    | with_reducible refine originate_keeps _ _ _ ?_
    | simp only [keeps_set_lanes, keeps_set_ports, keeps_set_blocks, keeps_set_sched, keeps_set_fabric, keeps_set_lasts, keeps_set_host, keeps_set_logs, keeps_set_chip, keeps_set_ctl, keeps_set_time, keeps_set_twin, keeps_set_peals, keeps_set_spine, keeps_set_circ, keeps_set_chans]
    | refine KeepsP.get (by with_reducible assumption) ?_
    | refine KeepsT.get (by with_reducible assumption) ?_
    | simp only [keeps_snd_snd]
    | simp only [keeps_snd]

theorem replicateOwn_keeps {s0 : State} (n : Nat) (cell : Cell) (ts : List McTarget) (s : State) (hs : Keeps s0 s) : KeepsP s0 (replicateOwn n cell ts s) := by
  unfold replicateOwn
  repeat' first
    | with_reducible assumption
    | with_reducible refine KeepsP.ite (fun _ => ?_) (fun _ => ?_)
    | simp only [keepsP_mk]
    | with_reducible refine Keeps.ite (fun _ => ?_) (fun _ => ?_)
    | with_reducible refine forAll_keeps _ _ ?_ (fun _ _ h => ?_)
    | with_reducible refine foldl_keeps _ _ ?_ (fun _ _ h => ?_)
    | with_reducible refine foldl_pair_keeps _ _ _ ?_ (fun _ _ h => ?_)
    | with_reducible refine newEnt_keeps _ _ ?_
    | with_reducible refine chooseCopies_keeps _ _ _ _ _ _ _ _ ?_
    | with_reducible refine countDiscard_keeps _ _ _ ?_
    | with_reducible refine forAll_keeps _ _ _ ?_ (fun _ _ h => ?_)
    | with_reducible refine writeCopy_keeps _ _ _ _ ?_
    | with_reducible refine State.modBlock_keeps _ _ _ ?_
    | simp only [keeps_set_lanes, keeps_set_ports, keeps_set_blocks, keeps_set_sched, keeps_set_fabric, keeps_set_lasts, keeps_set_host, keeps_set_logs, keeps_set_chip, keeps_set_ctl, keeps_set_time, keeps_set_twin, keeps_set_peals, keeps_set_spine, keeps_set_circ, keeps_set_chans]
    | refine KeepsP.get (by with_reducible assumption) ?_
    | refine KeepsT.get (by with_reducible assumption) ?_
    | simp only [keeps_snd_snd]
    | simp only [keeps_snd]
    | simp only [keepsP_mk]
    | with_reducible refine KeepsP.ite (fun _ => ?_) (fun _ => ?_)
    | split

theorem noteLost_keeps {s0 : State} (c : BufCell) (s : State) (hs : Keeps s0 s) : Keeps s0 (noteLost c s) := by
  unfold noteLost
  repeat' first
    | with_reducible assumption
    | with_reducible refine Keeps.ite (fun _ => ?_) (fun _ => ?_)
    | with_reducible refine foldl_keeps _ _ ?_ (fun _ _ h => ?_)
    | with_reducible refine foldl_pair_keeps _ _ _ ?_ (fun _ _ h => ?_)
    | simp only [keeps_set_lanes, keeps_set_ports, keeps_set_blocks, keeps_set_sched, keeps_set_fabric, keeps_set_lasts, keeps_set_host, keeps_set_logs, keeps_set_chip, keeps_set_ctl, keeps_set_time, keeps_set_twin, keeps_set_peals, keeps_set_spine, keeps_set_circ, keeps_set_chans]

theorem rechooseCell_keeps {s0 : State} (n : ℕ) (c : BufCell) (s : State) (hs : Keeps s0 s) : Keeps s0 (rechooseCell n c s) := by
  unfold rechooseCell
  repeat' first
    | with_reducible assumption
    | with_reducible refine Keeps.ite (fun _ => ?_) (fun _ => ?_)
    | with_reducible refine foldl_keeps _ _ ?_ (fun _ _ h => ?_)
    | with_reducible refine foldl_pair_keeps _ _ _ ?_ (fun _ _ h => ?_)
    | with_reducible refine chooseFrom_keeps _ _ _ _ _ _ ?_
    | with_reducible refine joinQueue_keeps _ _ _ _ ?_
    | with_reducible refine place1_keeps _ _ _ _ ?_
    | with_reducible refine leaveBlock_keeps _ _ _ ?_
    | with_reducible refine countDiscard_keeps _ _ _ ?_
    | with_reducible refine noteLost_keeps _ _ ?_
    | simp only [keeps_set_lanes, keeps_set_ports, keeps_set_blocks, keeps_set_sched, keeps_set_fabric, keeps_set_lasts, keeps_set_host, keeps_set_logs, keeps_set_chip, keeps_set_ctl, keeps_set_time, keeps_set_twin, keeps_set_peals, keeps_set_spine, keeps_set_circ, keeps_set_chans]
    | refine KeepsP.get (by with_reducible assumption) ?_
    | refine KeepsT.get (by with_reducible assumption) ?_
    | simp only [keeps_snd_snd]
    | simp only [keeps_snd]
    | simp only [keepsP_mk]
    | with_reducible refine KeepsP.ite (fun _ => ?_) (fun _ => ?_)
    | split

theorem rechoose_keeps {s0 : State} (p : ℕ) (s : State) (hs : Keeps s0 s) : Keeps s0 (rechoose p s) := by
  unfold rechoose
  repeat' first
    | with_reducible assumption
    | with_reducible refine Keeps.ite (fun _ => ?_) (fun _ => ?_)
    | with_reducible refine forAll_keeps _ _ ?_ (fun _ _ h => ?_)
    | with_reducible refine foldl_keeps _ _ ?_ (fun _ _ h => ?_)
    | with_reducible refine foldl_pair_keeps _ _ _ ?_ (fun _ _ h => ?_)
    | with_reducible refine State.modBlock_keeps _ _ _ ?_
    | with_reducible refine rechooseCell_keeps _ _ _ ?_

end Sys2Proof.Machine
end

