-- ==== Sys2Proof/Laws/KeepsClock.lean ====
section
/-! SUPPORT. Laws/KeepsClock.lean: what the operations of Machine/Clock.lean keep. -/
namespace Sys2Proof.Machine

set_option linter.unusedSimpArgs false
set_option linter.unusedTactic false
set_option linter.unreachableTactic false

theorem bumpTime_keeps {s0 : State} (idx : ℕ) (s : State) (hs : Keeps s0 s) : Keeps s0 (bumpTime idx s) := by
  unfold bumpTime
  repeat' first
    | with_reducible assumption
    | with_reducible refine Keeps.ite (fun _ => ?_) (fun _ => ?_)
    | with_reducible refine foldl_keeps _ _ ?_ (fun _ _ h => ?_)
    | with_reducible refine foldl_pair_keeps _ _ _ ?_ (fun _ _ h => ?_)
    | with_reducible refine bump_keeps _ _ _ _ ?_

theorem timeTo_keeps {s0 : State} (st : TState) (s : State) (hs : Keeps s0 s) : Keeps s0 (timeTo st s) := by
  unfold timeTo
  repeat' first
    | with_reducible assumption
    | with_reducible refine Keeps.ite (fun _ => ?_) (fun _ => ?_)
    | with_reducible refine foldl_keeps _ _ ?_ (fun _ _ h => ?_)
    | with_reducible refine foldl_pair_keeps _ _ _ ?_ (fun _ _ h => ?_)
    | with_reducible refine State.modTime_keeps _ _ ?_
    | with_reducible refine bumpTime_keeps _ _ ?_
    | with_reducible refine postEvent_keeps _ _ _ ?_
    | simp only [keeps_set_lanes, keeps_set_ports, keeps_set_blocks, keeps_set_sched, keeps_set_fabric, keeps_set_lasts, keeps_set_host, keeps_set_logs, keeps_set_chip, keeps_set_ctl, keeps_set_time, keeps_set_twin, keeps_set_peals, keeps_set_spine, keeps_set_circ, keeps_set_chans]
    | refine KeepsP.get (by with_reducible assumption) ?_
    | refine KeepsT.get (by with_reducible assumption) ?_
    | simp only [keeps_snd_snd]
    | simp only [keeps_snd]
    | simp only [keepsP_mk]
    | with_reducible refine KeepsP.ite (fun _ => ?_) (fun _ => ?_)
    | split

theorem setRate_keeps {s0 : State} (r : ℤ) (s : State) (hs : Keeps s0 s) : Keeps s0 (setRate r s) := by
  unfold setRate
  repeat' first
    | with_reducible assumption
    | with_reducible refine Keeps.ite (fun _ => ?_) (fun _ => ?_)
    | with_reducible refine foldl_keeps _ _ ?_ (fun _ _ h => ?_)
    | with_reducible refine foldl_pair_keeps _ _ _ ?_ (fun _ _ h => ?_)
    | with_reducible refine State.modTime_keeps _ _ ?_

theorem reselect_keeps {s0 : State} (s : State) (hs : Keeps s0 s) : Keeps s0 (reselect s) := by
  unfold reselect
  repeat' first
    | with_reducible assumption
    | with_reducible refine Keeps.ite (fun _ => ?_) (fun _ => ?_)
    | with_reducible refine foldl_keeps _ _ ?_ (fun _ _ h => ?_)
    | with_reducible refine foldl_pair_keeps _ _ _ ?_ (fun _ _ h => ?_)
    | with_reducible refine bumpTime_keeps _ _ ?_
    | with_reducible refine State.modTime_keeps _ _ ?_
    | with_reducible refine timeTo_keeps _ _ ?_
    | with_reducible refine setRate_keeps _ _ ?_
    | simp only [keeps_set_lanes, keeps_set_ports, keeps_set_blocks, keeps_set_sched, keeps_set_fabric, keeps_set_lasts, keeps_set_host, keeps_set_logs, keeps_set_chip, keeps_set_ctl, keeps_set_time, keeps_set_twin, keeps_set_peals, keeps_set_spine, keeps_set_circ, keeps_set_chans]
    | refine KeepsP.get (by with_reducible assumption) ?_
    | refine KeepsT.get (by with_reducible assumption) ?_
    | simp only [keeps_snd_snd]
    | simp only [keeps_snd]
    | simp only [keepsP_mk]
    | with_reducible refine KeepsP.ite (fun _ => ?_) (fun _ => ?_)
    | split

end Sys2Proof.Machine
end

