-- ==== Sys2Proof/Laws/KeepsRows.lean ====
section
/-! SUPPORT. Laws/KeepsRows.lean: what the operations of Machine/Rows.lean keep. -/
namespace Sys2Proof.Machine

set_option linter.unusedSimpArgs false
set_option linter.unusedTactic false
set_option linter.unreachableTactic false

theorem State.modPeal_keeps {s0 : State} (s : State) (p : ℕ) (f : Peal → Peal) (hs : Keeps s0 s) : Keeps s0 (State.modPeal s p f) := by
  unfold State.modPeal
  repeat' first
    | with_reducible assumption
    | with_reducible refine Keeps.ite (fun _ => ?_) (fun _ => ?_)
    | with_reducible refine foldl_keeps _ _ ?_ (fun _ _ h => ?_)
    | with_reducible refine foldl_pair_keeps _ _ _ ?_ (fun _ _ h => ?_)
    | simp only [keeps_set_lanes, keeps_set_ports, keeps_set_blocks, keeps_set_sched, keeps_set_fabric, keeps_set_lasts, keeps_set_host, keeps_set_logs, keeps_set_chip, keeps_set_ctl, keeps_set_time, keeps_set_twin, keeps_set_peals, keeps_set_spine, keeps_set_circ, keeps_set_chans]

theorem State.modSpine_keeps {s0 : State} (s : State) (f : Spine → Spine) (hs : Keeps s0 s) : Keeps s0 (State.modSpine s f) := by
  unfold State.modSpine
  repeat' first
    | with_reducible assumption
    | with_reducible refine Keeps.ite (fun _ => ?_) (fun _ => ?_)
    | with_reducible refine foldl_keeps _ _ ?_ (fun _ _ h => ?_)
    | with_reducible refine foldl_pair_keeps _ _ _ ?_ (fun _ _ h => ?_)
    | simp only [keeps_set_lanes, keeps_set_ports, keeps_set_blocks, keeps_set_sched, keeps_set_fabric, keeps_set_lasts, keeps_set_host, keeps_set_logs, keeps_set_chip, keeps_set_ctl, keeps_set_time, keeps_set_twin, keeps_set_peals, keeps_set_spine, keeps_set_circ, keeps_set_chans]

theorem State.modShard_keeps {s0 : State} (s : State) (k : ℕ) (f : Shard → Shard) (hs : Keeps s0 s) : Keeps s0 (State.modShard s k f) := by
  unfold State.modShard
  repeat' first
    | with_reducible assumption
    | with_reducible refine Keeps.ite (fun _ => ?_) (fun _ => ?_)
    | with_reducible refine foldl_keeps _ _ ?_ (fun _ _ h => ?_)
    | with_reducible refine foldl_pair_keeps _ _ _ ?_ (fun _ _ h => ?_)
    | with_reducible refine State.modSpine_keeps _ _ ?_

theorem State.modCore_keeps {s0 : State} (s : State) (c : ℕ) (f : Core → Core) (hs : Keeps s0 s) : Keeps s0 (State.modCore s c f) := by
  unfold State.modCore
  repeat' first
    | with_reducible assumption
    | with_reducible refine Keeps.ite (fun _ => ?_) (fun _ => ?_)
    | with_reducible refine foldl_keeps _ _ ?_ (fun _ _ h => ?_)
    | with_reducible refine foldl_pair_keeps _ _ _ ?_ (fun _ _ h => ?_)
    | with_reducible refine State.modSpine_keeps _ _ ?_

theorem bumpPeal_keeps {s0 : State} (p : ℕ) (idx : ℕ) (n : ℕ) (s : State) (hs : Keeps s0 s) : Keeps s0 (bumpPeal p idx n s) := by
  unfold bumpPeal
  repeat' first
    | with_reducible assumption
    | with_reducible refine Keeps.ite (fun _ => ?_) (fun _ => ?_)
    | with_reducible refine foldl_keeps _ _ ?_ (fun _ _ h => ?_)
    | with_reducible refine foldl_pair_keeps _ _ _ ?_ (fun _ _ h => ?_)
    | with_reducible refine bumpN_keeps _ _ _ _ _ ?_

theorem setFenced_keeps {s0 : State} (d : BitVec 512) (m : ℕ) (s : State) (hs : Keeps s0 s) : Keeps s0 (setFenced d m s) := by
  unfold setFenced
  repeat' first
    | with_reducible assumption
    | with_reducible refine Keeps.ite (fun _ => ?_) (fun _ => ?_)
    | with_reducible refine foldl_keeps _ _ ?_ (fun _ _ h => ?_)
    | with_reducible refine foldl_pair_keeps _ _ _ ?_ (fun _ _ h => ?_)
    | with_reducible refine State.tblPut_keeps _ _ ?_
    | simp only [keeps_set_lanes, keeps_set_ports, keeps_set_blocks, keeps_set_sched, keeps_set_fabric, keeps_set_lasts, keeps_set_host, keeps_set_logs, keeps_set_chip, keeps_set_ctl, keeps_set_time, keeps_set_twin, keeps_set_peals, keeps_set_spine, keeps_set_circ, keeps_set_chans]
    | exact Keeps.of_mem _ hs fun m => m

theorem sliceWrite_keeps {s0 : State} (k : ℕ) (bank : ℕ) (x : ℕ) (off : ℕ) (b : Bytes) (s : State) (hs : Keeps s0 s) : Keeps s0 (sliceWrite k bank x off b s) := by
  unfold sliceWrite
  repeat' first
    | with_reducible assumption
    | with_reducible refine Keeps.ite (fun _ => ?_) (fun _ => ?_)
    | with_reducible refine foldl_keeps _ _ ?_ (fun _ _ h => ?_)
    | with_reducible refine foldl_pair_keeps _ _ _ ?_ (fun _ _ h => ?_)
    | simp only [keeps_set_lanes, keeps_set_ports, keeps_set_blocks, keeps_set_sched, keeps_set_fabric, keeps_set_lasts, keeps_set_host, keeps_set_logs, keeps_set_chip, keeps_set_ctl, keeps_set_time, keeps_set_twin, keeps_set_peals, keeps_set_spine, keeps_set_circ, keeps_set_chans]
    | exact Keeps.of_mem _ hs fun m => ⟨m.1, m.2.1, m.2.2.1, m.2.2.2.1, Memory.writes_wf _ _ m.2.2.2.2⟩

theorem State.modChan_keeps {s0 : State} (s : State) (c : ℕ) (f : Chan → Chan) (hs : Keeps s0 s) : Keeps s0 (State.modChan s c f) := by
  unfold State.modChan
  repeat' first
    | with_reducible assumption
    | with_reducible refine Keeps.ite (fun _ => ?_) (fun _ => ?_)
    | with_reducible refine foldl_keeps _ _ ?_ (fun _ _ h => ?_)
    | with_reducible refine foldl_pair_keeps _ _ _ ?_ (fun _ _ h => ?_)
    | simp only [keeps_set_lanes, keeps_set_ports, keeps_set_blocks, keeps_set_sched, keeps_set_fabric, keeps_set_lasts, keeps_set_host, keeps_set_logs, keeps_set_chip, keeps_set_ctl, keeps_set_time, keeps_set_twin, keeps_set_peals, keeps_set_spine, keeps_set_circ, keeps_set_chans]

theorem bumpChan_keeps {s0 : State} (c : ℕ) (idx : ℕ) (n : ℕ) (s : State) (hs : Keeps s0 s) : Keeps s0 (bumpChan c idx n s) := by
  unfold bumpChan
  repeat' first
    | with_reducible assumption
    | with_reducible refine Keeps.ite (fun _ => ?_) (fun _ => ?_)
    | with_reducible refine foldl_keeps _ _ ?_ (fun _ _ h => ?_)
    | with_reducible refine foldl_pair_keeps _ _ _ ?_ (fun _ _ h => ?_)
    | with_reducible refine bumpN_keeps _ _ _ _ _ ?_

theorem burstServed_keeps {s0 : State} (write : Bool) (pool : ℕ) (c : ℕ) (s : State) (hs : Keeps s0 s) : Keeps s0 (burstServed write pool c s) := by
  unfold burstServed
  repeat' first
    | with_reducible assumption
    | with_reducible refine Keeps.ite (fun _ => ?_) (fun _ => ?_)
    | with_reducible refine State.modChan_keeps _ _ _ ?_
    | with_reducible refine bumpChan_keeps _ _ _ _ ?_
    | with_reducible refine bumpN_keeps _ _ _ _ _ ?_

theorem sliceServed_keeps {s0 : State} (core : Bool) (write : Bool) (k : Nat) (bank : Nat) (x : Nat) (off : Nat) (n : Nat) (s : State) (hs : Keeps s0 s) : Keeps s0 (sliceServed core write k bank x off n s) := by
  unfold sliceServed
  repeat' first
    | with_reducible assumption
    | with_reducible refine Keeps.ite (fun _ => ?_) (fun _ => ?_)
    | with_reducible refine forAll_keeps _ _ ?_ (fun _ _ h => ?_)
    | with_reducible refine foldl_keeps _ _ ?_ (fun _ _ h => ?_)
    | with_reducible refine foldl_pair_keeps _ _ _ ?_ (fun _ _ h => ?_)
    | with_reducible refine forAll_keeps _ _ _ ?_ (fun _ _ h => ?_)
    | with_reducible refine burstServed_keeps _ _ _ _ ?_
    | simp only [keeps_set_lanes, keeps_set_ports, keeps_set_blocks, keeps_set_sched, keeps_set_fabric, keeps_set_lasts, keeps_set_host, keeps_set_logs, keeps_set_chip, keeps_set_ctl, keeps_set_time, keeps_set_twin, keeps_set_peals, keeps_set_spine, keeps_set_circ, keeps_set_chans]
    | refine KeepsP.get (by with_reducible assumption) ?_
    | refine KeepsT.get (by with_reducible assumption) ?_
    | simp only [keeps_snd_snd]
    | simp only [keeps_snd]
    | simp only [keepsP_mk]
    | with_reducible refine KeepsP.ite (fun _ => ?_) (fun _ => ?_)
    | split

theorem recordServed_keeps {s0 : State} (write : Bool) (p : Nat) (g : Nat) (rec : Nat) (s : State) (hs : Keeps s0 s) : Keeps s0 (recordServed write p g rec s) := by
  unfold recordServed
  repeat' first
    | with_reducible assumption
    | with_reducible refine Keeps.ite (fun _ => ?_) (fun _ => ?_)
    | with_reducible refine forAll_keeps _ _ ?_ (fun _ _ h => ?_)
    | with_reducible refine foldl_keeps _ _ ?_ (fun _ _ h => ?_)
    | with_reducible refine foldl_pair_keeps _ _ _ ?_ (fun _ _ h => ?_)
    | with_reducible refine forAll_keeps _ _ _ ?_ (fun _ _ h => ?_)
    | with_reducible refine burstServed_keeps _ _ _ _ ?_
    | simp only [keeps_set_lanes, keeps_set_ports, keeps_set_blocks, keeps_set_sched, keeps_set_fabric, keeps_set_lasts, keeps_set_host, keeps_set_logs, keeps_set_chip, keeps_set_ctl, keeps_set_time, keeps_set_twin, keeps_set_peals, keeps_set_spine, keeps_set_circ, keeps_set_chans]
    | refine KeepsP.get (by with_reducible assumption) ?_
    | refine KeepsT.get (by with_reducible assumption) ?_
    | simp only [keeps_snd_snd]
    | simp only [keeps_snd]
    | simp only [keepsP_mk]
    | with_reducible refine KeepsP.ite (fun _ => ?_) (fun _ => ?_)
    | split

theorem sliceStore_keeps {s0 : State} (k : Nat) (bank : Nat) (x : Nat) (off : Nat) (b : Bytes) (s : State) (hs : Keeps s0 s) : Keeps s0 (sliceStore k bank x off b s) := by
  unfold sliceStore
  repeat' first
    | with_reducible assumption
    | with_reducible refine Keeps.ite (fun _ => ?_) (fun _ => ?_)
    | with_reducible refine foldl_keeps _ _ ?_ (fun _ _ h => ?_)
    | with_reducible refine foldl_pair_keeps _ _ _ ?_ (fun _ _ h => ?_)
    | with_reducible refine sliceServed_keeps _ _ _ _ _ _ _ _ ?_
    | with_reducible refine sliceWrite_keeps _ _ _ _ _ _ ?_
    | simp only [keeps_set_lanes, keeps_set_ports, keeps_set_blocks, keeps_set_sched, keeps_set_fabric, keeps_set_lasts, keeps_set_host, keeps_set_logs, keeps_set_chip, keeps_set_ctl, keeps_set_time, keeps_set_twin, keeps_set_peals, keeps_set_spine, keeps_set_circ, keeps_set_chans]
    | refine KeepsP.get (by with_reducible assumption) ?_
    | refine KeepsT.get (by with_reducible assumption) ?_
    | simp only [keeps_snd_snd]
    | simp only [keeps_snd]
    | simp only [keepsP_mk]
    | with_reducible refine KeepsP.ite (fun _ => ?_) (fun _ => ?_)
    | split

theorem noteStores_keeps {s0 : State} (k : Nat) (bank : Nat) (a : Nat) (b : Bytes) (s : State) (hs : Keeps s0 s) : Keeps s0 (noteStores k bank a b s) := by
  unfold noteStores
  repeat' first
    | with_reducible assumption
    | with_reducible refine Keeps.ite (fun _ => ?_) (fun _ => ?_)
    | with_reducible refine forAll_keeps _ _ ?_ (fun _ _ h => ?_)
    | with_reducible refine foldl_keeps _ _ ?_ (fun _ _ h => ?_)
    | with_reducible refine foldl_pair_keeps _ _ _ ?_ (fun _ _ h => ?_)
    | with_reducible refine forAll_keeps _ _ _ ?_ (fun _ _ h => ?_)
    | with_reducible refine State.modMem_keeps _ _ ?_
    | simp only [keeps_set_lanes, keeps_set_ports, keeps_set_blocks, keeps_set_sched, keeps_set_fabric, keeps_set_lasts, keeps_set_host, keeps_set_logs, keeps_set_chip, keeps_set_ctl, keeps_set_time, keeps_set_twin, keeps_set_peals, keeps_set_spine, keeps_set_circ, keeps_set_chans]
    | ((with_reducible refine Keeps.of_mem _ ?_ (fun m => ?_)); on_goal 2 => first | exact m | exact ⟨Memory.writes_wf _ _ m.1, m.2⟩ | exact ⟨m.1, Memory.writes_wf _ _ m.2.1, m.2.2⟩ | exact ⟨m.1, m.2.1, m.2.2.1, Memory.writes_wf _ _ m.2.2.2.1, m.2.2.2.2⟩ | exact ⟨m.1, m.2.1, m.2.2.1, m.2.2.2.1, Memory.writes_wf _ _ m.2.2.2.2⟩ | exact ⟨Memory.clear_wf _ _ m.1, m.2⟩ | exact ⟨m.1, m.2.1, m.2.2.1, Memory.clear_wf _ _ m.2.2.2.1, m.2.2.2.2⟩ | exact ⟨m.1, m.2.1, m.2.2.1, m.2.2.2.1, Memory.clear_wf _ _ m.2.2.2.2⟩)
    | refine KeepsP.get (by with_reducible assumption) ?_
    | refine KeepsT.get (by with_reducible assumption) ?_
    | simp only [keeps_snd_snd]
    | simp only [keeps_snd]
    | simp only [keepsP_mk]
    | with_reducible refine KeepsP.ite (fun _ => ?_) (fun _ => ?_)
    | split

theorem clearResidues_keeps {s0 : State} (k : Nat) (bank : Nat) (s : State) (hs : Keeps s0 s) : Keeps s0 (clearResidues k bank s) := by
  unfold clearResidues
  repeat' first
    | with_reducible assumption
    | with_reducible refine Keeps.ite (fun _ => ?_) (fun _ => ?_)
    | with_reducible refine foldl_keeps _ _ ?_ (fun _ _ h => ?_)
    | with_reducible refine foldl_pair_keeps _ _ _ ?_ (fun _ _ h => ?_)
    | with_reducible refine State.modMem_keeps _ _ ?_
    | simp only [keeps_set_lanes, keeps_set_ports, keeps_set_blocks, keeps_set_sched, keeps_set_fabric, keeps_set_lasts, keeps_set_host, keeps_set_logs, keeps_set_chip, keeps_set_ctl, keeps_set_time, keeps_set_twin, keeps_set_peals, keeps_set_spine, keeps_set_circ, keeps_set_chans]
    | ((with_reducible refine Keeps.of_mem _ ?_ (fun m => ?_)); on_goal 2 => first | exact m | exact ⟨Memory.writes_wf _ _ m.1, m.2⟩ | exact ⟨m.1, Memory.writes_wf _ _ m.2.1, m.2.2⟩ | exact ⟨m.1, m.2.1, m.2.2.1, Memory.writes_wf _ _ m.2.2.2.1, m.2.2.2.2⟩ | exact ⟨m.1, m.2.1, m.2.2.1, m.2.2.2.1, Memory.writes_wf _ _ m.2.2.2.2⟩ | exact ⟨Memory.clear_wf _ _ m.1, m.2⟩ | exact ⟨m.1, m.2.1, m.2.2.1, Memory.clear_wf _ _ m.2.2.2.1, m.2.2.2.2⟩ | exact ⟨m.1, m.2.1, m.2.2.1, m.2.2.2.1, Memory.clear_wf _ _ m.2.2.2.2⟩)
    | refine KeepsP.get (by with_reducible assumption) ?_
    | refine KeepsT.get (by with_reducible assumption) ?_
    | simp only [keeps_snd_snd]
    | simp only [keeps_snd]
    | simp only [keepsP_mk]
    | with_reducible refine KeepsP.ite (fun _ => ?_) (fun _ => ?_)
    | split

theorem sliceStm_keeps {s0 : State} (k : Nat) (bank : Nat) (x : Nat) (off : Nat) (b : Bytes) (s : State) (hs : Keeps s0 s) : Keeps s0 (sliceStm k bank x off b s) := by
  unfold sliceStm
  repeat' first
    | with_reducible assumption
    | with_reducible refine Keeps.ite (fun _ => ?_) (fun _ => ?_)
    | with_reducible refine foldl_keeps _ _ ?_ (fun _ _ h => ?_)
    | with_reducible refine foldl_pair_keeps _ _ _ ?_ (fun _ _ h => ?_)
    | with_reducible refine noteStores_keeps _ _ _ _ _ ?_
    | with_reducible refine sliceWrite_keeps _ _ _ _ _ _ ?_
    | simp only [keeps_set_lanes, keeps_set_ports, keeps_set_blocks, keeps_set_sched, keeps_set_fabric, keeps_set_lasts, keeps_set_host, keeps_set_logs, keeps_set_chip, keeps_set_ctl, keeps_set_time, keeps_set_twin, keeps_set_peals, keeps_set_spine, keeps_set_circ, keeps_set_chans]
    | refine KeepsP.get (by with_reducible assumption) ?_
    | refine KeepsT.get (by with_reducible assumption) ?_
    | simp only [keeps_snd_snd]
    | simp only [keeps_snd]
    | simp only [keepsP_mk]
    | with_reducible refine KeepsP.ite (fun _ => ?_) (fun _ => ?_)
    | split

theorem clearBank_keeps {s0 : State} (k : ℕ) (bank : ℕ) (s : State) (hs : Keeps s0 s) : Keeps s0 (clearBank k bank s) := by
  unfold clearBank
  repeat' first
    | with_reducible assumption
    | with_reducible refine Keeps.ite (fun _ => ?_) (fun _ => ?_)
    | with_reducible refine foldl_keeps _ _ ?_ (fun _ _ h => ?_)
    | with_reducible refine foldl_pair_keeps _ _ _ ?_ (fun _ _ h => ?_)
    | simp only [keeps_set_lanes, keeps_set_ports, keeps_set_blocks, keeps_set_sched, keeps_set_fabric, keeps_set_lasts, keeps_set_host, keeps_set_logs, keeps_set_chip, keeps_set_ctl, keeps_set_time, keeps_set_twin, keeps_set_peals, keeps_set_spine, keeps_set_circ, keeps_set_chans]
    | ((with_reducible refine Keeps.of_mem _ ?_ (fun m => ?_)); on_goal 2 => first | exact m | exact ⟨Memory.writes_wf _ _ m.1, m.2⟩ | exact ⟨m.1, Memory.writes_wf _ _ m.2.1, m.2.2⟩ | exact ⟨m.1, m.2.1, m.2.2.1, Memory.writes_wf _ _ m.2.2.2.1, m.2.2.2.2⟩ | exact ⟨m.1, m.2.1, m.2.2.1, m.2.2.2.1, Memory.writes_wf _ _ m.2.2.2.2⟩ | exact ⟨Memory.clear_wf _ _ m.1, m.2⟩ | exact ⟨m.1, m.2.1, m.2.2.1, Memory.clear_wf _ _ m.2.2.2.1, m.2.2.2.2⟩ | exact ⟨m.1, m.2.1, m.2.2.1, m.2.2.2.1, Memory.clear_wf _ _ m.2.2.2.2⟩)

end Sys2Proof.Machine
end

