-- ==== Sys2Proof/Laws/KeepsPealOps.lean ====
section
/-! SUPPORT. Laws/KeepsPealOps.lean: what the operations of Machine/PealOps.lean keep. -/
namespace Sys2Proof.Machine

set_option linter.unusedSimpArgs false
set_option linter.unusedTactic false
set_option linter.unreachableTactic false

theorem weltPut_keeps {s0 : State} (p : ℕ) (c : Cell) (s : State) (hs : Keeps s0 s) : Keeps s0 (weltPut p c s) := by
  unfold weltPut
  repeat' first
    | with_reducible assumption
    | with_reducible refine Keeps.ite (fun _ => ?_) (fun _ => ?_)
    | with_reducible refine foldl_keeps _ _ ?_ (fun _ _ h => ?_)
    | with_reducible refine foldl_pair_keeps _ _ _ ?_ (fun _ _ h => ?_)
    | with_reducible refine State.modPort_keeps _ _ _ ?_

theorem sprayTwin_keeps {s0 : State} (c : Cell) (s : State) (hs : Keeps s0 s) : Keeps s0 (sprayTwin c s) := by
  unfold sprayTwin
  repeat' first
    | with_reducible assumption
    | with_reducible refine Keeps.ite (fun _ => ?_) (fun _ => ?_)
    | with_reducible refine foldl_keeps _ _ ?_ (fun _ _ h => ?_)
    | with_reducible refine foldl_pair_keeps _ _ _ ?_ (fun _ _ h => ?_)
    | with_reducible refine State.modTwin_keeps _ _ ?_
    | with_reducible refine weltPut_keeps _ _ _ ?_
    | simp only [keeps_set_lanes, keeps_set_ports, keeps_set_blocks, keeps_set_sched, keeps_set_fabric, keeps_set_lasts, keeps_set_host, keeps_set_logs, keeps_set_chip, keeps_set_ctl, keeps_set_time, keeps_set_twin, keeps_set_peals, keeps_set_spine, keeps_set_circ, keeps_set_chans]
    | refine KeepsP.get (by with_reducible assumption) ?_
    | refine KeepsT.get (by with_reducible assumption) ?_
    | simp only [keeps_snd_snd]
    | simp only [keeps_snd]
    | simp only [keepsP_mk]
    | with_reducible refine KeepsP.ite (fun _ => ?_) (fun _ => ?_)
    | split

theorem twinOut_keeps {s0 : State} (die : Option Nat) (c : Cell) (s : State) (hs : Keeps s0 s) : Keeps s0 (twinOut die c s) := by
  unfold twinOut
  repeat' first
    | with_reducible assumption
    | with_reducible refine Keeps.ite (fun _ => ?_) (fun _ => ?_)
    | with_reducible refine foldl_keeps _ _ ?_ (fun _ _ h => ?_)
    | with_reducible refine foldl_pair_keeps _ _ _ ?_ (fun _ _ h => ?_)
    | with_reducible refine sprayTwin_keeps _ _ ?_
    | with_reducible refine hubWait_keeps _ _ ?_
    | simp only [keeps_set_lanes, keeps_set_ports, keeps_set_blocks, keeps_set_sched, keeps_set_fabric, keeps_set_lasts, keeps_set_host, keeps_set_logs, keeps_set_chip, keeps_set_ctl, keeps_set_time, keeps_set_twin, keeps_set_peals, keeps_set_spine, keeps_set_circ, keeps_set_chans]
    | refine KeepsP.get (by with_reducible assumption) ?_
    | refine KeepsT.get (by with_reducible assumption) ?_
    | simp only [keeps_snd_snd]
    | simp only [keeps_snd]
    | simp only [keepsP_mk]
    | with_reducible refine KeepsP.ite (fun _ => ?_) (fun _ => ?_)
    | split

theorem sendTwinFrom_keeps {s0 : State} (die : Option Nat) (tmsg : Nat) (vc : Nat) (tag : Nat) (head : Bytes) (data : Bytes) (s : State) (hs : Keeps s0 s) : Keeps s0 (sendTwinFrom die tmsg vc tag head data s) := by
  unfold sendTwinFrom
  repeat' first
    | with_reducible assumption
    | with_reducible refine Keeps.ite (fun _ => ?_) (fun _ => ?_)
    | with_reducible refine forAll_keeps _ _ ?_ (fun _ _ h => ?_)
    | with_reducible refine foldl_keeps _ _ ?_ (fun _ _ h => ?_)
    | with_reducible refine foldl_pair_keeps _ _ _ ?_ (fun _ _ h => ?_)
    | with_reducible refine State.modTwin_keeps _ _ ?_
    | with_reducible refine forAll_keeps _ _ _ ?_ (fun _ _ h => ?_)
    | with_reducible refine twinOut_keeps _ _ _ ?_
    | simp only [keeps_set_lanes, keeps_set_ports, keeps_set_blocks, keeps_set_sched, keeps_set_fabric, keeps_set_lasts, keeps_set_host, keeps_set_logs, keeps_set_chip, keeps_set_ctl, keeps_set_time, keeps_set_twin, keeps_set_peals, keeps_set_spine, keeps_set_circ, keeps_set_chans]
    | refine KeepsP.get (by with_reducible assumption) ?_
    | refine KeepsT.get (by with_reducible assumption) ?_
    | simp only [keeps_snd_snd]
    | simp only [keeps_snd]
    | simp only [keepsP_mk]
    | with_reducible refine KeepsP.ite (fun _ => ?_) (fun _ => ?_)
    | split

theorem sendTwin_keeps {s0 : State} (tmsg : Nat) (vc : Nat) (tag : Nat) (head : Bytes) (data : Bytes) (s : State) (hs : Keeps s0 s) : Keeps s0 (sendTwin tmsg vc tag head data s) := by
  unfold sendTwin
  repeat' first
    | with_reducible assumption
    | with_reducible refine Keeps.ite (fun _ => ?_) (fun _ => ?_)
    | with_reducible refine foldl_keeps _ _ ?_ (fun _ _ h => ?_)
    | with_reducible refine foldl_pair_keeps _ _ _ ?_ (fun _ _ h => ?_)
    | with_reducible refine sendTwinFrom_keeps _ _ _ _ _ _ _ ?_
    | simp only [keeps_set_lanes, keeps_set_ports, keeps_set_blocks, keeps_set_sched, keeps_set_fabric, keeps_set_lasts, keeps_set_host, keeps_set_logs, keeps_set_chip, keeps_set_ctl, keeps_set_time, keeps_set_twin, keeps_set_peals, keeps_set_spine, keeps_set_circ, keeps_set_chans]
    | refine KeepsP.get (by with_reducible assumption) ?_
    | refine KeepsT.get (by with_reducible assumption) ?_
    | simp only [keeps_snd_snd]
    | simp only [keeps_snd]
    | simp only [keepsP_mk]
    | with_reducible refine KeepsP.ite (fun _ => ?_) (fun _ => ?_)
    | split

theorem sendRoundCtl_keeps {s0 : State} (pl : Peal) (action : ℕ) (round : ℕ) (cause : ℕ) (hold : Bool) (step : ℕ) (crc : ℕ) (s : State) (hs : Keeps s0 s) : Keeps s0 (sendRoundCtl pl action round cause hold step crc s) := by
  unfold sendRoundCtl
  repeat' first
    | with_reducible assumption
    | with_reducible refine Keeps.ite (fun _ => ?_) (fun _ => ?_)
    | with_reducible refine foldl_keeps _ _ ?_ (fun _ _ h => ?_)
    | with_reducible refine foldl_pair_keeps _ _ _ ?_ (fun _ _ h => ?_)
    | with_reducible refine sendTwin_keeps _ _ _ _ _ _ ?_

theorem sendWindow_keeps {s0 : State} (p : ℕ) (m : ℕ) (s : State) (hs : Keeps s0 s) : KeepsP s0 (sendWindow p m s) := by
  unfold sendWindow
  repeat' first
    | with_reducible assumption
    | with_reducible refine KeepsP.ite (fun _ => ?_) (fun _ => ?_)
    | simp only [keepsP_mk]
    | with_reducible refine Keeps.ite (fun _ => ?_) (fun _ => ?_)
    | with_reducible refine foldl_keeps _ _ ?_ (fun _ _ h => ?_)
    | with_reducible refine foldl_pair_keeps _ _ _ ?_ (fun _ _ h => ?_)
    | with_reducible refine bumpPeal_keeps _ _ _ _ ?_
    | with_reducible refine State.modPeal_keeps _ _ _ ?_
    | with_reducible refine originate_keeps _ _ _ ?_
    | simp only [keeps_set_lanes, keeps_set_ports, keeps_set_blocks, keeps_set_sched, keeps_set_fabric, keeps_set_lasts, keeps_set_host, keeps_set_logs, keeps_set_chip, keeps_set_ctl, keeps_set_time, keeps_set_twin, keeps_set_peals, keeps_set_spine, keeps_set_circ, keeps_set_chans]
    | refine KeepsP.get (by with_reducible assumption) ?_
    | refine KeepsT.get (by with_reducible assumption) ?_
    | simp only [keeps_snd_snd]
    | simp only [keeps_snd]

theorem sendWindows_keeps {s0 : State} (p : ℕ) (ms : List ℕ) (s : State) (hs : Keeps s0 s) : KeepsP s0 (sendWindows p ms s) := by
  unfold sendWindows
  repeat' first
    | with_reducible assumption
    | with_reducible refine KeepsP.ite (fun _ => ?_) (fun _ => ?_)
    | simp only [keepsP_mk]
    | with_reducible refine Keeps.ite (fun _ => ?_) (fun _ => ?_)
    | with_reducible refine foldl_keeps _ _ ?_ (fun _ _ h => ?_)
    | with_reducible refine foldl_pair_keeps _ _ _ ?_ (fun _ _ h => ?_)
    | with_reducible refine sendWindow_keeps _ _ _ ?_
    | simp only [keeps_set_lanes, keeps_set_ports, keeps_set_blocks, keeps_set_sched, keeps_set_fabric, keeps_set_lasts, keeps_set_host, keeps_set_logs, keeps_set_chip, keeps_set_ctl, keeps_set_time, keeps_set_twin, keeps_set_peals, keeps_set_spine, keeps_set_circ, keeps_set_chans]
    | refine KeepsP.get (by with_reducible assumption) ?_
    | refine KeepsT.get (by with_reducible assumption) ?_
    | simp only [keeps_snd_snd]
    | simp only [keeps_snd]

theorem openOne_keeps {s0 : State} (p : ℕ) (s : State) (hs : Keeps s0 s) : Keeps s0 (openOne p s) := by
  unfold openOne
  repeat' first
    | with_reducible assumption
    | with_reducible refine Keeps.ite (fun _ => ?_) (fun _ => ?_)
    | with_reducible refine foldl_keeps _ _ ?_ (fun _ _ h => ?_)
    | with_reducible refine foldl_pair_keeps _ _ _ ?_ (fun _ _ h => ?_)
    | with_reducible refine State.modPeal_keeps _ _ _ ?_

theorem openChunks_keeps {s0 : State} (p : ℕ) (a : ℕ) (a1 : State) (ha1 : Keeps s0 a1) : Keeps s0 (openChunks p a a1) := by
  induction a generalizing a1 with
  | zero => unfold openChunks; with_reducible assumption
  | succ k ih =>
    unfold openChunks
    repeat' first
      | with_reducible assumption
      | with_reducible refine Keeps.ite (fun _ => ?_) (fun _ => ?_)
      | with_reducible refine foldl_keeps _ _ ?_ (fun _ _ h => ?_)
      | with_reducible refine foldl_pair_keeps _ _ _ ?_ (fun _ _ h => ?_)
      | simp only [keeps_set_lanes, keeps_set_ports, keeps_set_blocks, keeps_set_sched, keeps_set_fabric, keeps_set_lasts, keeps_set_host, keeps_set_logs, keeps_set_chip, keeps_set_ctl, keeps_set_time, keeps_set_twin, keeps_set_peals, keeps_set_spine, keeps_set_circ, keeps_set_chans]
      | with_reducible refine ih _ ?_
      | with_reducible refine openOne_keeps _ _ ?_

theorem sendToMember_keeps {s0 : State} (n : ℕ) (p : ℕ) (m : ℕ) (mk : ℕ → Cell) (s : State) (hs : Keeps s0 s) : KeepsP s0 (sendToMember n p m mk s) := by
  unfold sendToMember
  repeat' first
    | with_reducible assumption
    | with_reducible refine KeepsP.ite (fun _ => ?_) (fun _ => ?_)
    | simp only [keepsP_mk]
    | with_reducible refine Keeps.ite (fun _ => ?_) (fun _ => ?_)
    | with_reducible refine foldl_keeps _ _ ?_ (fun _ _ h => ?_)
    | with_reducible refine foldl_pair_keeps _ _ _ ?_ (fun _ _ h => ?_)
    | with_reducible refine originate_keeps _ _ _ ?_
    | with_reducible refine bumpPeal_keeps _ _ _ _ ?_
    | simp only [keeps_set_lanes, keeps_set_ports, keeps_set_blocks, keeps_set_sched, keeps_set_fabric, keeps_set_lasts, keeps_set_host, keeps_set_logs, keeps_set_chip, keeps_set_ctl, keeps_set_time, keeps_set_twin, keeps_set_peals, keeps_set_spine, keeps_set_circ, keeps_set_chans]
    | refine KeepsP.get (by with_reducible assumption) ?_
    | refine KeepsT.get (by with_reducible assumption) ?_
    | simp only [keeps_snd_snd]
    | simp only [keeps_snd]
    | simp only [keepsP_mk]
    | with_reducible refine KeepsP.ite (fun _ => ?_) (fun _ => ?_)
    | split

theorem sendReplicated_keeps {s0 : State} (n : Nat) (p : Nat) (ts : List McTarget) (ok : Bool) (why : Nat) (c : Cell) (s : State) (hs : Keeps s0 s) : KeepsP s0 (sendReplicated n p ts ok why c s) := by
  unfold sendReplicated
  repeat' first
    | with_reducible assumption
    | with_reducible refine KeepsP.ite (fun _ => ?_) (fun _ => ?_)
    | simp only [keepsP_mk]
    | with_reducible refine Keeps.ite (fun _ => ?_) (fun _ => ?_)
    | with_reducible refine foldl_keeps _ _ ?_ (fun _ _ h => ?_)
    | with_reducible refine foldl_pair_keeps _ _ _ ?_ (fun _ _ h => ?_)
    | with_reducible refine countDiscard_keeps _ _ _ ?_
    | with_reducible refine bumpPeal_keeps _ _ _ _ ?_
    | with_reducible refine bump_keeps _ _ _ _ ?_
    | with_reducible refine replicateOwn_keeps _ _ _ _ ?_
    | simp only [keeps_set_lanes, keeps_set_ports, keeps_set_blocks, keeps_set_sched, keeps_set_fabric, keeps_set_lasts, keeps_set_host, keeps_set_logs, keeps_set_chip, keeps_set_ctl, keeps_set_time, keeps_set_twin, keeps_set_peals, keeps_set_spine, keeps_set_circ, keeps_set_chans]
    | refine KeepsP.get (by with_reducible assumption) ?_
    | refine KeepsT.get (by with_reducible assumption) ?_
    | simp only [keeps_snd_snd]
    | simp only [keeps_snd]
    | simp only [keepsP_mk]
    | with_reducible refine KeepsP.ite (fun _ => ?_) (fun _ => ?_)
    | split

theorem sendResult_keeps {s0 : State} (n : Nat) (p : Nat) (rs : List Nat) (mk : Nat → Cell) (s : State) (hs : Keeps s0 s) : KeepsP s0 (sendResult n p rs mk s) := by
  unfold sendResult
  repeat' first
    | with_reducible assumption
    | with_reducible refine KeepsP.ite (fun _ => ?_) (fun _ => ?_)
    | simp only [keepsP_mk]
    | with_reducible refine Keeps.ite (fun _ => ?_) (fun _ => ?_)
    | with_reducible refine foldl_keeps _ _ ?_ (fun _ _ h => ?_)
    | with_reducible refine foldl_pair_keeps _ _ _ ?_ (fun _ _ h => ?_)
    | with_reducible refine sendReplicated_keeps _ _ _ _ _ _ _ ?_
    | with_reducible refine sendToMember_keeps _ _ _ _ _ ?_
    | simp only [keeps_set_lanes, keeps_set_ports, keeps_set_blocks, keeps_set_sched, keeps_set_fabric, keeps_set_lasts, keeps_set_host, keeps_set_logs, keeps_set_chip, keeps_set_ctl, keeps_set_time, keeps_set_twin, keeps_set_peals, keeps_set_spine, keeps_set_circ, keeps_set_chans]
    | refine KeepsP.get (by with_reducible assumption) ?_
    | refine KeepsT.get (by with_reducible assumption) ?_
    | simp only [keeps_snd_snd]
    | simp only [keeps_snd]
    | simp only [keepsP_mk]
    | with_reducible refine KeepsP.ite (fun _ => ?_) (fun _ => ?_)
    | split

theorem sendCatchup_keeps {s0 : State} (p : Nat) (m : Nat) (s : State) (hs : Keeps s0 s) : KeepsP s0 (sendCatchup p m s) := by
  unfold sendCatchup
  repeat' first
    | with_reducible assumption
    | with_reducible refine KeepsP.ite (fun _ => ?_) (fun _ => ?_)
    | simp only [keepsP_mk]
    | with_reducible refine Keeps.ite (fun _ => ?_) (fun _ => ?_)
    | with_reducible refine foldl_keeps _ _ ?_ (fun _ _ h => ?_)
    | with_reducible refine foldl_pair_keeps _ _ _ ?_ (fun _ _ h => ?_)
    | with_reducible refine sliceServed_keeps _ _ _ _ _ _ _ _ ?_
    | with_reducible refine sendToMember_keeps _ _ _ _ _ ?_
    | with_reducible refine bumpN_keeps _ _ _ _ _ ?_
    | simp only [keeps_set_lanes, keeps_set_ports, keeps_set_blocks, keeps_set_sched, keeps_set_fabric, keeps_set_lasts, keeps_set_host, keeps_set_logs, keeps_set_chip, keeps_set_ctl, keeps_set_time, keeps_set_twin, keeps_set_peals, keeps_set_spine, keeps_set_circ, keeps_set_chans]
    | refine KeepsP.get (by with_reducible assumption) ?_
    | refine KeepsT.get (by with_reducible assumption) ?_
    | simp only [keeps_snd_snd]
    | simp only [keeps_snd]
    | simp only [keepsP_mk]
    | with_reducible refine KeepsP.ite (fun _ => ?_) (fun _ => ?_)
    | split

theorem clearCores_keeps {s0 : State} (p : ℕ) (cause : ℕ) (void : Bool) (s : State) (hs : Keeps s0 s) : Keeps s0 (clearCores p cause void s) := by
  unfold clearCores
  repeat' first
    | with_reducible assumption
    | with_reducible refine Keeps.ite (fun _ => ?_) (fun _ => ?_)
    | with_reducible refine forAll_keeps _ _ ?_ (fun _ _ h => ?_)
    | with_reducible refine foldl_keeps _ _ ?_ (fun _ _ h => ?_)
    | with_reducible refine foldl_pair_keeps _ _ _ ?_ (fun _ _ h => ?_)
    | with_reducible refine bump_keeps _ _ _ _ ?_
    | with_reducible refine State.modCore_keeps _ _ _ ?_

theorem countLoss_keeps {s0 : State} (p : Nat) (s : State) (hs : Keeps s0 s) : Keeps s0 (countLoss p s) := by
  unfold countLoss
  repeat' first
    | with_reducible assumption
    | with_reducible refine Keeps.ite (fun _ => ?_) (fun _ => ?_)
    | with_reducible refine foldl_keeps _ _ ?_ (fun _ _ h => ?_)
    | with_reducible refine foldl_pair_keeps _ _ _ ?_ (fun _ _ h => ?_)
    | with_reducible refine bumpPeal_keeps _ _ _ _ ?_
    | simp only [keeps_set_lanes, keeps_set_ports, keeps_set_blocks, keeps_set_sched, keeps_set_fabric, keeps_set_lasts, keeps_set_host, keeps_set_logs, keeps_set_chip, keeps_set_ctl, keeps_set_time, keeps_set_twin, keeps_set_peals, keeps_set_spine, keeps_set_circ, keeps_set_chans]
    | refine KeepsP.get (by with_reducible assumption) ?_
    | refine KeepsT.get (by with_reducible assumption) ?_
    | simp only [keeps_snd_snd]
    | simp only [keeps_snd]
    | simp only [keepsP_mk]
    | with_reducible refine KeepsP.ite (fun _ => ?_) (fun _ => ?_)
    | split

theorem bookWait_keeps {s0 : State} (p : Nat) (why : Nat) (ns : Nat) (s : State) (hs : Keeps s0 s) : Keeps s0 (bookWait p why ns s) := by
  unfold bookWait
  repeat' first
    | with_reducible assumption
    | with_reducible refine Keeps.ite (fun _ => ?_) (fun _ => ?_)
    | with_reducible refine foldl_keeps _ _ ?_ (fun _ _ h => ?_)
    | with_reducible refine foldl_pair_keeps _ _ _ ?_ (fun _ _ h => ?_)
    | with_reducible refine bumpPeal_keeps _ _ _ _ ?_
    | with_reducible refine bumpN_keeps _ _ _ _ _ ?_
    | simp only [keeps_set_lanes, keeps_set_ports, keeps_set_blocks, keeps_set_sched, keeps_set_fabric, keeps_set_lasts, keeps_set_host, keeps_set_logs, keeps_set_chip, keeps_set_ctl, keeps_set_time, keeps_set_twin, keeps_set_peals, keeps_set_spine, keeps_set_circ, keeps_set_chans]
    | refine KeepsP.get (by with_reducible assumption) ?_
    | refine KeepsT.get (by with_reducible assumption) ?_
    | simp only [keeps_snd_snd]
    | simp only [keeps_snd]
    | simp only [keepsP_mk]
    | with_reducible refine KeepsP.ite (fun _ => ?_) (fun _ => ?_)
    | split

theorem endWaits_keeps {s0 : State} (all : Bool) (p : Nat) (s : State) (hs : Keeps s0 s) : Keeps s0 (endWaits all p s) := by
  unfold endWaits
  repeat' first
    | with_reducible assumption
    | with_reducible refine Keeps.ite (fun _ => ?_) (fun _ => ?_)
    | with_reducible refine forAll_keeps _ _ ?_ (fun _ _ h => ?_)
    | with_reducible refine foldl_keeps _ _ ?_ (fun _ _ h => ?_)
    | with_reducible refine foldl_pair_keeps _ _ _ ?_ (fun _ _ h => ?_)
    | with_reducible refine forAll_keeps _ _ _ ?_ (fun _ _ h => ?_)
    | with_reducible refine State.modPeal_keeps _ _ _ ?_
    | with_reducible refine bookWait_keeps _ _ _ _ ?_
    | simp only [keeps_set_lanes, keeps_set_ports, keeps_set_blocks, keeps_set_sched, keeps_set_fabric, keeps_set_lasts, keeps_set_host, keeps_set_logs, keeps_set_chip, keeps_set_ctl, keeps_set_time, keeps_set_twin, keeps_set_peals, keeps_set_spine, keeps_set_circ, keeps_set_chans]
    | refine KeepsP.get (by with_reducible assumption) ?_
    | refine KeepsT.get (by with_reducible assumption) ?_
    | simp only [keeps_snd_snd]
    | simp only [keeps_snd]
    | simp only [keepsP_mk]
    | with_reducible refine KeepsP.ite (fun _ => ?_) (fun _ => ?_)
    | split

theorem voidCore_keeps {s0 : State} (causes : List Nat) (hold : Bool) (member : Option Nat) (remote : Bool) (p : Nat) (s : State) (hs : Keeps s0 s) : Keeps s0 (voidCore causes hold member remote p s) := by
  unfold voidCore
  repeat' first
    | with_reducible assumption
    | with_reducible refine Keeps.ite (fun _ => ?_) (fun _ => ?_)
    | with_reducible refine forAll_keeps _ _ ?_ (fun _ _ h => ?_)
    | with_reducible refine foldl_keeps _ _ ?_ (fun _ _ h => ?_)
    | with_reducible refine foldl_pair_keeps _ _ _ ?_ (fun _ _ h => ?_)
    | with_reducible refine forAll_keeps _ _ _ ?_ (fun _ _ h => ?_)
    | with_reducible refine bumpPeal_keeps _ _ _ _ ?_
    | with_reducible refine clearCores_keeps _ _ _ _ ?_
    | with_reducible refine endWaits_keeps _ _ _ ?_
    | with_reducible refine countLoss_keeps _ _ ?_
    | with_reducible refine State.modPeal_keeps _ _ _ ?_
    | with_reducible refine sendCell_keeps _ _ _ ?_
    | with_reducible refine sendRoundCtl_keeps _ _ _ _ _ _ _ _ ?_
    | simp only [keeps_set_lanes, keeps_set_ports, keeps_set_blocks, keeps_set_sched, keeps_set_fabric, keeps_set_lasts, keeps_set_host, keeps_set_logs, keeps_set_chip, keeps_set_ctl, keeps_set_time, keeps_set_twin, keeps_set_peals, keeps_set_spine, keeps_set_circ, keeps_set_chans]
    | refine KeepsP.get (by with_reducible assumption) ?_
    | refine KeepsT.get (by with_reducible assumption) ?_
    | simp only [keeps_snd_snd]
    | simp only [keeps_snd]
    | simp only [keepsP_mk]
    | with_reducible refine KeepsP.ite (fun _ => ?_) (fun _ => ?_)
    | split

theorem postHeld_keeps {s0 : State} (p : ℕ) (s : State) (hs : Keeps s0 s) : Keeps s0 (postHeld p s) := by
  unfold postHeld
  repeat' first
    | with_reducible assumption
    | with_reducible refine Keeps.ite (fun _ => ?_) (fun _ => ?_)
    | with_reducible refine foldl_keeps _ _ ?_ (fun _ _ h => ?_)
    | with_reducible refine foldl_pair_keeps _ _ _ ?_ (fun _ _ h => ?_)
    | with_reducible refine postEvent_keeps _ _ _ ?_

theorem voidHeld_keeps {s0 : State} (causes : List ℕ) (member : Option ℕ) (p : ℕ) (s : State) (hs : Keeps s0 s) : Keeps s0 (voidHeld causes member p s) := by
  unfold voidHeld
  repeat' first
    | with_reducible assumption
    | with_reducible refine Keeps.ite (fun _ => ?_) (fun _ => ?_)
    | with_reducible refine foldl_keeps _ _ ?_ (fun _ _ h => ?_)
    | with_reducible refine foldl_pair_keeps _ _ _ ?_ (fun _ _ h => ?_)
    | with_reducible refine postHeld_keeps _ _ ?_
    | with_reducible refine voidCore_keeps _ _ _ _ _ _ ?_

theorem applyCommit_keeps {s0 : State} (k : ℕ) (s : State) (hs : Keeps s0 s) : Keeps s0 (applyCommit k s) := by
  unfold applyCommit
  repeat' first
    | with_reducible assumption
    | with_reducible refine Keeps.ite (fun _ => ?_) (fun _ => ?_)
    | with_reducible refine foldl_keeps _ _ ?_ (fun _ _ h => ?_)
    | with_reducible refine foldl_pair_keeps _ _ _ ?_ (fun _ _ h => ?_)
    | with_reducible refine State.modShard_keeps _ _ _ ?_

theorem openCore_keeps {s0 : State} (p : Nat) (s : State) (hs : Keeps s0 s) : KeepsP s0 (openCore p s) := by
  unfold openCore
  repeat' first
    | with_reducible assumption
    | with_reducible refine KeepsP.ite (fun _ => ?_) (fun _ => ?_)
    | simp only [keepsP_mk]
    | with_reducible refine Keeps.ite (fun _ => ?_) (fun _ => ?_)
    | with_reducible refine forAll_keeps _ _ ?_ (fun _ _ h => ?_)
    | with_reducible refine foldl_keeps _ _ ?_ (fun _ _ h => ?_)
    | with_reducible refine foldl_pair_keeps _ _ _ ?_ (fun _ _ h => ?_)
    | with_reducible refine endWaits_keeps _ _ _ ?_
    | with_reducible refine State.modPeal_keeps _ _ _ ?_
    | with_reducible refine applyCommit_keeps _ _ ?_
    | with_reducible refine clearResidues_keeps _ _ _ ?_
    | with_reducible refine State.modTwin_keeps _ _ ?_
    | with_reducible refine forAll_keeps _ _ _ ?_ (fun _ _ h => ?_)
    | with_reducible refine State.modMem_keeps _ _ ?_
    | with_reducible refine openChunks_keeps _ _ _ ?_
    | with_reducible refine sendCatchup_keeps _ _ _ ?_
    | with_reducible refine sendWindows_keeps _ _ _ ?_
    | simp only [keeps_set_lanes, keeps_set_ports, keeps_set_blocks, keeps_set_sched, keeps_set_fabric, keeps_set_lasts, keeps_set_host, keeps_set_logs, keeps_set_chip, keeps_set_ctl, keeps_set_time, keeps_set_twin, keeps_set_peals, keeps_set_spine, keeps_set_circ, keeps_set_chans]
    | ((with_reducible refine Keeps.of_mem _ ?_ (fun m => ?_)); on_goal 2 => first | exact m | exact ⟨Memory.writes_wf _ _ m.1, m.2⟩ | exact ⟨m.1, Memory.writes_wf _ _ m.2.1, m.2.2⟩ | exact ⟨m.1, m.2.1, m.2.2.1, Memory.writes_wf _ _ m.2.2.2.1, m.2.2.2.2⟩ | exact ⟨m.1, m.2.1, m.2.2.1, m.2.2.2.1, Memory.writes_wf _ _ m.2.2.2.2⟩ | exact ⟨Memory.clear_wf _ _ m.1, m.2⟩ | exact ⟨m.1, m.2.1, m.2.2.1, Memory.clear_wf _ _ m.2.2.2.1, m.2.2.2.2⟩ | exact ⟨m.1, m.2.1, m.2.2.1, m.2.2.2.1, Memory.clear_wf _ _ m.2.2.2.2⟩)
    | refine KeepsP.get (by with_reducible assumption) ?_
    | refine KeepsT.get (by with_reducible assumption) ?_
    | simp only [keeps_snd_snd]
    | simp only [keeps_snd]
    | simp only [keepsP_mk]
    | with_reducible refine KeepsP.ite (fun _ => ?_) (fun _ => ?_)
    | split

theorem voidSent_keeps {s0 : State} (a : Sent) (p : ℕ) (s : State) (hs : Keeps s0 s) : Keeps s0 (voidSent a p s) := by
  unfold voidSent
  repeat' first
    | with_reducible assumption
    | with_reducible refine Keeps.ite (fun _ => ?_) (fun _ => ?_)
    | with_reducible refine forAll_keeps _ _ ?_ (fun _ _ h => ?_)
    | with_reducible refine foldl_keeps _ _ ?_ (fun _ _ h => ?_)
    | with_reducible refine foldl_pair_keeps _ _ _ ?_ (fun _ _ h => ?_)
    | with_reducible refine setFenced_keeps _ _ _ ?_
    | with_reducible refine voidHeld_keeps _ _ _ _ ?_

theorem sealRound_keeps {s0 : State} (p : ℕ) (s : State) (hs : Keeps s0 s) : Keeps s0 (sealRound p s) := by
  unfold sealRound
  repeat' first
    | with_reducible assumption
    | with_reducible refine Keeps.ite (fun _ => ?_) (fun _ => ?_)
    | with_reducible refine foldl_keeps _ _ ?_ (fun _ _ h => ?_)
    | with_reducible refine foldl_pair_keeps _ _ _ ?_ (fun _ _ h => ?_)
    | with_reducible refine State.modPeal_keeps _ _ _ ?_
    | with_reducible refine sendToMember_keeps _ _ _ _ _ ?_
    | with_reducible refine sendResult_keeps _ _ _ _ _ ?_
    | with_reducible refine voidSent_keeps _ _ _ ?_
    | with_reducible refine bumpPeal_keeps _ _ _ _ ?_
    | simp only [keeps_set_lanes, keeps_set_ports, keeps_set_blocks, keeps_set_sched, keeps_set_fabric, keeps_set_lasts, keeps_set_host, keeps_set_logs, keeps_set_chip, keeps_set_ctl, keeps_set_time, keeps_set_twin, keeps_set_peals, keeps_set_spine, keeps_set_circ, keeps_set_chans]
    | refine KeepsP.get (by with_reducible assumption) ?_
    | refine KeepsT.get (by with_reducible assumption) ?_
    | simp only [keeps_snd_snd]
    | simp only [keeps_snd]
    | simp only [keepsP_mk]
    | with_reducible refine KeepsP.ite (fun _ => ?_) (fun _ => ?_)

theorem trySeal_keeps {s0 : State} (p : ℕ) (s : State) (hs : Keeps s0 s) : Keeps s0 (trySeal p s) := by
  unfold trySeal
  repeat' first
    | with_reducible assumption
    | with_reducible refine Keeps.ite (fun _ => ?_) (fun _ => ?_)
    | with_reducible refine foldl_keeps _ _ ?_ (fun _ _ h => ?_)
    | with_reducible refine foldl_pair_keeps _ _ _ ?_ (fun _ _ h => ?_)
    | with_reducible refine sealRound_keeps _ _ ?_

theorem openRound_keeps {s0 : State} (p : ℕ) (s : State) (hs : Keeps s0 s) : Keeps s0 (openRound p s) := by
  unfold openRound
  repeat' first
    | with_reducible assumption
    | with_reducible refine Keeps.ite (fun _ => ?_) (fun _ => ?_)
    | with_reducible refine foldl_keeps _ _ ?_ (fun _ _ h => ?_)
    | with_reducible refine foldl_pair_keeps _ _ _ ?_ (fun _ _ h => ?_)
    | with_reducible refine sendRoundCtl_keeps _ _ _ _ _ _ _ _ ?_
    | with_reducible refine openCore_keeps _ _ ?_
    | with_reducible refine trySeal_keeps _ _ ?_
    | with_reducible refine voidSent_keeps _ _ _ ?_
    | simp only [keeps_set_lanes, keeps_set_ports, keeps_set_blocks, keeps_set_sched, keeps_set_fabric, keeps_set_lasts, keeps_set_host, keeps_set_logs, keeps_set_chip, keeps_set_ctl, keeps_set_time, keeps_set_twin, keeps_set_peals, keeps_set_spine, keeps_set_circ, keeps_set_chans]
    | refine KeepsP.get (by with_reducible assumption) ?_
    | refine KeepsT.get (by with_reducible assumption) ?_
    | simp only [keeps_snd_snd]
    | simp only [keeps_snd]

theorem sendCopyCtl_keeps {s0 : State} (k : ℕ) (action : ℕ) (s : State) (hs : Keeps s0 s) : Keeps s0 (sendCopyCtl k action s) := by
  unfold sendCopyCtl
  repeat' first
    | with_reducible assumption
    | with_reducible refine Keeps.ite (fun _ => ?_) (fun _ => ?_)
    | with_reducible refine foldl_keeps _ _ ?_ (fun _ _ h => ?_)
    | with_reducible refine foldl_pair_keeps _ _ _ ?_ (fun _ _ h => ?_)
    | with_reducible refine sendTwin_keeps _ _ _ _ _ _ ?_

theorem sendCopyData_keeps {s0 : State} (k : Nat) (bank : Nat) (purpose : Nat) (x : Nat) (s : State) (hs : Keeps s0 s) : Keeps s0 (sendCopyData k bank purpose x s) := by
  unfold sendCopyData
  repeat' first
    | with_reducible assumption
    | with_reducible refine Keeps.ite (fun _ => ?_) (fun _ => ?_)
    | with_reducible refine foldl_keeps _ _ ?_ (fun _ _ h => ?_)
    | with_reducible refine foldl_pair_keeps _ _ _ ?_ (fun _ _ h => ?_)
    | with_reducible refine State.modTwin_keeps _ _ ?_
    | with_reducible refine sliceServed_keeps _ _ _ _ _ _ _ _ ?_
    | with_reducible refine sendTwinFrom_keeps _ _ _ _ _ _ _ ?_
    | simp only [keeps_set_lanes, keeps_set_ports, keeps_set_blocks, keeps_set_sched, keeps_set_fabric, keeps_set_lasts, keeps_set_host, keeps_set_logs, keeps_set_chip, keeps_set_ctl, keeps_set_time, keeps_set_twin, keeps_set_peals, keeps_set_spine, keeps_set_circ, keeps_set_chans]
    | refine KeepsP.get (by with_reducible assumption) ?_
    | refine KeepsT.get (by with_reducible assumption) ?_
    | simp only [keeps_snd_snd]
    | simp only [keeps_snd]
    | simp only [keepsP_mk]
    | with_reducible refine KeepsP.ite (fun _ => ?_) (fun _ => ?_)
    | split

theorem startCopy_keeps {s0 : State} (p : ℕ) (s : State) (hs : Keeps s0 s) : Keeps s0 (startCopy p s) := by
  unfold startCopy
  repeat' first
    | with_reducible assumption
    | with_reducible refine Keeps.ite (fun _ => ?_) (fun _ => ?_)
    | with_reducible refine forAll_keeps _ _ ?_ (fun _ _ h => ?_)
    | with_reducible refine foldl_keeps _ _ ?_ (fun _ _ h => ?_)
    | with_reducible refine foldl_pair_keeps _ _ _ ?_ (fun _ _ h => ?_)
    | with_reducible refine State.modPeal_keeps _ _ _ ?_
    | with_reducible refine State.modTwin_keeps _ _ ?_
    | with_reducible refine sendCopyCtl_keeps _ _ _ ?_
    | with_reducible refine applyCommit_keeps _ _ ?_
    | with_reducible refine sendCopyData_keeps _ _ _ _ _ ?_

theorem tryOpen_keeps {s0 : State} (p : Nat) (s : State) (hs : Keeps s0 s) : Keeps s0 (tryOpen p s) := by
  unfold tryOpen
  repeat' first
    | with_reducible assumption
    | with_reducible refine Keeps.ite (fun _ => ?_) (fun _ => ?_)
    | with_reducible refine foldl_keeps _ _ ?_ (fun _ _ h => ?_)
    | with_reducible refine foldl_pair_keeps _ _ _ ?_ (fun _ _ h => ?_)
    | with_reducible refine endWaits_keeps _ _ _ ?_
    | with_reducible refine startCopy_keeps _ _ ?_
    | with_reducible refine openRound_keeps _ _ ?_
    | with_reducible refine State.modPeal_keeps _ _ _ ?_
    | with_reducible refine sendRoundCtl_keeps _ _ _ _ _ _ _ _ ?_
    | with_reducible refine postEvent_keeps _ _ _ ?_
    | with_reducible refine bump_keeps _ _ _ _ ?_
    | simp only [keeps_set_lanes, keeps_set_ports, keeps_set_blocks, keeps_set_sched, keeps_set_fabric, keeps_set_lasts, keeps_set_host, keeps_set_logs, keeps_set_chip, keeps_set_ctl, keeps_set_time, keeps_set_twin, keeps_set_peals, keeps_set_spine, keeps_set_circ, keeps_set_chans]
    | refine KeepsP.get (by with_reducible assumption) ?_
    | refine KeepsT.get (by with_reducible assumption) ?_
    | simp only [keeps_snd_snd]
    | simp only [keeps_snd]
    | simp only [keepsP_mk]
    | with_reducible refine KeepsP.ite (fun _ => ?_) (fun _ => ?_)
    | split

theorem armNext_keeps {s0 : State} (p : ℕ) (round : ℕ) (s : State) (hs : Keeps s0 s) : Keeps s0 (armNext p round s) := by
  unfold armNext
  repeat' first
    | with_reducible assumption
    | with_reducible refine Keeps.ite (fun _ => ?_) (fun _ => ?_)
    | with_reducible refine foldl_keeps _ _ ?_ (fun _ _ h => ?_)
    | with_reducible refine foldl_pair_keeps _ _ _ ?_ (fun _ _ h => ?_)
    | with_reducible refine State.modPeal_keeps _ _ _ ?_
    | with_reducible refine tryOpen_keeps _ _ ?_

theorem voidPeal_keeps {s0 : State} (causes : List ℕ) (hold : Bool) (member : Option ℕ) (remote : Bool) (p : ℕ) (s : State) (hs : Keeps s0 s) : Keeps s0 (voidPeal causes hold member remote p s) := by
  unfold voidPeal
  repeat' first
    | with_reducible assumption
    | with_reducible refine Keeps.ite (fun _ => ?_) (fun _ => ?_)
    | with_reducible refine foldl_keeps _ _ ?_ (fun _ _ h => ?_)
    | with_reducible refine foldl_pair_keeps _ _ _ ?_ (fun _ _ h => ?_)
    | with_reducible refine voidCore_keeps _ _ _ _ _ _ ?_
    | with_reducible refine postHeld_keeps _ _ ?_
    | with_reducible refine armNext_keeps _ _ _ ?_
    | with_reducible refine bumpPeal_keeps _ _ _ _ ?_
    | with_reducible refine State.modPeal_keeps _ _ _ ?_

theorem voidFor_keeps {s0 : State} (cause : ℕ) (p : ℕ) (s : State) (hs : Keeps s0 s) : Keeps s0 (voidFor cause p s) := by
  unfold voidFor
  repeat' first
    | with_reducible assumption
    | with_reducible refine Keeps.ite (fun _ => ?_) (fun _ => ?_)
    | with_reducible refine foldl_keeps _ _ ?_ (fun _ _ h => ?_)
    | with_reducible refine foldl_pair_keeps _ _ _ ?_ (fun _ _ h => ?_)
    | with_reducible refine voidPeal_keeps _ _ _ _ _ _ ?_

theorem settleLost_keeps {s0 : State} (s : State) (hs : Keeps s0 s) : Keeps s0 (settleLost s) := by
  unfold settleLost
  repeat' first
    | with_reducible assumption
    | with_reducible refine Keeps.ite (fun _ => ?_) (fun _ => ?_)
    | with_reducible refine forAll_keeps _ _ ?_ (fun _ _ h => ?_)
    | with_reducible refine foldl_keeps _ _ ?_ (fun _ _ h => ?_)
    | with_reducible refine foldl_pair_keeps _ _ _ ?_ (fun _ _ h => ?_)
    | with_reducible refine State.modSpine_keeps _ _ ?_
    | with_reducible refine bumpPeal_keeps _ _ _ _ ?_
    | with_reducible refine voidPeal_keeps _ _ _ _ _ _ ?_

theorem holdFenced_keeps {s0 : State} (more : List Nat) (p : Nat) (s : State) (hs : Keeps s0 s) : Keeps s0 (holdFenced more p s) := by
  unfold holdFenced
  repeat' first
    | with_reducible assumption
    | with_reducible refine Keeps.ite (fun _ => ?_) (fun _ => ?_)
    | with_reducible refine foldl_keeps _ _ ?_ (fun _ _ h => ?_)
    | with_reducible refine foldl_pair_keeps _ _ _ ?_ (fun _ _ h => ?_)
    | with_reducible refine postHeld_keeps _ _ ?_
    | with_reducible refine State.modPeal_keeps _ _ _ ?_
    | with_reducible refine voidPeal_keeps _ _ _ _ _ _ ?_
    | simp only [keeps_set_lanes, keeps_set_ports, keeps_set_blocks, keeps_set_sched, keeps_set_fabric, keeps_set_lasts, keeps_set_host, keeps_set_logs, keeps_set_chip, keeps_set_ctl, keeps_set_time, keeps_set_twin, keeps_set_peals, keeps_set_spine, keeps_set_circ, keeps_set_chans]
    | refine KeepsP.get (by with_reducible assumption) ?_
    | refine KeepsT.get (by with_reducible assumption) ?_
    | simp only [keeps_snd_snd]
    | simp only [keeps_snd]
    | simp only [keepsP_mk]
    | with_reducible refine KeepsP.ite (fun _ => ?_) (fun _ => ?_)
    | split

end Sys2Proof.Machine
end

