-- ==== Sys2Proof/Laws/KeepsLink.lean ====
section
/-! SUPPORT. Laws/KeepsLink.lean: what the operations of Machine/Link.lean keep. -/
namespace Sys2Proof.Machine

set_option linter.unusedSimpArgs false
set_option linter.unusedTactic false
set_option linter.unreachableTactic false

theorem setChip_keeps {s0 : State} (c : CState) (cause : ℕ) (s : State) (hs : Keeps s0 s) : Keeps s0 (setChip c cause s) := by
  unfold setChip
  repeat' first
    | with_reducible assumption
    | with_reducible refine Keeps.ite (fun _ => ?_) (fun _ => ?_)
    | with_reducible refine foldl_keeps _ _ ?_ (fun _ _ h => ?_)
    | with_reducible refine foldl_pair_keeps _ _ _ ?_ (fun _ _ h => ?_)
    | with_reducible refine State.modChip_keeps _ _ ?_
    | with_reducible refine postEvent_keeps _ _ _ ?_

theorem settle_keeps {s0 : State} (cause : ℕ) (s : State) (hs : Keeps s0 s) : Keeps s0 (settle cause s) := by
  unfold settle
  repeat' first
    | with_reducible assumption
    | with_reducible refine Keeps.ite (fun _ => ?_) (fun _ => ?_)
    | with_reducible refine foldl_keeps _ _ ?_ (fun _ _ h => ?_)
    | with_reducible refine foldl_pair_keeps _ _ _ ?_ (fun _ _ h => ?_)
    | with_reducible refine setChip_keeps _ _ _ ?_
    | simp only [keeps_set_lanes, keeps_set_ports, keeps_set_blocks, keeps_set_sched, keeps_set_fabric, keeps_set_lasts, keeps_set_host, keeps_set_logs, keeps_set_chip, keeps_set_ctl, keeps_set_time, keeps_set_twin, keeps_set_peals, keeps_set_spine, keeps_set_circ, keeps_set_chans]
    | refine KeepsP.get (by with_reducible assumption) ?_
    | refine KeepsT.get (by with_reducible assumption) ?_
    | simp only [keeps_snd_snd]
    | simp only [keeps_snd]
    | simp only [keepsP_mk]
    | with_reducible refine KeepsP.ite (fun _ => ?_) (fun _ => ?_)
    | split

theorem State.modCirc_keeps {s0 : State} (s : State) (p : ℕ) (f : Circ → Circ) (hs : Keeps s0 s) : Keeps s0 (State.modCirc s p f) := by
  unfold State.modCirc
  repeat' first
    | with_reducible assumption
    | with_reducible refine Keeps.ite (fun _ => ?_) (fun _ => ?_)
    | with_reducible refine foldl_keeps _ _ ?_ (fun _ _ h => ?_)
    | with_reducible refine foldl_pair_keeps _ _ _ ?_ (fun _ _ h => ?_)
    | simp only [keeps_set_lanes, keeps_set_ports, keeps_set_blocks, keeps_set_sched, keeps_set_fabric, keeps_set_lasts, keeps_set_host, keeps_set_logs, keeps_set_chip, keeps_set_ctl, keeps_set_time, keeps_set_twin, keeps_set_peals, keeps_set_spine, keeps_set_circ, keeps_set_chans]

theorem bumpCirc_keeps {s0 : State} (p : ℕ) (idx : ℕ) (n : ℕ) (s : State) (hs : Keeps s0 s) : Keeps s0 (bumpCirc p idx n s) := by
  unfold bumpCirc
  repeat' first
    | with_reducible assumption
    | with_reducible refine Keeps.ite (fun _ => ?_) (fun _ => ?_)
    | with_reducible refine foldl_keeps _ _ ?_ (fun _ _ h => ?_)
    | with_reducible refine foldl_pair_keeps _ _ _ ?_ (fun _ _ h => ?_)
    | with_reducible refine bumpN_keeps _ _ _ _ _ ?_

theorem dropAged_keeps {s0 : State} (p : ℕ) (x : Stashed) (s : State) (hs : Keeps s0 s) : Keeps s0 (dropAged p x s) := by
  unfold dropAged
  repeat' first
    | with_reducible assumption
    | with_reducible refine Keeps.ite (fun _ => ?_) (fun _ => ?_)
    | with_reducible refine foldl_keeps _ _ ?_ (fun _ _ h => ?_)
    | with_reducible refine foldl_pair_keeps _ _ _ ?_ (fun _ _ h => ?_)
    | with_reducible refine bumpCirc_keeps _ _ _ _ ?_
    | with_reducible refine countDiscard_keeps _ _ _ ?_

theorem loseService_keeps {s0 : State} (p : Nat) (g : Nat) (s : State) (hs : Keeps s0 s) : Keeps s0 (loseService p g s) := by
  unfold loseService
  repeat' first
    | with_reducible assumption
    | with_reducible refine Keeps.ite (fun _ => ?_) (fun _ => ?_)
    | with_reducible refine forAll_keeps _ _ ?_ (fun _ _ h => ?_)
    | with_reducible refine foldl_keeps _ _ ?_ (fun _ _ h => ?_)
    | with_reducible refine foldl_pair_keeps _ _ _ ?_ (fun _ _ h => ?_)
    | with_reducible refine forAll_keeps _ _ _ ?_ (fun _ _ h => ?_)
    | with_reducible refine recordServed_keeps _ _ _ _ _ ?_
    | with_reducible refine State.modCirc_keeps _ _ _ ?_
    | with_reducible refine settleLost_keeps _ ?_
    | with_reducible refine dropAged_keeps _ _ _ ?_
    | with_reducible refine chooseFrom_keeps _ _ _ _ _ _ ?_
    | with_reducible refine joinQueue_keeps _ _ _ _ ?_
    | with_reducible refine bumpCirc_keeps _ _ _ _ ?_
    | with_reducible refine countDiscard_keeps _ _ _ ?_
    | with_reducible refine noteLost_keeps _ _ ?_
    | simp only [keeps_set_lanes, keeps_set_ports, keeps_set_blocks, keeps_set_sched, keeps_set_fabric, keeps_set_lasts, keeps_set_host, keeps_set_logs, keeps_set_chip, keeps_set_ctl, keeps_set_time, keeps_set_twin, keeps_set_peals, keeps_set_spine, keeps_set_circ, keeps_set_chans]
    | refine KeepsP.get (by with_reducible assumption) ?_
    | refine KeepsT.get (by with_reducible assumption) ?_
    | simp only [keeps_snd_snd]
    | simp only [keeps_snd]
    | simp only [keepsP_mk]
    | with_reducible refine KeepsP.ite (fun _ => ?_) (fun _ => ?_)
    | split

theorem loseAll_keeps {s0 : State} (p : ℕ) (s : State) (hs : Keeps s0 s) : Keeps s0 (loseAll p s) := by
  unfold loseAll
  repeat' first
    | with_reducible assumption
    | with_reducible refine Keeps.ite (fun _ => ?_) (fun _ => ?_)
    | with_reducible refine forAll_keeps _ _ ?_ (fun _ _ h => ?_)
    | with_reducible refine foldl_keeps _ _ ?_ (fun _ _ h => ?_)
    | with_reducible refine foldl_pair_keeps _ _ _ ?_ (fun _ _ h => ?_)
    | with_reducible refine loseService_keeps _ _ _ ?_

theorem disarmNow_keeps {s0 : State} (p : ℕ) (s : State) (hs : Keeps s0 s) : Keeps s0 (disarmNow p s) := by
  unfold disarmNow
  repeat' first
    | with_reducible assumption
    | with_reducible refine Keeps.ite (fun _ => ?_) (fun _ => ?_)
    | with_reducible refine foldl_keeps _ _ ?_ (fun _ _ h => ?_)
    | with_reducible refine foldl_pair_keeps _ _ _ ?_ (fun _ _ h => ?_)
    | with_reducible refine bumpCirc_keeps _ _ _ _ ?_
    | with_reducible refine State.modCirc_keeps _ _ _ ?_
    | with_reducible refine loseAll_keeps _ _ ?_

theorem portEvent_keeps {s0 : State} (p : ℕ) (before : ℕ) (after : ℕ) (cause : ℕ) (s : State) (hs : Keeps s0 s) : Keeps s0 (portEvent p before after cause s) := by
  unfold portEvent
  repeat' first
    | with_reducible assumption
    | with_reducible refine Keeps.ite (fun _ => ?_) (fun _ => ?_)
    | with_reducible refine foldl_keeps _ _ ?_ (fun _ _ h => ?_)
    | with_reducible refine foldl_pair_keeps _ _ _ ?_ (fun _ _ h => ?_)
    | with_reducible refine postEvent_keeps _ _ _ ?_

theorem openCredits_keeps {s0 : State} (p : ℕ) (s : State) (hs : Keeps s0 s) : Keeps s0 (openCredits p s) := by
  unfold openCredits
  repeat' first
    | with_reducible assumption
    | with_reducible refine Keeps.ite (fun _ => ?_) (fun _ => ?_)
    | with_reducible refine forAll_keeps _ _ ?_ (fun _ _ h => ?_)
    | with_reducible refine foldl_keeps _ _ ?_ (fun _ _ h => ?_)
    | with_reducible refine foldl_pair_keeps _ _ _ ?_ (fun _ _ h => ?_)
    | with_reducible refine State.modPort_keeps _ _ _ ?_
    | with_reducible refine State.modLane_keeps _ _ _ ?_

theorem dropStore_keeps {s0 : State} (p : Nat) (cause : Nat) (s : State) (hs : Keeps s0 s) : Keeps s0 (dropStore p cause s) := by
  unfold dropStore
  repeat' first
    | with_reducible assumption
    | with_reducible refine Keeps.ite (fun _ => ?_) (fun _ => ?_)
    | with_reducible refine forAll_keeps _ _ ?_ (fun _ _ h => ?_)
    | with_reducible refine foldl_keeps _ _ ?_ (fun _ _ h => ?_)
    | with_reducible refine foldl_pair_keeps _ _ _ ?_ (fun _ _ h => ?_)
    | with_reducible refine forAll_keeps _ _ _ ?_ (fun _ _ h => ?_)
    | with_reducible refine noteLost_keeps _ _ ?_
    | with_reducible refine returnCredit_keeps _ _ ?_
    | with_reducible refine State.modPort_keeps _ _ _ ?_
    | with_reducible refine bumpPortN_keeps _ _ _ _ ?_
    | simp only [keeps_set_lanes, keeps_set_ports, keeps_set_blocks, keeps_set_sched, keeps_set_fabric, keeps_set_lasts, keeps_set_host, keeps_set_logs, keeps_set_chip, keeps_set_ctl, keeps_set_time, keeps_set_twin, keeps_set_peals, keeps_set_spine, keeps_set_circ, keeps_set_chans]
    | refine KeepsP.get (by with_reducible assumption) ?_
    | refine KeepsT.get (by with_reducible assumption) ?_
    | simp only [keeps_snd_snd]
    | simp only [keeps_snd]
    | simp only [keepsP_mk]
    | with_reducible refine KeepsP.ite (fun _ => ?_) (fun _ => ?_)
    | split

theorem dropUnacked_keeps {s0 : State} (p : Nat) (stop : Bool) (s : State) (hs : Keeps s0 s) : Keeps s0 (dropUnacked p stop s) := by
  unfold dropUnacked
  repeat' first
    | with_reducible assumption
    | with_reducible refine Keeps.ite (fun _ => ?_) (fun _ => ?_)
    | with_reducible refine forAll_keeps _ _ ?_ (fun _ _ h => ?_)
    | with_reducible refine foldl_keeps _ _ ?_ (fun _ _ h => ?_)
    | with_reducible refine foldl_pair_keeps _ _ _ ?_ (fun _ _ h => ?_)
    | with_reducible refine State.modPort_keeps _ _ _ ?_
    | with_reducible refine forAll_keeps _ _ _ ?_ (fun _ _ h => ?_)
    | with_reducible refine bumpPortN_keeps _ _ _ _ ?_
    | with_reducible refine State.modLane_keeps _ _ _ ?_
    | simp only [keeps_set_lanes, keeps_set_ports, keeps_set_blocks, keeps_set_sched, keeps_set_fabric, keeps_set_lasts, keeps_set_host, keeps_set_logs, keeps_set_chip, keeps_set_ctl, keeps_set_time, keeps_set_twin, keeps_set_peals, keeps_set_spine, keeps_set_circ, keeps_set_chans]
    | refine KeepsP.get (by with_reducible assumption) ?_
    | refine KeepsT.get (by with_reducible assumption) ?_
    | simp only [keeps_snd_snd]
    | simp only [keeps_snd]
    | simp only [keepsP_mk]
    | with_reducible refine KeepsP.ite (fun _ => ?_) (fun _ => ?_)
    | split

theorem zeroSpray_keeps {s0 : State} (p : ℕ) (s : State) (hs : Keeps s0 s) : Keeps s0 (zeroSpray p s) := by
  unfold zeroSpray
  repeat' first
    | with_reducible assumption
    | with_reducible refine Keeps.ite (fun _ => ?_) (fun _ => ?_)
    | with_reducible refine foldl_keeps _ _ ?_ (fun _ _ h => ?_)
    | with_reducible refine foldl_pair_keeps _ _ _ ?_ (fun _ _ h => ?_)
    | simp only [keeps_set_lanes, keeps_set_ports, keeps_set_blocks, keeps_set_sched, keeps_set_fabric, keeps_set_lasts, keeps_set_host, keeps_set_logs, keeps_set_chip, keeps_set_ctl, keeps_set_time, keeps_set_twin, keeps_set_peals, keeps_set_spine, keeps_set_circ, keeps_set_chans]

theorem leaveUp_keeps {s0 : State} (p : ℕ) (s : State) (hs : Keeps s0 s) : Keeps s0 (leaveUp p s) := by
  unfold leaveUp
  repeat' first
    | with_reducible assumption
    | with_reducible refine Keeps.ite (fun _ => ?_) (fun _ => ?_)
    | with_reducible refine foldl_keeps _ _ ?_ (fun _ _ h => ?_)
    | with_reducible refine foldl_pair_keeps _ _ _ ?_ (fun _ _ h => ?_)
    | with_reducible refine rechoose_keeps _ _ ?_
    | with_reducible refine dropStore_keeps _ _ _ ?_

theorem darkEdge_keeps {s0 : State} (p : ℕ) (was : Bool) (is_ : Bool) (s : State) (hs : Keeps s0 s) : Keeps s0 (darkEdge p was is_ s) := by
  unfold darkEdge
  repeat' first
    | with_reducible assumption
    | with_reducible refine Keeps.ite (fun _ => ?_) (fun _ => ?_)
    | with_reducible refine foldl_keeps _ _ ?_ (fun _ _ h => ?_)
    | with_reducible refine foldl_pair_keeps _ _ _ ?_ (fun _ _ h => ?_)
    | with_reducible refine bumpCirc_keeps _ _ _ _ ?_
    | with_reducible refine State.modCirc_keeps _ _ _ ?_

theorem enter_keeps {s0 : State} (p : Nat) (new : PState) (cause : Nat) (s : State) (hs : Keeps s0 s) : Keeps s0 (enter p new cause s) := by
  unfold enter
  repeat' first
    | with_reducible assumption
    | with_reducible refine Keeps.ite (fun _ => ?_) (fun _ => ?_)
    | with_reducible refine foldl_keeps _ _ ?_ (fun _ _ h => ?_)
    | with_reducible refine foldl_pair_keeps _ _ _ ?_ (fun _ _ h => ?_)
    | with_reducible refine State.modPort_keeps _ _ _ ?_
    | with_reducible refine darkEdge_keeps _ _ _ _ ?_
    | with_reducible refine leaveUp_keeps _ _ ?_
    | with_reducible refine bumpPort_keeps _ _ _ ?_
    | with_reducible refine dropUnacked_keeps _ _ _ ?_
    | with_reducible refine openCredits_keeps _ _ ?_
    | with_reducible refine zeroSpray_keeps _ _ ?_
    | with_reducible refine State.modTwin_keeps _ _ ?_
    | with_reducible refine settleLost_keeps _ ?_
    | with_reducible refine portEvent_keeps _ _ _ _ _ ?_
    | with_reducible refine reselect_keeps _ ?_
    | simp only [keeps_set_lanes, keeps_set_ports, keeps_set_blocks, keeps_set_sched, keeps_set_fabric, keeps_set_lasts, keeps_set_host, keeps_set_logs, keeps_set_chip, keeps_set_ctl, keeps_set_time, keeps_set_twin, keeps_set_peals, keeps_set_spine, keeps_set_circ, keeps_set_chans]
    | refine KeepsP.get (by with_reducible assumption) ?_
    | refine KeepsT.get (by with_reducible assumption) ?_
    | simp only [keeps_snd_snd]
    | simp only [keeps_snd]
    | simp only [keepsP_mk]
    | with_reducible refine KeepsP.ite (fun _ => ?_) (fun _ => ?_)
    | split

theorem startSeq_keeps {s0 : State} (p : ℕ) (warm : Bool) (s : State) (hs : Keeps s0 s) : Keeps s0 (startSeq p warm s) := by
  unfold startSeq
  repeat' first
    | with_reducible assumption
    | with_reducible refine Keeps.ite (fun _ => ?_) (fun _ => ?_)
    | with_reducible refine foldl_keeps _ _ ?_ (fun _ _ h => ?_)
    | with_reducible refine foldl_pair_keeps _ _ _ ?_ (fun _ _ h => ?_)
    | with_reducible refine State.modPort_keeps _ _ _ ?_

theorem startTraining_keeps {s0 : State} (p : ℕ) (cause : ℕ) (s : State) (hs : Keeps s0 s) : Keeps s0 (startTraining p cause s) := by
  unfold startTraining
  repeat' first
    | with_reducible assumption
    | with_reducible refine Keeps.ite (fun _ => ?_) (fun _ => ?_)
    | with_reducible refine foldl_keeps _ _ ?_ (fun _ _ h => ?_)
    | with_reducible refine foldl_pair_keeps _ _ _ ?_ (fun _ _ h => ?_)
    | with_reducible refine startSeq_keeps _ _ _ ?_
    | with_reducible refine enter_keeps _ _ _ _ ?_

theorem damp_keeps {s0 : State} (p : ℕ) (cause : ℕ) (h : Hold) (s : State) (hs : Keeps s0 s) : Keeps s0 (damp p cause h s) := by
  unfold damp
  repeat' first
    | with_reducible assumption
    | with_reducible refine Keeps.ite (fun _ => ?_) (fun _ => ?_)
    | with_reducible refine foldl_keeps _ _ ?_ (fun _ _ h => ?_)
    | with_reducible refine foldl_pair_keeps _ _ _ ?_ (fun _ _ h => ?_)
    | with_reducible refine bump_keeps _ _ _ _ ?_
    | with_reducible refine State.modPort_keeps _ _ _ ?_
    | with_reducible refine enter_keeps _ _ _ _ ?_

theorem dampFault_keeps {s0 : State} (p : ℕ) (cause : ℕ) (s : State) (hs : Keeps s0 s) : Keeps s0 (dampFault p cause s) := by
  unfold dampFault
  repeat' first
    | with_reducible assumption
    | with_reducible refine Keeps.ite (fun _ => ?_) (fun _ => ?_)
    | with_reducible refine foldl_keeps _ _ ?_ (fun _ _ h => ?_)
    | with_reducible refine foldl_pair_keeps _ _ _ ?_ (fun _ _ h => ?_)
    | with_reducible refine damp_keeps _ _ _ _ ?_
    | with_reducible refine postEvent_keeps _ _ _ ?_
    | with_reducible refine State.modPort_keeps _ _ _ ?_

theorem failSlot_keeps {s0 : State} (p : ℕ) (reason : ℕ) (ident : W64) (s : State) (hs : Keeps s0 s) : Keeps s0 (failSlot p reason ident s) := by
  unfold failSlot
  repeat' first
    | with_reducible assumption
    | with_reducible refine Keeps.ite (fun _ => ?_) (fun _ => ?_)
    | with_reducible refine foldl_keeps _ _ ?_ (fun _ _ h => ?_)
    | with_reducible refine foldl_pair_keeps _ _ _ ?_ (fun _ _ h => ?_)
    | with_reducible refine State.modCirc_keeps _ _ _ ?_
    | with_reducible refine postEvent_keeps _ _ _ ?_
    | with_reducible refine bumpCirc_keeps _ _ _ _ ?_
    | with_reducible refine loseService_keeps _ _ _ ?_

theorem portFault_keeps {s0 : State} (p : ℕ) (cause : ℕ) (s : State) (hs : Keeps s0 s) : Keeps s0 (portFault p cause s) := by
  unfold portFault
  repeat' first
    | with_reducible assumption
    | with_reducible refine Keeps.ite (fun _ => ?_) (fun _ => ?_)
    | with_reducible refine foldl_keeps _ _ ?_ (fun _ _ h => ?_)
    | with_reducible refine foldl_pair_keeps _ _ _ ?_ (fun _ _ h => ?_)
    | with_reducible refine failSlot_keeps _ _ _ _ ?_
    | with_reducible refine enter_keeps _ _ _ _ ?_
    | with_reducible refine dampFault_keeps _ _ _ ?_

theorem countFenced_keeps {s0 : State} (p : Nat) (s : State) (hs : Keeps s0 s) : Keeps s0 (countFenced p s) := by
  unfold countFenced
  repeat' first
    | with_reducible assumption
    | with_reducible refine Keeps.ite (fun _ => ?_) (fun _ => ?_)
    | with_reducible refine foldl_keeps _ _ ?_ (fun _ _ h => ?_)
    | with_reducible refine foldl_pair_keeps _ _ _ ?_ (fun _ _ h => ?_)
    | with_reducible refine bump_keeps _ _ _ _ ?_
    | simp only [keeps_set_lanes, keeps_set_ports, keeps_set_blocks, keeps_set_sched, keeps_set_fabric, keeps_set_lasts, keeps_set_host, keeps_set_logs, keeps_set_chip, keeps_set_ctl, keeps_set_time, keeps_set_twin, keeps_set_peals, keeps_set_spine, keeps_set_circ, keeps_set_chans]
    | refine KeepsP.get (by with_reducible assumption) ?_
    | refine KeepsT.get (by with_reducible assumption) ?_
    | simp only [keeps_snd_snd]
    | simp only [keeps_snd]
    | simp only [keepsP_mk]
    | with_reducible refine KeepsP.ite (fun _ => ?_) (fun _ => ?_)
    | split

theorem linkFault_keeps {s0 : State} (p : Nat) (cause : Nat) (s : State) (hs : Keeps s0 s) : Keeps s0 (linkFault p cause s) := by
  unfold linkFault
  repeat' first
    | with_reducible assumption
    | with_reducible refine Keeps.ite (fun _ => ?_) (fun _ => ?_)
    | with_reducible refine foldl_keeps _ _ ?_ (fun _ _ h => ?_)
    | with_reducible refine foldl_pair_keeps _ _ _ ?_ (fun _ _ h => ?_)
    | with_reducible refine portFault_keeps _ _ _ ?_
    | with_reducible refine countFenced_keeps _ _ ?_
    | simp only [keeps_set_lanes, keeps_set_ports, keeps_set_blocks, keeps_set_sched, keeps_set_fabric, keeps_set_lasts, keeps_set_host, keeps_set_logs, keeps_set_chip, keeps_set_ctl, keeps_set_time, keeps_set_twin, keeps_set_peals, keeps_set_spine, keeps_set_circ, keeps_set_chans]
    | refine KeepsP.get (by with_reducible assumption) ?_
    | refine KeepsT.get (by with_reducible assumption) ?_
    | simp only [keeps_snd_snd]
    | simp only [keeps_snd]
    | simp only [keepsP_mk]
    | with_reducible refine KeepsP.ite (fun _ => ?_) (fun _ => ?_)
    | split

theorem tryUp_keeps {s0 : State} (p : ℕ) (s : State) (hs : Keeps s0 s) : Keeps s0 (tryUp p s) := by
  unfold tryUp
  repeat' first
    | with_reducible assumption
    | with_reducible refine Keeps.ite (fun _ => ?_) (fun _ => ?_)
    | with_reducible refine foldl_keeps _ _ ?_ (fun _ _ h => ?_)
    | with_reducible refine foldl_pair_keeps _ _ _ ?_ (fun _ _ h => ?_)
    | with_reducible refine enter_keeps _ _ _ _ ?_
    | with_reducible refine bumpCirc_keeps _ _ _ _ ?_
    | with_reducible refine State.modCirc_keeps _ _ _ ?_
    | simp only [keeps_set_lanes, keeps_set_ports, keeps_set_blocks, keeps_set_sched, keeps_set_fabric, keeps_set_lasts, keeps_set_host, keeps_set_logs, keeps_set_chip, keeps_set_ctl, keeps_set_time, keeps_set_twin, keeps_set_peals, keeps_set_spine, keeps_set_circ, keeps_set_chans]
    | refine KeepsP.get (by with_reducible assumption) ?_
    | refine KeepsT.get (by with_reducible assumption) ?_
    | simp only [keeps_snd_snd]
    | simp only [keeps_snd]
    | simp only [keepsP_mk]
    | with_reducible refine KeepsP.ite (fun _ => ?_) (fun _ => ?_)
    | split

theorem fencePort_keeps {s0 : State} (p : ℕ) (s : State) (hs : Keeps s0 s) : Keeps s0 (fencePort p s) := by
  unfold fencePort
  repeat' first
    | with_reducible assumption
    | with_reducible refine Keeps.ite (fun _ => ?_) (fun _ => ?_)
    | with_reducible refine foldl_keeps _ _ ?_ (fun _ _ h => ?_)
    | with_reducible refine foldl_pair_keeps _ _ _ ?_ (fun _ _ h => ?_)
    | with_reducible refine enter_keeps _ _ _ _ ?_
    | with_reducible refine State.modPort_keeps _ _ _ ?_
    | with_reducible refine loseAll_keeps _ _ ?_
    | with_reducible refine State.modCirc_keeps _ _ _ ?_

theorem unfencePort_keeps {s0 : State} (p : ℕ) (s : State) (hs : Keeps s0 s) : Keeps s0 (unfencePort p s) := by
  unfold unfencePort
  repeat' first
    | with_reducible assumption
    | with_reducible refine Keeps.ite (fun _ => ?_) (fun _ => ?_)
    | with_reducible refine foldl_keeps _ _ ?_ (fun _ _ h => ?_)
    | with_reducible refine foldl_pair_keeps _ _ _ ?_ (fun _ _ h => ?_)
    | with_reducible refine enter_keeps _ _ _ _ ?_
    | with_reducible refine State.modPort_keeps _ _ _ ?_
    | with_reducible refine startTraining_keeps _ _ _ ?_

theorem execSignalDetect_keeps {s0 : State} (port : ℕ) (s : State) (hs : Keeps s0 s) : KeepsOut s0 (execSignalDetect port s) := by
  unfold execSignalDetect
  repeat' first
    | with_reducible refine KeepsOut.next ?_
    | exact KeepsOut.refused _
    | with_reducible assumption
    | with_reducible refine KeepsOut.ite (fun _ => ?_) (fun _ => ?_)
    | with_reducible refine Keeps.ite (fun _ => ?_) (fun _ => ?_)
    | with_reducible refine foldl_keeps _ _ ?_ (fun _ _ h => ?_)
    | with_reducible refine foldl_pair_keeps _ _ _ ?_ (fun _ _ h => ?_)
    | with_reducible refine State.modPort_keeps _ _ _ ?_
    | with_reducible refine startTraining_keeps _ _ _ ?_

theorem execRetrainInterval_keeps {s0 : State} (port : ℕ) (s : State) (hs : Keeps s0 s) : KeepsOut s0 (execRetrainInterval port s) := by
  unfold execRetrainInterval
  repeat' first
    | with_reducible refine KeepsOut.next ?_
    | exact KeepsOut.refused _
    | with_reducible assumption
    | with_reducible refine KeepsOut.ite (fun _ => ?_) (fun _ => ?_)
    | with_reducible refine Keeps.ite (fun _ => ?_) (fun _ => ?_)
    | with_reducible refine foldl_keeps _ _ ?_ (fun _ _ h => ?_)
    | with_reducible refine foldl_pair_keeps _ _ _ ?_ (fun _ _ h => ?_)
    | with_reducible refine startTraining_keeps _ _ _ ?_

theorem execTrainTimeout_keeps {s0 : State} (port : ℕ) (s : State) (hs : Keeps s0 s) : KeepsOut s0 (execTrainTimeout port s) := by
  unfold execTrainTimeout
  repeat' first
    | with_reducible refine KeepsOut.next ?_
    | exact KeepsOut.refused _
    | with_reducible assumption
    | with_reducible refine KeepsOut.ite (fun _ => ?_) (fun _ => ?_)
    | with_reducible refine Keeps.ite (fun _ => ?_) (fun _ => ?_)
    | with_reducible refine foldl_keeps _ _ ?_ (fun _ _ h => ?_)
    | with_reducible refine foldl_pair_keeps _ _ _ ?_ (fun _ _ h => ?_)
    | with_reducible refine enter_keeps _ _ _ _ ?_

theorem stepEffect_keeps {s0 : State} (p : ℕ) (op : ℕ) (r : TrainRes) (s : State) (hs : Keeps s0 s) : Keeps s0 (stepEffect p op r s) := by
  unfold stepEffect
  repeat' first
    | with_reducible assumption
    | with_reducible refine Keeps.ite (fun _ => ?_) (fun _ => ?_)
    | with_reducible refine forAll_keeps _ _ ?_ (fun _ _ h => ?_)
    | with_reducible refine foldl_keeps _ _ ?_ (fun _ _ h => ?_)
    | with_reducible refine foldl_pair_keeps _ _ _ ?_ (fun _ _ h => ?_)
    | with_reducible refine State.modLane_keeps _ _ _ ?_
    | with_reducible refine State.modFabric_keeps _ _ ?_
    | simp only [keeps_set_lanes, keeps_set_ports, keeps_set_blocks, keeps_set_sched, keeps_set_fabric, keeps_set_lasts, keeps_set_host, keeps_set_logs, keeps_set_chip, keeps_set_ctl, keeps_set_time, keeps_set_twin, keeps_set_peals, keeps_set_spine, keeps_set_circ, keeps_set_chans]
    | refine KeepsP.get (by with_reducible assumption) ?_
    | refine KeepsT.get (by with_reducible assumption) ?_
    | simp only [keeps_snd_snd]
    | simp only [keeps_snd]
    | simp only [keepsP_mk]
    | with_reducible refine KeepsP.ite (fun _ => ?_) (fun _ => ?_)
    | split

theorem stepStart_keeps {s0 : State} (p : Nat) (step : Bytes) (s : State) (hs : Keeps s0 s) : Keeps s0 (stepStart p step s) := by
  unfold stepStart
  repeat' first
    | with_reducible assumption
    | with_reducible refine Keeps.ite (fun _ => ?_) (fun _ => ?_)
    | with_reducible refine forAll_keeps _ _ ?_ (fun _ _ h => ?_)
    | with_reducible refine foldl_keeps _ _ ?_ (fun _ _ h => ?_)
    | with_reducible refine foldl_pair_keeps _ _ _ ?_ (fun _ _ h => ?_)
    | with_reducible refine forAll_keeps _ _ _ ?_ (fun _ _ h => ?_)
    | with_reducible refine State.modPort_keeps _ _ _ ?_
    | with_reducible refine State.modLane_keeps _ _ _ ?_
    | simp only [keeps_set_lanes, keeps_set_ports, keeps_set_blocks, keeps_set_sched, keeps_set_fabric, keeps_set_lasts, keeps_set_host, keeps_set_logs, keeps_set_chip, keeps_set_ctl, keeps_set_time, keeps_set_twin, keeps_set_peals, keeps_set_spine, keeps_set_circ, keeps_set_chans]
    | refine KeepsP.get (by with_reducible assumption) ?_
    | refine KeepsT.get (by with_reducible assumption) ?_
    | simp only [keeps_snd_snd]
    | simp only [keeps_snd]
    | simp only [keepsP_mk]
    | with_reducible refine KeepsP.ite (fun _ => ?_) (fun _ => ?_)
    | split

theorem nextStep_keeps {s0 : State} (p : Nat) (t : Train) (s : State) (hs : Keeps s0 s) : Keeps s0 (nextStep p t s) := by
  unfold nextStep
  repeat' first
    | with_reducible assumption
    | with_reducible refine Keeps.ite (fun _ => ?_) (fun _ => ?_)
    | with_reducible refine forAll_keeps _ _ ?_ (fun _ _ h => ?_)
    | with_reducible refine foldl_keeps _ _ ?_ (fun _ _ h => ?_)
    | with_reducible refine foldl_pair_keeps _ _ _ ?_ (fun _ _ h => ?_)
    | with_reducible refine stepStart_keeps _ _ _ ?_
    | with_reducible refine State.modPort_keeps _ _ _ ?_
    | with_reducible refine forAll_keeps _ _ _ ?_ (fun _ _ h => ?_)
    | with_reducible refine bump_keeps _ _ _ _ ?_
    | with_reducible refine enter_keeps _ _ _ _ ?_
    | simp only [keeps_set_lanes, keeps_set_ports, keeps_set_blocks, keeps_set_sched, keeps_set_fabric, keeps_set_lasts, keeps_set_host, keeps_set_logs, keeps_set_chip, keeps_set_ctl, keeps_set_time, keeps_set_twin, keeps_set_peals, keeps_set_spine, keeps_set_circ, keeps_set_chans]
    | refine KeepsP.get (by with_reducible assumption) ?_
    | refine KeepsT.get (by with_reducible assumption) ?_
    | simp only [keeps_snd_snd]
    | simp only [keeps_snd]
    | simp only [keepsP_mk]
    | with_reducible refine KeepsP.ite (fun _ => ?_) (fun _ => ?_)
    | split

theorem failStep_keeps {s0 : State} (p : Nat) (t : Train) (s : State) (hs : Keeps s0 s) : Keeps s0 (failStep p t s) := by
  unfold failStep
  repeat' first
    | with_reducible assumption
    | with_reducible refine Keeps.ite (fun _ => ?_) (fun _ => ?_)
    | with_reducible refine foldl_keeps _ _ ?_ (fun _ _ h => ?_)
    | with_reducible refine foldl_pair_keeps _ _ _ ?_ (fun _ _ h => ?_)
    | with_reducible refine nextStep_keeps _ _ _ ?_
    | with_reducible refine startSeq_keeps _ _ _ ?_
    | simp only [keeps_set_lanes, keeps_set_ports, keeps_set_blocks, keeps_set_sched, keeps_set_fabric, keeps_set_lasts, keeps_set_host, keeps_set_logs, keeps_set_chip, keeps_set_ctl, keeps_set_time, keeps_set_twin, keeps_set_peals, keeps_set_spine, keeps_set_circ, keeps_set_chans]
    | refine KeepsP.get (by with_reducible assumption) ?_
    | refine KeepsT.get (by with_reducible assumption) ?_
    | simp only [keeps_snd_snd]
    | simp only [keeps_snd]
    | simp only [keepsP_mk]
    | with_reducible refine KeepsP.ite (fun _ => ?_) (fun _ => ?_)
    | split

theorem execTrainingStepDone_keeps {s0 : State} (port : Nat) (res : TrainRes) (s : State) (hs : Keeps s0 s) : KeepsOut s0 (execTrainingStepDone port res s) := by
  unfold execTrainingStepDone
  repeat' first
    | with_reducible refine KeepsOut.next ?_
    | exact KeepsOut.refused _
    | with_reducible assumption
    | with_reducible refine KeepsOut.ite (fun _ => ?_) (fun _ => ?_)
    | with_reducible refine Keeps.ite (fun _ => ?_) (fun _ => ?_)
    | with_reducible refine foldl_keeps _ _ ?_ (fun _ _ h => ?_)
    | with_reducible refine foldl_pair_keeps _ _ _ ?_ (fun _ _ h => ?_)
    | with_reducible refine nextStep_keeps _ _ _ ?_
    | with_reducible refine stepEffect_keeps _ _ _ _ ?_
    | with_reducible refine failStep_keeps _ _ _ ?_
    | simp only [keeps_set_lanes, keeps_set_ports, keeps_set_blocks, keeps_set_sched, keeps_set_fabric, keeps_set_lasts, keeps_set_host, keeps_set_logs, keeps_set_chip, keeps_set_ctl, keeps_set_time, keeps_set_twin, keeps_set_peals, keeps_set_spine, keeps_set_circ, keeps_set_chans]
    | refine KeepsP.get (by with_reducible assumption) ?_
    | refine KeepsT.get (by with_reducible assumption) ?_
    | simp only [keeps_snd_snd]
    | simp only [keeps_snd]
    | simp only [keepsP_mk]
    | with_reducible refine KeepsP.ite (fun _ => ?_) (fun _ => ?_)
    | split

theorem execTrainingStepFail_keeps {s0 : State} (port : Nat) (s : State) (hs : Keeps s0 s) : KeepsOut s0 (execTrainingStepFail port s) := by
  unfold execTrainingStepFail
  repeat' first
    | with_reducible refine KeepsOut.next ?_
    | exact KeepsOut.refused _
    | with_reducible assumption
    | with_reducible refine KeepsOut.ite (fun _ => ?_) (fun _ => ?_)
    | with_reducible refine Keeps.ite (fun _ => ?_) (fun _ => ?_)
    | with_reducible refine foldl_keeps _ _ ?_ (fun _ _ h => ?_)
    | with_reducible refine foldl_pair_keeps _ _ _ ?_ (fun _ _ h => ?_)
    | with_reducible refine failStep_keeps _ _ _ ?_
    | simp only [keeps_set_lanes, keeps_set_ports, keeps_set_blocks, keeps_set_sched, keeps_set_fabric, keeps_set_lasts, keeps_set_host, keeps_set_logs, keeps_set_chip, keeps_set_ctl, keeps_set_time, keeps_set_twin, keeps_set_peals, keeps_set_spine, keeps_set_circ, keeps_set_chans]
    | refine KeepsP.get (by with_reducible assumption) ?_
    | refine KeepsT.get (by with_reducible assumption) ?_
    | simp only [keeps_snd_snd]
    | simp only [keeps_snd]
    | simp only [keepsP_mk]
    | with_reducible refine KeepsP.ite (fun _ => ?_) (fun _ => ?_)
    | split

theorem execPcsLock_keeps {s0 : State} (lane : ℕ) (s : State) (hs : Keeps s0 s) : KeepsOut s0 (execPcsLock lane s) := by
  unfold execPcsLock
  repeat' first
    | with_reducible refine KeepsOut.next ?_
    | exact KeepsOut.refused _
    | with_reducible assumption
    | with_reducible refine KeepsOut.ite (fun _ => ?_) (fun _ => ?_)
    | with_reducible refine Keeps.ite (fun _ => ?_) (fun _ => ?_)
    | with_reducible refine foldl_keeps _ _ ?_ (fun _ _ h => ?_)
    | with_reducible refine foldl_pair_keeps _ _ _ ?_ (fun _ _ h => ?_)
    | with_reducible refine State.modLane_keeps _ _ _ ?_

theorem loseLock_keeps {s0 : State} (lane : Nat) (s : State) (hs : Keeps s0 s) : Keeps s0 (loseLock lane s) := by
  unfold loseLock
  repeat' first
    | with_reducible assumption
    | with_reducible refine Keeps.ite (fun _ => ?_) (fun _ => ?_)
    | with_reducible refine foldl_keeps _ _ ?_ (fun _ _ h => ?_)
    | with_reducible refine foldl_pair_keeps _ _ _ ?_ (fun _ _ h => ?_)
    | with_reducible refine State.modLane_keeps _ _ _ ?_
    | with_reducible refine bump_keeps _ _ _ _ ?_
    | with_reducible refine State.modPort_keeps _ _ _ ?_
    | with_reducible refine portFault_keeps _ _ _ ?_
    | with_reducible refine countFenced_keeps _ _ ?_
    | simp only [keeps_set_lanes, keeps_set_ports, keeps_set_blocks, keeps_set_sched, keeps_set_fabric, keeps_set_lasts, keeps_set_host, keeps_set_logs, keeps_set_chip, keeps_set_ctl, keeps_set_time, keeps_set_twin, keeps_set_peals, keeps_set_spine, keeps_set_circ, keeps_set_chans]
    | refine KeepsP.get (by with_reducible assumption) ?_
    | refine KeepsT.get (by with_reducible assumption) ?_
    | simp only [keeps_snd_snd]
    | simp only [keeps_snd]
    | simp only [keepsP_mk]
    | with_reducible refine KeepsP.ite (fun _ => ?_) (fun _ => ?_)
    | split

theorem execPcsLossOfLock_keeps {s0 : State} (lane : ℕ) (s : State) (hs : Keeps s0 s) : KeepsOut s0 (execPcsLossOfLock lane s) := by
  unfold execPcsLossOfLock
  repeat' first
    | with_reducible refine KeepsOut.next ?_
    | exact KeepsOut.refused _
    | with_reducible assumption
    | with_reducible refine KeepsOut.ite (fun _ => ?_) (fun _ => ?_)
    | with_reducible refine Keeps.ite (fun _ => ?_) (fun _ => ?_)
    | with_reducible refine foldl_keeps _ _ ?_ (fun _ _ h => ?_)
    | with_reducible refine foldl_pair_keeps _ _ _ ?_ (fun _ _ h => ?_)
    | with_reducible refine loseLock_keeps _ _ ?_

theorem execCheckDwellEnd_keeps {s0 : State} (port : ℕ) (serPpm : ℕ) (s : State) (hs : Keeps s0 s) : KeepsOut s0 (execCheckDwellEnd port serPpm s) := by
  unfold execCheckDwellEnd
  repeat' first
    | with_reducible refine KeepsOut.next ?_
    | exact KeepsOut.refused _
    | with_reducible assumption
    | with_reducible refine KeepsOut.ite (fun _ => ?_) (fun _ => ?_)
    | with_reducible refine Keeps.ite (fun _ => ?_) (fun _ => ?_)
    | with_reducible refine foldl_keeps _ _ ?_ (fun _ _ h => ?_)
    | with_reducible refine foldl_pair_keeps _ _ _ ?_ (fun _ _ h => ?_)
    | with_reducible refine portFault_keeps _ _ _ ?_
    | with_reducible refine tryUp_keeps _ _ ?_
    | with_reducible refine State.modPort_keeps _ _ _ ?_
    | simp only [keeps_set_lanes, keeps_set_ports, keeps_set_blocks, keeps_set_sched, keeps_set_fabric, keeps_set_lasts, keeps_set_host, keeps_set_logs, keeps_set_chip, keeps_set_ctl, keeps_set_time, keeps_set_twin, keeps_set_peals, keeps_set_spine, keeps_set_circ, keeps_set_chans]
    | refine KeepsP.get (by with_reducible assumption) ?_
    | refine KeepsT.get (by with_reducible assumption) ?_
    | simp only [keeps_snd_snd]
    | simp only [keeps_snd]
    | simp only [keepsP_mk]
    | with_reducible refine KeepsP.ite (fun _ => ?_) (fun _ => ?_)
    | split

theorem execDampHoldExpiry_keeps {s0 : State} (port : ℕ) (s : State) (hs : Keeps s0 s) : KeepsOut s0 (execDampHoldExpiry port s) := by
  unfold execDampHoldExpiry
  repeat' first
    | with_reducible refine KeepsOut.next ?_
    | exact KeepsOut.refused _
    | with_reducible assumption
    | with_reducible refine KeepsOut.ite (fun _ => ?_) (fun _ => ?_)
    | with_reducible refine Keeps.ite (fun _ => ?_) (fun _ => ?_)
    | with_reducible refine foldl_keeps _ _ ?_ (fun _ _ h => ?_)
    | with_reducible refine foldl_pair_keeps _ _ _ ?_ (fun _ _ h => ?_)
    | with_reducible refine startTraining_keeps _ _ _ ?_
    | simp only [keeps_set_lanes, keeps_set_ports, keeps_set_blocks, keeps_set_sched, keeps_set_fabric, keeps_set_lasts, keeps_set_host, keeps_set_logs, keeps_set_chip, keeps_set_ctl, keeps_set_time, keeps_set_twin, keeps_set_peals, keeps_set_spine, keeps_set_circ, keeps_set_chans]
    | refine KeepsP.get (by with_reducible assumption) ?_
    | refine KeepsT.get (by with_reducible assumption) ?_
    | simp only [keeps_snd_snd]
    | simp only [keeps_snd]
    | simp only [keepsP_mk]
    | with_reducible refine KeepsP.ite (fun _ => ?_) (fun _ => ?_)
    | split

theorem execSerDamp_keeps {s0 : State} (port : Nat) (serPpm : Nat) (s : State) (hs : Keeps s0 s) : KeepsOut s0 (execSerDamp port serPpm s) := by
  unfold execSerDamp
  repeat' first
    | with_reducible refine KeepsOut.next ?_
    | exact KeepsOut.refused _
    | with_reducible assumption
    | with_reducible refine KeepsOut.ite (fun _ => ?_) (fun _ => ?_)
    | with_reducible refine Keeps.ite (fun _ => ?_) (fun _ => ?_)
    | with_reducible refine foldl_keeps _ _ ?_ (fun _ _ h => ?_)
    | with_reducible refine foldl_pair_keeps _ _ _ ?_ (fun _ _ h => ?_)
    | with_reducible refine State.modPort_keeps _ _ _ ?_
    | with_reducible refine linkFault_keeps _ _ _ ?_
    | simp only [keeps_set_lanes, keeps_set_ports, keeps_set_blocks, keeps_set_sched, keeps_set_fabric, keeps_set_lasts, keeps_set_host, keeps_set_logs, keeps_set_chip, keeps_set_ctl, keeps_set_time, keeps_set_twin, keeps_set_peals, keeps_set_spine, keeps_set_circ, keeps_set_chans]
    | refine KeepsP.get (by with_reducible assumption) ?_
    | refine KeepsT.get (by with_reducible assumption) ?_
    | simp only [keeps_snd_snd]
    | simp only [keeps_snd]
    | simp only [keepsP_mk]
    | with_reducible refine KeepsP.ite (fun _ => ?_) (fun _ => ?_)
    | split

theorem execStompRateLimit_keeps {s0 : State} (lane : ℕ) (s : State) (hs : Keeps s0 s) : KeepsOut s0 (execStompRateLimit lane s) := by
  unfold execStompRateLimit
  repeat' first
    | with_reducible refine KeepsOut.next ?_
    | exact KeepsOut.refused _
    | with_reducible assumption
    | with_reducible refine KeepsOut.ite (fun _ => ?_) (fun _ => ?_)
    | with_reducible refine Keeps.ite (fun _ => ?_) (fun _ => ?_)
    | with_reducible refine foldl_keeps _ _ ?_ (fun _ _ h => ?_)
    | with_reducible refine foldl_pair_keeps _ _ _ ?_ (fun _ _ h => ?_)
    | with_reducible refine State.modLane_keeps _ _ _ ?_
    | with_reducible refine postEvent_keeps _ _ _ ?_

end Sys2Proof.Machine
end

