-- ==== Sys2Proof/Laws/KeepsLanes.lean ====
section
/-! SUPPORT. Laws/KeepsLanes.lean: what the operations of Machine/Lanes.lean keep. -/
namespace Sys2Proof.Machine

set_option linter.unusedSimpArgs false
set_option linter.unusedTactic false
set_option linter.unreachableTactic false

theorem sendBlock_keeps {s0 : State} (lane : Nat) (p : Nat) (attempt : Nat) (lsn : BitVec 16) (slots : List TxSlot) (s : State) (hs : Keeps s0 s) : Keeps s0 (sendBlock lane p attempt lsn slots s) := by
  unfold sendBlock
  repeat' first
    | with_reducible assumption
    | with_reducible refine Keeps.ite (fun _ => ?_) (fun _ => ?_)
    | with_reducible refine foldl_keeps _ _ ?_ (fun _ _ h => ?_)
    | with_reducible refine foldl_pair_keeps _ _ _ ?_ (fun _ _ h => ?_)
    | with_reducible refine State.modLane_keeps _ _ _ ?_
    | simp only [keeps_set_lanes, keeps_set_ports, keeps_set_blocks, keeps_set_sched, keeps_set_fabric, keeps_set_lasts, keeps_set_host, keeps_set_logs, keeps_set_chip, keeps_set_ctl, keeps_set_time, keeps_set_twin, keeps_set_peals, keeps_set_spine, keeps_set_circ, keeps_set_chans]
    | refine KeepsP.get (by with_reducible assumption) ?_
    | refine KeepsT.get (by with_reducible assumption) ?_
    | simp only [keeps_snd_snd]
    | simp only [keeps_snd]
    | simp only [keepsP_mk]
    | with_reducible refine KeepsP.ite (fun _ => ?_) (fun _ => ?_)
    | split

theorem book_keeps {s0 : State} (p : ℕ) (kind : ℕ) (n : ℕ) (s : State) (hs : Keeps s0 s) : Keeps s0 (book p kind n s) := by
  unfold book
  repeat' first
    | with_reducible assumption
    | with_reducible refine Keeps.ite (fun _ => ?_) (fun _ => ?_)
    | with_reducible refine foldl_keeps _ _ ?_ (fun _ _ h => ?_)
    | with_reducible refine foldl_pair_keeps _ _ _ ?_ (fun _ _ h => ?_)
    | with_reducible refine bumpPortN_keeps _ _ _ _ ?_

theorem bookBlock_keeps {s0 : State} (p : ℕ) (b : TxBlock) (s : State) (hs : Keeps s0 s) : Keeps s0 (bookBlock p b s) := by
  unfold bookBlock
  repeat' first
    | with_reducible assumption
    | with_reducible refine Keeps.ite (fun _ => ?_) (fun _ => ?_)
    | with_reducible refine foldl_keeps _ _ ?_ (fun _ _ h => ?_)
    | with_reducible refine foldl_pair_keeps _ _ _ ?_ (fun _ _ h => ?_)
    | with_reducible refine book_keeps _ _ _ _ ?_

theorem stampTx_keeps {s0 : State} (p : ℕ) (c : BufCell) (s : State) (hs : Keeps s0 s) : KeepsP s0 (stampTx p c s) := by
  unfold stampTx
  repeat' first
    | with_reducible assumption
    | with_reducible refine KeepsP.ite (fun _ => ?_) (fun _ => ?_)
    | simp only [keepsP_mk]
    | with_reducible refine Keeps.ite (fun _ => ?_) (fun _ => ?_)
    | with_reducible refine foldl_keeps _ _ ?_ (fun _ _ h => ?_)
    | with_reducible refine foldl_pair_keeps _ _ _ ?_ (fun _ _ h => ?_)
    | with_reducible refine State.modPort_keeps _ _ _ ?_
    | simp only [keeps_set_lanes, keeps_set_ports, keeps_set_blocks, keeps_set_sched, keeps_set_fabric, keeps_set_lasts, keeps_set_host, keeps_set_logs, keeps_set_chip, keeps_set_ctl, keeps_set_time, keeps_set_twin, keeps_set_peals, keeps_set_spine, keeps_set_circ, keeps_set_chans]
    | refine KeepsP.get (by with_reducible assumption) ?_
    | refine KeepsT.get (by with_reducible assumption) ?_
    | simp only [keeps_snd_snd]
    | simp only [keeps_snd]
    | simp only [keepsP_mk]
    | with_reducible refine KeepsP.ite (fun _ => ?_) (fun _ => ?_)
    | split

theorem restampSlots_keeps {s0 : State} (p : ℕ) (ts : List TxSlot) (s : State) (hs : Keeps s0 s) : KeepsP s0 (restampSlots p ts s) := by
  unfold restampSlots
  repeat' first
    | with_reducible assumption
    | with_reducible refine KeepsP.ite (fun _ => ?_) (fun _ => ?_)
    | simp only [keepsP_mk]
    | with_reducible refine Keeps.ite (fun _ => ?_) (fun _ => ?_)
    | with_reducible refine foldl_keeps _ _ ?_ (fun _ _ h => ?_)
    | with_reducible refine foldl_pair_keeps _ _ _ ?_ (fun _ _ h => ?_)
    | with_reducible refine stampTx_keeps _ _ _ ?_
    | simp only [keeps_set_lanes, keeps_set_ports, keeps_set_blocks, keeps_set_sched, keeps_set_fabric, keeps_set_lasts, keeps_set_host, keeps_set_logs, keeps_set_chip, keeps_set_ctl, keeps_set_time, keeps_set_twin, keeps_set_peals, keeps_set_spine, keeps_set_circ, keeps_set_chans]
    | refine KeepsP.get (by with_reducible assumption) ?_
    | refine KeepsT.get (by with_reducible assumption) ?_
    | simp only [keeps_snd_snd]
    | simp only [keeps_snd]
    | simp only [keepsP_mk]
    | with_reducible refine KeepsP.ite (fun _ => ?_) (fun _ => ?_)
    | split

theorem resend_keeps {s0 : State} (lane : Nat) (p : Nat) (attempt : Nat) (again : List TxBlock) (s : State) (hs : Keeps s0 s) : Keeps s0 (resend lane p attempt again s) := by
  unfold resend
  repeat' first
    | with_reducible assumption
    | with_reducible refine Keeps.ite (fun _ => ?_) (fun _ => ?_)
    | with_reducible refine forAll_keeps _ _ ?_ (fun _ _ h => ?_)
    | with_reducible refine foldl_keeps _ _ ?_ (fun _ _ h => ?_)
    | with_reducible refine foldl_pair_keeps _ _ _ ?_ (fun _ _ h => ?_)
    | with_reducible refine forAll_keeps _ _ _ ?_ (fun _ _ h => ?_)
    | with_reducible refine restampSlots_keeps _ _ _ ?_
    | with_reducible refine sendBlock_keeps _ _ _ _ _ _ ?_
    | with_reducible refine State.modLane_keeps _ _ _ ?_
    | simp only [keeps_set_lanes, keeps_set_ports, keeps_set_blocks, keeps_set_sched, keeps_set_fabric, keeps_set_lasts, keeps_set_host, keeps_set_logs, keeps_set_chip, keeps_set_ctl, keeps_set_time, keeps_set_twin, keeps_set_peals, keeps_set_spine, keeps_set_circ, keeps_set_chans]
    | refine KeepsP.get (by with_reducible assumption) ?_
    | refine KeepsT.get (by with_reducible assumption) ?_
    | simp only [keeps_snd_snd]
    | simp only [keeps_snd]
    | simp only [keepsP_mk]
    | with_reducible refine KeepsP.ite (fun _ => ?_) (fun _ => ?_)
    | split

theorem startAttempt_keeps {s0 : State} (lane : Nat) (p : Nat) (lsn : BitVec 16) (s : State) (hs : Keeps s0 s) : Keeps s0 (startAttempt lane p lsn s) := by
  unfold startAttempt
  repeat' first
    | with_reducible assumption
    | with_reducible refine Keeps.ite (fun _ => ?_) (fun _ => ?_)
    | with_reducible refine foldl_keeps _ _ ?_ (fun _ _ h => ?_)
    | with_reducible refine foldl_pair_keeps _ _ _ ?_ (fun _ _ h => ?_)
    | with_reducible refine State.modLane_keeps _ _ _ ?_
    | with_reducible refine linkFault_keeps _ _ _ ?_
    | with_reducible refine resend_keeps _ _ _ _ _ ?_
    | with_reducible refine book_keeps _ _ _ _ ?_
    | with_reducible refine bump_keeps _ _ _ _ ?_
    | simp only [keeps_set_lanes, keeps_set_ports, keeps_set_blocks, keeps_set_sched, keeps_set_fabric, keeps_set_lasts, keeps_set_host, keeps_set_logs, keeps_set_chip, keeps_set_ctl, keeps_set_time, keeps_set_twin, keeps_set_peals, keeps_set_spine, keeps_set_circ, keeps_set_chans]
    | refine KeepsP.get (by with_reducible assumption) ?_
    | refine KeepsT.get (by with_reducible assumption) ?_
    | simp only [keeps_snd_snd]
    | simp only [keeps_snd]
    | simp only [keepsP_mk]
    | with_reducible refine KeepsP.ite (fun _ => ?_) (fun _ => ?_)
    | split

theorem onNak_keeps {s0 : State} (lane : Nat) (p : Nat) (lsn : BitVec 16) (s : State) (hs : Keeps s0 s) : Keeps s0 (onNak lane p lsn s) := by
  unfold onNak
  repeat' first
    | with_reducible assumption
    | with_reducible refine Keeps.ite (fun _ => ?_) (fun _ => ?_)
    | with_reducible refine foldl_keeps _ _ ?_ (fun _ _ h => ?_)
    | with_reducible refine foldl_pair_keeps _ _ _ ?_ (fun _ _ h => ?_)
    | with_reducible refine linkFault_keeps _ _ _ ?_
    | with_reducible refine startAttempt_keeps _ _ _ _ ?_
    | simp only [keeps_set_lanes, keeps_set_ports, keeps_set_blocks, keeps_set_sched, keeps_set_fabric, keeps_set_lasts, keeps_set_host, keeps_set_logs, keeps_set_chip, keeps_set_ctl, keeps_set_time, keeps_set_twin, keeps_set_peals, keeps_set_spine, keeps_set_circ, keeps_set_chans]
    | refine KeepsP.get (by with_reducible assumption) ?_
    | refine KeepsT.get (by with_reducible assumption) ?_
    | simp only [keeps_snd_snd]
    | simp only [keeps_snd]
    | simp only [keepsP_mk]
    | with_reducible refine KeepsP.ite (fun _ => ?_) (fun _ => ?_)
    | split

theorem editBuffered_keeps {s0 : State} (f : BufCell → Bool) (g : BufCell → Option BufCell) (s : State) (hs : Keeps s0 s) : Keeps s0 (editBuffered f g s) := by
  exact hs.of_same rfl rfl rfl rfl

theorem stompContrib_keeps {s0 : State} (c : Cell) (s : State) (hs : Keeps s0 s) : Keeps s0 (stompContrib c s) := by
  unfold stompContrib
  repeat' first
    | with_reducible assumption
    | with_reducible refine Keeps.ite (fun _ => ?_) (fun _ => ?_)
    | with_reducible refine foldl_keeps _ _ ?_ (fun _ _ h => ?_)
    | with_reducible refine foldl_pair_keeps _ _ _ ?_ (fun _ _ h => ?_)
    | with_reducible refine bumpPeal_keeps _ _ _ _ ?_
    | simp only [keeps_set_lanes, keeps_set_ports, keeps_set_blocks, keeps_set_sched, keeps_set_fabric, keeps_set_lasts, keeps_set_host, keeps_set_logs, keeps_set_chip, keeps_set_ctl, keeps_set_time, keeps_set_twin, keeps_set_peals, keeps_set_spine, keeps_set_circ, keeps_set_chans]

theorem requeueOut_keeps {s0 : State} (out : Nat) (c : BufCell) (s : State) (hs : Keeps s0 s) : Keeps s0 (requeueOut out c s) := by
  unfold requeueOut
  repeat' first
    | with_reducible assumption
    | with_reducible refine Keeps.ite (fun _ => ?_) (fun _ => ?_)
    | with_reducible refine foldl_keeps _ _ ?_ (fun _ _ h => ?_)
    | with_reducible refine foldl_pair_keeps _ _ _ ?_ (fun _ _ h => ?_)
    | with_reducible refine State.modCirc_keeps _ _ _ ?_
    | with_reducible refine State.modPort_keeps _ _ _ ?_
    | with_reducible refine newEnt_keeps _ _ ?_
    | with_reducible refine State.modBlock_keeps _ _ _ ?_
    | simp only [keeps_set_lanes, keeps_set_ports, keeps_set_blocks, keeps_set_sched, keeps_set_fabric, keeps_set_lasts, keeps_set_host, keeps_set_logs, keeps_set_chip, keeps_set_ctl, keeps_set_time, keeps_set_twin, keeps_set_peals, keeps_set_spine, keeps_set_circ, keeps_set_chans]
    | refine KeepsP.get (by with_reducible assumption) ?_
    | refine KeepsT.get (by with_reducible assumption) ?_
    | simp only [keeps_snd_snd]
    | simp only [keeps_snd]
    | simp only [keepsP_mk]
    | with_reducible refine KeepsP.ite (fun _ => ?_) (fun _ => ?_)
    | split

theorem markStomped_keeps {s0 : State} (g : SentAt) (s : State) (hs : Keeps s0 s) : Keeps s0 (markStomped g s) := by
  unfold markStomped
  repeat' first
    | with_reducible assumption
    | with_reducible refine Keeps.ite (fun _ => ?_) (fun _ => ?_)
    | with_reducible refine foldl_keeps _ _ ?_ (fun _ _ h => ?_)
    | with_reducible refine foldl_pair_keeps _ _ _ ?_ (fun _ _ h => ?_)
    | with_reducible refine State.modLane_keeps _ _ _ ?_
    | simp only [keeps_set_lanes, keeps_set_ports, keeps_set_blocks, keeps_set_sched, keeps_set_fabric, keeps_set_lasts, keeps_set_host, keeps_set_logs, keeps_set_chip, keeps_set_ctl, keeps_set_time, keeps_set_twin, keeps_set_peals, keeps_set_spine, keeps_set_circ, keeps_set_chans]
    | refine KeepsP.get (by with_reducible assumption) ?_
    | refine KeepsT.get (by with_reducible assumption) ?_
    | simp only [keeps_snd_snd]
    | simp only [keeps_snd]
    | simp only [keepsP_mk]
    | with_reducible refine KeepsP.ite (fun _ => ?_) (fun _ => ?_)
    | split

theorem stompSent_keeps {s0 : State} (tail : Bool) (g : SentAt) (s : State) (hs : Keeps s0 s) : Keeps s0 (stompSent tail g s) := by
  unfold stompSent
  repeat' first
    | with_reducible assumption
    | with_reducible refine Keeps.ite (fun _ => ?_) (fun _ => ?_)
    | with_reducible refine foldl_keeps _ _ ?_ (fun _ _ h => ?_)
    | with_reducible refine foldl_pair_keeps _ _ _ ?_ (fun _ _ h => ?_)
    | with_reducible refine State.modLane_keeps _ _ _ ?_
    | with_reducible refine bump_keeps _ _ _ _ ?_
    | with_reducible refine State.modPort_keeps _ _ _ ?_
    | simp only [keeps_set_lanes, keeps_set_ports, keeps_set_blocks, keeps_set_sched, keeps_set_fabric, keeps_set_lasts, keeps_set_host, keeps_set_logs, keeps_set_chip, keeps_set_ctl, keeps_set_time, keeps_set_twin, keeps_set_peals, keeps_set_spine, keeps_set_circ, keeps_set_chans]
    | refine KeepsP.get (by with_reducible assumption) ?_
    | refine KeepsT.get (by with_reducible assumption) ?_
    | simp only [keeps_snd_snd]
    | simp only [keeps_snd]
    | simp only [keepsP_mk]
    | with_reducible refine KeepsP.ite (fun _ => ?_) (fun _ => ?_)
    | split

theorem stompPlaces_keeps {s0 : State} (gs : List SentAt) (tail : Bool) (s : State) (hs : Keeps s0 s) : Keeps s0 (stompPlaces gs tail s) := by
  unfold stompPlaces
  repeat' first
    | with_reducible assumption
    | with_reducible refine Keeps.ite (fun _ => ?_) (fun _ => ?_)
    | with_reducible refine forAll_keeps _ _ ?_ (fun _ _ h => ?_)
    | with_reducible refine foldl_keeps _ _ ?_ (fun _ _ h => ?_)
    | with_reducible refine foldl_pair_keeps _ _ _ ?_ (fun _ _ h => ?_)
    | with_reducible refine forAll_keeps _ _ _ ?_ (fun _ _ h => ?_)
    | with_reducible refine markStomped_keeps _ _ ?_
    | with_reducible refine stompSent_keeps _ _ _ ?_
    | with_reducible refine requeueOut_keeps _ _ _ ?_
    | simp only [keeps_set_lanes, keeps_set_ports, keeps_set_blocks, keeps_set_sched, keeps_set_fabric, keeps_set_lasts, keeps_set_host, keeps_set_logs, keeps_set_chip, keeps_set_ctl, keeps_set_time, keeps_set_twin, keeps_set_peals, keeps_set_spine, keeps_set_circ, keeps_set_chans]
    | refine KeepsP.get (by with_reducible assumption) ?_
    | refine KeepsT.get (by with_reducible assumption) ?_
    | simp only [keeps_snd_snd]
    | simp only [keeps_snd]
    | simp only [keepsP_mk]
    | with_reducible refine KeepsP.ite (fun _ => ?_) (fun _ => ?_)
    | split

theorem withdraw_keeps {s0 : State} (lane : Nat) (again : Bool) (x : RxCell) (s : State) (hs : Keeps s0 s) : KeepsP s0 (withdraw lane again x s) := by
  unfold withdraw
  repeat' first
    | with_reducible assumption
    | with_reducible refine KeepsP.ite (fun _ => ?_) (fun _ => ?_)
    | simp only [keepsP_mk]
    | with_reducible refine Keeps.ite (fun _ => ?_) (fun _ => ?_)
    | with_reducible refine foldl_keeps _ _ ?_ (fun _ _ h => ?_)
    | with_reducible refine foldl_pair_keeps _ _ _ ?_ (fun _ _ h => ?_)
    | with_reducible refine State.modLane_keeps _ _ _ ?_
    | with_reducible refine countDiscard_keeps _ _ _ ?_
    | with_reducible refine stompContrib_keeps _ _ ?_
    | with_reducible refine editBuffered_keeps _ _ _ ?_
    | with_reducible refine freeRoom_keeps _ _ ?_
    | with_reducible refine returnCredit_keeps _ _ ?_
    | simp only [keeps_set_lanes, keeps_set_ports, keeps_set_blocks, keeps_set_sched, keeps_set_fabric, keeps_set_lasts, keeps_set_host, keeps_set_logs, keeps_set_chip, keeps_set_ctl, keeps_set_time, keeps_set_twin, keeps_set_peals, keeps_set_spine, keeps_set_circ, keeps_set_chans]
    | refine KeepsP.get (by with_reducible assumption) ?_
    | refine KeepsT.get (by with_reducible assumption) ?_
    | simp only [keeps_snd_snd]
    | simp only [keeps_snd]
    | simp only [keepsP_mk]
    | with_reducible refine KeepsP.ite (fun _ => ?_) (fun _ => ?_)
    | split

theorem withdrawAll_keeps {s0 : State} (again : Bool) (tail : Bool) (xs : List (Nat × RxCell)) (s : State) (hs : Keeps s0 s) : Keeps s0 (withdrawAll again tail xs s) := by
  unfold withdrawAll
  repeat' first
    | with_reducible assumption
    | with_reducible refine Keeps.ite (fun _ => ?_) (fun _ => ?_)
    | with_reducible refine foldl_keeps _ _ ?_ (fun _ _ h => ?_)
    | with_reducible refine foldl_pair_keeps _ _ _ ?_ (fun _ _ h => ?_)
    | with_reducible refine withdraw_keeps _ _ _ _ ?_
    | with_reducible refine stompPlaces_keeps _ _ _ ?_
    | simp only [keeps_set_lanes, keeps_set_ports, keeps_set_blocks, keeps_set_sched, keeps_set_fabric, keeps_set_lasts, keeps_set_host, keeps_set_logs, keeps_set_chip, keeps_set_ctl, keeps_set_time, keeps_set_twin, keeps_set_peals, keeps_set_spine, keeps_set_circ, keeps_set_chans]
    | refine KeepsP.get (by with_reducible assumption) ?_
    | refine KeepsT.get (by with_reducible assumption) ?_
    | simp only [keeps_snd_snd]
    | simp only [keeps_snd]
    | simp only [keepsP_mk]
    | with_reducible refine KeepsP.ite (fun _ => ?_) (fun _ => ?_)
    | split

theorem onStomp_keeps {s0 : State} (lane : Nat) (c : Cell) (s : State) (hs : Keeps s0 s) : Keeps s0 (onStomp lane c s) := by
  unfold onStomp
  repeat' first
    | with_reducible assumption
    | with_reducible refine Keeps.ite (fun _ => ?_) (fun _ => ?_)
    | with_reducible refine foldl_keeps _ _ ?_ (fun _ _ h => ?_)
    | with_reducible refine foldl_pair_keeps _ _ _ ?_ (fun _ _ h => ?_)
    | with_reducible refine bump_keeps _ _ _ _ ?_
    | with_reducible refine linkFault_keeps _ _ _ ?_
    | with_reducible refine withdrawAll_keeps _ _ _ _ ?_
    | simp only [keeps_set_lanes, keeps_set_ports, keeps_set_blocks, keeps_set_sched, keeps_set_fabric, keeps_set_lasts, keeps_set_host, keeps_set_logs, keeps_set_chip, keeps_set_ctl, keeps_set_time, keeps_set_twin, keeps_set_peals, keeps_set_spine, keeps_set_circ, keeps_set_chans]
    | refine KeepsP.get (by with_reducible assumption) ?_
    | refine KeepsT.get (by with_reducible assumption) ?_
    | simp only [keeps_snd_snd]
    | simp only [keeps_snd]
    | simp only [keepsP_mk]
    | with_reducible refine KeepsP.ite (fun _ => ?_) (fun _ => ?_)
    | split

theorem onLinkStomp_keeps {s0 : State} (lane : ℕ) (c : Cell) (s : State) (hs : Keeps s0 s) : Keeps s0 (onLinkStomp lane c s) := by
  unfold onLinkStomp
  repeat' first
    | with_reducible assumption
    | with_reducible refine Keeps.ite (fun _ => ?_) (fun _ => ?_)
    | with_reducible refine foldl_keeps _ _ ?_ (fun _ _ h => ?_)
    | with_reducible refine foldl_pair_keeps _ _ _ ?_ (fun _ _ h => ?_)
    | with_reducible refine startAttempt_keeps _ _ _ _ ?_
    | with_reducible refine bump_keeps _ _ _ _ ?_
    | simp only [keeps_set_lanes, keeps_set_ports, keeps_set_blocks, keeps_set_sched, keeps_set_fabric, keeps_set_lasts, keeps_set_host, keeps_set_logs, keeps_set_chip, keeps_set_ctl, keeps_set_time, keeps_set_twin, keeps_set_peals, keeps_set_spine, keeps_set_circ, keeps_set_chans]
    | refine KeepsP.get (by with_reducible assumption) ?_
    | refine KeepsT.get (by with_reducible assumption) ?_
    | simp only [keeps_snd_snd]
    | simp only [keeps_snd]
    | simp only [keepsP_mk]
    | with_reducible refine KeepsP.ite (fun _ => ?_) (fun _ => ?_)
    | split

theorem takeStomp_keeps {s0 : State} (lane : Nat) (p : Nat) (c : Cell) (s : State) (hs : Keeps s0 s) : Keeps s0 (takeStomp lane p c s) := by
  unfold takeStomp
  repeat' first
    | with_reducible assumption
    | with_reducible refine Keeps.ite (fun _ => ?_) (fun _ => ?_)
    | with_reducible refine foldl_keeps _ _ ?_ (fun _ _ h => ?_)
    | with_reducible refine foldl_pair_keeps _ _ _ ?_ (fun _ _ h => ?_)
    | with_reducible refine countDiscard_keeps _ _ _ ?_
    | with_reducible refine onLinkStomp_keeps _ _ _ ?_
    | with_reducible refine onStomp_keeps _ _ _ ?_
    | simp only [keeps_set_lanes, keeps_set_ports, keeps_set_blocks, keeps_set_sched, keeps_set_fabric, keeps_set_lasts, keeps_set_host, keeps_set_logs, keeps_set_chip, keeps_set_ctl, keeps_set_time, keeps_set_twin, keeps_set_peals, keeps_set_spine, keeps_set_circ, keeps_set_chans]
    | refine KeepsP.get (by with_reducible assumption) ?_
    | refine KeepsT.get (by with_reducible assumption) ?_
    | simp only [keeps_snd_snd]
    | simp only [keeps_snd]
    | simp only [keepsP_mk]
    | with_reducible refine KeepsP.ite (fun _ => ?_) (fun _ => ?_)
    | split

theorem execStompReceive_keeps {s0 : State} (lane : Nat) (cell : Cell) (s : State) (hs : Keeps s0 s) : KeepsOut s0 (execStompReceive lane cell s) := by
  unfold execStompReceive
  repeat' first
    | with_reducible refine KeepsOut.next ?_
    | exact KeepsOut.refused _
    | with_reducible assumption
    | with_reducible refine KeepsOut.ite (fun _ => ?_) (fun _ => ?_)
    | with_reducible refine Keeps.ite (fun _ => ?_) (fun _ => ?_)
    | with_reducible refine foldl_keeps _ _ ?_ (fun _ _ h => ?_)
    | with_reducible refine foldl_pair_keeps _ _ _ ?_ (fun _ _ h => ?_)
    | with_reducible refine takeStomp_keeps _ _ _ _ ?_
    | simp only [keeps_set_lanes, keeps_set_ports, keeps_set_blocks, keeps_set_sched, keeps_set_fabric, keeps_set_lasts, keeps_set_host, keeps_set_logs, keeps_set_chip, keeps_set_ctl, keeps_set_time, keeps_set_twin, keeps_set_peals, keeps_set_spine, keeps_set_circ, keeps_set_chans]
    | refine KeepsP.get (by with_reducible assumption) ?_
    | refine KeepsT.get (by with_reducible assumption) ?_
    | simp only [keeps_snd_snd]
    | simp only [keeps_snd]
    | simp only [keepsP_mk]
    | with_reducible refine KeepsP.ite (fun _ => ?_) (fun _ => ?_)
    | split

theorem execLinkStompReceive_keeps {s0 : State} (lane : Nat) (cell : Cell) (s : State) (hs : Keeps s0 s) : KeepsOut s0 (execLinkStompReceive lane cell s) := by
  unfold execLinkStompReceive
  repeat' first
    | with_reducible refine KeepsOut.next ?_
    | exact KeepsOut.refused _
    | with_reducible assumption
    | with_reducible refine KeepsOut.ite (fun _ => ?_) (fun _ => ?_)
    | with_reducible refine Keeps.ite (fun _ => ?_) (fun _ => ?_)
    | with_reducible refine foldl_keeps _ _ ?_ (fun _ _ h => ?_)
    | with_reducible refine foldl_pair_keeps _ _ _ ?_ (fun _ _ h => ?_)
    | with_reducible refine takeStomp_keeps _ _ _ _ ?_
    | simp only [keeps_set_lanes, keeps_set_ports, keeps_set_blocks, keeps_set_sched, keeps_set_fabric, keeps_set_lasts, keeps_set_host, keeps_set_logs, keeps_set_chip, keeps_set_ctl, keeps_set_time, keeps_set_twin, keeps_set_peals, keeps_set_spine, keeps_set_circ, keeps_set_chans]
    | refine KeepsP.get (by with_reducible assumption) ?_
    | refine KeepsT.get (by with_reducible assumption) ?_
    | simp only [keeps_snd_snd]
    | simp only [keeps_snd]
    | simp only [keepsP_mk]
    | with_reducible refine KeepsP.ite (fun _ => ?_) (fun _ => ?_)
    | split

theorem execRetryTimeout_keeps {s0 : State} (lane : ℕ) (s : State) (hs : Keeps s0 s) : KeepsOut s0 (execRetryTimeout lane s) := by
  unfold execRetryTimeout
  repeat' first
    | with_reducible refine KeepsOut.next ?_
    | exact KeepsOut.refused _
    | with_reducible assumption
    | with_reducible refine KeepsOut.ite (fun _ => ?_) (fun _ => ?_)
    | with_reducible refine Keeps.ite (fun _ => ?_) (fun _ => ?_)
    | with_reducible refine foldl_keeps _ _ ?_ (fun _ _ h => ?_)
    | with_reducible refine foldl_pair_keeps _ _ _ ?_ (fun _ _ h => ?_)
    | with_reducible refine startAttempt_keeps _ _ _ _ ?_
    | simp only [keeps_set_lanes, keeps_set_ports, keeps_set_blocks, keeps_set_sched, keeps_set_fabric, keeps_set_lasts, keeps_set_host, keeps_set_logs, keeps_set_chip, keeps_set_ctl, keeps_set_time, keeps_set_twin, keeps_set_peals, keeps_set_spine, keeps_set_circ, keeps_set_chans]
    | refine KeepsP.get (by with_reducible assumption) ?_
    | refine KeepsT.get (by with_reducible assumption) ?_
    | simp only [keeps_snd_snd]
    | simp only [keeps_snd]
    | simp only [keepsP_mk]
    | with_reducible refine KeepsP.ite (fun _ => ?_) (fun _ => ?_)
    | split

theorem passCell_keeps {s0 : State} (n : Nat) (c : BufCell) (s : State) (hs : Keeps s0 s) : Keeps s0 (passCell n c s) := by
  unfold passCell
  repeat' first
    | with_reducible assumption
    | with_reducible refine Keeps.ite (fun _ => ?_) (fun _ => ?_)
    | with_reducible refine foldl_keeps _ _ ?_ (fun _ _ h => ?_)
    | with_reducible refine foldl_pair_keeps _ _ _ ?_ (fun _ _ h => ?_)
    | with_reducible refine returnCredit_keeps _ _ ?_
    | with_reducible refine ingress_keeps _ _ _ ?_
    | simp only [keeps_set_lanes, keeps_set_ports, keeps_set_blocks, keeps_set_sched, keeps_set_fabric, keeps_set_lasts, keeps_set_host, keeps_set_logs, keeps_set_chip, keeps_set_ctl, keeps_set_time, keeps_set_twin, keeps_set_peals, keeps_set_spine, keeps_set_circ, keeps_set_chans]
    | refine KeepsP.get (by with_reducible assumption) ?_
    | refine KeepsT.get (by with_reducible assumption) ?_
    | simp only [keeps_snd_snd]
    | simp only [keeps_snd]
    | simp only [keepsP_mk]
    | with_reducible refine KeepsP.ite (fun _ => ?_) (fun _ => ?_)
    | split

theorem meterCell_keeps {s0 : State} (p : ℕ) (c : BufCell) (s : State) (hs : Keeps s0 s) : ∀ t, (meterCell p c s) = some t → Keeps s0 t := by
  unfold meterCell
  repeat' first
    | with_reducible assumption
    | with_reducible refine KeepsP.ite (fun _ => ?_) (fun _ => ?_)
    | simp only [keepsP_mk]
    | with_reducible refine Keeps.ite (fun _ => ?_) (fun _ => ?_)
    | with_reducible refine foldl_keeps _ _ ?_ (fun _ _ h => ?_)
    | with_reducible refine foldl_pair_keeps _ _ _ ?_ (fun _ _ h => ?_)
    | with_reducible refine passCell_keeps _ _ _ ?_
    | with_reducible refine State.modPort_keeps _ _ _ ?_
    | simp only [keeps_set_lanes, keeps_set_ports, keeps_set_blocks, keeps_set_sched, keeps_set_fabric, keeps_set_lasts, keeps_set_host, keeps_set_logs, keeps_set_chip, keeps_set_ctl, keeps_set_time, keeps_set_twin, keeps_set_peals, keeps_set_spine, keeps_set_circ, keeps_set_chans]
    | refine KeepsP.get (by with_reducible assumption) ?_
    | refine KeepsT.get (by with_reducible assumption) ?_
    | simp only [keeps_snd_snd]
    | simp only [keeps_snd]
    | simp only [keepsP_mk]
    | with_reducible refine KeepsP.ite (fun _ => ?_) (fun _ => ?_)
    | split
    | dsimp only
    | (intro _ e; cases e)

theorem police_keeps {s0 : State} (p : Nat) (c : BufCell) (s : State) (hs : Keeps s0 s) : Keeps s0 (police p c s) := by
  unfold police
  repeat' first
    | with_reducible assumption
    | with_reducible refine Keeps.ite (fun _ => ?_) (fun _ => ?_)
    | with_reducible refine foldl_keeps _ _ ?_ (fun _ _ h => ?_)
    | with_reducible refine foldl_pair_keeps _ _ _ ?_ (fun _ _ h => ?_)
    | with_reducible refine bumpPort_keeps _ _ _ ?_
    | with_reducible refine State.modPort_keeps _ _ _ ?_
    | refine meterCell_keeps _ _ _ ?_ _ (by with_reducible assumption)
    | simp only [keeps_set_lanes, keeps_set_ports, keeps_set_blocks, keeps_set_sched, keeps_set_fabric, keeps_set_lasts, keeps_set_host, keeps_set_logs, keeps_set_chip, keeps_set_ctl, keeps_set_time, keeps_set_twin, keeps_set_peals, keeps_set_spine, keeps_set_circ, keeps_set_chans]
    | refine KeepsP.get (by with_reducible assumption) ?_
    | refine KeepsT.get (by with_reducible assumption) ?_
    | simp only [keeps_snd_snd]
    | simp only [keeps_snd]
    | simp only [keepsP_mk]
    | with_reducible refine KeepsP.ite (fun _ => ?_) (fun _ => ?_)
    | split

theorem releaseHeld_keeps {s0 : State} (p : ℕ) (vc : ℕ) (a : ℕ) (a1 : State) (ha1 : Keeps s0 a1) : Keeps s0 (releaseHeld p vc a a1) := by
  induction a generalizing a1 with
  | zero => unfold releaseHeld; with_reducible assumption
  | succ k ih =>
    unfold releaseHeld
    repeat' first
      | with_reducible assumption
      | with_reducible refine Keeps.ite (fun _ => ?_) (fun _ => ?_)
      | with_reducible refine foldl_keeps _ _ ?_ (fun _ _ h => ?_)
      | with_reducible refine foldl_pair_keeps _ _ _ ?_ (fun _ _ h => ?_)
      | simp only [keeps_set_lanes, keeps_set_ports, keeps_set_blocks, keeps_set_sched, keeps_set_fabric, keeps_set_lasts, keeps_set_host, keeps_set_logs, keeps_set_chip, keeps_set_ctl, keeps_set_time, keeps_set_twin, keeps_set_peals, keeps_set_spine, keeps_set_circ, keeps_set_chans]
      | with_reducible refine ih _ ?_
      | refine meterCell_keeps _ _ _ ?_ _ (by with_reducible assumption)
      | with_reducible refine State.modPort_keeps _ _ _ ?_
      | refine KeepsP.get (by with_reducible assumption) ?_
      | refine KeepsT.get (by with_reducible assumption) ?_
      | simp only [keeps_snd_snd]
      | simp only [keeps_snd]
      | simp only [keepsP_mk]
      | with_reducible refine KeepsP.ite (fun _ => ?_) (fun _ => ?_)
      | dsimp -iota -proj only
      | split

theorem refill_keeps {s0 : State} (p : ℕ) (s : State) (hs : Keeps s0 s) : Keeps s0 (refill p s) := by
  unfold refill
  repeat' first
    | with_reducible assumption
    | with_reducible refine Keeps.ite (fun _ => ?_) (fun _ => ?_)
    | with_reducible refine foldl_keeps _ _ ?_ (fun _ _ h => ?_)
    | with_reducible refine foldl_pair_keeps _ _ _ ?_ (fun _ _ h => ?_)
    | with_reducible refine State.modPort_keeps _ _ _ ?_

theorem refillBoundary_keeps {s0 : State} (p : ℕ) (s : State) (hs : Keeps s0 s) : Keeps s0 (refillBoundary p s) := by
  unfold refillBoundary
  repeat' first
    | with_reducible assumption
    | with_reducible refine Keeps.ite (fun _ => ?_) (fun _ => ?_)
    | with_reducible refine forAll_keeps _ _ ?_ (fun _ _ h => ?_)
    | with_reducible refine foldl_keeps _ _ ?_ (fun _ _ h => ?_)
    | with_reducible refine foldl_pair_keeps _ _ _ ?_ (fun _ _ h => ?_)
    | with_reducible refine refill_keeps _ _ ?_
    | with_reducible refine releaseHeld_keeps _ _ _ _ ?_

theorem installQos_keeps {s0 : State} (p : ℕ) (s : State) (hs : Keeps s0 s) : Keeps s0 (installQos p s) := by
  unfold installQos
  repeat' first
    | with_reducible assumption
    | with_reducible refine Keeps.ite (fun _ => ?_) (fun _ => ?_)
    | with_reducible refine forAll_keeps _ _ ?_ (fun _ _ h => ?_)
    | with_reducible refine foldl_keeps _ _ ?_ (fun _ _ h => ?_)
    | with_reducible refine foldl_pair_keeps _ _ _ ?_ (fun _ _ h => ?_)
    | with_reducible refine State.modPort_keeps _ _ _ ?_
    | with_reducible refine answerAt_keeps _ _ _ ?_
    | simp only [keeps_set_lanes, keeps_set_ports, keeps_set_blocks, keeps_set_sched, keeps_set_fabric, keeps_set_lasts, keeps_set_host, keeps_set_logs, keeps_set_chip, keeps_set_ctl, keeps_set_time, keeps_set_twin, keeps_set_peals, keeps_set_spine, keeps_set_circ, keeps_set_chans]
    | refine KeepsP.get (by with_reducible assumption) ?_
    | refine KeepsT.get (by with_reducible assumption) ?_
    | simp only [keeps_snd_snd]
    | simp only [keeps_snd]
    | simp only [keepsP_mk]
    | with_reducible refine KeepsP.ite (fun _ => ?_) (fun _ => ?_)
    | split

theorem execPolicerRefill_keeps {s0 : State} (port : ℕ) (s : State) (hs : Keeps s0 s) : KeepsOut s0 (execPolicerRefill port s) := by
  unfold execPolicerRefill
  repeat' first
    | with_reducible refine KeepsOut.next ?_
    | exact KeepsOut.refused _
    | with_reducible assumption
    | with_reducible refine KeepsOut.ite (fun _ => ?_) (fun _ => ?_)
    | with_reducible refine Keeps.ite (fun _ => ?_) (fun _ => ?_)
    | with_reducible refine foldl_keeps _ _ ?_ (fun _ _ h => ?_)
    | with_reducible refine foldl_pair_keeps _ _ _ ?_ (fun _ _ h => ?_)
    | with_reducible refine refillBoundary_keeps _ _ ?_
    | with_reducible refine installQos_keeps _ _ ?_

theorem execQosRecordInstall_keeps {s0 : State} (port : ℕ) (s : State) (hs : Keeps s0 s) : KeepsOut s0 (execQosRecordInstall port s) := by
  unfold execQosRecordInstall
  repeat' first
    | with_reducible refine KeepsOut.next ?_
    | exact KeepsOut.refused _
    | with_reducible assumption
    | with_reducible refine KeepsOut.ite (fun _ => ?_) (fun _ => ?_)
    | with_reducible refine Keeps.ite (fun _ => ?_) (fun _ => ?_)
    | with_reducible refine foldl_keeps _ _ ?_ (fun _ _ h => ?_)
    | with_reducible refine foldl_pair_keeps _ _ _ ?_ (fun _ _ h => ?_)
    | with_reducible refine refillBoundary_keeps _ _ ?_
    | with_reducible refine installQos_keeps _ _ ?_

theorem acceptTwin_keeps {s0 : State} (c : Cell) (s : State) (hs : Keeps s0 s) : Keeps s0 (acceptTwin c s) := by
  unfold acceptTwin
  repeat' first
    | with_reducible assumption
    | with_reducible refine Keeps.ite (fun _ => ?_) (fun _ => ?_)
    | with_reducible refine foldl_keeps _ _ ?_ (fun _ _ h => ?_)
    | with_reducible refine foldl_pair_keeps _ _ _ ?_ (fun _ _ h => ?_)
    | with_reducible refine State.modTwin_keeps _ _ ?_

theorem judgeCell_keeps {s0 : State} (p : Nat) (o : Origin) (c : Cell) (s : State) (hs : Keeps s0 s) : Keeps s0 (judgeCell p o c s) := by
  unfold judgeCell
  repeat' first
    | with_reducible assumption
    | with_reducible refine Keeps.ite (fun _ => ?_) (fun _ => ?_)
    | with_reducible refine foldl_keeps _ _ ?_ (fun _ _ h => ?_)
    | with_reducible refine foldl_pair_keeps _ _ _ ?_ (fun _ _ h => ?_)
    | with_reducible refine returnCredit_keeps _ _ ?_
    | with_reducible refine countDiscard_keeps _ _ _ ?_
    | with_reducible refine acceptTwin_keeps _ _ ?_
    | with_reducible refine newEnt_keeps _ _ ?_
    | with_reducible refine police_keeps _ _ _ ?_
    | simp only [keeps_set_lanes, keeps_set_ports, keeps_set_blocks, keeps_set_sched, keeps_set_fabric, keeps_set_lasts, keeps_set_host, keeps_set_logs, keeps_set_chip, keeps_set_ctl, keeps_set_time, keeps_set_twin, keeps_set_peals, keeps_set_spine, keeps_set_circ, keeps_set_chans]
    | refine KeepsP.get (by with_reducible assumption) ?_
    | refine KeepsT.get (by with_reducible assumption) ?_
    | simp only [keeps_snd_snd]
    | simp only [keeps_snd]
    | simp only [keepsP_mk]
    | with_reducible refine KeepsP.ite (fun _ => ?_) (fun _ => ?_)
    | split

theorem acceptCell_keeps {s0 : State} (lane : Nat) (p : Nat) (x : RxCell) (s : State) (hs : Keeps s0 s) : Keeps s0 (acceptCell lane p x s) := by
  unfold acceptCell
  repeat' first
    | with_reducible assumption
    | with_reducible refine Keeps.ite (fun _ => ?_) (fun _ => ?_)
    | with_reducible refine foldl_keeps _ _ ?_ (fun _ _ h => ?_)
    | with_reducible refine foldl_pair_keeps _ _ _ ?_ (fun _ _ h => ?_)
    | with_reducible refine countDiscard_keeps _ _ _ ?_
    | with_reducible refine takeStomp_keeps _ _ _ _ ?_
    | with_reducible refine bumpPort_keeps _ _ _ ?_
    | with_reducible refine linkFault_keeps _ _ _ ?_
    | with_reducible refine bump_keeps _ _ _ _ ?_
    | with_reducible refine judgeCell_keeps _ _ _ _ ?_
    | with_reducible refine State.modPort_keeps _ _ _ ?_
    | simp only [keeps_set_lanes, keeps_set_ports, keeps_set_blocks, keeps_set_sched, keeps_set_fabric, keeps_set_lasts, keeps_set_host, keeps_set_logs, keeps_set_chip, keeps_set_ctl, keeps_set_time, keeps_set_twin, keeps_set_peals, keeps_set_spine, keeps_set_circ, keeps_set_chans]
    | refine KeepsP.get (by with_reducible assumption) ?_
    | refine KeepsT.get (by with_reducible assumption) ?_
    | simp only [keeps_snd_snd]
    | simp only [keeps_snd]
    | simp only [keepsP_mk]
    | with_reducible refine KeepsP.ite (fun _ => ?_) (fun _ => ?_)
    | split

theorem mergePort_keeps {s0 : State} (p : Nat) (x1 : Nat) (x2 : State) (hs : Keeps s0 x2) : Keeps s0 (mergePort p x1 x2) := by
  induction x1 generalizing x2 with
  | zero => unfold mergePort; with_reducible assumption
  | succ k ih =>
    unfold mergePort
    repeat' first
      | with_reducible assumption
      | with_reducible refine ih _ ?_
      | with_reducible refine Keeps.ite (fun _ => ?_) (fun _ => ?_)
      | with_reducible refine foldl_keeps _ _ ?_ (fun _ _ h => ?_)
      | with_reducible refine foldl_pair_keeps _ _ _ ?_ (fun _ _ h => ?_)
      | with_reducible refine acceptCell_keeps _ _ _ _ ?_
      | with_reducible refine State.modLane_keeps _ _ _ ?_
      | simp only [keeps_set_lanes, keeps_set_ports, keeps_set_blocks, keeps_set_sched, keeps_set_fabric, keeps_set_lasts, keeps_set_host, keeps_set_logs, keeps_set_chip, keeps_set_ctl, keeps_set_time, keeps_set_twin, keeps_set_peals, keeps_set_spine, keeps_set_circ, keeps_set_chans]
      | refine KeepsP.get (by with_reducible assumption) ?_
      | refine KeepsT.get (by with_reducible assumption) ?_
      | simp only [keeps_snd_snd]
      | simp only [keeps_snd]
      | simp only [keepsP_mk]
      | with_reducible refine KeepsP.ite (fun _ => ?_) (fun _ => ?_)
      | split
      | dsimp -iota -proj only

theorem merge_keeps {s0 : State} (p : Nat) (s : State) (hs : Keeps s0 s) : Keeps s0 (merge p s) := by
  unfold merge
  repeat' first
    | with_reducible assumption
    | with_reducible refine Keeps.ite (fun _ => ?_) (fun _ => ?_)
    | with_reducible refine foldl_keeps _ _ ?_ (fun _ _ h => ?_)
    | with_reducible refine foldl_pair_keeps _ _ _ ?_ (fun _ _ h => ?_)
    | with_reducible refine mergePort_keeps _ _ _ ?_
    | simp only [keeps_set_lanes, keeps_set_ports, keeps_set_blocks, keeps_set_sched, keeps_set_fabric, keeps_set_lasts, keeps_set_host, keeps_set_logs, keeps_set_chip, keeps_set_ctl, keeps_set_time, keeps_set_twin, keeps_set_peals, keeps_set_spine, keeps_set_circ, keeps_set_chans]
    | refine KeepsP.get (by with_reducible assumption) ?_
    | refine KeepsT.get (by with_reducible assumption) ?_
    | simp only [keeps_snd_snd]
    | simp only [keeps_snd]
    | simp only [keepsP_mk]
    | with_reducible refine KeepsP.ite (fun _ => ?_) (fun _ => ?_)
    | split

theorem askResend_keeps {s0 : State} (lane : Nat) (p : Nat) (s : State) (hs : Keeps s0 s) : Keeps s0 (askResend lane p s) := by
  unfold askResend
  repeat' first
    | with_reducible assumption
    | with_reducible refine Keeps.ite (fun _ => ?_) (fun _ => ?_)
    | with_reducible refine foldl_keeps _ _ ?_ (fun _ _ h => ?_)
    | with_reducible refine foldl_pair_keeps _ _ _ ?_ (fun _ _ h => ?_)
    | with_reducible refine linkFault_keeps _ _ _ ?_
    | with_reducible refine State.modLane_keeps _ _ _ ?_
    | simp only [keeps_set_lanes, keeps_set_ports, keeps_set_blocks, keeps_set_sched, keeps_set_fabric, keeps_set_lasts, keeps_set_host, keeps_set_logs, keeps_set_chip, keeps_set_ctl, keeps_set_time, keeps_set_twin, keeps_set_peals, keeps_set_spine, keeps_set_circ, keeps_set_chans]
    | refine KeepsP.get (by with_reducible assumption) ?_
    | refine KeepsT.get (by with_reducible assumption) ?_
    | simp only [keeps_snd_snd]
    | simp only [keeps_snd]
    | simp only [keepsP_mk]
    | with_reducible refine KeepsP.ite (fun _ => ?_) (fun _ => ?_)
    | split

theorem badFrom_keeps {s0 : State} (lane : Nat) (p : Nat) (lsn : BitVec 16) (slot : Nat) (s : State) (hs : Keeps s0 s) : Keeps s0 (badFrom lane p lsn slot s) := by
  unfold badFrom
  repeat' first
    | with_reducible assumption
    | with_reducible refine Keeps.ite (fun _ => ?_) (fun _ => ?_)
    | with_reducible refine foldl_keeps _ _ ?_ (fun _ _ h => ?_)
    | with_reducible refine foldl_pair_keeps _ _ _ ?_ (fun _ _ h => ?_)
    | with_reducible refine withdrawAll_keeps _ _ _ _ ?_
    | with_reducible refine askResend_keeps _ _ _ ?_
    | with_reducible refine State.modLane_keeps _ _ _ ?_
    | simp only [keeps_set_lanes, keeps_set_ports, keeps_set_blocks, keeps_set_sched, keeps_set_fabric, keeps_set_lasts, keeps_set_host, keeps_set_logs, keeps_set_chip, keeps_set_ctl, keeps_set_time, keeps_set_twin, keeps_set_peals, keeps_set_spine, keeps_set_circ, keeps_set_chans]
    | refine KeepsP.get (by with_reducible assumption) ?_
    | refine KeepsT.get (by with_reducible assumption) ?_
    | simp only [keeps_snd_snd]
    | simp only [keeps_snd]
    | simp only [keepsP_mk]
    | with_reducible refine KeepsP.ite (fun _ => ?_) (fun _ => ?_)
    | split

theorem arrive_keeps {s0 : State} (lane : Nat) (p : Nat) (slot : Nat) (c : Cell) (s : State) (hs : Keeps s0 s) : Keeps s0 (arrive lane p slot c s) := by
  unfold arrive
  repeat' first
    | with_reducible assumption
    | with_reducible refine Keeps.ite (fun _ => ?_) (fun _ => ?_)
    | with_reducible refine foldl_keeps _ _ ?_ (fun _ _ h => ?_)
    | with_reducible refine foldl_pair_keeps _ _ _ ?_ (fun _ _ h => ?_)
    | with_reducible refine badFrom_keeps _ _ _ _ _ ?_
    | with_reducible refine countDiscard_keeps _ _ _ ?_
    | with_reducible refine merge_keeps _ _ ?_
    | with_reducible refine State.modLane_keeps _ _ _ ?_
    | simp only [keeps_set_lanes, keeps_set_ports, keeps_set_blocks, keeps_set_sched, keeps_set_fabric, keeps_set_lasts, keeps_set_host, keeps_set_logs, keeps_set_chip, keeps_set_ctl, keeps_set_time, keeps_set_twin, keeps_set_peals, keeps_set_spine, keeps_set_circ, keeps_set_chans]
    | refine KeepsP.get (by with_reducible assumption) ?_
    | refine KeepsT.get (by with_reducible assumption) ?_
    | simp only [keeps_snd_snd]
    | simp only [keeps_snd]
    | simp only [keepsP_mk]
    | with_reducible refine KeepsP.ite (fun _ => ?_) (fun _ => ?_)
    | split

theorem badUnlocked_keeps {s0 : State} (lane : Nat) (p : Nat) (s : State) (hs : Keeps s0 s) : Keeps s0 (badUnlocked lane p s) := by
  unfold badUnlocked
  repeat' first
    | with_reducible assumption
    | with_reducible refine Keeps.ite (fun _ => ?_) (fun _ => ?_)
    | with_reducible refine foldl_keeps _ _ ?_ (fun _ _ h => ?_)
    | with_reducible refine foldl_pair_keeps _ _ _ ?_ (fun _ _ h => ?_)
    | with_reducible refine badFrom_keeps _ _ _ _ _ ?_
    | with_reducible refine askResend_keeps _ _ _ ?_
    | simp only [keeps_set_lanes, keeps_set_ports, keeps_set_blocks, keeps_set_sched, keeps_set_fabric, keeps_set_lasts, keeps_set_host, keeps_set_logs, keeps_set_chip, keeps_set_ctl, keeps_set_time, keeps_set_twin, keeps_set_peals, keeps_set_spine, keeps_set_circ, keeps_set_chans]
    | refine KeepsP.get (by with_reducible assumption) ?_
    | refine KeepsT.get (by with_reducible assumption) ?_
    | simp only [keeps_snd_snd]
    | simp only [keeps_snd]
    | simp only [keepsP_mk]
    | with_reducible refine KeepsP.ite (fun _ => ?_) (fun _ => ?_)
    | split

theorem execCellReceive_keeps {s0 : State} (lane : Nat) (slot : Nat) (cell : Cell) (s : State) (hs : Keeps s0 s) : KeepsOut s0 (execCellReceive lane slot cell s) := by
  unfold execCellReceive
  repeat' first
    | with_reducible refine KeepsOut.next ?_
    | exact KeepsOut.refused _
    | with_reducible assumption
    | with_reducible refine KeepsOut.ite (fun _ => ?_) (fun _ => ?_)
    | with_reducible refine Keeps.ite (fun _ => ?_) (fun _ => ?_)
    | with_reducible refine foldl_keeps _ _ ?_ (fun _ _ h => ?_)
    | with_reducible refine foldl_pair_keeps _ _ _ ?_ (fun _ _ h => ?_)
    | with_reducible refine badUnlocked_keeps _ _ _ ?_
    | with_reducible refine State.modLane_keeps _ _ _ ?_
    | with_reducible refine arrive_keeps _ _ _ _ _ ?_
    | simp only [keeps_set_lanes, keeps_set_ports, keeps_set_blocks, keeps_set_sched, keeps_set_fabric, keeps_set_lasts, keeps_set_host, keeps_set_logs, keeps_set_chip, keeps_set_ctl, keeps_set_time, keeps_set_twin, keeps_set_peals, keeps_set_spine, keeps_set_circ, keeps_set_chans]
    | refine KeepsP.get (by with_reducible assumption) ?_
    | refine KeepsT.get (by with_reducible assumption) ?_
    | simp only [keeps_snd_snd]
    | simp only [keeps_snd]
    | simp only [keepsP_mk]
    | with_reducible refine KeepsP.ite (fun _ => ?_) (fun _ => ?_)
    | split

theorem ackBlocks_keeps {s0 : State} (lane : ℕ) (p : ℕ) (ack : BitVec 16) (s : State) (hs : Keeps s0 s) : Keeps s0 (ackBlocks lane p ack s) := by
  unfold ackBlocks
  repeat' first
    | with_reducible assumption
    | with_reducible refine Keeps.ite (fun _ => ?_) (fun _ => ?_)
    | with_reducible refine forAll_keeps _ _ ?_ (fun _ _ h => ?_)
    | with_reducible refine foldl_keeps _ _ ?_ (fun _ _ h => ?_)
    | with_reducible refine foldl_pair_keeps _ _ _ ?_ (fun _ _ h => ?_)
    | with_reducible refine State.modLane_keeps _ _ _ ?_
    | with_reducible refine bookBlock_keeps _ _ _ ?_
    | simp only [keeps_set_lanes, keeps_set_ports, keeps_set_blocks, keeps_set_sched, keeps_set_fabric, keeps_set_lasts, keeps_set_host, keeps_set_logs, keeps_set_chip, keeps_set_ctl, keeps_set_time, keeps_set_twin, keeps_set_peals, keeps_set_spine, keeps_set_circ, keeps_set_chans]

theorem takeCredits_keeps {s0 : State} (lane : ℕ) (p : ℕ) (w : BitVec 128) (s : State) (hs : Keeps s0 s) : Keeps s0 (takeCredits lane p w s) := by
  unfold takeCredits
  repeat' first
    | with_reducible assumption
    | with_reducible refine Keeps.ite (fun _ => ?_) (fun _ => ?_)
    | with_reducible refine foldl_keeps _ _ ?_ (fun _ _ h => ?_)
    | with_reducible refine foldl_pair_keeps _ _ _ ?_ (fun _ _ h => ?_)
    | with_reducible refine State.modLane_keeps _ _ _ ?_
    | with_reducible refine State.modPort_keeps _ _ _ ?_

theorem finishBlock_keeps {s0 : State} (lane : Nat) (p : Nat) (s : State) (hs : Keeps s0 s) : Keeps s0 (finishBlock lane p s) := by
  unfold finishBlock
  repeat' first
    | with_reducible assumption
    | with_reducible refine Keeps.ite (fun _ => ?_) (fun _ => ?_)
    | with_reducible refine foldl_keeps _ _ ?_ (fun _ _ h => ?_)
    | with_reducible refine foldl_pair_keeps _ _ _ ?_ (fun _ _ h => ?_)
    | with_reducible refine badFrom_keeps _ _ _ _ _ ?_
    | with_reducible refine State.modLane_keeps _ _ _ ?_
    | simp only [keeps_set_lanes, keeps_set_ports, keeps_set_blocks, keeps_set_sched, keeps_set_fabric, keeps_set_lasts, keeps_set_host, keeps_set_logs, keeps_set_chip, keeps_set_ctl, keeps_set_time, keeps_set_twin, keeps_set_peals, keeps_set_spine, keeps_set_circ, keeps_set_chans]
    | refine KeepsP.get (by with_reducible assumption) ?_
    | refine KeepsT.get (by with_reducible assumption) ?_
    | simp only [keeps_snd_snd]
    | simp only [keeps_snd]
    | simp only [keepsP_mk]
    | with_reducible refine KeepsP.ite (fun _ => ?_) (fun _ => ?_)
    | split

theorem dropRepeat_keeps {s0 : State} (lane : Nat) (s : State) (hs : Keeps s0 s) : Keeps s0 (dropRepeat lane s) := by
  unfold dropRepeat
  repeat' first
    | with_reducible assumption
    | with_reducible refine Keeps.ite (fun _ => ?_) (fun _ => ?_)
    | with_reducible refine foldl_keeps _ _ ?_ (fun _ _ h => ?_)
    | with_reducible refine foldl_pair_keeps _ _ _ ?_ (fun _ _ h => ?_)
    | with_reducible refine withdrawAll_keeps _ _ _ _ ?_
    | with_reducible refine State.modLane_keeps _ _ _ ?_
    | simp only [keeps_set_lanes, keeps_set_ports, keeps_set_blocks, keeps_set_sched, keeps_set_fabric, keeps_set_lasts, keeps_set_host, keeps_set_logs, keeps_set_chip, keeps_set_ctl, keeps_set_time, keeps_set_twin, keeps_set_peals, keeps_set_spine, keeps_set_circ, keeps_set_chans]
    | refine KeepsP.get (by with_reducible assumption) ?_
    | refine KeepsT.get (by with_reducible assumption) ?_
    | simp only [keeps_snd_snd]
    | simp only [keeps_snd]
    | simp only [keepsP_mk]
    | with_reducible refine KeepsP.ite (fun _ => ?_) (fun _ => ?_)
    | split

theorem endBlock_keeps {s0 : State} (lane : Nat) (p : Nat) (lsn : BitVec 16) (attempt : Nat) (s : State) (hs : Keeps s0 s) : Keeps s0 (endBlock lane p lsn attempt s) := by
  unfold endBlock
  repeat' first
    | with_reducible assumption
    | with_reducible refine Keeps.ite (fun _ => ?_) (fun _ => ?_)
    | with_reducible refine forAll_keeps _ _ ?_ (fun _ _ h => ?_)
    | with_reducible refine foldl_keeps _ _ ?_ (fun _ _ h => ?_)
    | with_reducible refine foldl_pair_keeps _ _ _ ?_ (fun _ _ h => ?_)
    | with_reducible refine State.modLane_keeps _ _ _ ?_
    | with_reducible refine forAll_keeps _ _ _ ?_ (fun _ _ h => ?_)
    | with_reducible refine arrive_keeps _ _ _ _ _ ?_
    | with_reducible refine merge_keeps _ _ ?_
    | with_reducible refine finishBlock_keeps _ _ _ ?_
    | with_reducible refine dropRepeat_keeps _ _ ?_
    | with_reducible refine badFrom_keeps _ _ _ _ _ ?_
    | simp only [keeps_set_lanes, keeps_set_ports, keeps_set_blocks, keeps_set_sched, keeps_set_fabric, keeps_set_lasts, keeps_set_host, keeps_set_logs, keeps_set_chip, keeps_set_ctl, keeps_set_time, keeps_set_twin, keeps_set_peals, keeps_set_spine, keeps_set_circ, keeps_set_chans]
    | refine KeepsP.get (by with_reducible assumption) ?_
    | refine KeepsT.get (by with_reducible assumption) ?_
    | simp only [keeps_snd_snd]
    | simp only [keeps_snd]
    | simp only [keepsP_mk]
    | with_reducible refine KeepsP.ite (fun _ => ?_) (fun _ => ?_)
    | split

theorem peerState_keeps {s0 : State} (p : ℕ) (code : ℕ) (s : State) (hs : Keeps s0 s) : Keeps s0 (peerState p code s) := by
  unfold peerState
  repeat' first
    | with_reducible assumption
    | with_reducible refine Keeps.ite (fun _ => ?_) (fun _ => ?_)
    | with_reducible refine foldl_keeps _ _ ?_ (fun _ _ h => ?_)
    | with_reducible refine foldl_pair_keeps _ _ _ ?_ (fun _ _ h => ?_)
    | with_reducible refine State.modPort_keeps _ _ _ ?_
    | with_reducible refine enter_keeps _ _ _ _ ?_
    | with_reducible refine tryUp_keeps _ _ ?_

theorem loseLcw_keeps {s0 : State} (lane : Nat) (p : Nat) (s : State) (hs : Keeps s0 s) : Keeps s0 (loseLcw lane p s) := by
  unfold loseLcw
  repeat' first
    | with_reducible assumption
    | with_reducible refine Keeps.ite (fun _ => ?_) (fun _ => ?_)
    | with_reducible refine foldl_keeps _ _ ?_ (fun _ _ h => ?_)
    | with_reducible refine foldl_pair_keeps _ _ _ ?_ (fun _ _ h => ?_)
    | with_reducible refine State.modLane_keeps _ _ _ ?_
    | with_reducible refine linkFault_keeps _ _ _ ?_
    | simp only [keeps_set_lanes, keeps_set_ports, keeps_set_blocks, keeps_set_sched, keeps_set_fabric, keeps_set_lasts, keeps_set_host, keeps_set_logs, keeps_set_chip, keeps_set_ctl, keeps_set_time, keeps_set_twin, keeps_set_peals, keeps_set_spine, keeps_set_circ, keeps_set_chans]
    | refine KeepsP.get (by with_reducible assumption) ?_
    | refine KeepsT.get (by with_reducible assumption) ?_
    | simp only [keeps_snd_snd]
    | simp only [keeps_snd]
    | simp only [keepsP_mk]
    | with_reducible refine KeepsP.ite (fun _ => ?_) (fun _ => ?_)
    | split

theorem syncLane_keeps {s0 : State} (lane : Nat) (p : Nat) (w : BitVec 128) (s : State) (hs : Keeps s0 s) : Keeps s0 (syncLane lane p w s) := by
  unfold syncLane
  repeat' first
    | with_reducible assumption
    | with_reducible refine Keeps.ite (fun _ => ?_) (fun _ => ?_)
    | with_reducible refine foldl_keeps _ _ ?_ (fun _ _ h => ?_)
    | with_reducible refine foldl_pair_keeps _ _ _ ?_ (fun _ _ h => ?_)
    | with_reducible refine State.modLane_keeps _ _ _ ?_
    | simp only [keeps_set_lanes, keeps_set_ports, keeps_set_blocks, keeps_set_sched, keeps_set_fabric, keeps_set_lasts, keeps_set_host, keeps_set_logs, keeps_set_chip, keeps_set_ctl, keeps_set_time, keeps_set_twin, keeps_set_peals, keeps_set_spine, keeps_set_circ, keeps_set_chans]
    | refine KeepsP.get (by with_reducible assumption) ?_
    | refine KeepsT.get (by with_reducible assumption) ?_
    | simp only [keeps_snd_snd]
    | simp only [keeps_snd]
    | simp only [keepsP_mk]
    | with_reducible refine KeepsP.ite (fun _ => ?_) (fun _ => ?_)
    | split

theorem execLcwReceive_keeps {s0 : State} (lane : Nat) (lcw : BitVec 128) (s : State) (hs : Keeps s0 s) : KeepsOut s0 (execLcwReceive lane lcw s) := by
  unfold execLcwReceive
  repeat' first
    | with_reducible refine KeepsOut.next ?_
    | exact KeepsOut.refused _
    | with_reducible assumption
    | with_reducible refine KeepsOut.ite (fun _ => ?_) (fun _ => ?_)
    | with_reducible refine Keeps.ite (fun _ => ?_) (fun _ => ?_)
    | with_reducible refine foldl_keeps _ _ ?_ (fun _ _ h => ?_)
    | with_reducible refine foldl_pair_keeps _ _ _ ?_ (fun _ _ h => ?_)
    | with_reducible refine loseLcw_keeps _ _ _ ?_
    | with_reducible refine State.modLane_keeps _ _ _ ?_
    | with_reducible refine badUnlocked_keeps _ _ _ ?_
    | with_reducible refine bump_keeps _ _ _ _ ?_
    | with_reducible refine endBlock_keeps _ _ _ _ _ ?_
    | with_reducible refine syncLane_keeps _ _ _ _ ?_
    | with_reducible refine ackBlocks_keeps _ _ _ _ ?_
    | with_reducible refine takeCredits_keeps _ _ _ _ ?_
    | with_reducible refine onNak_keeps _ _ _ _ ?_
    | with_reducible refine State.modPort_keeps _ _ _ ?_
    | with_reducible refine peerState_keeps _ _ _ ?_
    | simp only [keeps_set_lanes, keeps_set_ports, keeps_set_blocks, keeps_set_sched, keeps_set_fabric, keeps_set_lasts, keeps_set_host, keeps_set_logs, keeps_set_chip, keeps_set_ctl, keeps_set_time, keeps_set_twin, keeps_set_peals, keeps_set_spine, keeps_set_circ, keeps_set_chans]
    | refine KeepsP.get (by with_reducible assumption) ?_
    | refine KeepsT.get (by with_reducible assumption) ?_
    | simp only [keeps_snd_snd]
    | simp only [keeps_snd]
    | simp only [keepsP_mk]
    | with_reducible refine KeepsP.ite (fun _ => ?_) (fun _ => ?_)
    | split

theorem execLcwLoss_keeps {s0 : State} (lane : Nat) (s : State) (hs : Keeps s0 s) : KeepsOut s0 (execLcwLoss lane s) := by
  unfold execLcwLoss
  repeat' first
    | with_reducible refine KeepsOut.next ?_
    | exact KeepsOut.refused _
    | with_reducible assumption
    | with_reducible refine KeepsOut.ite (fun _ => ?_) (fun _ => ?_)
    | with_reducible refine Keeps.ite (fun _ => ?_) (fun _ => ?_)
    | with_reducible refine foldl_keeps _ _ ?_ (fun _ _ h => ?_)
    | with_reducible refine foldl_pair_keeps _ _ _ ?_ (fun _ _ h => ?_)
    | with_reducible refine linkFault_keeps _ _ _ ?_
    | with_reducible refine State.modLane_keeps _ _ _ ?_
    | simp only [keeps_set_lanes, keeps_set_ports, keeps_set_blocks, keeps_set_sched, keeps_set_fabric, keeps_set_lasts, keeps_set_host, keeps_set_logs, keeps_set_chip, keeps_set_ctl, keeps_set_time, keeps_set_twin, keeps_set_peals, keeps_set_spine, keeps_set_circ, keeps_set_chans]
    | refine KeepsP.get (by with_reducible assumption) ?_
    | refine KeepsT.get (by with_reducible assumption) ?_
    | simp only [keeps_snd_snd]
    | simp only [keeps_snd]
    | simp only [keepsP_mk]
    | with_reducible refine KeepsP.ite (fun _ => ?_) (fun _ => ?_)
    | split

theorem rerouteHead_keeps {s0 : State} (p : Nat) (o : Origin) (c : Cell) (s : State) (hs : Keeps s0 s) : Keeps s0 (rerouteHead p o c s) := by
  unfold rerouteHead
  repeat' first
    | with_reducible assumption
    | with_reducible refine Keeps.ite (fun _ => ?_) (fun _ => ?_)
    | with_reducible refine foldl_keeps _ _ ?_ (fun _ _ h => ?_)
    | with_reducible refine foldl_pair_keeps _ _ _ ?_ (fun _ _ h => ?_)
    | with_reducible refine State.modPort_keeps _ _ _ ?_
    | with_reducible refine returnCredit_keeps _ _ ?_
    | with_reducible refine countDiscard_keeps _ _ _ ?_
    | with_reducible refine newEnt_keeps _ _ ?_
    | with_reducible refine ingress_keeps _ _ _ ?_
    | with_reducible refine routeUnicast_keeps _ _ _ _ ?_
    | with_reducible refine requeueOut_keeps _ _ _ ?_
    | with_reducible refine applyRoute_keeps _ _ _ _ ?_
    | simp only [keeps_set_lanes, keeps_set_ports, keeps_set_blocks, keeps_set_sched, keeps_set_fabric, keeps_set_lasts, keeps_set_host, keeps_set_logs, keeps_set_chip, keeps_set_ctl, keeps_set_time, keeps_set_twin, keeps_set_peals, keeps_set_spine, keeps_set_circ, keeps_set_chans]
    | refine KeepsP.get (by with_reducible assumption) ?_
    | refine KeepsT.get (by with_reducible assumption) ?_
    | simp only [keeps_snd_snd]
    | simp only [keeps_snd]
    | simp only [keepsP_mk]
    | with_reducible refine KeepsP.ite (fun _ => ?_) (fun _ => ?_)
    | split

theorem patchTwin_keeps {s0 : State} (old : Cell) (c : Cell) (s : State) (hs : Keeps s0 s) : Keeps s0 (patchTwin old c s) := by
  unfold patchTwin
  repeat' first
    | with_reducible assumption
    | with_reducible refine Keeps.ite (fun _ => ?_) (fun _ => ?_)
    | with_reducible refine foldl_keeps _ _ ?_ (fun _ _ h => ?_)
    | with_reducible refine foldl_pair_keeps _ _ _ ?_ (fun _ _ h => ?_)
    | with_reducible refine State.modTwin_keeps _ _ ?_
    | simp only [keeps_set_lanes, keeps_set_ports, keeps_set_blocks, keeps_set_sched, keeps_set_fabric, keeps_set_lasts, keeps_set_host, keeps_set_logs, keeps_set_chip, keeps_set_ctl, keeps_set_time, keeps_set_twin, keeps_set_peals, keeps_set_spine, keeps_set_circ, keeps_set_chans]
    | refine KeepsP.get (by with_reducible assumption) ?_
    | refine KeepsT.get (by with_reducible assumption) ?_
    | simp only [keeps_snd_snd]
    | simp only [keeps_snd]
    | simp only [keepsP_mk]
    | with_reducible refine KeepsP.ite (fun _ => ?_) (fun _ => ?_)
    | split

theorem verdictCell_keeps {s0 : State} (lane : Nat) (p : Nat) (blk : Nat) (slot : Nat) (c : Cell) (s : State) (hs : Keeps s0 s) : Keeps s0 (verdictCell lane p blk slot c s) := by
  unfold verdictCell
  repeat' first
    | with_reducible assumption
    | with_reducible refine Keeps.ite (fun _ => ?_) (fun _ => ?_)
    | with_reducible refine forAll_keeps _ _ ?_ (fun _ _ h => ?_)
    | with_reducible refine foldl_keeps _ _ ?_ (fun _ _ h => ?_)
    | with_reducible refine foldl_pair_keeps _ _ _ ?_ (fun _ _ h => ?_)
    | with_reducible refine State.modLane_keeps _ _ _ ?_
    | with_reducible refine patchTwin_keeps _ _ _ ?_
    | with_reducible refine withdraw_keeps _ _ _ _ ?_
    | with_reducible refine acceptCell_keeps _ _ _ _ ?_
    | with_reducible refine rerouteHead_keeps _ _ _ _ ?_
    | with_reducible refine stompPlaces_keeps _ _ _ ?_
    | with_reducible refine editBuffered_keeps _ _ _ ?_
    | with_reducible refine forAll_keeps _ _ _ ?_ (fun _ _ h => ?_)
    | with_reducible refine requeueOut_keeps _ _ _ ?_
    | simp only [keeps_set_lanes, keeps_set_ports, keeps_set_blocks, keeps_set_sched, keeps_set_fabric, keeps_set_lasts, keeps_set_host, keeps_set_logs, keeps_set_chip, keeps_set_ctl, keeps_set_time, keeps_set_twin, keeps_set_peals, keeps_set_spine, keeps_set_circ, keeps_set_chans]
    | refine KeepsP.get (by with_reducible assumption) ?_
    | refine KeepsT.get (by with_reducible assumption) ?_
    | simp only [keeps_snd_snd]
    | simp only [keeps_snd]
    | simp only [keepsP_mk]
    | with_reducible refine KeepsP.ite (fun _ => ?_) (fun _ => ?_)
    | split

theorem execCodewordVerdict_keeps {s0 : State} (lane : Nat) (v : Verdict) (s : State) (hs : Keeps s0 s) : KeepsOut s0 (execCodewordVerdict lane v s) := by
  unfold execCodewordVerdict
  repeat' first
    | with_reducible refine KeepsOut.next ?_
    | exact KeepsOut.refused _
    | with_reducible assumption
    | with_reducible refine KeepsOut.ite (fun _ => ?_) (fun _ => ?_)
    | with_reducible refine Keeps.ite (fun _ => ?_) (fun _ => ?_)
    | with_reducible refine forAll_keeps _ _ ?_ (fun _ _ h => ?_)
    | with_reducible refine foldl_keeps _ _ ?_ (fun _ _ h => ?_)
    | with_reducible refine foldl_pair_keeps _ _ _ ?_ (fun _ _ h => ?_)
    | with_reducible refine bump_keeps _ _ _ _ ?_
    | with_reducible refine bumpN_keeps _ _ _ _ _ ?_
    | with_reducible refine State.modLane_keeps _ _ _ ?_
    | with_reducible refine badFrom_keeps _ _ _ _ _ ?_
    | with_reducible refine forAll_keeps _ _ _ ?_ (fun _ _ h => ?_)
    | with_reducible refine verdictCell_keeps _ _ _ _ _ _ ?_
    | with_reducible refine merge_keeps _ _ ?_
    | simp only [keeps_set_lanes, keeps_set_ports, keeps_set_blocks, keeps_set_sched, keeps_set_fabric, keeps_set_lasts, keeps_set_host, keeps_set_logs, keeps_set_chip, keeps_set_ctl, keeps_set_time, keeps_set_twin, keeps_set_peals, keeps_set_spine, keeps_set_circ, keeps_set_chans]
    | refine KeepsP.get (by with_reducible assumption) ?_
    | refine KeepsT.get (by with_reducible assumption) ?_
    | simp only [keeps_snd_snd]
    | simp only [keeps_snd]
    | simp only [keepsP_mk]
    | with_reducible refine KeepsP.ite (fun _ => ?_) (fun _ => ?_)
    | split

theorem bookEmpty_keeps {s0 : State} (p : ℕ) (s : State) (hs : Keeps s0 s) : Keeps s0 (bookEmpty p s) := by
  unfold bookEmpty
  repeat' first
    | with_reducible assumption
    | with_reducible refine Keeps.ite (fun _ => ?_) (fun _ => ?_)
    | with_reducible refine foldl_keeps _ _ ?_ (fun _ _ h => ?_)
    | with_reducible refine foldl_pair_keeps _ _ _ ?_ (fun _ _ h => ?_)
    | with_reducible refine book_keeps _ _ _ _ ?_
    | with_reducible refine State.modPort_keeps _ _ _ ?_

theorem addDebt_keeps {s0 : State} (p : ℕ) (n : ℕ) (s : State) (hs : Keeps s0 s) : Keeps s0 (addDebt p n s) := by
  unfold addDebt
  repeat' first
    | with_reducible assumption
    | with_reducible refine Keeps.ite (fun _ => ?_) (fun _ => ?_)
    | with_reducible refine foldl_keeps _ _ ?_ (fun _ _ h => ?_)
    | with_reducible refine foldl_pair_keeps _ _ _ ?_ (fun _ _ h => ?_)
    | with_reducible refine State.modPort_keeps _ _ _ ?_
    | with_reducible refine bumpPortN_keeps _ _ _ _ ?_

theorem closeBlock_keeps {s0 : State} (lane : Nat) (p : Nat) (s : State) (hs : Keeps s0 s) : Keeps s0 (closeBlock lane p s) := by
  unfold closeBlock
  repeat' first
    | with_reducible assumption
    | with_reducible refine Keeps.ite (fun _ => ?_) (fun _ => ?_)
    | with_reducible refine foldl_keeps _ _ ?_ (fun _ _ h => ?_)
    | with_reducible refine foldl_pair_keeps _ _ _ ?_ (fun _ _ h => ?_)
    | with_reducible refine State.modLane_keeps _ _ _ ?_
    | with_reducible refine sendBlock_keeps _ _ _ _ _ _ ?_
    | simp only [keeps_set_lanes, keeps_set_ports, keeps_set_blocks, keeps_set_sched, keeps_set_fabric, keeps_set_lasts, keeps_set_host, keeps_set_logs, keeps_set_chip, keeps_set_ctl, keeps_set_time, keeps_set_twin, keeps_set_peals, keeps_set_spine, keeps_set_circ, keeps_set_chans]
    | refine KeepsP.get (by with_reducible assumption) ?_
    | refine KeepsT.get (by with_reducible assumption) ?_
    | simp only [keeps_snd_snd]
    | simp only [keeps_snd]
    | simp only [keepsP_mk]
    | with_reducible refine KeepsP.ite (fun _ => ?_) (fun _ => ?_)
    | split

theorem putSlot_keeps {s0 : State} (p : Nat) (lane : Nat) (c : Option BufCell) (s : State) (hs : Keeps s0 s) : Keeps s0 (putSlot p lane c s) := by
  unfold putSlot
  repeat' first
    | with_reducible assumption
    | with_reducible refine Keeps.ite (fun _ => ?_) (fun _ => ?_)
    | with_reducible refine foldl_keeps _ _ ?_ (fun _ _ h => ?_)
    | with_reducible refine foldl_pair_keeps _ _ _ ?_ (fun _ _ h => ?_)
    | with_reducible refine State.modLane_keeps _ _ _ ?_
    | with_reducible refine closeBlock_keeps _ _ _ ?_
    | with_reducible refine State.modPort_keeps _ _ _ ?_
    | simp only [keeps_set_lanes, keeps_set_ports, keeps_set_blocks, keeps_set_sched, keeps_set_fabric, keeps_set_lasts, keeps_set_host, keeps_set_logs, keeps_set_chip, keeps_set_ctl, keeps_set_time, keeps_set_twin, keeps_set_peals, keeps_set_spine, keeps_set_circ, keeps_set_chans]
    | refine KeepsP.get (by with_reducible assumption) ?_
    | refine KeepsT.get (by with_reducible assumption) ?_
    | simp only [keeps_snd_snd]
    | simp only [keeps_snd]
    | simp only [keepsP_mk]
    | with_reducible refine KeepsP.ite (fun _ => ?_) (fun _ => ?_)
    | split

theorem sendSlot_keeps {s0 : State} (p : ℕ) (lane : ℕ) (c : BufCell) (s : State) (hs : Keeps s0 s) : Keeps s0 (sendSlot p lane c s) := by
  unfold sendSlot
  repeat' first
    | with_reducible assumption
    | with_reducible refine Keeps.ite (fun _ => ?_) (fun _ => ?_)
    | with_reducible refine foldl_keeps _ _ ?_ (fun _ _ h => ?_)
    | with_reducible refine foldl_pair_keeps _ _ _ ?_ (fun _ _ h => ?_)
    | with_reducible refine State.modPort_keeps _ _ _ ?_
    | with_reducible refine putSlot_keeps _ _ _ _ ?_
    | with_reducible refine bumpPort_keeps _ _ _ ?_

theorem sendStomp_keeps {s0 : State} (p : Nat) (lane : Nat) (c : Cell) (s : State) (hs : Keeps s0 s) : Keeps s0 (sendStomp p lane c s) := by
  unfold sendStomp
  repeat' first
    | with_reducible assumption
    | with_reducible refine Keeps.ite (fun _ => ?_) (fun _ => ?_)
    | with_reducible refine foldl_keeps _ _ ?_ (fun _ _ h => ?_)
    | with_reducible refine foldl_pair_keeps _ _ _ ?_ (fun _ _ h => ?_)
    | with_reducible refine putSlot_keeps _ _ _ _ ?_
    | simp only [keeps_set_lanes, keeps_set_ports, keeps_set_blocks, keeps_set_sched, keeps_set_fabric, keeps_set_lasts, keeps_set_host, keeps_set_logs, keeps_set_chip, keeps_set_ctl, keeps_set_time, keeps_set_twin, keeps_set_peals, keeps_set_spine, keeps_set_circ, keeps_set_chans]
    | refine KeepsP.get (by with_reducible assumption) ?_
    | refine KeepsT.get (by with_reducible assumption) ?_
    | simp only [keeps_snd_snd]
    | simp only [keeps_snd]
    | simp only [keepsP_mk]
    | with_reducible refine KeepsP.ite (fun _ => ?_) (fun _ => ?_)
    | split

theorem idleSlot_keeps {s0 : State} (p : Nat) (lane : Nat) (s : State) (hs : Keeps s0 s) : Keeps s0 (idleSlot p lane s) := by
  unfold idleSlot
  repeat' first
    | with_reducible assumption
    | with_reducible refine Keeps.ite (fun _ => ?_) (fun _ => ?_)
    | with_reducible refine foldl_keeps _ _ ?_ (fun _ _ h => ?_)
    | with_reducible refine foldl_pair_keeps _ _ _ ?_ (fun _ _ h => ?_)
    | with_reducible refine bookEmpty_keeps _ _ ?_
    | with_reducible refine putSlot_keeps _ _ _ _ ?_
    | simp only [keeps_set_lanes, keeps_set_ports, keeps_set_blocks, keeps_set_sched, keeps_set_fabric, keeps_set_lasts, keeps_set_host, keeps_set_logs, keeps_set_chip, keeps_set_ctl, keeps_set_time, keeps_set_twin, keeps_set_peals, keeps_set_spine, keeps_set_circ, keeps_set_chans]
    | refine KeepsP.get (by with_reducible assumption) ?_
    | refine KeepsT.get (by with_reducible assumption) ?_
    | simp only [keeps_snd_snd]
    | simp only [keeps_snd]
    | simp only [keepsP_mk]
    | with_reducible refine KeepsP.ite (fun _ => ?_) (fun _ => ?_)
    | split

theorem fillSlot_keeps {s0 : State} (p : Nat) (lane : Nat) (s : State) (hs : Keeps s0 s) : Keeps s0 (fillSlot p lane s) := by
  unfold fillSlot
  repeat' first
    | with_reducible assumption
    | with_reducible refine Keeps.ite (fun _ => ?_) (fun _ => ?_)
    | with_reducible refine foldl_keeps _ _ ?_ (fun _ _ h => ?_)
    | with_reducible refine foldl_pair_keeps _ _ _ ?_ (fun _ _ h => ?_)
    | with_reducible refine State.modPort_keeps _ _ _ ?_
    | with_reducible refine sendStomp_keeps _ _ _ _ ?_
    | with_reducible refine State.modLane_keeps _ _ _ ?_
    | with_reducible refine idleSlot_keeps _ _ _ ?_
    | with_reducible refine returnCredit_keeps _ _ ?_
    | with_reducible refine stampTx_keeps _ _ _ ?_
    | with_reducible refine sendSlot_keeps _ _ _ _ ?_
    | with_reducible refine dropAged_keeps _ _ _ ?_
    | with_reducible refine State.modCirc_keeps _ _ _ ?_
    | with_reducible refine recordServed_keeps _ _ _ _ _ ?_
    | with_reducible refine bumpCirc_keeps _ _ _ _ ?_
    | with_reducible refine takeEntry_keeps _ _ _ ?_
    | simp only [keeps_set_lanes, keeps_set_ports, keeps_set_blocks, keeps_set_sched, keeps_set_fabric, keeps_set_lasts, keeps_set_host, keeps_set_logs, keeps_set_chip, keeps_set_ctl, keeps_set_time, keeps_set_twin, keeps_set_peals, keeps_set_spine, keeps_set_circ, keeps_set_chans]
    | refine KeepsP.get (by with_reducible assumption) ?_
    | refine KeepsT.get (by with_reducible assumption) ?_
    | simp only [keeps_snd_snd]
    | simp only [keeps_snd]
    | simp only [keepsP_mk]
    | with_reducible refine KeepsP.ite (fun _ => ?_) (fun _ => ?_)
    | split

theorem execTransmitSlot_keeps {s0 : State} (port : Nat) (s : State) (hs : Keeps s0 s) : KeepsOut s0 (execTransmitSlot port s) := by
  unfold execTransmitSlot
  repeat' first
    | with_reducible refine KeepsOut.next ?_
    | exact KeepsOut.refused _
    | with_reducible assumption
    | with_reducible refine KeepsOut.ite (fun _ => ?_) (fun _ => ?_)
    | with_reducible refine Keeps.ite (fun _ => ?_) (fun _ => ?_)
    | with_reducible refine foldl_keeps _ _ ?_ (fun _ _ h => ?_)
    | with_reducible refine foldl_pair_keeps _ _ _ ?_ (fun _ _ h => ?_)
    | with_reducible refine putSlot_keeps _ _ _ _ ?_
    | with_reducible refine bookEmpty_keeps _ _ ?_
    | with_reducible refine fillSlot_keeps _ _ _ ?_
    | simp only [keeps_set_lanes, keeps_set_ports, keeps_set_blocks, keeps_set_sched, keeps_set_fabric, keeps_set_lasts, keeps_set_host, keeps_set_logs, keeps_set_chip, keeps_set_ctl, keeps_set_time, keeps_set_twin, keeps_set_peals, keeps_set_spine, keeps_set_circ, keeps_set_chans]
    | refine KeepsP.get (by with_reducible assumption) ?_
    | refine KeepsT.get (by with_reducible assumption) ?_
    | simp only [keeps_snd_snd]
    | simp only [keeps_snd]
    | simp only [keepsP_mk]
    | with_reducible refine KeepsP.ite (fun _ => ?_) (fun _ => ?_)
    | split

theorem sendLinkCell_keeps {s0 : State} (p : ℕ) (c : Cell) (s : State) (hs : Keeps s0 s) : Keeps s0 (sendLinkCell p c s) := by
  unfold sendLinkCell
  repeat' first
    | with_reducible assumption
    | with_reducible refine Keeps.ite (fun _ => ?_) (fun _ => ?_)
    | with_reducible refine foldl_keeps _ _ ?_ (fun _ _ h => ?_)
    | with_reducible refine foldl_pair_keeps _ _ _ ?_ (fun _ _ h => ?_)
    | with_reducible refine State.modPort_keeps _ _ _ ?_

theorem execDiscoverySend_keeps {s0 : State} (port : ℕ) (s : State) (hs : Keeps s0 s) : KeepsOut s0 (execDiscoverySend port s) := by
  unfold execDiscoverySend
  repeat' first
    | with_reducible refine KeepsOut.next ?_
    | exact KeepsOut.refused _
    | with_reducible assumption
    | with_reducible refine KeepsOut.ite (fun _ => ?_) (fun _ => ?_)
    | with_reducible refine Keeps.ite (fun _ => ?_) (fun _ => ?_)
    | with_reducible refine foldl_keeps _ _ ?_ (fun _ _ h => ?_)
    | with_reducible refine foldl_pair_keeps _ _ _ ?_ (fun _ _ h => ?_)
    | with_reducible refine sendLinkCell_keeps _ _ _ ?_

theorem onJudged_keeps {s0 : State} (p : ℕ) (h : Heard) (s : State) (hs : Keeps s0 s) : Keeps s0 (onJudged p h s) := by
  unfold onJudged
  repeat' first
    | with_reducible assumption
    | with_reducible refine Keeps.ite (fun _ => ?_) (fun _ => ?_)
    | with_reducible refine foldl_keeps _ _ ?_ (fun _ _ h => ?_)
    | with_reducible refine foldl_pair_keeps _ _ _ ?_ (fun _ _ h => ?_)
    | with_reducible refine tryUp_keeps _ _ ?_
    | with_reducible refine enter_keeps _ _ _ _ ?_
    | with_reducible refine bumpCirc_keeps _ _ _ _ ?_
    | with_reducible refine failSlot_keeps _ _ _ _ ?_
    | simp only [keeps_set_lanes, keeps_set_ports, keeps_set_blocks, keeps_set_sched, keeps_set_fabric, keeps_set_lasts, keeps_set_host, keeps_set_logs, keeps_set_chip, keeps_set_ctl, keeps_set_time, keeps_set_twin, keeps_set_peals, keeps_set_spine, keeps_set_circ, keeps_set_chans]
    | refine KeepsP.get (by with_reducible assumption) ?_
    | refine KeepsT.get (by with_reducible assumption) ?_
    | simp only [keeps_snd_snd]
    | simp only [keeps_snd]
    | simp only [keepsP_mk]
    | with_reducible refine KeepsP.ite (fun _ => ?_) (fun _ => ?_)
    | split

theorem execDiscoveryReceive_keeps {s0 : State} (port : ℕ) (cell : Cell) (s : State) (hs : Keeps s0 s) : KeepsOut s0 (execDiscoveryReceive port cell s) := by
  unfold execDiscoveryReceive
  repeat' first
    | with_reducible refine KeepsOut.next ?_
    | exact KeepsOut.refused _
    | with_reducible assumption
    | with_reducible refine KeepsOut.ite (fun _ => ?_) (fun _ => ?_)
    | with_reducible refine Keeps.ite (fun _ => ?_) (fun _ => ?_)
    | with_reducible refine foldl_keeps _ _ ?_ (fun _ _ h => ?_)
    | with_reducible refine foldl_pair_keeps _ _ _ ?_ (fun _ _ h => ?_)
    | with_reducible refine countDiscard_keeps _ _ _ ?_
    | with_reducible refine onJudged_keeps _ _ _ ?_
    | with_reducible refine State.modPort_keeps _ _ _ ?_
    | simp only [keeps_set_lanes, keeps_set_ports, keeps_set_blocks, keeps_set_sched, keeps_set_fabric, keeps_set_lasts, keeps_set_host, keeps_set_logs, keeps_set_chip, keeps_set_ctl, keeps_set_time, keeps_set_twin, keeps_set_peals, keeps_set_spine, keeps_set_circ, keeps_set_chans]
    | refine KeepsP.get (by with_reducible assumption) ?_
    | refine KeepsT.get (by with_reducible assumption) ?_
    | simp only [keeps_snd_snd]
    | simp only [keeps_snd]
    | simp only [keepsP_mk]
    | with_reducible refine KeepsP.ite (fun _ => ?_) (fun _ => ?_)
    | split

end Sys2Proof.Machine
end

