-- ==== Sys2Proof/Laws/KeepsSched.lean ====
section
/-! SUPPORT. Laws/KeepsSched.lean: what the operations of Machine/Sched.lean keep. -/
namespace Sys2Proof.Machine

set_option linter.unusedSimpArgs false
set_option linter.unusedTactic false
set_option linter.unreachableTactic false

theorem enterPool_keeps {s0 : State} (n : ℕ) (c : BufCell) (s : State) (hs : Keeps s0 s) : Keeps s0 (enterPool n c s) := by
  unfold enterPool
  repeat' first
    | with_reducible assumption
    | with_reducible refine Keeps.ite (fun _ => ?_) (fun _ => ?_)
    | with_reducible refine foldl_keeps _ _ ?_ (fun _ _ h => ?_)
    | with_reducible refine foldl_pair_keeps _ _ _ ?_ (fun _ _ h => ?_)
    | with_reducible refine State.modBlock_keeps _ _ _ ?_
    | with_reducible refine returnCredit_keeps _ _ ?_

theorem writeCopies_keeps {s0 : State} (n : ℕ) (cs : List (ℕ × BufCell)) (s : State) (hs : Keeps s0 s) : Keeps s0 (writeCopies n cs s) := by
  unfold writeCopies
  repeat' first
    | with_reducible assumption
    | with_reducible refine Keeps.ite (fun _ => ?_) (fun _ => ?_)
    | with_reducible refine forAll_keeps _ _ ?_ (fun _ _ h => ?_)
    | with_reducible refine foldl_keeps _ _ ?_ (fun _ _ h => ?_)
    | with_reducible refine foldl_pair_keeps _ _ _ ?_ (fun _ _ h => ?_)
    | with_reducible refine settleLost_keeps _ ?_
    | with_reducible refine countDiscard_keeps _ _ _ ?_
    | with_reducible refine bump_keeps _ _ _ _ ?_
    | with_reducible refine noteLost_keeps _ _ ?_
    | with_reducible refine writeCopy_keeps _ _ _ _ ?_
    | with_reducible refine State.modBlock_keeps _ _ _ ?_

theorem settleCopies_keeps {s0 : State} (n : Nat) (c : BufCell) (s : State) (hs : Keeps s0 s) : Keeps s0 (settleCopies n c s) := by
  unfold settleCopies
  repeat' first
    | with_reducible assumption
    | with_reducible refine Keeps.ite (fun _ => ?_) (fun _ => ?_)
    | with_reducible refine foldl_keeps _ _ ?_ (fun _ _ h => ?_)
    | with_reducible refine foldl_pair_keeps _ _ _ ?_ (fun _ _ h => ?_)
    | with_reducible refine State.modBlock_keeps _ _ _ ?_
    | with_reducible refine enterPool_keeps _ _ _ ?_
    | with_reducible refine returnCredit_keeps _ _ ?_
    | with_reducible refine countDiscard_keeps _ _ _ ?_
    | simp only [keeps_set_lanes, keeps_set_ports, keeps_set_blocks, keeps_set_sched, keeps_set_fabric, keeps_set_lasts, keeps_set_host, keeps_set_logs, keeps_set_chip, keeps_set_ctl, keeps_set_time, keeps_set_twin, keeps_set_peals, keeps_set_spine, keeps_set_circ, keeps_set_chans]
    | refine KeepsP.get (by with_reducible assumption) ?_
    | refine KeepsT.get (by with_reducible assumption) ?_
    | simp only [keeps_snd_snd]
    | simp only [keeps_snd]
    | simp only [keepsP_mk]
    | with_reducible refine KeepsP.ite (fun _ => ?_) (fun _ => ?_)
    | split

theorem execSharedPoolMove_keeps {s0 : State} (block : Nat) (port : Nat) (vc : Nat) (s : State) (hs : Keeps s0 s) : KeepsOut s0 (execSharedPoolMove block port vc s) := by
  unfold execSharedPoolMove
  repeat' first
    | with_reducible refine KeepsOut.next ?_
    | exact KeepsOut.refused _
    | with_reducible assumption
    | with_reducible refine KeepsOut.ite (fun _ => ?_) (fun _ => ?_)
    | with_reducible refine Keeps.ite (fun _ => ?_) (fun _ => ?_)
    | with_reducible refine foldl_keeps _ _ ?_ (fun _ _ h => ?_)
    | with_reducible refine foldl_pair_keeps _ _ _ ?_ (fun _ _ h => ?_)
    | with_reducible refine enterPool_keeps _ _ _ ?_
    | with_reducible refine State.modBlock_keeps _ _ _ ?_
    | with_reducible refine settleLost_keeps _ ?_
    | with_reducible refine settleCopies_keeps _ _ _ ?_
    | with_reducible refine writeCopies_keeps _ _ _ ?_
    | with_reducible refine returnCredit_keeps _ _ ?_
    | with_reducible refine joinVoq_keeps _ _ _ _ ?_
    | simp only [keeps_set_lanes, keeps_set_ports, keeps_set_blocks, keeps_set_sched, keeps_set_fabric, keeps_set_lasts, keeps_set_host, keeps_set_logs, keeps_set_chip, keeps_set_ctl, keeps_set_time, keeps_set_twin, keeps_set_peals, keeps_set_spine, keeps_set_circ, keeps_set_chans]
    | refine KeepsP.get (by with_reducible assumption) ?_
    | refine KeepsT.get (by with_reducible assumption) ?_
    | simp only [keeps_snd_snd]
    | simp only [keeps_snd]
    | simp only [keepsP_mk]
    | with_reducible refine KeepsP.ite (fun _ => ?_) (fun _ => ?_)
    | split

theorem execReplicationPendingPlace_keeps {s0 : State} (block : Nat) (s : State) (hs : Keeps s0 s) : KeepsOut s0 (execReplicationPendingPlace block s) := by
  unfold execReplicationPendingPlace
  repeat' first
    | with_reducible refine KeepsOut.next ?_
    | exact KeepsOut.refused _
    | with_reducible assumption
    | with_reducible refine KeepsOut.ite (fun _ => ?_) (fun _ => ?_)
    | with_reducible refine Keeps.ite (fun _ => ?_) (fun _ => ?_)
    | with_reducible refine foldl_keeps _ _ ?_ (fun _ _ h => ?_)
    | with_reducible refine foldl_pair_keeps _ _ _ ?_ (fun _ _ h => ?_)
    | with_reducible refine State.modBlock_keeps _ _ _ ?_
    | with_reducible refine settleLost_keeps _ ?_
    | with_reducible refine settleCopies_keeps _ _ _ ?_
    | with_reducible refine writeCopies_keeps _ _ _ ?_
    | with_reducible refine joinVoq_keeps _ _ _ _ ?_
    | with_reducible refine rechooseCell_keeps _ _ _ ?_
    | simp only [keeps_set_lanes, keeps_set_ports, keeps_set_blocks, keeps_set_sched, keeps_set_fabric, keeps_set_lasts, keeps_set_host, keeps_set_logs, keeps_set_chip, keeps_set_ctl, keeps_set_time, keeps_set_twin, keeps_set_peals, keeps_set_spine, keeps_set_circ, keeps_set_chans]
    | refine KeepsP.get (by with_reducible assumption) ?_
    | refine KeepsT.get (by with_reducible assumption) ?_
    | simp only [keeps_snd_snd]
    | simp only [keeps_snd]
    | simp only [keepsP_mk]
    | with_reducible refine KeepsP.ite (fun _ => ?_) (fun _ => ?_)
    | split

theorem stashTake_keeps {s0 : State} (s : State) (p : ℕ) (g : ℕ) (c : BufCell) (hs : Keeps s0 s) : ∀ t, (stashTake s p g c) = some t → Keeps s0 t := by
  intro t
  have hb : ∀ q : StashQ, Keeps s0 (bumpCirc p 6 1 (s.modCirc p fun x => { x with queues := x.queues.put g q })) :=
    fun _ => bumpCirc_keeps _ _ _ _ (State.modCirc_keeps _ _ _ hs)
  unfold stashTake
  dsimp only
  split
  · intro e
    cases e
    exact Keeps.ite (fun _ => recordServed_keeps _ _ _ _ _ (hb _)) fun _ => hb _
  · split
    · intro e
      cases e
      exact Keeps.ite (fun _ => recordServed_keeps _ _ _ _ _ (hb _)) fun _ => hb _
    · intro e
      cases e

theorem stashCell_keeps {s0 : State} (p : Nat) (g : Nat) (c : BufCell) (s : State) (hs : Keeps s0 s) : Keeps s0 (stashCell p g c s) := by
  unfold stashCell
  repeat' first
    | with_reducible assumption
    | with_reducible refine Keeps.ite (fun _ => ?_) (fun _ => ?_)
    | with_reducible refine foldl_keeps _ _ ?_ (fun _ _ h => ?_)
    | with_reducible refine foldl_pair_keeps _ _ _ ?_ (fun _ _ h => ?_)
    | with_reducible refine State.modCirc_keeps _ _ _ ?_
    | refine stashTake_keeps _ _ _ _ ?_ _ (by with_reducible assumption)
    | simp only [keeps_set_lanes, keeps_set_ports, keeps_set_blocks, keeps_set_sched, keeps_set_fabric, keeps_set_lasts, keeps_set_host, keeps_set_logs, keeps_set_chip, keeps_set_ctl, keeps_set_time, keeps_set_twin, keeps_set_peals, keeps_set_spine, keeps_set_circ, keeps_set_chans]
    | refine KeepsP.get (by with_reducible assumption) ?_
    | refine KeepsT.get (by with_reducible assumption) ?_
    | simp only [keeps_snd_snd]
    | simp only [keeps_snd]
    | simp only [keepsP_mk]
    | with_reducible refine KeepsP.ite (fun _ => ?_) (fun _ => ?_)
    | split

theorem selectVoq_keeps {s0 : State} (i : ℕ) (j : ℕ) (s : State) (hs : Keeps s0 s) : KeepsP s0 (selectVoq i j s) := by
  unfold selectVoq
  repeat' first
    | with_reducible assumption
    | with_reducible refine KeepsP.ite (fun _ => ?_) (fun _ => ?_)
    | simp only [keepsP_mk]
    | with_reducible refine Keeps.ite (fun _ => ?_) (fun _ => ?_)
    | with_reducible refine foldl_keeps _ _ ?_ (fun _ _ h => ?_)
    | with_reducible refine foldl_pair_keeps _ _ _ ?_ (fun _ _ h => ?_)
    | with_reducible refine State.modBlock_keeps _ _ _ ?_
    | simp only [keeps_set_lanes, keeps_set_ports, keeps_set_blocks, keeps_set_sched, keeps_set_fabric, keeps_set_lasts, keeps_set_host, keeps_set_logs, keeps_set_chip, keeps_set_ctl, keeps_set_time, keeps_set_twin, keeps_set_peals, keeps_set_spine, keeps_set_circ, keeps_set_chans]
    | refine KeepsP.get (by with_reducible assumption) ?_
    | refine KeepsT.get (by with_reducible assumption) ?_
    | simp only [keeps_snd_snd]
    | simp only [keeps_snd]
    | simp only [keepsP_mk]
    | with_reducible refine KeepsP.ite (fun _ => ?_) (fun _ => ?_)
    | split

theorem State.modSched_keeps {s0 : State} (s : State) (f : Sched → Sched) (hs : Keeps s0 s) : Keeps s0 (State.modSched s f) := by
  unfold State.modSched
  repeat' first
    | with_reducible assumption
    | with_reducible refine Keeps.ite (fun _ => ?_) (fun _ => ?_)
    | with_reducible refine foldl_keeps _ _ ?_ (fun _ _ h => ?_)
    | with_reducible refine foldl_pair_keeps _ _ _ ?_ (fun _ _ h => ?_)
    | simp only [keeps_set_lanes, keeps_set_ports, keeps_set_blocks, keeps_set_sched, keeps_set_fabric, keeps_set_lasts, keeps_set_host, keeps_set_logs, keeps_set_chip, keeps_set_ctl, keeps_set_time, keeps_set_twin, keeps_set_peals, keeps_set_spine, keeps_set_circ, keeps_set_chans]

theorem makeClaim_keeps {s0 : State} (engine : ℕ) (i : ℕ) (j : ℕ) (p : ℕ) (vc : ℕ) (known : Bool) (s : State) (hs : Keeps s0 s) : KeepsP s0 (makeClaim engine i j p vc known s) := by
  unfold makeClaim
  repeat' first
    | with_reducible assumption
    | with_reducible refine KeepsP.ite (fun _ => ?_) (fun _ => ?_)
    | simp only [keepsP_mk]
    | with_reducible refine Keeps.ite (fun _ => ?_) (fun _ => ?_)
    | with_reducible refine foldl_keeps _ _ ?_ (fun _ _ h => ?_)
    | with_reducible refine foldl_pair_keeps _ _ _ ?_ (fun _ _ h => ?_)
    | with_reducible refine State.modBlock_keeps _ _ _ ?_
    | with_reducible refine State.modSched_keeps _ _ ?_

theorem endMatch_keeps {s0 : State} (id : Nat) (s : State) (hs : Keeps s0 s) : Keeps s0 (endMatch id s) := by
  unfold endMatch
  repeat' first
    | with_reducible assumption
    | with_reducible refine Keeps.ite (fun _ => ?_) (fun _ => ?_)
    | with_reducible refine foldl_keeps _ _ ?_ (fun _ _ h => ?_)
    | with_reducible refine foldl_pair_keeps _ _ _ ?_ (fun _ _ h => ?_)
    | with_reducible refine State.modSched_keeps _ _ ?_
    | simp only [keeps_set_lanes, keeps_set_ports, keeps_set_blocks, keeps_set_sched, keeps_set_fabric, keeps_set_lasts, keeps_set_host, keeps_set_logs, keeps_set_chip, keeps_set_ctl, keeps_set_time, keeps_set_twin, keeps_set_peals, keeps_set_spine, keeps_set_circ, keeps_set_chans]
    | refine KeepsP.get (by with_reducible assumption) ?_
    | refine KeepsT.get (by with_reducible assumption) ?_
    | simp only [keeps_snd_snd]
    | simp only [keeps_snd]
    | simp only [keepsP_mk]
    | with_reducible refine KeepsP.ite (fun _ => ?_) (fun _ => ?_)
    | split

theorem keepResult_keeps {s0 : State} (c : Cell) (s : State) (hs : Keeps s0 s) : Keeps s0 (keepResult c s) := by
  unfold keepResult
  repeat' first
    | with_reducible assumption
    | with_reducible refine Keeps.ite (fun _ => ?_) (fun _ => ?_)
    | with_reducible refine foldl_keeps _ _ ?_ (fun _ _ h => ?_)
    | with_reducible refine foldl_pair_keeps _ _ _ ?_ (fun _ _ h => ?_)
    | with_reducible refine bump_keeps _ _ _ _ ?_
    | with_reducible refine State.modPeal_keeps _ _ _ ?_
    | simp only [keeps_set_lanes, keeps_set_ports, keeps_set_blocks, keeps_set_sched, keeps_set_fabric, keeps_set_lasts, keeps_set_host, keeps_set_logs, keeps_set_chip, keeps_set_ctl, keeps_set_time, keeps_set_twin, keeps_set_peals, keeps_set_spine, keeps_set_circ, keeps_set_chans]
    | refine KeepsP.get (by with_reducible assumption) ?_
    | refine KeepsT.get (by with_reducible assumption) ?_
    | simp only [keeps_snd_snd]
    | simp only [keeps_snd]
    | simp only [keepsP_mk]
    | with_reducible refine KeepsP.ite (fun _ => ?_) (fun _ => ?_)
    | split

theorem enterOutput_keeps {s0 : State} (p : Nat) (c : BufCell) (s : State) (hs : Keeps s0 s) : Keeps s0 (enterOutput p c s) := by
  unfold enterOutput
  repeat' first
    | with_reducible assumption
    | with_reducible refine Keeps.ite (fun _ => ?_) (fun _ => ?_)
    | with_reducible refine foldl_keeps _ _ ?_ (fun _ _ h => ?_)
    | with_reducible refine foldl_pair_keeps _ _ _ ?_ (fun _ _ h => ?_)
    | with_reducible refine keepResult_keeps _ _ ?_
    | with_reducible refine State.modBlock_keeps _ _ _ ?_
    | with_reducible refine freshId_keeps _ ?_
    | with_reducible refine stashCell_keeps _ _ _ _ ?_
    | with_reducible refine bumpPort_keeps _ _ _ ?_
    | with_reducible refine noteLost_keeps _ _ ?_
    | with_reducible refine State.modPort_keeps _ _ _ ?_
    | simp only [keeps_set_lanes, keeps_set_ports, keeps_set_blocks, keeps_set_sched, keeps_set_fabric, keeps_set_lasts, keeps_set_host, keeps_set_logs, keeps_set_chip, keeps_set_ctl, keeps_set_time, keeps_set_twin, keeps_set_peals, keeps_set_spine, keeps_set_circ, keeps_set_chans]
    | refine KeepsP.get (by with_reducible assumption) ?_
    | refine KeepsT.get (by with_reducible assumption) ?_
    | simp only [keeps_snd_snd]
    | simp only [keeps_snd]
    | simp only [keepsP_mk]
    | with_reducible refine KeepsP.ite (fun _ => ?_) (fun _ => ?_)
    | split

theorem enterTrains_keeps {s0 : State} (outB : ℕ) (inB : ℕ) (p : ℕ) (vc : ℕ) (a : ℕ) (a1 : State) (ha1 : Keeps s0 a1) : Keeps s0 (enterTrains outB inB p vc a a1) := by
  induction a generalizing a1 with
  | zero => unfold enterTrains; with_reducible assumption
  | succ k ih =>
    unfold enterTrains
    repeat' first
      | with_reducible assumption
      | with_reducible refine Keeps.ite (fun _ => ?_) (fun _ => ?_)
      | with_reducible refine foldl_keeps _ _ ?_ (fun _ _ h => ?_)
      | with_reducible refine foldl_pair_keeps _ _ _ ?_ (fun _ _ h => ?_)
      | simp only [keeps_set_lanes, keeps_set_ports, keeps_set_blocks, keeps_set_sched, keeps_set_fabric, keeps_set_lasts, keeps_set_host, keeps_set_logs, keeps_set_chip, keeps_set_ctl, keeps_set_time, keeps_set_twin, keeps_set_peals, keeps_set_spine, keeps_set_circ, keeps_set_chans]
      | with_reducible refine ih _ ?_
      | with_reducible refine enterOutput_keeps _ _ _ ?_
      | with_reducible refine State.modSched_keeps _ _ ?_
      | with_reducible refine State.modBlock_keeps _ _ _ ?_
      | with_reducible refine forAll_keeps _ _ ?_ (fun _ _ h => ?_)
      | refine KeepsP.get (by with_reducible assumption) ?_
      | refine KeepsT.get (by with_reducible assumption) ?_
      | simp only [keeps_snd_snd]
      | simp only [keeps_snd]
      | simp only [keepsP_mk]
      | with_reducible refine KeepsP.ite (fun _ => ?_) (fun _ => ?_)
      | dsimp -iota -proj only
      | split

theorem trainHere_keeps {s0 : State} (outB : ℕ) (inB : ℕ) (p : ℕ) (vc : ℕ) (number : ℕ) (s : State) (hs : Keeps s0 s) : Keeps s0 (trainHere outB inB p vc number s) := by
  unfold trainHere
  repeat' first
    | with_reducible assumption
    | with_reducible refine Keeps.ite (fun _ => ?_) (fun _ => ?_)
    | with_reducible refine foldl_keeps _ _ ?_ (fun _ _ h => ?_)
    | with_reducible refine foldl_pair_keeps _ _ _ ?_ (fun _ _ h => ?_)
    | with_reducible refine State.modSched_keeps _ _ ?_
    | with_reducible refine settleLost_keeps _ ?_
    | with_reducible refine enterTrains_keeps _ _ _ _ _ _ ?_

theorem emptyTrain_keeps {s0 : State} (c : Claim) (s : State) (hs : Keeps s0 s) : Keeps s0 (emptyTrain c s) := by
  unfold emptyTrain
  repeat' first
    | with_reducible assumption
    | with_reducible refine Keeps.ite (fun _ => ?_) (fun _ => ?_)
    | with_reducible refine foldl_keeps _ _ ?_ (fun _ _ h => ?_)
    | with_reducible refine foldl_pair_keeps _ _ _ ?_ (fun _ _ h => ?_)
    | with_reducible refine endMatch_keeps _ _ ?_
    | with_reducible refine State.modSched_keeps _ _ ?_
    | with_reducible refine trainHere_keeps _ _ _ _ _ _ ?_
    | with_reducible refine bump_keeps _ _ _ _ ?_
    | simp only [keeps_set_lanes, keeps_set_ports, keeps_set_blocks, keeps_set_sched, keeps_set_fabric, keeps_set_lasts, keeps_set_host, keeps_set_logs, keeps_set_chip, keeps_set_ctl, keeps_set_time, keeps_set_twin, keeps_set_peals, keeps_set_spine, keeps_set_circ, keeps_set_chans]
    | refine KeepsP.get (by with_reducible assumption) ?_
    | refine KeepsT.get (by with_reducible assumption) ?_
    | simp only [keeps_snd_snd]
    | simp only [keeps_snd]
    | simp only [keepsP_mk]
    | with_reducible refine KeepsP.ite (fun _ => ?_) (fun _ => ?_)
    | split

theorem answerClaim_keeps {s0 : State} (c : Claim) (s : State) (hs : Keeps s0 s) : Keeps s0 (answerClaim c s) := by
  unfold answerClaim
  repeat' first
    | with_reducible assumption
    | with_reducible refine Keeps.ite (fun _ => ?_) (fun _ => ?_)
    | with_reducible refine foldl_keeps _ _ ?_ (fun _ _ h => ?_)
    | with_reducible refine foldl_pair_keeps _ _ _ ?_ (fun _ _ h => ?_)
    | with_reducible refine addDebt_keeps _ _ _ ?_
    | with_reducible refine emptyTrain_keeps _ _ ?_
    | with_reducible refine State.modSched_keeps _ _ ?_
    | with_reducible refine State.modPort_keeps _ _ _ ?_

theorem releaseReserve_keeps {s0 : State} (c : Claim) (n : ℕ) (s : State) (hs : Keeps s0 s) : Keeps s0 (releaseReserve c n s) := by
  unfold releaseReserve
  repeat' first
    | with_reducible assumption
    | with_reducible refine Keeps.ite (fun _ => ?_) (fun _ => ?_)
    | with_reducible refine foldl_keeps _ _ ?_ (fun _ _ h => ?_)
    | with_reducible refine foldl_pair_keeps _ _ _ ?_ (fun _ _ h => ?_)
    | with_reducible refine State.modPort_keeps _ _ _ ?_

theorem trainCell_keeps {s0 : State} (inB : Nat) (p : Nat) (c : BufCell) (s : State) (hs : Keeps s0 s) : KeepsP s0 (trainCell inB p c s) := by
  unfold trainCell
  repeat' first
    | with_reducible assumption
    | with_reducible refine KeepsP.ite (fun _ => ?_) (fun _ => ?_)
    | simp only [keepsP_mk]
    | with_reducible refine Keeps.ite (fun _ => ?_) (fun _ => ?_)
    | with_reducible refine foldl_keeps _ _ ?_ (fun _ _ h => ?_)
    | with_reducible refine foldl_pair_keeps _ _ _ ?_ (fun _ _ h => ?_)
    | with_reducible refine newEnt_keeps _ _ ?_
    | simp only [keeps_set_lanes, keeps_set_ports, keeps_set_blocks, keeps_set_sched, keeps_set_fabric, keeps_set_lasts, keeps_set_host, keeps_set_logs, keeps_set_chip, keeps_set_ctl, keeps_set_time, keeps_set_twin, keeps_set_peals, keeps_set_spine, keeps_set_circ, keeps_set_chans]
    | refine KeepsP.get (by with_reducible assumption) ?_
    | refine KeepsT.get (by with_reducible assumption) ?_
    | simp only [keeps_snd_snd]
    | simp only [keeps_snd]
    | simp only [keepsP_mk]
    | with_reducible refine KeepsP.ite (fun _ => ?_) (fun _ => ?_)
    | split

theorem bindTrain_keeps {s0 : State} (c : Claim) (g : Nat) (s : State) (hs : Keeps s0 s) : Keeps s0 (bindTrain c g s) := by
  unfold bindTrain
  repeat' first
    | with_reducible assumption
    | with_reducible refine Keeps.ite (fun _ => ?_) (fun _ => ?_)
    | with_reducible refine forAll_keeps _ _ ?_ (fun _ _ h => ?_)
    | with_reducible refine foldl_keeps _ _ ?_ (fun _ _ h => ?_)
    | with_reducible refine foldl_pair_keeps _ _ _ ?_ (fun _ _ h => ?_)
    | with_reducible refine State.modBlock_keeps _ _ _ ?_
    | with_reducible refine forAll_keeps _ _ _ ?_ (fun _ _ h => ?_)
    | with_reducible refine leaveBlock_keeps _ _ _ ?_
    | with_reducible refine State.modSched_keeps _ _ ?_
    | with_reducible refine emptyTrain_keeps _ _ ?_
    | with_reducible refine trainCell_keeps _ _ _ _ ?_
    | with_reducible refine bump_keeps _ _ _ _ ?_
    | simp only [keeps_set_lanes, keeps_set_ports, keeps_set_blocks, keeps_set_sched, keeps_set_fabric, keeps_set_lasts, keeps_set_host, keeps_set_logs, keeps_set_chip, keeps_set_ctl, keeps_set_time, keeps_set_twin, keeps_set_peals, keeps_set_spine, keeps_set_circ, keeps_set_chans]
    | refine KeepsP.get (by with_reducible assumption) ?_
    | refine KeepsT.get (by with_reducible assumption) ?_
    | simp only [keeps_snd_snd]
    | simp only [keeps_snd]
    | simp only [keepsP_mk]
    | with_reducible refine KeepsP.ite (fun _ => ?_) (fun _ => ?_)
    | split

theorem dropClaim_keeps {s0 : State} (c : Claim) (s : State) (hs : Keeps s0 s) : Keeps s0 (dropClaim c s) := by
  unfold dropClaim
  repeat' first
    | with_reducible assumption
    | with_reducible refine Keeps.ite (fun _ => ?_) (fun _ => ?_)
    | with_reducible refine foldl_keeps _ _ ?_ (fun _ _ h => ?_)
    | with_reducible refine foldl_pair_keeps _ _ _ ?_ (fun _ _ h => ?_)
    | with_reducible refine releaseReserve_keeps _ _ _ ?_
    | with_reducible refine State.modSched_keeps _ _ ?_
    | with_reducible refine emptyTrain_keeps _ _ ?_
    | simp only [keeps_set_lanes, keeps_set_ports, keeps_set_blocks, keeps_set_sched, keeps_set_fabric, keeps_set_lasts, keeps_set_host, keeps_set_logs, keeps_set_chip, keeps_set_ctl, keeps_set_time, keeps_set_twin, keeps_set_peals, keeps_set_spine, keeps_set_circ, keeps_set_chans]
    | refine KeepsP.get (by with_reducible assumption) ?_
    | refine KeepsT.get (by with_reducible assumption) ?_
    | simp only [keeps_snd_snd]
    | simp only [keeps_snd]
    | simp only [keepsP_mk]
    | with_reducible refine KeepsP.ite (fun _ => ?_) (fun _ => ?_)
    | split

theorem dropClaims_keeps {s0 : State} (s : State) (hs : Keeps s0 s) : Keeps s0 (dropClaims s) := by
  unfold dropClaims
  repeat' first
    | with_reducible assumption
    | with_reducible refine Keeps.ite (fun _ => ?_) (fun _ => ?_)
    | with_reducible refine forAll_keeps _ _ ?_ (fun _ _ h => ?_)
    | with_reducible refine foldl_keeps _ _ ?_ (fun _ _ h => ?_)
    | with_reducible refine foldl_pair_keeps _ _ _ ?_ (fun _ _ h => ?_)
    | with_reducible refine forAll_keeps _ _ _ ?_ (fun _ _ h => ?_)
    | with_reducible refine dropClaim_keeps _ _ ?_
    | simp only [keeps_set_lanes, keeps_set_ports, keeps_set_blocks, keeps_set_sched, keeps_set_fabric, keeps_set_lasts, keeps_set_host, keeps_set_logs, keeps_set_chip, keeps_set_ctl, keeps_set_time, keeps_set_twin, keeps_set_peals, keeps_set_spine, keeps_set_circ, keeps_set_chans]
    | refine KeepsP.get (by with_reducible assumption) ?_
    | refine KeepsT.get (by with_reducible assumption) ?_
    | simp only [keeps_snd_snd]
    | simp only [keeps_snd]
    | simp only [keepsP_mk]
    | with_reducible refine KeepsP.ite (fun _ => ?_) (fun _ => ?_)
    | split

theorem refuseSlots_keeps {s0 : State} (port : Nat) (len : Nat) (s : State) (hs : Keeps s0 s) : Keeps s0 (refuseSlots port len s) := by
  unfold refuseSlots
  repeat' first
    | with_reducible assumption
    | with_reducible refine Keeps.ite (fun _ => ?_) (fun _ => ?_)
    | with_reducible refine foldl_keeps _ _ ?_ (fun _ _ h => ?_)
    | with_reducible refine foldl_pair_keeps _ _ _ ?_ (fun _ _ h => ?_)
    | with_reducible refine addDebt_keeps _ _ _ ?_
    | simp only [keeps_set_lanes, keeps_set_ports, keeps_set_blocks, keeps_set_sched, keeps_set_fabric, keeps_set_lasts, keeps_set_host, keeps_set_logs, keeps_set_chip, keeps_set_ctl, keeps_set_time, keeps_set_twin, keeps_set_peals, keeps_set_spine, keeps_set_circ, keeps_set_chans]
    | refine KeepsP.get (by with_reducible assumption) ?_
    | refine KeepsT.get (by with_reducible assumption) ?_
    | simp only [keeps_snd_snd]
    | simp only [keeps_snd]
    | simp only [keepsP_mk]
    | with_reducible refine KeepsP.ite (fun _ => ?_) (fun _ => ?_)
    | split

theorem execClaim_keeps {s0 : State} (block : Nat) (port : Nat) (vc : Nat) (len : Nat) (engine : Nat) (inBlock : Nat) (s : State) (hs : Keeps s0 s) : KeepsOut s0 (execClaim block port vc len engine inBlock s) := by
  unfold execClaim
  repeat' first
    | with_reducible refine KeepsOut.next ?_
    | exact KeepsOut.refused _
    | with_reducible assumption
    | with_reducible refine KeepsOut.ite (fun _ => ?_) (fun _ => ?_)
    | with_reducible refine Keeps.ite (fun _ => ?_) (fun _ => ?_)
    | with_reducible refine foldl_keeps _ _ ?_ (fun _ _ h => ?_)
    | with_reducible refine foldl_pair_keeps _ _ _ ?_ (fun _ _ h => ?_)
    | with_reducible refine answerClaim_keeps _ _ ?_
    | with_reducible refine emptyTrain_keeps _ _ ?_
    | with_reducible refine refuseSlots_keeps _ _ _ ?_
    | with_reducible refine bump_keeps _ _ _ _ ?_
    | with_reducible refine State.modSched_keeps _ _ ?_
    | simp only [keeps_set_lanes, keeps_set_ports, keeps_set_blocks, keeps_set_sched, keeps_set_fabric, keeps_set_lasts, keeps_set_host, keeps_set_logs, keeps_set_chip, keeps_set_ctl, keeps_set_time, keeps_set_twin, keeps_set_peals, keeps_set_spine, keeps_set_circ, keeps_set_chans]
    | refine KeepsP.get (by with_reducible assumption) ?_
    | refine KeepsT.get (by with_reducible assumption) ?_
    | simp only [keeps_snd_snd]
    | simp only [keeps_snd]
    | simp only [keepsP_mk]
    | with_reducible refine KeepsP.ite (fun _ => ?_) (fun _ => ?_)
    | split

theorem execClaimReply_keeps {s0 : State} (inBlock : ℕ) (claim : ℕ) (s : State) (hs : Keeps s0 s) : KeepsOut s0 (execClaimReply inBlock claim s) := by
  unfold execClaimReply
  repeat' first
    | with_reducible refine KeepsOut.next ?_
    | exact KeepsOut.refused _
    | with_reducible assumption
    | with_reducible refine KeepsOut.ite (fun _ => ?_) (fun _ => ?_)
    | with_reducible refine Keeps.ite (fun _ => ?_) (fun _ => ?_)
    | with_reducible refine foldl_keeps _ _ ?_ (fun _ _ h => ?_)
    | with_reducible refine foldl_pair_keeps _ _ _ ?_ (fun _ _ h => ?_)
    | with_reducible refine bindTrain_keeps _ _ _ ?_
    | simp only [keeps_set_lanes, keeps_set_ports, keeps_set_blocks, keeps_set_sched, keeps_set_fabric, keeps_set_lasts, keeps_set_host, keeps_set_logs, keeps_set_chip, keeps_set_ctl, keeps_set_time, keeps_set_twin, keeps_set_peals, keeps_set_spine, keeps_set_circ, keeps_set_chans]
    | refine KeepsP.get (by with_reducible assumption) ?_
    | refine KeepsT.get (by with_reducible assumption) ?_
    | simp only [keeps_snd_snd]
    | simp only [keeps_snd]
    | simp only [keepsP_mk]
    | with_reducible refine KeepsP.ite (fun _ => ?_) (fun _ => ?_)
    | split

theorem execClaimNoReply_keeps {s0 : State} (inBlock : ℕ) (claim : ℕ) (s : State) (hs : Keeps s0 s) : KeepsOut s0 (execClaimNoReply inBlock claim s) := by
  unfold execClaimNoReply
  repeat' first
    | with_reducible refine KeepsOut.next ?_
    | exact KeepsOut.refused _
    | with_reducible assumption
    | with_reducible refine KeepsOut.ite (fun _ => ?_) (fun _ => ?_)
    | with_reducible refine Keeps.ite (fun _ => ?_) (fun _ => ?_)
    | with_reducible refine foldl_keeps _ _ ?_ (fun _ _ h => ?_)
    | with_reducible refine foldl_pair_keeps _ _ _ ?_ (fun _ _ h => ?_)
    | with_reducible refine State.modSched_keeps _ _ ?_
    | with_reducible refine emptyTrain_keeps _ _ ?_
    | with_reducible refine bump_keeps _ _ _ _ ?_
    | simp only [keeps_set_lanes, keeps_set_ports, keeps_set_blocks, keeps_set_sched, keeps_set_fabric, keeps_set_lasts, keeps_set_host, keeps_set_logs, keeps_set_chip, keeps_set_ctl, keeps_set_time, keeps_set_twin, keeps_set_peals, keeps_set_spine, keeps_set_circ, keeps_set_chans]
    | refine KeepsP.get (by with_reducible assumption) ?_
    | refine KeepsT.get (by with_reducible assumption) ?_
    | simp only [keeps_snd_snd]
    | simp only [keeps_snd]
    | simp only [keepsP_mk]
    | with_reducible refine KeepsP.ite (fun _ => ?_) (fun _ => ?_)
    | split

theorem execReservationExpiry_keeps {s0 : State} (block : ℕ) (claim : ℕ) (s : State) (hs : Keeps s0 s) : KeepsOut s0 (execReservationExpiry block claim s) := by
  unfold execReservationExpiry
  repeat' first
    | with_reducible refine KeepsOut.next ?_
    | exact KeepsOut.refused _
    | with_reducible assumption
    | with_reducible refine KeepsOut.ite (fun _ => ?_) (fun _ => ?_)
    | with_reducible refine Keeps.ite (fun _ => ?_) (fun _ => ?_)
    | with_reducible refine foldl_keeps _ _ ?_ (fun _ _ h => ?_)
    | with_reducible refine foldl_pair_keeps _ _ _ ?_ (fun _ _ h => ?_)
    | with_reducible refine releaseReserve_keeps _ _ _ ?_
    | with_reducible refine bump_keeps _ _ _ _ ?_
    | with_reducible refine State.modSched_keeps _ _ ?_
    | with_reducible refine emptyTrain_keeps _ _ ?_
    | simp only [keeps_set_lanes, keeps_set_ports, keeps_set_blocks, keeps_set_sched, keeps_set_fabric, keeps_set_lasts, keeps_set_host, keeps_set_logs, keeps_set_chip, keeps_set_ctl, keeps_set_time, keeps_set_twin, keeps_set_peals, keeps_set_spine, keeps_set_circ, keeps_set_chans]
    | refine KeepsP.get (by with_reducible assumption) ?_
    | refine KeepsT.get (by with_reducible assumption) ?_
    | simp only [keeps_snd_snd]
    | simp only [keeps_snd]
    | simp only [keepsP_mk]
    | with_reducible refine KeepsP.ite (fun _ => ?_) (fun _ => ?_)
    | split

theorem State.modSeam_keeps {s0 : State} (s : State) (m : ℕ) (dir : ℕ) (f : SeamDir → SeamDir) (hs : Keeps s0 s) : Keeps s0 (State.modSeam s m dir f) := by
  unfold State.modSeam
  repeat' first
    | with_reducible assumption
    | with_reducible refine Keeps.ite (fun _ => ?_) (fun _ => ?_)
    | with_reducible refine foldl_keeps _ _ ?_ (fun _ _ h => ?_)
    | with_reducible refine foldl_pair_keeps _ _ _ ?_ (fun _ _ h => ?_)
    | with_reducible refine State.modChip_keeps _ _ ?_

theorem seamPassed_keeps {s0 : State} (m : Nat) (dir : Nat) (s : State) (hs : Keeps s0 s) : Keeps s0 (seamPassed m dir s) := by
  unfold seamPassed
  repeat' first
    | with_reducible assumption
    | with_reducible refine Keeps.ite (fun _ => ?_) (fun _ => ?_)
    | with_reducible refine foldl_keeps _ _ ?_ (fun _ _ h => ?_)
    | with_reducible refine foldl_pair_keeps _ _ _ ?_ (fun _ _ h => ?_)
    | with_reducible refine State.modSeam_keeps _ _ _ _ ?_
    | simp only [keeps_set_lanes, keeps_set_ports, keeps_set_blocks, keeps_set_sched, keeps_set_fabric, keeps_set_lasts, keeps_set_host, keeps_set_logs, keeps_set_chip, keeps_set_ctl, keeps_set_time, keeps_set_twin, keeps_set_peals, keeps_set_spine, keeps_set_circ, keeps_set_chans]
    | refine KeepsP.get (by with_reducible assumption) ?_
    | refine KeepsT.get (by with_reducible assumption) ?_
    | simp only [keeps_snd_snd]
    | simp only [keeps_snd]
    | simp only [keepsP_mk]
    | with_reducible refine KeepsP.ite (fun _ => ?_) (fun _ => ?_)
    | split

theorem execTrainArrival_keeps {s0 : State} (block : Nat) (inBlock : Nat) (port : Nat) (vc : Nat) (number : Nat) (s : State) (hs : Keeps s0 s) : KeepsOut s0 (execTrainArrival block inBlock port vc number s) := by
  unfold execTrainArrival
  repeat' first
    | with_reducible refine KeepsOut.next ?_
    | exact KeepsOut.refused _
    | with_reducible assumption
    | with_reducible refine KeepsOut.ite (fun _ => ?_) (fun _ => ?_)
    | with_reducible refine Keeps.ite (fun _ => ?_) (fun _ => ?_)
    | with_reducible refine foldl_keeps _ _ ?_ (fun _ _ h => ?_)
    | with_reducible refine foldl_pair_keeps _ _ _ ?_ (fun _ _ h => ?_)
    | with_reducible refine seamPassed_keeps _ _ _ ?_
    | with_reducible refine trainHere_keeps _ _ _ _ _ _ ?_
    | with_reducible refine endMatch_keeps _ _ ?_
    | simp only [keeps_set_lanes, keeps_set_ports, keeps_set_blocks, keeps_set_sched, keeps_set_fabric, keeps_set_lasts, keeps_set_host, keeps_set_logs, keeps_set_chip, keeps_set_ctl, keeps_set_time, keeps_set_twin, keeps_set_peals, keeps_set_spine, keeps_set_circ, keeps_set_chans]
    | refine KeepsP.get (by with_reducible assumption) ?_
    | refine KeepsT.get (by with_reducible assumption) ?_
    | simp only [keeps_snd_snd]
    | simp only [keeps_snd]
    | simp only [keepsP_mk]
    | with_reducible refine KeepsP.ite (fun _ => ?_) (fun _ => ?_)
    | split

theorem execLocalArbitration_keeps {s0 : State} (block : ℕ) (s : State) (hs : Keeps s0 s) : KeepsOut s0 (execLocalArbitration block s) := by
  unfold execLocalArbitration
  repeat' first
    | with_reducible refine KeepsOut.next ?_
    | exact KeepsOut.refused _
    | with_reducible assumption
    | with_reducible refine KeepsOut.ite (fun _ => ?_) (fun _ => ?_)
    | with_reducible refine Keeps.ite (fun _ => ?_) (fun _ => ?_)
    | with_reducible refine foldl_keeps _ _ ?_ (fun _ _ h => ?_)
    | with_reducible refine foldl_pair_keeps _ _ _ ?_ (fun _ _ h => ?_)
    | with_reducible refine selectVoq_keeps _ _ _ ?_
    | with_reducible refine makeClaim_keeps _ _ _ _ _ _ _ ?_
    | with_reducible refine answerClaim_keeps _ _ ?_
    | with_reducible refine trainHere_keeps _ _ _ _ _ _ ?_
    | with_reducible refine bindTrain_keeps _ _ _ ?_
    | simp only [keeps_set_lanes, keeps_set_ports, keeps_set_blocks, keeps_set_sched, keeps_set_fabric, keeps_set_lasts, keeps_set_host, keeps_set_logs, keeps_set_chip, keeps_set_ctl, keeps_set_time, keeps_set_twin, keeps_set_peals, keeps_set_spine, keeps_set_circ, keeps_set_chans]
    | refine KeepsP.get (by with_reducible assumption) ?_
    | refine KeepsT.get (by with_reducible assumption) ?_
    | simp only [keeps_snd_snd]
    | simp only [keeps_snd]
    | simp only [keepsP_mk]
    | with_reducible refine KeepsP.ite (fun _ => ?_) (fun _ => ?_)
    | split

theorem execSchedulerWave_keeps {s0 : State} (engine : ℕ) (lost : SideLoss) (s : State) (hs : Keeps s0 s) : KeepsOut s0 (execSchedulerWave engine lost s) := by
  unfold execSchedulerWave
  repeat' first
    | with_reducible refine KeepsOut.next ?_
    | exact KeepsOut.refused _
    | with_reducible assumption
    | with_reducible refine KeepsOut.ite (fun _ => ?_) (fun _ => ?_)
    | with_reducible refine Keeps.ite (fun _ => ?_) (fun _ => ?_)
    | with_reducible refine forAll_keeps _ _ ?_ (fun _ _ h => ?_)
    | with_reducible refine foldl_keeps _ _ ?_ (fun _ _ h => ?_)
    | with_reducible refine foldl_pair_keeps _ _ _ ?_ (fun _ _ h => ?_)
    | with_reducible refine bump_keeps _ _ _ _ ?_
    | with_reducible refine State.modSched_keeps _ _ ?_
    | with_reducible refine selectVoq_keeps _ _ _ ?_
    | with_reducible refine makeClaim_keeps _ _ _ _ _ _ _ ?_
    | simp only [keeps_set_lanes, keeps_set_ports, keeps_set_blocks, keeps_set_sched, keeps_set_fabric, keeps_set_lasts, keeps_set_host, keeps_set_logs, keeps_set_chip, keeps_set_ctl, keeps_set_time, keeps_set_twin, keeps_set_peals, keeps_set_spine, keeps_set_circ, keeps_set_chans]
    | refine KeepsP.get (by with_reducible assumption) ?_
    | refine KeepsT.get (by with_reducible assumption) ?_
    | simp only [keeps_snd_snd]
    | simp only [keeps_snd]
    | simp only [keepsP_mk]
    | with_reducible refine KeepsP.ite (fun _ => ?_) (fun _ => ?_)
    | split

theorem retireEngine_keeps {s0 : State} (engine : ℕ) (s : State) (hs : Keeps s0 s) : Keeps s0 (retireEngine engine s) := by
  unfold retireEngine
  repeat' first
    | with_reducible assumption
    | with_reducible refine Keeps.ite (fun _ => ?_) (fun _ => ?_)
    | with_reducible refine foldl_keeps _ _ ?_ (fun _ _ h => ?_)
    | with_reducible refine foldl_pair_keeps _ _ _ ?_ (fun _ _ h => ?_)
    | with_reducible refine State.modSched_keeps _ _ ?_
    | with_reducible refine settle_keeps _ _ ?_
    | with_reducible refine postEvent_keeps _ _ _ ?_

theorem execEngineStall_keeps {s0 : State} (engine : ℕ) (s : State) (hs : Keeps s0 s) : KeepsOut s0 (execEngineStall engine s) := by
  unfold execEngineStall
  repeat' first
    | with_reducible refine KeepsOut.next ?_
    | exact KeepsOut.refused _
    | with_reducible assumption
    | with_reducible refine KeepsOut.ite (fun _ => ?_) (fun _ => ?_)
    | with_reducible refine Keeps.ite (fun _ => ?_) (fun _ => ?_)
    | with_reducible refine foldl_keeps _ _ ?_ (fun _ _ h => ?_)
    | with_reducible refine foldl_pair_keeps _ _ _ ?_ (fun _ _ h => ?_)
    | with_reducible refine retireEngine_keeps _ _ ?_

theorem execSeamFrameCrcFail_keeps {s0 : State} (m : ℕ) (dir : ℕ) (lane : ℕ) (s : State) (hs : Keeps s0 s) : KeepsOut s0 (execSeamFrameCrcFail m dir lane s) := by
  unfold execSeamFrameCrcFail
  repeat' first
    | with_reducible refine KeepsOut.next ?_
    | exact KeepsOut.refused _
    | with_reducible assumption
    | with_reducible refine KeepsOut.ite (fun _ => ?_) (fun _ => ?_)
    | with_reducible refine Keeps.ite (fun _ => ?_) (fun _ => ?_)
    | with_reducible refine foldl_keeps _ _ ?_ (fun _ _ h => ?_)
    | with_reducible refine foldl_pair_keeps _ _ _ ?_ (fun _ _ h => ?_)
    | with_reducible refine bump_keeps _ _ _ _ ?_
    | with_reducible refine State.modSeam_keeps _ _ _ _ ?_
    | with_reducible refine State.modLedger_keeps _ _ _ ?_
    | with_reducible refine ledgerAdd_keeps _ _ _ _ ?_

end Sys2Proof.Machine
end

