-- ==== Sys2Proof/Laws/KeepsFence.lean ====
section
/-! SUPPORT. Laws/KeepsFence.lean: what the operations of Machine/Fence.lean keep. -/
namespace Sys2Proof.Machine

set_option linter.unusedSimpArgs false
set_option linter.unusedTactic false
set_option linter.unreachableTactic false

theorem dampPorts_keeps {s0 : State} (ps : List ℕ) (cause : ℕ) (s : State) (hs : Keeps s0 s) : Keeps s0 (dampPorts ps cause s) := by
  unfold dampPorts
  repeat' first
    | with_reducible assumption
    | with_reducible refine Keeps.ite (fun _ => ?_) (fun _ => ?_)
    | with_reducible refine forAll_keeps _ _ ?_ (fun _ _ h => ?_)
    | with_reducible refine foldl_keeps _ _ ?_ (fun _ _ h => ?_)
    | with_reducible refine foldl_pair_keeps _ _ _ ?_ (fun _ _ h => ?_)
    | with_reducible refine damp_keeps _ _ _ _ ?_

theorem sendDying_keeps {s0 : State} (scope : ℕ) (regions : ℕ) (code : ℕ) (s : State) (hs : Keeps s0 s) : Keeps s0 (sendDying scope regions code s) := by
  unfold sendDying
  repeat' first
    | with_reducible assumption
    | with_reducible refine Keeps.ite (fun _ => ?_) (fun _ => ?_)
    | with_reducible refine foldl_keeps _ _ ?_ (fun _ _ h => ?_)
    | with_reducible refine foldl_pair_keeps _ _ _ ?_ (fun _ _ h => ?_)
    | with_reducible refine sendTwin_keeps _ _ _ _ _ _ ?_

theorem loseShard_keeps {s0 : State} (k : ℕ) (s : State) (hs : Keeps s0 s) : Keeps s0 (loseShard k s) := by
  unfold loseShard
  repeat' first
    | with_reducible assumption
    | with_reducible refine Keeps.ite (fun _ => ?_) (fun _ => ?_)
    | with_reducible refine foldl_keeps _ _ ?_ (fun _ _ h => ?_)
    | with_reducible refine foldl_pair_keeps _ _ _ ?_ (fun _ _ h => ?_)
    | with_reducible refine State.modShard_keeps _ _ _ ?_

theorem fencePeal_keeps {s0 : State} (r : Nat) (mask : Nat) (more : List Nat) (p : Nat) (s : State) (hs : Keeps s0 s) : Keeps s0 (fencePeal r mask more p s) := by
  unfold fencePeal
  repeat' first
    | with_reducible assumption
    | with_reducible refine Keeps.ite (fun _ => ?_) (fun _ => ?_)
    | with_reducible refine foldl_keeps _ _ ?_ (fun _ _ h => ?_)
    | with_reducible refine foldl_pair_keeps _ _ _ ?_ (fun _ _ h => ?_)
    | with_reducible refine voidPeal_keeps _ _ _ _ _ _ ?_
    | with_reducible refine loseShard_keeps _ _ ?_
    | with_reducible refine holdFenced_keeps _ _ _ ?_
    | simp only [keeps_set_lanes, keeps_set_ports, keeps_set_blocks, keeps_set_sched, keeps_set_fabric, keeps_set_lasts, keeps_set_host, keeps_set_logs, keeps_set_chip, keeps_set_ctl, keeps_set_time, keeps_set_twin, keeps_set_peals, keeps_set_spine, keeps_set_circ, keeps_set_chans]
    | refine KeepsP.get (by with_reducible assumption) ?_
    | refine KeepsT.get (by with_reducible assumption) ?_
    | simp only [keeps_snd_snd]
    | simp only [keeps_snd]
    | simp only [keepsP_mk]
    | with_reducible refine KeepsP.ite (fun _ => ?_) (fun _ => ?_)
    | split

theorem fenceRegionWith_keeps {s0 : State} (more : Option (Nat × List Nat)) (r : Nat) (cause : Nat) (seam : Nat) (s : State) (hs : Keeps s0 s) : Keeps s0 (fenceRegionWith more r cause seam s) := by
  unfold fenceRegionWith
  repeat' first
    | with_reducible assumption
    | with_reducible refine Keeps.ite (fun _ => ?_) (fun _ => ?_)
    | with_reducible refine forAll_keeps _ _ ?_ (fun _ _ h => ?_)
    | with_reducible refine foldl_keeps _ _ ?_ (fun _ _ h => ?_)
    | with_reducible refine foldl_pair_keeps _ _ _ ?_ (fun _ _ h => ?_)
    | with_reducible refine State.modChip_keeps _ _ ?_
    | with_reducible refine postEvent_keeps _ _ _ ?_
    | with_reducible refine ledgerAdd_keeps _ _ _ _ ?_
    | with_reducible refine State.modLedger_keeps _ _ _ ?_
    | with_reducible refine State.modTwin_keeps _ _ ?_
    | with_reducible refine sendDying_keeps _ _ _ _ ?_
    | with_reducible refine dropClaims_keeps _ ?_
    | with_reducible refine dampPorts_keeps _ _ _ ?_
    | with_reducible refine forAll_keeps _ _ _ ?_ (fun _ _ h => ?_)
    | with_reducible refine loseShard_keeps _ _ ?_
    | with_reducible refine fencePeal_keeps _ _ _ _ _ ?_
    | with_reducible refine settle_keeps _ _ ?_
    | simp only [keeps_set_lanes, keeps_set_ports, keeps_set_blocks, keeps_set_sched, keeps_set_fabric, keeps_set_lasts, keeps_set_host, keeps_set_logs, keeps_set_chip, keeps_set_ctl, keeps_set_time, keeps_set_twin, keeps_set_peals, keeps_set_spine, keeps_set_circ, keeps_set_chans]
    | refine KeepsP.get (by with_reducible assumption) ?_
    | refine KeepsT.get (by with_reducible assumption) ?_
    | simp only [keeps_snd_snd]
    | simp only [keeps_snd]
    | simp only [keepsP_mk]
    | with_reducible refine KeepsP.ite (fun _ => ?_) (fun _ => ?_)
    | split

theorem fenceRegion_keeps {s0 : State} (r : Nat) (cause : Nat) (seam : Nat) (s : State) (hs : Keeps s0 s) : Keeps s0 (fenceRegion r cause seam s) := by
  unfold fenceRegion
  repeat' first
    | with_reducible assumption
    | with_reducible refine Keeps.ite (fun _ => ?_) (fun _ => ?_)
    | with_reducible refine foldl_keeps _ _ ?_ (fun _ _ h => ?_)
    | with_reducible refine foldl_pair_keeps _ _ _ ?_ (fun _ _ h => ?_)
    | with_reducible refine fenceRegionWith_keeps _ _ _ _ _ ?_
    | simp only [keeps_set_lanes, keeps_set_ports, keeps_set_blocks, keeps_set_sched, keeps_set_fabric, keeps_set_lasts, keeps_set_host, keeps_set_logs, keeps_set_chip, keeps_set_ctl, keeps_set_time, keeps_set_twin, keeps_set_peals, keeps_set_spine, keeps_set_circ, keeps_set_chans]
    | refine KeepsP.get (by with_reducible assumption) ?_
    | refine KeepsT.get (by with_reducible assumption) ?_
    | simp only [keeps_snd_snd]
    | simp only [keeps_snd]
    | simp only [keepsP_mk]
    | with_reducible refine KeepsP.ite (fun _ => ?_) (fun _ => ?_)
    | split

theorem fenceBlock_keeps {s0 : State} (b : Nat) (mem : Nat) (s : State) (hs : Keeps s0 s) : Keeps s0 (fenceBlock b mem s) := by
  unfold fenceBlock
  repeat' first
    | with_reducible assumption
    | with_reducible refine Keeps.ite (fun _ => ?_) (fun _ => ?_)
    | with_reducible refine foldl_keeps _ _ ?_ (fun _ _ h => ?_)
    | with_reducible refine foldl_pair_keeps _ _ _ ?_ (fun _ _ h => ?_)
    | with_reducible refine fenceRegion_keeps _ _ _ _ ?_
    | with_reducible refine State.modChip_keeps _ _ ?_
    | with_reducible refine postEvent_keeps _ _ _ ?_
    | with_reducible refine ledgerAdd_keeps _ _ _ _ ?_
    | with_reducible refine settle_keeps _ _ ?_
    | with_reducible refine dropClaims_keeps _ ?_
    | with_reducible refine dampPorts_keeps _ _ _ ?_
    | simp only [keeps_set_lanes, keeps_set_ports, keeps_set_blocks, keeps_set_sched, keeps_set_fabric, keeps_set_lasts, keeps_set_host, keeps_set_logs, keeps_set_chip, keeps_set_ctl, keeps_set_time, keeps_set_twin, keeps_set_peals, keeps_set_spine, keeps_set_circ, keeps_set_chans]
    | refine KeepsP.get (by with_reducible assumption) ?_
    | refine KeepsT.get (by with_reducible assumption) ?_
    | simp only [keeps_snd_snd]
    | simp only [keeps_snd]
    | simp only [keepsP_mk]
    | with_reducible refine KeepsP.ite (fun _ => ?_) (fun _ => ?_)
    | split

theorem dampChip_keeps {s0 : State} (cause : ℕ) (s : State) (hs : Keeps s0 s) : Keeps s0 (dampChip cause s) := by
  unfold dampChip
  repeat' first
    | with_reducible assumption
    | with_reducible refine Keeps.ite (fun _ => ?_) (fun _ => ?_)
    | with_reducible refine forAll_keeps _ _ ?_ (fun _ _ h => ?_)
    | with_reducible refine foldl_keeps _ _ ?_ (fun _ _ h => ?_)
    | with_reducible refine foldl_pair_keeps _ _ _ ?_ (fun _ _ h => ?_)
    | with_reducible refine setChip_keeps _ _ _ ?_
    | with_reducible refine sendDying_keeps _ _ _ _ ?_
    | with_reducible refine dampPorts_keeps _ _ _ ?_
    | with_reducible refine fenceRegion_keeps _ _ _ _ ?_
    | with_reducible refine disarmNow_keeps _ _ ?_

theorem execSeamLaneLoss_keeps {s0 : State} (m : ℕ) (dir : ℕ) (s : State) (hs : Keeps s0 s) : KeepsOut s0 (execSeamLaneLoss m dir s) := by
  unfold execSeamLaneLoss
  repeat' first
    | with_reducible refine KeepsOut.next ?_
    | exact KeepsOut.refused _
    | with_reducible assumption
    | with_reducible refine KeepsOut.ite (fun _ => ?_) (fun _ => ?_)
    | with_reducible refine Keeps.ite (fun _ => ?_) (fun _ => ?_)
    | with_reducible refine foldl_keeps _ _ ?_ (fun _ _ h => ?_)
    | with_reducible refine foldl_pair_keeps _ _ _ ?_ (fun _ _ h => ?_)
    | with_reducible refine fenceRegion_keeps _ _ _ _ ?_
    | with_reducible refine State.modSeam_keeps _ _ _ _ ?_
    | with_reducible refine postEvent_keeps _ _ _ ?_

theorem residueFault_keeps {s0 : State} (p : Nat) (c : Nat) (s : State) (hs : Keeps s0 s) : KeepsP s0 (residueFault p c s) := by
  unfold residueFault
  repeat' first
    | with_reducible assumption
    | with_reducible refine KeepsP.ite (fun _ => ?_) (fun _ => ?_)
    | simp only [keepsP_mk]
    | with_reducible refine Keeps.ite (fun _ => ?_) (fun _ => ?_)
    | with_reducible refine foldl_keeps _ _ ?_ (fun _ _ h => ?_)
    | with_reducible refine foldl_pair_keeps _ _ _ ?_ (fun _ _ h => ?_)
    | with_reducible refine State.modSpine_keeps _ _ ?_
    | with_reducible refine bump_keeps _ _ _ _ ?_
    | with_reducible refine bumpPeal_keeps _ _ _ _ ?_
    | with_reducible refine ledgerAdd_keeps _ _ _ _ ?_
    | with_reducible refine postEvent_keeps _ _ _ ?_
    | simp only [keeps_set_lanes, keeps_set_ports, keeps_set_blocks, keeps_set_sched, keeps_set_fabric, keeps_set_lasts, keeps_set_host, keeps_set_logs, keeps_set_chip, keeps_set_ctl, keeps_set_time, keeps_set_twin, keeps_set_peals, keeps_set_spine, keeps_set_circ, keeps_set_chans]
    | refine KeepsP.get (by with_reducible assumption) ?_
    | refine KeepsT.get (by with_reducible assumption) ?_
    | simp only [keeps_snd_snd]
    | simp only [keeps_snd]
    | simp only [keepsP_mk]
    | with_reducible refine KeepsP.ite (fun _ => ?_) (fun _ => ?_)
    | split

theorem residueVoid_keeps {s0 : State} (causes : List Nat) (p : Nat) (c : Nat) (s : State) (hs : Keeps s0 s) : Keeps s0 (residueVoid causes p c s) := by
  unfold residueVoid
  repeat' first
    | with_reducible assumption
    | with_reducible refine Keeps.ite (fun _ => ?_) (fun _ => ?_)
    | with_reducible refine foldl_keeps _ _ ?_ (fun _ _ h => ?_)
    | with_reducible refine foldl_pair_keeps _ _ _ ?_ (fun _ _ h => ?_)
    | with_reducible refine residueFault_keeps _ _ _ ?_
    | with_reducible refine fenceRegionWith_keeps _ _ _ _ _ ?_
    | with_reducible refine voidPeal_keeps _ _ _ _ _ _ ?_
    | simp only [keeps_set_lanes, keeps_set_ports, keeps_set_blocks, keeps_set_sched, keeps_set_fabric, keeps_set_lasts, keeps_set_host, keeps_set_logs, keeps_set_chip, keeps_set_ctl, keeps_set_time, keeps_set_twin, keeps_set_peals, keeps_set_spine, keeps_set_circ, keeps_set_chans]
    | refine KeepsP.get (by with_reducible assumption) ?_
    | refine KeepsT.get (by with_reducible assumption) ?_
    | simp only [keeps_snd_snd]
    | simp only [keeps_snd]
    | simp only [keepsP_mk]
    | with_reducible refine KeepsP.ite (fun _ => ?_) (fun _ => ?_)
    | split

theorem retireEntry_keeps {s0 : State} (b : ℕ) (e : ℕ) (s : State) (hs : Keeps s0 s) : Keeps s0 (retireEntry b e s) := by
  unfold retireEntry
  repeat' first
    | with_reducible assumption
    | with_reducible refine Keeps.ite (fun _ => ?_) (fun _ => ?_)
    | with_reducible refine foldl_keeps _ _ ?_ (fun _ _ h => ?_)
    | with_reducible refine foldl_pair_keeps _ _ _ ?_ (fun _ _ h => ?_)
    | with_reducible refine bump_keeps _ _ _ _ ?_
    | with_reducible refine State.modBlock_keeps _ _ _ ?_
    | with_reducible refine postEvent_keeps _ _ _ ?_

theorem dropSent_keeps {s0 : State} (f : BufCell → Bool) (s : State) (hs : Keeps s0 s) : Keeps s0 (dropSent f s) := by
  unfold dropSent
  repeat' first
    | with_reducible assumption
    | with_reducible refine Keeps.ite (fun _ => ?_) (fun _ => ?_)
    | with_reducible refine foldl_keeps _ _ ?_ (fun _ _ h => ?_)
    | with_reducible refine foldl_pair_keeps _ _ _ ?_ (fun _ _ h => ?_)
    | simp only [keeps_set_lanes, keeps_set_ports, keeps_set_blocks, keeps_set_sched, keeps_set_fabric, keeps_set_lasts, keeps_set_host, keeps_set_logs, keeps_set_chip, keeps_set_ctl, keeps_set_time, keeps_set_twin, keeps_set_peals, keeps_set_spine, keeps_set_circ, keeps_set_chans]
    | refine KeepsP.get (by with_reducible assumption) ?_
    | refine KeepsT.get (by with_reducible assumption) ?_
    | simp only [keeps_snd_snd]
    | simp only [keeps_snd]
    | simp only [keepsP_mk]
    | with_reducible refine KeepsP.ite (fun _ => ?_) (fun _ => ?_)
    | split

theorem dropEntry_keeps {s0 : State} (b : Nat) (e : Nat) (s : State) (hs : Keeps s0 s) : Keeps s0 (dropEntry b e s) := by
  unfold dropEntry
  repeat' first
    | with_reducible assumption
    | with_reducible refine Keeps.ite (fun _ => ?_) (fun _ => ?_)
    | with_reducible refine forAll_keeps _ _ ?_ (fun _ _ h => ?_)
    | with_reducible refine foldl_keeps _ _ ?_ (fun _ _ h => ?_)
    | with_reducible refine foldl_pair_keeps _ _ _ ?_ (fun _ _ h => ?_)
    | with_reducible refine forAll_keeps _ _ _ ?_ (fun _ _ h => ?_)
    | with_reducible refine noteLost_keeps _ _ ?_
    | with_reducible refine settleLost_keeps _ ?_
    | with_reducible refine dropCell_keeps _ _ _ ?_
    | with_reducible refine dropSent_keeps _ _ ?_
    | with_reducible refine editBuffered_keeps _ _ _ ?_
    | simp only [keeps_set_lanes, keeps_set_ports, keeps_set_blocks, keeps_set_sched, keeps_set_fabric, keeps_set_lasts, keeps_set_host, keeps_set_logs, keeps_set_chip, keeps_set_ctl, keeps_set_time, keeps_set_twin, keeps_set_peals, keeps_set_spine, keeps_set_circ, keeps_set_chans]
    | refine KeepsP.get (by with_reducible assumption) ?_
    | refine KeepsT.get (by with_reducible assumption) ?_
    | simp only [keeps_snd_snd]
    | simp only [keeps_snd]
    | simp only [keepsP_mk]
    | with_reducible refine KeepsP.ite (fun _ => ?_) (fun _ => ?_)
    | split

theorem tableError_keeps {s0 : State} (r : ℕ) (off : ℕ) (ue : Bool) (s : State) (hs : Keeps s0 s) : Keeps s0 (tableError r off ue s) := by
  unfold tableError
  repeat' first
    | with_reducible assumption
    | with_reducible refine Keeps.ite (fun _ => ?_) (fun _ => ?_)
    | with_reducible refine foldl_keeps _ _ ?_ (fun _ _ h => ?_)
    | with_reducible refine foldl_pair_keeps _ _ _ ?_ (fun _ _ h => ?_)
    | with_reducible refine bump_keeps _ _ _ _ ?_
    | with_reducible refine State.modFabric_keeps _ _ ?_
    | with_reducible refine settle_keeps _ _ ?_
    | with_reducible refine postEvent_keeps _ _ _ ?_

theorem execBufferEccError_keeps {s0 : State} (e : EccError) (s : State) (hs : Keeps s0 s) : KeepsOut s0 (execBufferEccError e s) := by
  unfold execBufferEccError
  repeat' first
    | with_reducible refine KeepsOut.next ?_
    | exact KeepsOut.refused _
    | with_reducible assumption
    | with_reducible refine KeepsOut.ite (fun _ => ?_) (fun _ => ?_)
    | with_reducible refine Keeps.ite (fun _ => ?_) (fun _ => ?_)
    | with_reducible refine foldl_keeps _ _ ?_ (fun _ _ h => ?_)
    | with_reducible refine foldl_pair_keeps _ _ _ ?_ (fun _ _ h => ?_)
    | with_reducible refine retireEntry_keeps _ _ _ ?_
    | with_reducible refine dropEntry_keeps _ _ _ ?_
    | with_reducible refine bump_keeps _ _ _ _ ?_
    | with_reducible refine State.modBlock_keeps _ _ _ ?_
    | with_reducible refine fenceBlock_keeps _ _ _ ?_
    | with_reducible refine tableError_keeps _ _ _ _ ?_
    | with_reducible refine fenceRegion_keeps _ _ _ _ ?_
    | with_reducible refine retireEngine_keeps _ _ ?_
    | with_reducible refine dropCell_keeps _ _ _ ?_
    | with_reducible refine State.modFabric_keeps _ _ ?_
    | simp only [keeps_set_lanes, keeps_set_ports, keeps_set_blocks, keeps_set_sched, keeps_set_fabric, keeps_set_lasts, keeps_set_host, keeps_set_logs, keeps_set_chip, keeps_set_ctl, keeps_set_time, keeps_set_twin, keeps_set_peals, keeps_set_spine, keeps_set_circ, keeps_set_chans]
    | refine KeepsP.get (by with_reducible assumption) ?_
    | refine KeepsT.get (by with_reducible assumption) ?_
    | simp only [keeps_snd_snd]
    | simp only [keeps_snd]
    | simp only [keepsP_mk]
    | with_reducible refine KeepsP.ite (fun _ => ?_) (fun _ => ?_)
    | split

end Sys2Proof.Machine
end

