-- ==== Sys2Proof/Laws/KeepsCores.lean ====
section
/-! SUPPORT. Laws/KeepsCores.lean: what the operations of Machine/Cores.lean keep. -/
namespace Sys2Proof.Machine

set_option linter.unusedSimpArgs false
set_option linter.unusedTactic false
set_option linter.unreachableTactic false

theorem retireCore_keeps {s0 : State} (core : ℕ) (s : State) (hs : Keeps s0 s) : Keeps s0 (retireCore core s) := by
  unfold retireCore
  repeat' first
    | with_reducible assumption
    | with_reducible refine Keeps.ite (fun _ => ?_) (fun _ => ?_)
    | with_reducible refine forAll_keeps _ _ ?_ (fun _ _ h => ?_)
    | with_reducible refine foldl_keeps _ _ ?_ (fun _ _ h => ?_)
    | with_reducible refine foldl_pair_keeps _ _ _ ?_ (fun _ _ h => ?_)
    | with_reducible refine State.modLedger_keeps _ _ _ ?_
    | with_reducible refine State.modCore_keeps _ _ _ ?_
    | with_reducible refine ledgerAdd_keeps _ _ _ _ ?_
    | with_reducible refine postEvent_keeps _ _ _ ?_
    | with_reducible refine State.modSpine_keeps _ _ ?_
    | with_reducible refine settle_keeps _ _ ?_
    | with_reducible refine State.modChip_keeps _ _ ?_
    | simp only [keeps_set_lanes, keeps_set_ports, keeps_set_blocks, keeps_set_sched, keeps_set_fabric, keeps_set_lasts, keeps_set_host, keeps_set_logs, keeps_set_chip, keeps_set_ctl, keeps_set_time, keeps_set_twin, keeps_set_peals, keeps_set_spine, keeps_set_circ, keeps_set_chans]
    | refine KeepsP.get (by with_reducible assumption) ?_
    | refine KeepsT.get (by with_reducible assumption) ?_
    | simp only [keeps_snd_snd]
    | simp only [keeps_snd]
    | simp only [keepsP_mk]
    | with_reducible refine KeepsP.ite (fun _ => ?_) (fun _ => ?_)
    | split

theorem coreFault_keeps {s0 : State} (core : ℕ) (row : ℕ) (s : State) (hs : Keeps s0 s) : Keeps s0 (coreFault core row s) := by
  unfold coreFault
  repeat' first
    | with_reducible assumption
    | with_reducible refine Keeps.ite (fun _ => ?_) (fun _ => ?_)
    | with_reducible refine foldl_keeps _ _ ?_ (fun _ _ h => ?_)
    | with_reducible refine foldl_pair_keeps _ _ _ ?_ (fun _ _ h => ?_)
    | with_reducible refine State.modCore_keeps _ _ _ ?_
    | with_reducible refine bump_keeps _ _ _ _ ?_
    | with_reducible refine ledgerAdd_keeps _ _ _ _ ?_
    | with_reducible refine retireCore_keeps _ _ ?_

theorem dropInv_keeps {s0 : State} (core : ℕ) (s : State) (hs : Keeps s0 s) : Keeps s0 (dropInv core s) := by
  unfold dropInv
  repeat' first
    | with_reducible assumption
    | with_reducible refine Keeps.ite (fun _ => ?_) (fun _ => ?_)
    | with_reducible refine foldl_keeps _ _ ?_ (fun _ _ h => ?_)
    | with_reducible refine foldl_pair_keeps _ _ _ ?_ (fun _ _ h => ?_)
    | with_reducible refine State.modCore_keeps _ _ _ ?_

theorem progFault_keeps {s0 : State} (core : ℕ) (row : ℕ) (s : State) (hs : Keeps s0 s) : Keeps s0 (progFault core row s) := by
  unfold progFault
  repeat' first
    | with_reducible assumption
    | with_reducible refine Keeps.ite (fun _ => ?_) (fun _ => ?_)
    | with_reducible refine foldl_keeps _ _ ?_ (fun _ _ h => ?_)
    | with_reducible refine foldl_pair_keeps _ _ _ ?_ (fun _ _ h => ?_)
    | with_reducible refine bump_keeps _ _ _ _ ?_
    | with_reducible refine bumpPeal_keeps _ _ _ _ ?_
    | with_reducible refine dropInv_keeps _ _ ?_
    | with_reducible refine voidFor_keeps _ _ _ ?_
    | with_reducible refine coreFault_keeps _ _ _ ?_
    | simp only [keeps_set_lanes, keeps_set_ports, keeps_set_blocks, keeps_set_sched, keeps_set_fabric, keeps_set_lasts, keeps_set_host, keeps_set_logs, keeps_set_chip, keeps_set_ctl, keeps_set_time, keeps_set_twin, keeps_set_peals, keeps_set_spine, keeps_set_circ, keeps_set_chans]
    | refine KeepsP.get (by with_reducible assumption) ?_
    | refine KeepsT.get (by with_reducible assumption) ?_
    | simp only [keeps_snd_snd]
    | simp only [keeps_snd]
    | simp only [keepsP_mk]
    | with_reducible refine KeepsP.ite (fun _ => ?_) (fun _ => ?_)
    | split

theorem sendMirror_keeps {s0 : State} (p : Nat) (x : Nat) (s : State) (hs : Keeps s0 s) : Keeps s0 (sendMirror p x s) := by
  unfold sendMirror
  repeat' first
    | with_reducible assumption
    | with_reducible refine Keeps.ite (fun _ => ?_) (fun _ => ?_)
    | with_reducible refine foldl_keeps _ _ ?_ (fun _ _ h => ?_)
    | with_reducible refine foldl_pair_keeps _ _ _ ?_ (fun _ _ h => ?_)
    | with_reducible refine bump_keeps _ _ _ _ ?_
    | with_reducible refine sendTwinFrom_keeps _ _ _ _ _ _ _ ?_
    | simp only [keeps_set_lanes, keeps_set_ports, keeps_set_blocks, keeps_set_sched, keeps_set_fabric, keeps_set_lasts, keeps_set_host, keeps_set_logs, keeps_set_chip, keeps_set_ctl, keeps_set_time, keeps_set_twin, keeps_set_peals, keeps_set_spine, keeps_set_circ, keeps_set_chans]
    | refine KeepsP.get (by with_reducible assumption) ?_
    | refine KeepsT.get (by with_reducible assumption) ?_
    | simp only [keeps_snd_snd]
    | simp only [keeps_snd]
    | simp only [keepsP_mk]
    | with_reducible refine KeepsP.ite (fun _ => ?_) (fun _ => ?_)
    | split

theorem joinSat_keeps {s0 : State} (p : ℕ) (x : ℕ) (entry : ℕ) (sat : Bool) (s : State) (hs : Keeps s0 s) : Keeps s0 (joinSat p x entry sat s) := by
  unfold joinSat
  repeat' first
    | with_reducible assumption
    | with_reducible refine Keeps.ite (fun _ => ?_) (fun _ => ?_)
    | with_reducible refine foldl_keeps _ _ ?_ (fun _ _ h => ?_)
    | with_reducible refine foldl_pair_keeps _ _ _ ?_ (fun _ _ h => ?_)
    | with_reducible refine bumpPeal_keeps _ _ _ _ ?_
    | with_reducible refine State.modChunk_keeps _ _ _ _ ?_
    | with_reducible refine addFlags_keeps _ _ _ _ _ ?_
    | with_reducible refine voidFor_keeps _ _ _ ?_
    | simp only [keeps_set_lanes, keeps_set_ports, keeps_set_blocks, keeps_set_sched, keeps_set_fabric, keeps_set_lasts, keeps_set_host, keeps_set_logs, keeps_set_chip, keeps_set_ctl, keeps_set_time, keeps_set_twin, keeps_set_peals, keeps_set_spine, keeps_set_circ, keeps_set_chans]
    | refine KeepsP.get (by with_reducible assumption) ?_
    | refine KeepsT.get (by with_reducible assumption) ?_
    | simp only [keeps_snd_snd]
    | simp only [keeps_snd]

theorem endChunkRow_keeps {s0 : State} (p : ℕ) (x : ℕ) (parts : List Part) (sat : Bool) (prog : Bool) (s : State) (hs : Keeps s0 s) : Keeps s0 (endChunkRow p x parts sat prog s) := by
  unfold endChunkRow
  repeat' first
    | with_reducible assumption
    | with_reducible refine Keeps.ite (fun _ => ?_) (fun _ => ?_)
    | with_reducible refine foldl_keeps _ _ ?_ (fun _ _ h => ?_)
    | with_reducible refine foldl_pair_keeps _ _ _ ?_ (fun _ _ h => ?_)
    | with_reducible refine State.modPeal_keeps _ _ _ ?_
    | with_reducible refine State.modChunk_keeps _ _ _ _ ?_
    | with_reducible refine joinSat_keeps _ _ _ _ _ ?_
    | with_reducible refine sendMirror_keeps _ _ _ ?_
    | with_reducible refine refreshWindows_keeps _ _ ?_
    | with_reducible refine openChunks_keeps _ _ _ ?_

theorem endStep_keeps {s0 : State} (p : Nat) (x : Nat) (mirror : Bool) (parts : List Part) (sat : Bool) (s : State) (hs : Keeps s0 s) : Keeps s0 (endStep p x mirror parts sat s) := by
  unfold endStep
  repeat' first
    | with_reducible assumption
    | with_reducible refine Keeps.ite (fun _ => ?_) (fun _ => ?_)
    | with_reducible refine foldl_keeps _ _ ?_ (fun _ _ h => ?_)
    | with_reducible refine foldl_pair_keeps _ _ _ ?_ (fun _ _ h => ?_)
    | with_reducible refine State.modPeal_keeps _ _ _ ?_
    | with_reducible refine bumpN_keeps _ _ _ _ _ ?_
    | with_reducible refine State.modChunk_keeps _ _ _ _ ?_
    | with_reducible refine joinSat_keeps _ _ _ _ _ ?_
    | with_reducible refine trySeal_keeps _ _ ?_
    | simp only [keeps_set_lanes, keeps_set_ports, keeps_set_blocks, keeps_set_sched, keeps_set_fabric, keeps_set_lasts, keeps_set_host, keeps_set_logs, keeps_set_chip, keeps_set_ctl, keeps_set_time, keeps_set_twin, keeps_set_peals, keeps_set_spine, keeps_set_circ, keeps_set_chans]
    | refine KeepsP.get (by with_reducible assumption) ?_
    | refine KeepsT.get (by with_reducible assumption) ?_
    | simp only [keeps_snd_snd]
    | simp only [keeps_snd]
    | simp only [keepsP_mk]
    | with_reducible refine KeepsP.ite (fun _ => ?_) (fun _ => ?_)
    | split

theorem unparkCore_keeps {s0 : State} (core : Nat) (s : State) (hs : Keeps s0 s) : Keeps s0 (unparkCore core s) := by
  unfold unparkCore
  repeat' first
    | with_reducible assumption
    | with_reducible refine Keeps.ite (fun _ => ?_) (fun _ => ?_)
    | with_reducible refine forAll_keeps _ _ ?_ (fun _ _ h => ?_)
    | with_reducible refine foldl_keeps _ _ ?_ (fun _ _ h => ?_)
    | with_reducible refine foldl_pair_keeps _ _ _ ?_ (fun _ _ h => ?_)
    | with_reducible refine forAll_keeps _ _ _ ?_ (fun _ _ h => ?_)
    | with_reducible refine unparkChunk_keeps _ _ _ ?_
    | simp only [keeps_set_lanes, keeps_set_ports, keeps_set_blocks, keeps_set_sched, keeps_set_fabric, keeps_set_lasts, keeps_set_host, keeps_set_logs, keeps_set_chip, keeps_set_ctl, keeps_set_time, keeps_set_twin, keeps_set_peals, keeps_set_spine, keeps_set_circ, keeps_set_chans]
    | refine KeepsP.get (by with_reducible assumption) ?_
    | refine KeepsT.get (by with_reducible assumption) ?_
    | simp only [keeps_snd_snd]
    | simp only [keeps_snd]
    | simp only [keepsP_mk]
    | with_reducible refine KeepsP.ite (fun _ => ?_) (fun _ => ?_)
    | split

theorem endInvocation_keeps {s0 : State} (core : Nat) (s : State) (hs : Keeps s0 s) : Keeps s0 (endInvocation core s) := by
  unfold endInvocation
  repeat' first
    | with_reducible assumption
    | with_reducible refine Keeps.ite (fun _ => ?_) (fun _ => ?_)
    | with_reducible refine foldl_keeps _ _ ?_ (fun _ _ h => ?_)
    | with_reducible refine foldl_pair_keeps _ _ _ ?_ (fun _ _ h => ?_)
    | with_reducible refine progFault_keeps _ _ _ ?_
    | with_reducible refine dropInv_keeps _ _ ?_
    | with_reducible refine unparkCore_keeps _ _ ?_
    | with_reducible refine endChunkRow_keeps _ _ _ _ _ _ ?_
    | with_reducible refine endStep_keeps _ _ _ _ _ _ ?_
    | with_reducible refine joinSat_keeps _ _ _ _ _ ?_
    | simp only [keeps_set_lanes, keeps_set_ports, keeps_set_blocks, keeps_set_sched, keeps_set_fabric, keeps_set_lasts, keeps_set_host, keeps_set_logs, keeps_set_chip, keeps_set_ctl, keeps_set_time, keeps_set_twin, keeps_set_peals, keeps_set_spine, keeps_set_circ, keeps_set_chans]
    | refine KeepsP.get (by with_reducible assumption) ?_
    | refine KeepsT.get (by with_reducible assumption) ?_
    | simp only [keeps_snd_snd]
    | simp only [keeps_snd]
    | simp only [keepsP_mk]
    | with_reducible refine KeepsP.ite (fun _ => ?_) (fun _ => ?_)
    | split

theorem startInv_keeps {s0 : State} (core : ℕ) (i : Inv) (s : State) (hs : Keeps s0 s) : Keeps s0 (startInv core i s) := by
  unfold startInv
  repeat' first
    | with_reducible assumption
    | with_reducible refine Keeps.ite (fun _ => ?_) (fun _ => ?_)
    | with_reducible refine foldl_keeps _ _ ?_ (fun _ _ h => ?_)
    | with_reducible refine foldl_pair_keeps _ _ _ ?_ (fun _ _ h => ?_)
    | with_reducible refine bump_keeps _ _ _ _ ?_
    | with_reducible refine bumpPeal_keeps _ _ _ _ ?_
    | with_reducible refine State.modCore_keeps _ _ _ ?_

theorem execOnContrib_keeps {s0 : State} (core : Nat) (peal : Nat) (x : Nat) (member : Nat) (s : State) (hs : Keeps s0 s) : KeepsOut s0 (execOnContrib core peal x member s) := by
  unfold execOnContrib
  repeat' first
    | with_reducible refine KeepsOut.next ?_
    | exact KeepsOut.refused _
    | with_reducible assumption
    | with_reducible refine KeepsOut.ite (fun _ => ?_) (fun _ => ?_)
    | with_reducible refine Keeps.ite (fun _ => ?_) (fun _ => ?_)
    | with_reducible refine foldl_keeps _ _ ?_ (fun _ _ h => ?_)
    | with_reducible refine foldl_pair_keeps _ _ _ ?_ (fun _ _ h => ?_)
    | with_reducible refine State.modCore_keeps _ _ _ ?_
    | with_reducible refine unparkCore_keeps _ _ ?_
    | with_reducible refine startInv_keeps _ _ _ ?_
    | simp only [keeps_set_lanes, keeps_set_ports, keeps_set_blocks, keeps_set_sched, keeps_set_fabric, keeps_set_lasts, keeps_set_host, keeps_set_logs, keeps_set_chip, keeps_set_ctl, keeps_set_time, keeps_set_twin, keeps_set_peals, keeps_set_spine, keeps_set_circ, keeps_set_chans]
    | refine KeepsP.get (by with_reducible assumption) ?_
    | refine KeepsT.get (by with_reducible assumption) ?_
    | simp only [keeps_snd_snd]
    | simp only [keeps_snd]
    | simp only [keepsP_mk]
    | with_reducible refine KeepsP.ite (fun _ => ?_) (fun _ => ?_)
    | split

theorem addSquares_keeps {s0 : State} (p : ℕ) (r : ℕ) (qs : List ℕ) (s : State) (hs : Keeps s0 s) : Keeps s0 (addSquares p r qs s) := by
  exact pstore_writes_keeps _ _ hs

theorem libChunk_keeps {s0 : State} (p : Nat) (x : Nat) (s : State) (hs : Keeps s0 s) : KeepsP s0 (libChunk p x s) := by
  unfold libChunk
  repeat' first
    | with_reducible assumption
    | with_reducible refine KeepsP.ite (fun _ => ?_) (fun _ => ?_)
    | simp only [keepsP_mk]
    | with_reducible refine Keeps.ite (fun _ => ?_) (fun _ => ?_)
    | with_reducible refine foldl_keeps _ _ ?_ (fun _ _ h => ?_)
    | with_reducible refine foldl_pair_keeps _ _ _ ?_ (fun _ _ h => ?_)
    | with_reducible refine sliceServed_keeps _ _ _ _ _ _ _ _ ?_
    | with_reducible refine sliceStm_keeps _ _ _ _ _ _ ?_
    | with_reducible refine addSquares_keeps _ _ _ _ ?_
    | simp only [keeps_set_lanes, keeps_set_ports, keeps_set_blocks, keeps_set_sched, keeps_set_fabric, keeps_set_lasts, keeps_set_host, keeps_set_logs, keeps_set_chip, keeps_set_ctl, keeps_set_time, keeps_set_twin, keeps_set_peals, keeps_set_spine, keeps_set_circ, keeps_set_chans]
    | refine KeepsP.get (by with_reducible assumption) ?_
    | refine KeepsT.get (by with_reducible assumption) ?_
    | simp only [keeps_snd_snd]
    | simp only [keeps_snd]
    | simp only [keepsP_mk]
    | with_reducible refine KeepsP.ite (fun _ => ?_) (fun _ => ?_)
    | split

theorem execOnChunk_keeps {s0 : State} (core : Nat) (peal : Nat) (x : Nat) (s : State) (hs : Keeps s0 s) : KeepsOut s0 (execOnChunk core peal x s) := by
  unfold execOnChunk
  repeat' first
    | with_reducible refine KeepsOut.next ?_
    | exact KeepsOut.refused _
    | with_reducible assumption
    | with_reducible refine KeepsOut.ite (fun _ => ?_) (fun _ => ?_)
    | with_reducible refine Keeps.ite (fun _ => ?_) (fun _ => ?_)
    | with_reducible refine foldl_keeps _ _ ?_ (fun _ _ h => ?_)
    | with_reducible refine foldl_pair_keeps _ _ _ ?_ (fun _ _ h => ?_)
    | with_reducible refine startInv_keeps _ _ _ ?_
    | with_reducible refine residueVoid_keeps _ _ _ _ ?_
    | with_reducible refine dropInv_keeps _ _ ?_
    | with_reducible refine bumpN_keeps _ _ _ _ _ ?_
    | with_reducible refine libChunk_keeps _ _ _ ?_
    | with_reducible refine progFault_keeps _ _ _ ?_
    | with_reducible refine unparkCore_keeps _ _ ?_
    | with_reducible refine endChunkRow_keeps _ _ _ _ _ _ ?_
    | simp only [keeps_set_lanes, keeps_set_ports, keeps_set_blocks, keeps_set_sched, keeps_set_fabric, keeps_set_lasts, keeps_set_host, keeps_set_logs, keeps_set_chip, keeps_set_ctl, keeps_set_time, keeps_set_twin, keeps_set_peals, keeps_set_spine, keeps_set_circ, keeps_set_chans]
    | refine KeepsP.get (by with_reducible assumption) ?_
    | refine KeepsT.get (by with_reducible assumption) ?_
    | simp only [keeps_snd_snd]
    | simp only [keeps_snd]
    | simp only [keepsP_mk]
    | with_reducible refine KeepsP.ite (fun _ => ?_) (fun _ => ?_)
    | split

theorem libStep_keeps {s0 : State} (p : Nat) (x : Nat) (s : State) (hs : Keeps s0 s) : KeepsP s0 (libStep p x s) := by
  unfold libStep
  repeat' first
    | with_reducible assumption
    | with_reducible refine KeepsP.ite (fun _ => ?_) (fun _ => ?_)
    | simp only [keepsP_mk]
    | with_reducible refine Keeps.ite (fun _ => ?_) (fun _ => ?_)
    | with_reducible refine foldl_keeps _ _ ?_ (fun _ _ h => ?_)
    | with_reducible refine foldl_pair_keeps _ _ _ ?_ (fun _ _ h => ?_)
    | with_reducible refine sliceServed_keeps _ _ _ _ _ _ _ _ ?_
    | with_reducible refine sliceStm_keeps _ _ _ _ _ _ ?_
    | simp only [keeps_set_lanes, keeps_set_ports, keeps_set_blocks, keeps_set_sched, keeps_set_fabric, keeps_set_lasts, keeps_set_host, keeps_set_logs, keeps_set_chip, keeps_set_ctl, keeps_set_time, keeps_set_twin, keeps_set_peals, keeps_set_spine, keeps_set_circ, keeps_set_chans]
    | refine KeepsP.get (by with_reducible assumption) ?_
    | refine KeepsT.get (by with_reducible assumption) ?_
    | simp only [keeps_snd_snd]
    | simp only [keeps_snd]
    | simp only [keepsP_mk]
    | with_reducible refine KeepsP.ite (fun _ => ?_) (fun _ => ?_)
    | split

theorem execOnStepEnd_keeps {s0 : State} (core : Nat) (peal : Nat) (x : Nat) (s : State) (hs : Keeps s0 s) : KeepsOut s0 (execOnStepEnd core peal x s) := by
  unfold execOnStepEnd
  repeat' first
    | with_reducible refine KeepsOut.next ?_
    | exact KeepsOut.refused _
    | with_reducible assumption
    | with_reducible refine KeepsOut.ite (fun _ => ?_) (fun _ => ?_)
    | with_reducible refine Keeps.ite (fun _ => ?_) (fun _ => ?_)
    | with_reducible refine foldl_keeps _ _ ?_ (fun _ _ h => ?_)
    | with_reducible refine foldl_pair_keeps _ _ _ ?_ (fun _ _ h => ?_)
    | with_reducible refine libStep_keeps _ _ _ ?_
    | with_reducible refine bumpN_keeps _ _ _ _ _ ?_
    | with_reducible refine startInv_keeps _ _ _ ?_
    | with_reducible refine progFault_keeps _ _ _ ?_
    | with_reducible refine unparkCore_keeps _ _ ?_
    | with_reducible refine endStep_keeps _ _ _ _ _ _ ?_
    | with_reducible refine dropInv_keeps _ _ ?_
    | simp only [keeps_set_lanes, keeps_set_ports, keeps_set_blocks, keeps_set_sched, keeps_set_fabric, keeps_set_lasts, keeps_set_host, keeps_set_logs, keeps_set_chip, keeps_set_ctl, keeps_set_time, keeps_set_twin, keeps_set_peals, keeps_set_spine, keeps_set_circ, keeps_set_chans]
    | refine KeepsP.get (by with_reducible assumption) ?_
    | refine KeepsT.get (by with_reducible assumption) ?_
    | simp only [keeps_snd_snd]
    | simp only [keeps_snd]
    | simp only [keepsP_mk]
    | with_reducible refine KeepsP.ite (fun _ => ?_) (fun _ => ?_)
    | split

theorem execOnVoid_keeps {s0 : State} (core : ℕ) (peal : ℕ) (s : State) (hs : Keeps s0 s) : KeepsOut s0 (execOnVoid core peal s) := by
  unfold execOnVoid
  repeat' first
    | with_reducible refine KeepsOut.next ?_
    | exact KeepsOut.refused _
    | with_reducible assumption
    | with_reducible refine KeepsOut.ite (fun _ => ?_) (fun _ => ?_)
    | with_reducible refine Keeps.ite (fun _ => ?_) (fun _ => ?_)
    | with_reducible refine foldl_keeps _ _ ?_ (fun _ _ h => ?_)
    | with_reducible refine foldl_pair_keeps _ _ _ ?_ (fun _ _ h => ?_)
    | with_reducible refine startInv_keeps _ _ _ ?_
    | with_reducible refine State.modCore_keeps _ _ _ ?_
    | simp only [keeps_set_lanes, keeps_set_ports, keeps_set_blocks, keeps_set_sched, keeps_set_fabric, keeps_set_lasts, keeps_set_host, keeps_set_logs, keeps_set_chip, keeps_set_ctl, keeps_set_time, keeps_set_twin, keeps_set_peals, keeps_set_spine, keeps_set_circ, keeps_set_chans]
    | refine KeepsP.get (by with_reducible assumption) ?_
    | refine KeepsT.get (by with_reducible assumption) ?_
    | simp only [keeps_snd_snd]
    | simp only [keeps_snd]
    | simp only [keepsP_mk]
    | with_reducible refine KeepsP.ite (fun _ => ?_) (fun _ => ?_)
    | split

theorem countOps_keeps {s0 : State} (op : Nat) (core : Nat) (w : IWord) (i : Inv) (s : State) (hs : Keeps s0 s) : Keeps s0 (countOps op core w i s) := by
  unfold countOps
  repeat' first
    | with_reducible assumption
    | with_reducible refine Keeps.ite (fun _ => ?_) (fun _ => ?_)
    | with_reducible refine foldl_keeps _ _ ?_ (fun _ _ h => ?_)
    | with_reducible refine foldl_pair_keeps _ _ _ ?_ (fun _ _ h => ?_)
    | with_reducible refine bumpN_keeps _ _ _ _ _ ?_
    | simp only [keeps_set_lanes, keeps_set_ports, keeps_set_blocks, keeps_set_sched, keeps_set_fabric, keeps_set_lasts, keeps_set_host, keeps_set_logs, keeps_set_chip, keeps_set_ctl, keeps_set_time, keeps_set_twin, keeps_set_peals, keeps_set_spine, keeps_set_circ, keeps_set_chans]
    | refine KeepsP.get (by with_reducible assumption) ?_
    | refine KeepsT.get (by with_reducible assumption) ?_
    | simp only [keeps_snd_snd]
    | simp only [keeps_snd]
    | simp only [keepsP_mk]
    | with_reducible refine KeepsP.ite (fun _ => ?_) (fun _ => ?_)
    | split

theorem issue_keeps {s0 : State} (op : Nat) (core : Nat) (w : IWord) (s : State) (f : Inv → State → State) (hs : Keeps s0 s) (hf : ∀ a t, Keeps s0 t → Keeps s0 (f a t)) : KeepsOut s0 (issue op core w s f) := by
  unfold issue
  repeat' first
    | with_reducible refine KeepsOut.next ?_
    | exact KeepsOut.refused _
    | with_reducible assumption
    | with_reducible refine KeepsOut.ite (fun _ => ?_) (fun _ => ?_)
    | with_reducible refine Keeps.ite (fun _ => ?_) (fun _ => ?_)
    | with_reducible refine foldl_keeps _ _ ?_ (fun _ _ h => ?_)
    | with_reducible refine foldl_pair_keeps _ _ _ ?_ (fun _ _ h => ?_)
    | with_reducible refine progFault_keeps _ _ _ ?_
    | with_reducible refine countOps_keeps _ _ _ _ _ ?_
    | simp only [keeps_set_lanes, keeps_set_ports, keeps_set_blocks, keeps_set_sched, keeps_set_fabric, keeps_set_lasts, keeps_set_host, keeps_set_logs, keeps_set_chip, keeps_set_ctl, keeps_set_time, keeps_set_twin, keeps_set_peals, keeps_set_spine, keeps_set_circ, keeps_set_chans]
    | refine KeepsP.get (by with_reducible assumption) ?_
    | refine KeepsT.get (by with_reducible assumption) ?_
    | simp only [keeps_snd_snd]
    | simp only [keeps_snd]
    | simp only [keepsP_mk]
    | with_reducible refine KeepsP.ite (fun _ => ?_) (fun _ => ?_)
    | with_reducible refine hf _ _ ?_
    | split

theorem setInv_keeps {s0 : State} (core : ℕ) (i : Inv) (s : State) (hs : Keeps s0 s) : Keeps s0 (setInv core i s) := by
  unfold setInv
  repeat' first
    | with_reducible assumption
    | with_reducible refine Keeps.ite (fun _ => ?_) (fun _ => ?_)
    | with_reducible refine foldl_keeps _ _ ?_ (fun _ _ h => ?_)
    | with_reducible refine foldl_pair_keeps _ _ _ ?_ (fun _ _ h => ?_)
    | with_reducible refine State.modCore_keeps _ _ _ ?_

theorem regOp_keeps {s0 : State} (op : ℕ) (core : ℕ) (w : IWord) (s : State) (f : Inv → Inv) (hs : Keeps s0 s) : KeepsOut s0 (regOp op core w s f) := by
  unfold regOp
  repeat' first
    | with_reducible refine KeepsOut.next ?_
    | exact KeepsOut.refused _
    | with_reducible assumption
    | with_reducible refine KeepsOut.ite (fun _ => ?_) (fun _ => ?_)
    | with_reducible refine Keeps.ite (fun _ => ?_) (fun _ => ?_)
    | with_reducible refine foldl_keeps _ _ ?_ (fun _ _ h => ?_)
    | with_reducible refine foldl_pair_keeps _ _ _ ?_ (fun _ _ h => ?_)
    | with_reducible refine issue_keeps _ _ _ _ _ ?_ (fun _ _ h => ?_)
    | with_reducible refine setInv_keeps _ _ _ ?_

theorem windowServed_keeps {s0 : State} (i : Inv) (win : Nat) (off : Nat) (n : Nat) (s : State) (hs : Keeps s0 s) : Keeps s0 (windowServed i win off n s) := by
  unfold windowServed
  repeat' first
    | with_reducible assumption
    | with_reducible refine Keeps.ite (fun _ => ?_) (fun _ => ?_)
    | with_reducible refine foldl_keeps _ _ ?_ (fun _ _ h => ?_)
    | with_reducible refine foldl_pair_keeps _ _ _ ?_ (fun _ _ h => ?_)
    | with_reducible refine sliceServed_keeps _ _ _ _ _ _ _ _ ?_
    | simp only [keeps_set_lanes, keeps_set_ports, keeps_set_blocks, keeps_set_sched, keeps_set_fabric, keeps_set_lasts, keeps_set_host, keeps_set_logs, keeps_set_chip, keeps_set_ctl, keeps_set_time, keeps_set_twin, keeps_set_peals, keeps_set_spine, keeps_set_circ, keeps_set_chans]
    | refine KeepsP.get (by with_reducible assumption) ?_
    | refine KeepsT.get (by with_reducible assumption) ?_
    | simp only [keeps_snd_snd]
    | simp only [keeps_snd]
    | simp only [keepsP_mk]
    | with_reducible refine KeepsP.ite (fun _ => ?_) (fun _ => ?_)
    | split

theorem loadOp_keeps {s0 : State} (op : ℕ) (core : ℕ) (w : IWord) (s : State) (hs : Keeps s0 s) : KeepsOut s0 (loadOp op core w s) := by
  unfold loadOp
  repeat' first
    | with_reducible refine KeepsOut.next ?_
    | exact KeepsOut.refused _
    | with_reducible assumption
    | with_reducible refine windowServed_keeps _ _ _ _ _ ?_
    | with_reducible refine KeepsOut.ite (fun _ => ?_) (fun _ => ?_)
    | with_reducible refine Keeps.ite (fun _ => ?_) (fun _ => ?_)
    | with_reducible refine foldl_keeps _ _ ?_ (fun _ _ h => ?_)
    | with_reducible refine foldl_pair_keeps _ _ _ ?_ (fun _ _ h => ?_)
    | with_reducible refine issue_keeps _ _ _ _ _ ?_ (fun _ _ h => ?_)
    | with_reducible refine progFault_keeps _ _ _ ?_
    | with_reducible refine setInv_keeps _ _ _ ?_

theorem execLdc_keeps {s0 : State} (core : ℕ) (w : IWord) (s : State) (hs : Keeps s0 s) : KeepsOut s0 (execLdc core w s) := by
  unfold execLdc
  repeat' first
    | with_reducible refine KeepsOut.next ?_
    | exact KeepsOut.refused _
    | with_reducible assumption
    | with_reducible refine KeepsOut.ite (fun _ => ?_) (fun _ => ?_)
    | with_reducible refine Keeps.ite (fun _ => ?_) (fun _ => ?_)
    | with_reducible refine foldl_keeps _ _ ?_ (fun _ _ h => ?_)
    | with_reducible refine foldl_pair_keeps _ _ _ ?_ (fun _ _ h => ?_)
    | with_reducible refine loadOp_keeps _ _ _ _ ?_

theorem execLds_keeps {s0 : State} (core : ℕ) (w : IWord) (s : State) (hs : Keeps s0 s) : KeepsOut s0 (execLds core w s) := by
  unfold execLds
  repeat' first
    | with_reducible refine KeepsOut.next ?_
    | exact KeepsOut.refused _
    | with_reducible assumption
    | with_reducible refine KeepsOut.ite (fun _ => ?_) (fun _ => ?_)
    | with_reducible refine Keeps.ite (fun _ => ?_) (fun _ => ?_)
    | with_reducible refine foldl_keeps _ _ ?_ (fun _ _ h => ?_)
    | with_reducible refine foldl_pair_keeps _ _ _ ?_ (fun _ _ h => ?_)
    | with_reducible refine loadOp_keeps _ _ _ _ ?_

theorem execLdm_keeps {s0 : State} (core : ℕ) (w : IWord) (s : State) (hs : Keeps s0 s) : KeepsOut s0 (execLdm core w s) := by
  unfold execLdm
  repeat' first
    | with_reducible refine KeepsOut.next ?_
    | exact KeepsOut.refused _
    | with_reducible assumption
    | with_reducible refine KeepsOut.ite (fun _ => ?_) (fun _ => ?_)
    | with_reducible refine Keeps.ite (fun _ => ?_) (fun _ => ?_)
    | with_reducible refine foldl_keeps _ _ ?_ (fun _ _ h => ?_)
    | with_reducible refine foldl_pair_keeps _ _ _ ?_ (fun _ _ h => ?_)
    | with_reducible refine loadOp_keeps _ _ _ _ ?_

theorem execSts_keeps {s0 : State} (core : ℕ) (w : IWord) (s : State) (hs : Keeps s0 s) : KeepsOut s0 (execSts core w s) := by
  unfold execSts
  repeat' first
    | with_reducible refine KeepsOut.next ?_
    | exact KeepsOut.refused _
    | with_reducible assumption
    | with_reducible refine KeepsOut.ite (fun _ => ?_) (fun _ => ?_)
    | with_reducible refine Keeps.ite (fun _ => ?_) (fun _ => ?_)
    | with_reducible refine forAll_keeps _ _ ?_ (fun _ _ h => ?_)
    | with_reducible refine foldl_keeps _ _ ?_ (fun _ _ h => ?_)
    | with_reducible refine foldl_pair_keeps _ _ _ ?_ (fun _ _ h => ?_)
    | with_reducible refine issue_keeps _ _ _ _ _ ?_ (fun _ _ h => ?_)
    | with_reducible refine progFault_keeps _ _ _ ?_
    | with_reducible refine setInv_keeps _ _ _ ?_
    | simp only [keeps_set_lanes, keeps_set_ports, keeps_set_blocks, keeps_set_sched, keeps_set_fabric, keeps_set_lasts, keeps_set_host, keeps_set_logs, keeps_set_chip, keeps_set_ctl, keeps_set_time, keeps_set_twin, keeps_set_peals, keeps_set_spine, keeps_set_circ, keeps_set_chans]
    | ((with_reducible refine Keeps.of_mem _ ?_ (fun m => ?_)); on_goal 2 => first | exact m | exact ⟨Memory.writes_wf _ _ m.1, m.2⟩ | exact ⟨m.1, Memory.writes_wf _ _ m.2.1, m.2.2⟩ | exact ⟨m.1, m.2.1, m.2.2.1, Memory.writes_wf _ _ m.2.2.2.1, m.2.2.2.2⟩ | exact ⟨m.1, m.2.1, m.2.2.1, m.2.2.2.1, Memory.writes_wf _ _ m.2.2.2.2⟩ | exact ⟨Memory.clear_wf _ _ m.1, m.2⟩ | exact ⟨m.1, m.2.1, m.2.2.1, Memory.clear_wf _ _ m.2.2.2.1, m.2.2.2.2⟩ | exact ⟨m.1, m.2.1, m.2.2.1, m.2.2.2.1, Memory.clear_wf _ _ m.2.2.2.2⟩)
    | refine KeepsP.get (by with_reducible assumption) ?_
    | refine KeepsT.get (by with_reducible assumption) ?_
    | simp only [keeps_snd_snd]
    | simp only [keeps_snd]
    | simp only [keepsP_mk]
    | with_reducible refine KeepsP.ite (fun _ => ?_) (fun _ => ?_)
    | split
    | dsimp only
    | (intro _ e; cases e)
    | (intro _ e; simp only [Option.some.injEq] at e; subst e)

theorem execStm_keeps {s0 : State} (core : Nat) (w : IWord) (s : State) (hs : Keeps s0 s) : KeepsOut s0 (execStm core w s) := by
  unfold execStm
  repeat' first
    | with_reducible refine KeepsOut.next ?_
    | exact KeepsOut.refused _
    | with_reducible assumption
    | with_reducible refine KeepsOut.ite (fun _ => ?_) (fun _ => ?_)
    | with_reducible refine Keeps.ite (fun _ => ?_) (fun _ => ?_)
    | with_reducible refine forAll_keeps _ _ ?_ (fun _ _ h => ?_)
    | with_reducible refine foldl_keeps _ _ ?_ (fun _ _ h => ?_)
    | with_reducible refine foldl_pair_keeps _ _ _ ?_ (fun _ _ h => ?_)
    | with_reducible refine issue_keeps _ _ _ _ _ ?_ (fun _ _ h => ?_)
    | with_reducible refine progFault_keeps _ _ _ ?_
    | with_reducible refine forAll_keeps _ _ _ ?_ (fun _ _ h => ?_)
    | with_reducible refine sliceStm_keeps _ _ _ _ _ _ ?_
    | with_reducible refine sliceServed_keeps _ _ _ _ _ _ _ _ ?_
    | with_reducible refine setInv_keeps _ _ _ ?_
    | simp only [keeps_set_lanes, keeps_set_ports, keeps_set_blocks, keeps_set_sched, keeps_set_fabric, keeps_set_lasts, keeps_set_host, keeps_set_logs, keeps_set_chip, keeps_set_ctl, keeps_set_time, keeps_set_twin, keeps_set_peals, keeps_set_spine, keeps_set_circ, keeps_set_chans]
    | refine KeepsP.get (by with_reducible assumption) ?_
    | refine KeepsT.get (by with_reducible assumption) ?_
    | simp only [keeps_snd_snd]
    | simp only [keeps_snd]
    | simp only [keepsP_mk]
    | with_reducible refine KeepsP.ite (fun _ => ?_) (fun _ => ?_)
    | split

theorem execLdi_keeps {s0 : State} (core : ℕ) (w : IWord) (s : State) (hs : Keeps s0 s) : KeepsOut s0 (execLdi core w s) := by
  unfold execLdi
  repeat' first
    | with_reducible refine KeepsOut.next ?_
    | exact KeepsOut.refused _
    | with_reducible assumption
    | with_reducible refine KeepsOut.ite (fun _ => ?_) (fun _ => ?_)
    | with_reducible refine Keeps.ite (fun _ => ?_) (fun _ => ?_)
    | with_reducible refine foldl_keeps _ _ ?_ (fun _ _ h => ?_)
    | with_reducible refine foldl_pair_keeps _ _ _ ?_ (fun _ _ h => ?_)
    | with_reducible refine regOp_keeps _ _ _ _ _ ?_

theorem execMov_keeps {s0 : State} (core : ℕ) (w : IWord) (s : State) (hs : Keeps s0 s) : KeepsOut s0 (execMov core w s) := by
  unfold execMov
  repeat' first
    | with_reducible refine KeepsOut.next ?_
    | exact KeepsOut.refused _
    | with_reducible assumption
    | with_reducible refine KeepsOut.ite (fun _ => ?_) (fun _ => ?_)
    | with_reducible refine Keeps.ite (fun _ => ?_) (fun _ => ?_)
    | with_reducible refine foldl_keeps _ _ ?_ (fun _ _ h => ?_)
    | with_reducible refine foldl_pair_keeps _ _ _ ?_ (fun _ _ h => ?_)
    | with_reducible refine regOp_keeps _ _ _ _ _ ?_

theorem execMovCtx_keeps {s0 : State} (core : ℕ) (w : IWord) (s : State) (hs : Keeps s0 s) : KeepsOut s0 (execMovCtx core w s) := by
  unfold execMovCtx
  repeat' first
    | with_reducible refine KeepsOut.next ?_
    | exact KeepsOut.refused _
    | with_reducible assumption
    | with_reducible refine KeepsOut.ite (fun _ => ?_) (fun _ => ?_)
    | with_reducible refine Keeps.ite (fun _ => ?_) (fun _ => ?_)
    | with_reducible refine foldl_keeps _ _ ?_ (fun _ _ h => ?_)
    | with_reducible refine foldl_pair_keeps _ _ _ ?_ (fun _ _ h => ?_)
    | with_reducible refine issue_keeps _ _ _ _ _ ?_ (fun _ _ h => ?_)
    | with_reducible refine setInv_keeps _ _ _ ?_

theorem execEmit_keeps {s0 : State} (core : ℕ) (w : IWord) (s : State) (hs : Keeps s0 s) : KeepsOut s0 (execEmit core w s) := by
  unfold execEmit
  repeat' first
    | with_reducible refine KeepsOut.next ?_
    | exact KeepsOut.refused _
    | with_reducible assumption
    | with_reducible refine KeepsOut.ite (fun _ => ?_) (fun _ => ?_)
    | with_reducible refine Keeps.ite (fun _ => ?_) (fun _ => ?_)
    | with_reducible refine foldl_keeps _ _ ?_ (fun _ _ h => ?_)
    | with_reducible refine foldl_pair_keeps _ _ _ ?_ (fun _ _ h => ?_)
    | with_reducible refine issue_keeps _ _ _ _ _ ?_ (fun _ _ h => ?_)
    | with_reducible refine progFault_keeps _ _ _ ?_
    | with_reducible refine setInv_keeps _ _ _ ?_

theorem putWin_keeps {s0 : State} (p : ℕ) (side : ℕ) (h : HeldWin) (s : State) (hs : Keeps s0 s) : Keeps s0 (putWin p side h s) := by
  unfold putWin
  repeat' first
    | with_reducible assumption
    | with_reducible refine Keeps.ite (fun _ => ?_) (fun _ => ?_)
    | with_reducible refine foldl_keeps _ _ ?_ (fun _ _ h => ?_)
    | with_reducible refine foldl_pair_keeps _ _ _ ?_ (fun _ _ h => ?_)
    | with_reducible refine State.modFabric_keeps _ _ ?_

theorem holderSend_keeps {s0 : State} (p : ℕ) (side : ℕ) (n : ℕ) (c : Cell) (s : State) (hs : Keeps s0 s) : Keeps s0 (holderSend p side n c s) := by
  unfold holderSend
  repeat' first
    | with_reducible assumption
    | with_reducible refine Keeps.ite (fun _ => ?_) (fun _ => ?_)
    | with_reducible refine foldl_keeps _ _ ?_ (fun _ _ h => ?_)
    | with_reducible refine foldl_pair_keeps _ _ _ ?_ (fun _ _ h => ?_)
    | with_reducible refine originate_keeps _ _ _ ?_
    | with_reducible refine putWin_keeps _ _ _ _ ?_
    | simp only [keeps_set_lanes, keeps_set_ports, keeps_set_blocks, keeps_set_sched, keeps_set_fabric, keeps_set_lasts, keeps_set_host, keeps_set_logs, keeps_set_chip, keeps_set_ctl, keeps_set_time, keeps_set_twin, keeps_set_peals, keeps_set_spine, keeps_set_circ, keeps_set_chans]
    | refine KeepsP.get (by with_reducible assumption) ?_
    | refine KeepsT.get (by with_reducible assumption) ?_
    | simp only [keeps_snd_snd]
    | simp only [keeps_snd]
    | simp only [keepsP_mk]
    | with_reducible refine KeepsP.ite (fun _ => ?_) (fun _ => ?_)
    | split

theorem execEcho_keeps {s0 : State} (core : ℕ) (w : IWord) (s : State) (hs : Keeps s0 s) : KeepsOut s0 (execEcho core w s) := by
  unfold execEcho
  repeat' first
    | with_reducible refine KeepsOut.next ?_
    | exact KeepsOut.refused _
    | with_reducible assumption
    | with_reducible refine KeepsOut.ite (fun _ => ?_) (fun _ => ?_)
    | with_reducible refine Keeps.ite (fun _ => ?_) (fun _ => ?_)
    | with_reducible refine foldl_keeps _ _ ?_ (fun _ _ h => ?_)
    | with_reducible refine foldl_pair_keeps _ _ _ ?_ (fun _ _ h => ?_)
    | with_reducible refine issue_keeps _ _ _ _ _ ?_ (fun _ _ h => ?_)
    | with_reducible refine progFault_keeps _ _ _ ?_
    | with_reducible refine putWin_keeps _ _ _ _ ?_
    | with_reducible refine holderSend_keeps _ _ _ _ _ ?_
    | with_reducible refine setInv_keeps _ _ _ ?_

theorem modRowOf_keeps {s0 : State} (i : Inv) (f : Row → Row) (s : State) (hs : Keeps s0 s) : Keeps s0 (modRowOf i f s) := by
  unfold modRowOf
  repeat' first
    | with_reducible assumption
    | with_reducible refine Keeps.ite (fun _ => ?_) (fun _ => ?_)
    | with_reducible refine foldl_keeps _ _ ?_ (fun _ _ h => ?_)
    | with_reducible refine foldl_pair_keeps _ _ _ ?_ (fun _ _ h => ?_)
    | with_reducible refine State.modChunk_keeps _ _ _ _ ?_

theorem vregOp_keeps {s0 : State} (sub : Bool) (op : ℕ) (core : ℕ) (w : IWord) (s : State) (hs : Keeps s0 s) : KeepsOut s0 (vregOp sub op core w s) := by
  unfold vregOp
  repeat' first
    | with_reducible refine KeepsOut.next ?_
    | exact KeepsOut.refused _
    | with_reducible assumption
    | with_reducible refine KeepsOut.ite (fun _ => ?_) (fun _ => ?_)
    | with_reducible refine Keeps.ite (fun _ => ?_) (fun _ => ?_)
    | with_reducible refine foldl_keeps _ _ ?_ (fun _ _ h => ?_)
    | with_reducible refine foldl_pair_keeps _ _ _ ?_ (fun _ _ h => ?_)
    | with_reducible refine issue_keeps _ _ _ _ _ ?_ (fun _ _ h => ?_)
    | with_reducible refine progFault_keeps _ _ _ ?_
    | with_reducible refine setInv_keeps _ _ _ ?_
    | with_reducible refine modRowOf_keeps _ _ _ ?_

theorem execAccxVreg_keeps {s0 : State} (core : ℕ) (w : IWord) (s : State) (hs : Keeps s0 s) : KeepsOut s0 (execAccxVreg core w s) := by
  unfold execAccxVreg
  repeat' first
    | with_reducible refine KeepsOut.next ?_
    | exact KeepsOut.refused _
    | with_reducible assumption
    | with_reducible refine KeepsOut.ite (fun _ => ?_) (fun _ => ?_)
    | with_reducible refine Keeps.ite (fun _ => ?_) (fun _ => ?_)
    | with_reducible refine foldl_keeps _ _ ?_ (fun _ _ h => ?_)
    | with_reducible refine foldl_pair_keeps _ _ _ ?_ (fun _ _ h => ?_)
    | with_reducible refine vregOp_keeps _ _ _ _ _ ?_

theorem execAccxCell_keeps {s0 : State} (core : ℕ) (w : IWord) (s : State) (hs : Keeps s0 s) : KeepsOut s0 (execAccxCell core w s) := by
  unfold execAccxCell
  repeat' first
    | with_reducible refine KeepsOut.next ?_
    | exact KeepsOut.refused _
    | with_reducible assumption
    | with_reducible refine KeepsOut.ite (fun _ => ?_) (fun _ => ?_)
    | with_reducible refine Keeps.ite (fun _ => ?_) (fun _ => ?_)
    | with_reducible refine foldl_keeps _ _ ?_ (fun _ _ h => ?_)
    | with_reducible refine foldl_pair_keeps _ _ _ ?_ (fun _ _ h => ?_)
    | with_reducible refine issue_keeps _ _ _ _ _ ?_ (fun _ _ h => ?_)
    | with_reducible refine setInv_keeps _ _ _ ?_
    | with_reducible refine modRowOf_keeps _ _ _ ?_
    | with_reducible refine progFault_keeps _ _ _ ?_
    | simp only [keeps_set_lanes, keeps_set_ports, keeps_set_blocks, keeps_set_sched, keeps_set_fabric, keeps_set_lasts, keeps_set_host, keeps_set_logs, keeps_set_chip, keeps_set_ctl, keeps_set_time, keeps_set_twin, keeps_set_peals, keeps_set_spine, keeps_set_circ, keeps_set_chans]
    | refine KeepsP.get (by with_reducible assumption) ?_
    | refine KeepsT.get (by with_reducible assumption) ?_
    | simp only [keeps_snd_snd]
    | simp only [keeps_snd]
    | simp only [keepsP_mk]
    | with_reducible refine KeepsP.ite (fun _ => ?_) (fun _ => ?_)
    | split

theorem execUnacc_keeps {s0 : State} (core : ℕ) (w : IWord) (s : State) (hs : Keeps s0 s) : KeepsOut s0 (execUnacc core w s) := by
  unfold execUnacc
  repeat' first
    | with_reducible refine KeepsOut.next ?_
    | exact KeepsOut.refused _
    | with_reducible assumption
    | with_reducible refine KeepsOut.ite (fun _ => ?_) (fun _ => ?_)
    | with_reducible refine Keeps.ite (fun _ => ?_) (fun _ => ?_)
    | with_reducible refine foldl_keeps _ _ ?_ (fun _ _ h => ?_)
    | with_reducible refine foldl_pair_keeps _ _ _ ?_ (fun _ _ h => ?_)
    | with_reducible refine vregOp_keeps _ _ _ _ _ ?_
    | with_reducible refine issue_keeps _ _ _ _ _ ?_ (fun _ _ h => ?_)
    | with_reducible refine progFault_keeps _ _ _ ?_
    | with_reducible refine setInv_keeps _ _ _ ?_
    | with_reducible refine modRowOf_keeps _ _ _ ?_
    | simp only [keeps_set_lanes, keeps_set_ports, keeps_set_blocks, keeps_set_sched, keeps_set_fabric, keeps_set_lasts, keeps_set_host, keeps_set_logs, keeps_set_chip, keeps_set_ctl, keeps_set_time, keeps_set_twin, keeps_set_peals, keeps_set_spine, keeps_set_circ, keeps_set_chans]
    | refine KeepsP.get (by with_reducible assumption) ?_
    | refine KeepsT.get (by with_reducible assumption) ?_
    | simp only [keeps_snd_snd]
    | simp only [keeps_snd]
    | simp only [keepsP_mk]
    | with_reducible refine KeepsP.ite (fun _ => ?_) (fun _ => ?_)
    | split

theorem execRndx_keeps {s0 : State} (core : ℕ) (w : IWord) (s : State) (hs : Keeps s0 s) : KeepsOut s0 (execRndx core w s) := by
  unfold execRndx
  repeat' first
    | with_reducible refine KeepsOut.next ?_
    | exact KeepsOut.refused _
    | with_reducible assumption
    | with_reducible refine KeepsOut.ite (fun _ => ?_) (fun _ => ?_)
    | with_reducible refine Keeps.ite (fun _ => ?_) (fun _ => ?_)
    | with_reducible refine foldl_keeps _ _ ?_ (fun _ _ h => ?_)
    | with_reducible refine foldl_pair_keeps _ _ _ ?_ (fun _ _ h => ?_)
    | with_reducible refine issue_keeps _ _ _ _ _ ?_ (fun _ _ h => ?_)
    | with_reducible refine setInv_keeps _ _ _ ?_

theorem execChk_keeps {s0 : State} (core : Nat) (w : IWord) (s : State) (hs : Keeps s0 s) : KeepsOut s0 (execChk core w s) := by
  unfold execChk
  repeat' first
    | with_reducible refine KeepsOut.next ?_
    | exact KeepsOut.refused _
    | with_reducible assumption
    | with_reducible refine KeepsOut.ite (fun _ => ?_) (fun _ => ?_)
    | with_reducible refine Keeps.ite (fun _ => ?_) (fun _ => ?_)
    | with_reducible refine foldl_keeps _ _ ?_ (fun _ _ h => ?_)
    | with_reducible refine foldl_pair_keeps _ _ _ ?_ (fun _ _ h => ?_)
    | with_reducible refine issue_keeps _ _ _ _ _ ?_ (fun _ _ h => ?_)
    | with_reducible refine setInv_keeps _ _ _ ?_
    | with_reducible refine residueVoid_keeps _ _ _ _ ?_
    | with_reducible refine dropInv_keeps _ _ ?_
    | simp only [keeps_set_lanes, keeps_set_ports, keeps_set_blocks, keeps_set_sched, keeps_set_fabric, keeps_set_lasts, keeps_set_host, keeps_set_logs, keeps_set_chip, keeps_set_ctl, keeps_set_time, keeps_set_twin, keeps_set_peals, keeps_set_spine, keeps_set_circ, keeps_set_chans]
    | refine KeepsP.get (by with_reducible assumption) ?_
    | refine KeepsT.get (by with_reducible assumption) ?_
    | simp only [keeps_snd_snd]
    | simp only [keeps_snd]
    | simp only [keepsP_mk]
    | with_reducible refine KeepsP.ite (fun _ => ?_) (fun _ => ?_)
    | split

theorem execVsum_keeps {s0 : State} (core : ℕ) (w : IWord) (s : State) (hs : Keeps s0 s) : KeepsOut s0 (execVsum core w s) := by
  unfold execVsum
  repeat' first
    | with_reducible refine KeepsOut.next ?_
    | exact KeepsOut.refused _
    | with_reducible assumption
    | with_reducible refine KeepsOut.ite (fun _ => ?_) (fun _ => ?_)
    | with_reducible refine Keeps.ite (fun _ => ?_) (fun _ => ?_)
    | with_reducible refine foldl_keeps _ _ ?_ (fun _ _ h => ?_)
    | with_reducible refine foldl_pair_keeps _ _ _ ?_ (fun _ _ h => ?_)
    | with_reducible refine regOp_keeps _ _ _ _ _ ?_

theorem execFadd_keeps {s0 : State} (core : ℕ) (w : IWord) (s : State) (hs : Keeps s0 s) : KeepsOut s0 (execFadd core w s) := by
  unfold execFadd
  repeat' first
    | with_reducible refine KeepsOut.next ?_
    | exact KeepsOut.refused _
    | with_reducible assumption
    | with_reducible refine KeepsOut.ite (fun _ => ?_) (fun _ => ?_)
    | with_reducible refine Keeps.ite (fun _ => ?_) (fun _ => ?_)
    | with_reducible refine foldl_keeps _ _ ?_ (fun _ _ h => ?_)
    | with_reducible refine foldl_pair_keeps _ _ _ ?_ (fun _ _ h => ?_)
    | with_reducible refine regOp_keeps _ _ _ _ _ ?_

theorem execFsub_keeps {s0 : State} (core : ℕ) (w : IWord) (s : State) (hs : Keeps s0 s) : KeepsOut s0 (execFsub core w s) := by
  unfold execFsub
  repeat' first
    | with_reducible refine KeepsOut.next ?_
    | exact KeepsOut.refused _
    | with_reducible assumption
    | with_reducible refine KeepsOut.ite (fun _ => ?_) (fun _ => ?_)
    | with_reducible refine Keeps.ite (fun _ => ?_) (fun _ => ?_)
    | with_reducible refine foldl_keeps _ _ ?_ (fun _ _ h => ?_)
    | with_reducible refine foldl_pair_keeps _ _ _ ?_ (fun _ _ h => ?_)
    | with_reducible refine regOp_keeps _ _ _ _ _ ?_

theorem execFmul_keeps {s0 : State} (core : ℕ) (w : IWord) (s : State) (hs : Keeps s0 s) : KeepsOut s0 (execFmul core w s) := by
  unfold execFmul
  repeat' first
    | with_reducible refine KeepsOut.next ?_
    | exact KeepsOut.refused _
    | with_reducible assumption
    | with_reducible refine KeepsOut.ite (fun _ => ?_) (fun _ => ?_)
    | with_reducible refine Keeps.ite (fun _ => ?_) (fun _ => ?_)
    | with_reducible refine foldl_keeps _ _ ?_ (fun _ _ h => ?_)
    | with_reducible refine foldl_pair_keeps _ _ _ ?_ (fun _ _ h => ?_)
    | with_reducible refine regOp_keeps _ _ _ _ _ ?_

theorem execFfma_keeps {s0 : State} (core : ℕ) (w : IWord) (s : State) (hs : Keeps s0 s) : KeepsOut s0 (execFfma core w s) := by
  unfold execFfma
  repeat' first
    | with_reducible refine KeepsOut.next ?_
    | exact KeepsOut.refused _
    | with_reducible assumption
    | with_reducible refine KeepsOut.ite (fun _ => ?_) (fun _ => ?_)
    | with_reducible refine Keeps.ite (fun _ => ?_) (fun _ => ?_)
    | with_reducible refine foldl_keeps _ _ ?_ (fun _ _ h => ?_)
    | with_reducible refine foldl_pair_keeps _ _ _ ?_ (fun _ _ h => ?_)
    | with_reducible refine regOp_keeps _ _ _ _ _ ?_

theorem execFmax_keeps {s0 : State} (core : ℕ) (w : IWord) (s : State) (hs : Keeps s0 s) : KeepsOut s0 (execFmax core w s) := by
  unfold execFmax
  repeat' first
    | with_reducible refine KeepsOut.next ?_
    | exact KeepsOut.refused _
    | with_reducible assumption
    | with_reducible refine KeepsOut.ite (fun _ => ?_) (fun _ => ?_)
    | with_reducible refine Keeps.ite (fun _ => ?_) (fun _ => ?_)
    | with_reducible refine foldl_keeps _ _ ?_ (fun _ _ h => ?_)
    | with_reducible refine foldl_pair_keeps _ _ _ ?_ (fun _ _ h => ?_)
    | with_reducible refine regOp_keeps _ _ _ _ _ ?_

theorem execFmin_keeps {s0 : State} (core : ℕ) (w : IWord) (s : State) (hs : Keeps s0 s) : KeepsOut s0 (execFmin core w s) := by
  unfold execFmin
  repeat' first
    | with_reducible refine KeepsOut.next ?_
    | exact KeepsOut.refused _
    | with_reducible assumption
    | with_reducible refine KeepsOut.ite (fun _ => ?_) (fun _ => ?_)
    | with_reducible refine Keeps.ite (fun _ => ?_) (fun _ => ?_)
    | with_reducible refine foldl_keeps _ _ ?_ (fun _ _ h => ?_)
    | with_reducible refine foldl_pair_keeps _ _ _ ?_ (fun _ _ h => ?_)
    | with_reducible refine regOp_keeps _ _ _ _ _ ?_

theorem execFscl_keeps {s0 : State} (core : ℕ) (w : IWord) (s : State) (hs : Keeps s0 s) : KeepsOut s0 (execFscl core w s) := by
  unfold execFscl
  repeat' first
    | with_reducible refine KeepsOut.next ?_
    | exact KeepsOut.refused _
    | with_reducible assumption
    | with_reducible refine KeepsOut.ite (fun _ => ?_) (fun _ => ?_)
    | with_reducible refine Keeps.ite (fun _ => ?_) (fun _ => ?_)
    | with_reducible refine foldl_keeps _ _ ?_ (fun _ _ h => ?_)
    | with_reducible refine foldl_pair_keeps _ _ _ ?_ (fun _ _ h => ?_)
    | with_reducible refine regOp_keeps _ _ _ _ _ ?_

theorem execFabs_keeps {s0 : State} (core : ℕ) (w : IWord) (s : State) (hs : Keeps s0 s) : KeepsOut s0 (execFabs core w s) := by
  unfold execFabs
  repeat' first
    | with_reducible refine KeepsOut.next ?_
    | exact KeepsOut.refused _
    | with_reducible assumption
    | with_reducible refine KeepsOut.ite (fun _ => ?_) (fun _ => ?_)
    | with_reducible refine Keeps.ite (fun _ => ?_) (fun _ => ?_)
    | with_reducible refine foldl_keeps _ _ ?_ (fun _ _ h => ?_)
    | with_reducible refine foldl_pair_keeps _ _ _ ?_ (fun _ _ h => ?_)
    | with_reducible refine regOp_keeps _ _ _ _ _ ?_

theorem execFneg_keeps {s0 : State} (core : ℕ) (w : IWord) (s : State) (hs : Keeps s0 s) : KeepsOut s0 (execFneg core w s) := by
  unfold execFneg
  repeat' first
    | with_reducible refine KeepsOut.next ?_
    | exact KeepsOut.refused _
    | with_reducible assumption
    | with_reducible refine KeepsOut.ite (fun _ => ?_) (fun _ => ?_)
    | with_reducible refine Keeps.ite (fun _ => ?_) (fun _ => ?_)
    | with_reducible refine foldl_keeps _ _ ?_ (fun _ _ h => ?_)
    | with_reducible refine foldl_pair_keeps _ _ _ ?_ (fun _ _ h => ?_)
    | with_reducible refine regOp_keeps _ _ _ _ _ ?_

theorem execFclmp_keeps {s0 : State} (core : ℕ) (w : IWord) (s : State) (hs : Keeps s0 s) : KeepsOut s0 (execFclmp core w s) := by
  unfold execFclmp
  repeat' first
    | with_reducible refine KeepsOut.next ?_
    | exact KeepsOut.refused _
    | with_reducible assumption
    | with_reducible refine KeepsOut.ite (fun _ => ?_) (fun _ => ?_)
    | with_reducible refine Keeps.ite (fun _ => ?_) (fun _ => ?_)
    | with_reducible refine foldl_keeps _ _ ?_ (fun _ _ h => ?_)
    | with_reducible refine foldl_pair_keeps _ _ _ ?_ (fun _ _ h => ?_)
    | with_reducible refine regOp_keeps _ _ _ _ _ ?_

theorem checkedOp_keeps {s0 : State} (op : ℕ) (core : ℕ) (w : IWord) (check : SelfCheck) (s : State) (f : Inv → Inv) (hs : Keeps s0 s) : KeepsOut s0 (checkedOp op core w check s f) := by
  unfold checkedOp
  repeat' first
    | with_reducible refine KeepsOut.next ?_
    | exact KeepsOut.refused _
    | with_reducible assumption
    | with_reducible refine KeepsOut.ite (fun _ => ?_) (fun _ => ?_)
    | with_reducible refine Keeps.ite (fun _ => ?_) (fun _ => ?_)
    | with_reducible refine foldl_keeps _ _ ?_ (fun _ _ h => ?_)
    | with_reducible refine foldl_pair_keeps _ _ _ ?_ (fun _ _ h => ?_)
    | with_reducible refine regOp_keeps _ _ _ _ _ ?_
    | with_reducible refine issue_keeps _ _ _ _ _ ?_ (fun _ _ h => ?_)
    | with_reducible refine progFault_keeps _ _ _ ?_
    | simp only [keeps_set_lanes, keeps_set_ports, keeps_set_blocks, keeps_set_sched, keeps_set_fabric, keeps_set_lasts, keeps_set_host, keeps_set_logs, keeps_set_chip, keeps_set_ctl, keeps_set_time, keeps_set_twin, keeps_set_peals, keeps_set_spine, keeps_set_circ, keeps_set_chans]
    | refine KeepsP.get (by with_reducible assumption) ?_
    | refine KeepsT.get (by with_reducible assumption) ?_
    | simp only [keeps_snd_snd]
    | simp only [keeps_snd]
    | simp only [keepsP_mk]
    | with_reducible refine KeepsP.ite (fun _ => ?_) (fun _ => ?_)
    | split

theorem execFdiv_keeps {s0 : State} (core : ℕ) (w : IWord) (check : SelfCheck) (s : State) (hs : Keeps s0 s) : KeepsOut s0 (execFdiv core w check s) := by
  unfold execFdiv
  repeat' first
    | with_reducible refine KeepsOut.next ?_
    | exact KeepsOut.refused _
    | with_reducible assumption
    | with_reducible refine KeepsOut.ite (fun _ => ?_) (fun _ => ?_)
    | with_reducible refine Keeps.ite (fun _ => ?_) (fun _ => ?_)
    | with_reducible refine foldl_keeps _ _ ?_ (fun _ _ h => ?_)
    | with_reducible refine foldl_pair_keeps _ _ _ ?_ (fun _ _ h => ?_)
    | with_reducible refine checkedOp_keeps _ _ _ _ _ _ ?_

theorem execFsqrt_keeps {s0 : State} (core : ℕ) (w : IWord) (check : SelfCheck) (s : State) (hs : Keeps s0 s) : KeepsOut s0 (execFsqrt core w check s) := by
  unfold execFsqrt
  repeat' first
    | with_reducible refine KeepsOut.next ?_
    | exact KeepsOut.refused _
    | with_reducible assumption
    | with_reducible refine KeepsOut.ite (fun _ => ?_) (fun _ => ?_)
    | with_reducible refine Keeps.ite (fun _ => ?_) (fun _ => ?_)
    | with_reducible refine foldl_keeps _ _ ?_ (fun _ _ h => ?_)
    | with_reducible refine foldl_pair_keeps _ _ _ ?_ (fun _ _ h => ?_)
    | with_reducible refine checkedOp_keeps _ _ _ _ _ _ ?_

theorem execFrsq_keeps {s0 : State} (core : ℕ) (w : IWord) (check : SelfCheck) (s : State) (hs : Keeps s0 s) : KeepsOut s0 (execFrsq core w check s) := by
  unfold execFrsq
  repeat' first
    | with_reducible refine KeepsOut.next ?_
    | exact KeepsOut.refused _
    | with_reducible assumption
    | with_reducible refine KeepsOut.ite (fun _ => ?_) (fun _ => ?_)
    | with_reducible refine Keeps.ite (fun _ => ?_) (fun _ => ?_)
    | with_reducible refine foldl_keeps _ _ ?_ (fun _ _ h => ?_)
    | with_reducible refine foldl_pair_keeps _ _ _ ?_ (fun _ _ h => ?_)
    | with_reducible refine checkedOp_keeps _ _ _ _ _ _ ?_

theorem execIadd_keeps {s0 : State} (core : ℕ) (w : IWord) (s : State) (hs : Keeps s0 s) : KeepsOut s0 (execIadd core w s) := by
  unfold execIadd
  repeat' first
    | with_reducible refine KeepsOut.next ?_
    | exact KeepsOut.refused _
    | with_reducible assumption
    | with_reducible refine KeepsOut.ite (fun _ => ?_) (fun _ => ?_)
    | with_reducible refine Keeps.ite (fun _ => ?_) (fun _ => ?_)
    | with_reducible refine foldl_keeps _ _ ?_ (fun _ _ h => ?_)
    | with_reducible refine foldl_pair_keeps _ _ _ ?_ (fun _ _ h => ?_)
    | with_reducible refine regOp_keeps _ _ _ _ _ ?_

theorem execIsub_keeps {s0 : State} (core : ℕ) (w : IWord) (s : State) (hs : Keeps s0 s) : KeepsOut s0 (execIsub core w s) := by
  unfold execIsub
  repeat' first
    | with_reducible refine KeepsOut.next ?_
    | exact KeepsOut.refused _
    | with_reducible assumption
    | with_reducible refine KeepsOut.ite (fun _ => ?_) (fun _ => ?_)
    | with_reducible refine Keeps.ite (fun _ => ?_) (fun _ => ?_)
    | with_reducible refine foldl_keeps _ _ ?_ (fun _ _ h => ?_)
    | with_reducible refine foldl_pair_keeps _ _ _ ?_ (fun _ _ h => ?_)
    | with_reducible refine regOp_keeps _ _ _ _ _ ?_

theorem execImax_keeps {s0 : State} (core : ℕ) (w : IWord) (s : State) (hs : Keeps s0 s) : KeepsOut s0 (execImax core w s) := by
  unfold execImax
  repeat' first
    | with_reducible refine KeepsOut.next ?_
    | exact KeepsOut.refused _
    | with_reducible assumption
    | with_reducible refine KeepsOut.ite (fun _ => ?_) (fun _ => ?_)
    | with_reducible refine Keeps.ite (fun _ => ?_) (fun _ => ?_)
    | with_reducible refine foldl_keeps _ _ ?_ (fun _ _ h => ?_)
    | with_reducible refine foldl_pair_keeps _ _ _ ?_ (fun _ _ h => ?_)
    | with_reducible refine regOp_keeps _ _ _ _ _ ?_

theorem execImin_keeps {s0 : State} (core : ℕ) (w : IWord) (s : State) (hs : Keeps s0 s) : KeepsOut s0 (execImin core w s) := by
  unfold execImin
  repeat' first
    | with_reducible refine KeepsOut.next ?_
    | exact KeepsOut.refused _
    | with_reducible assumption
    | with_reducible refine KeepsOut.ite (fun _ => ?_) (fun _ => ?_)
    | with_reducible refine Keeps.ite (fun _ => ?_) (fun _ => ?_)
    | with_reducible refine foldl_keeps _ _ ?_ (fun _ _ h => ?_)
    | with_reducible refine foldl_pair_keeps _ _ _ ?_ (fun _ _ h => ?_)
    | with_reducible refine regOp_keeps _ _ _ _ _ ?_

theorem execAnd_keeps {s0 : State} (core : ℕ) (w : IWord) (s : State) (hs : Keeps s0 s) : KeepsOut s0 (execAnd core w s) := by
  unfold execAnd
  repeat' first
    | with_reducible refine KeepsOut.next ?_
    | exact KeepsOut.refused _
    | with_reducible assumption
    | with_reducible refine KeepsOut.ite (fun _ => ?_) (fun _ => ?_)
    | with_reducible refine Keeps.ite (fun _ => ?_) (fun _ => ?_)
    | with_reducible refine foldl_keeps _ _ ?_ (fun _ _ h => ?_)
    | with_reducible refine foldl_pair_keeps _ _ _ ?_ (fun _ _ h => ?_)
    | with_reducible refine regOp_keeps _ _ _ _ _ ?_

theorem execOr_keeps {s0 : State} (core : ℕ) (w : IWord) (s : State) (hs : Keeps s0 s) : KeepsOut s0 (execOr core w s) := by
  unfold execOr
  repeat' first
    | with_reducible refine KeepsOut.next ?_
    | exact KeepsOut.refused _
    | with_reducible assumption
    | with_reducible refine KeepsOut.ite (fun _ => ?_) (fun _ => ?_)
    | with_reducible refine Keeps.ite (fun _ => ?_) (fun _ => ?_)
    | with_reducible refine foldl_keeps _ _ ?_ (fun _ _ h => ?_)
    | with_reducible refine foldl_pair_keeps _ _ _ ?_ (fun _ _ h => ?_)
    | with_reducible refine regOp_keeps _ _ _ _ _ ?_

theorem execXor_keeps {s0 : State} (core : ℕ) (w : IWord) (s : State) (hs : Keeps s0 s) : KeepsOut s0 (execXor core w s) := by
  unfold execXor
  repeat' first
    | with_reducible refine KeepsOut.next ?_
    | exact KeepsOut.refused _
    | with_reducible assumption
    | with_reducible refine KeepsOut.ite (fun _ => ?_) (fun _ => ?_)
    | with_reducible refine Keeps.ite (fun _ => ?_) (fun _ => ?_)
    | with_reducible refine foldl_keeps _ _ ?_ (fun _ _ h => ?_)
    | with_reducible refine foldl_pair_keeps _ _ _ ?_ (fun _ _ h => ?_)
    | with_reducible refine regOp_keeps _ _ _ _ _ ?_

theorem execShl_keeps {s0 : State} (core : ℕ) (w : IWord) (s : State) (hs : Keeps s0 s) : KeepsOut s0 (execShl core w s) := by
  unfold execShl
  repeat' first
    | with_reducible refine KeepsOut.next ?_
    | exact KeepsOut.refused _
    | with_reducible assumption
    | with_reducible refine KeepsOut.ite (fun _ => ?_) (fun _ => ?_)
    | with_reducible refine Keeps.ite (fun _ => ?_) (fun _ => ?_)
    | with_reducible refine foldl_keeps _ _ ?_ (fun _ _ h => ?_)
    | with_reducible refine foldl_pair_keeps _ _ _ ?_ (fun _ _ h => ?_)
    | with_reducible refine regOp_keeps _ _ _ _ _ ?_

theorem execShr_keeps {s0 : State} (core : ℕ) (w : IWord) (s : State) (hs : Keeps s0 s) : KeepsOut s0 (execShr core w s) := by
  unfold execShr
  repeat' first
    | with_reducible refine KeepsOut.next ?_
    | exact KeepsOut.refused _
    | with_reducible assumption
    | with_reducible refine KeepsOut.ite (fun _ => ?_) (fun _ => ?_)
    | with_reducible refine Keeps.ite (fun _ => ?_) (fun _ => ?_)
    | with_reducible refine foldl_keeps _ _ ?_ (fun _ _ h => ?_)
    | with_reducible refine foldl_pair_keeps _ _ _ ?_ (fun _ _ h => ?_)
    | with_reducible refine regOp_keeps _ _ _ _ _ ?_

theorem execShrArith_keeps {s0 : State} (core : ℕ) (w : IWord) (s : State) (hs : Keeps s0 s) : KeepsOut s0 (execShrArith core w s) := by
  unfold execShrArith
  repeat' first
    | with_reducible refine KeepsOut.next ?_
    | exact KeepsOut.refused _
    | with_reducible assumption
    | with_reducible refine KeepsOut.ite (fun _ => ?_) (fun _ => ?_)
    | with_reducible refine Keeps.ite (fun _ => ?_) (fun _ => ?_)
    | with_reducible refine foldl_keeps _ _ ?_ (fun _ _ h => ?_)
    | with_reducible refine foldl_pair_keeps _ _ _ ?_ (fun _ _ h => ?_)
    | with_reducible refine regOp_keeps _ _ _ _ _ ?_

theorem execCvt_keeps {s0 : State} (core : ℕ) (w : IWord) (s : State) (hs : Keeps s0 s) : KeepsOut s0 (execCvt core w s) := by
  unfold execCvt
  repeat' first
    | with_reducible refine KeepsOut.next ?_
    | exact KeepsOut.refused _
    | with_reducible assumption
    | with_reducible refine KeepsOut.ite (fun _ => ?_) (fun _ => ?_)
    | with_reducible refine Keeps.ite (fun _ => ?_) (fun _ => ?_)
    | with_reducible refine foldl_keeps _ _ ?_ (fun _ _ h => ?_)
    | with_reducible refine foldl_pair_keeps _ _ _ ?_ (fun _ _ h => ?_)
    | with_reducible refine regOp_keeps _ _ _ _ _ ?_

theorem execQnt_keeps {s0 : State} (core : ℕ) (w : IWord) (s : State) (hs : Keeps s0 s) : KeepsOut s0 (execQnt core w s) := by
  unfold execQnt
  repeat' first
    | with_reducible refine KeepsOut.next ?_
    | exact KeepsOut.refused _
    | with_reducible assumption
    | with_reducible refine KeepsOut.ite (fun _ => ?_) (fun _ => ?_)
    | with_reducible refine Keeps.ite (fun _ => ?_) (fun _ => ?_)
    | with_reducible refine foldl_keeps _ _ ?_ (fun _ _ h => ?_)
    | with_reducible refine foldl_pair_keeps _ _ _ ?_ (fun _ _ h => ?_)
    | with_reducible refine regOp_keeps _ _ _ _ _ ?_

theorem execDqt_keeps {s0 : State} (core : ℕ) (w : IWord) (s : State) (hs : Keeps s0 s) : KeepsOut s0 (execDqt core w s) := by
  unfold execDqt
  repeat' first
    | with_reducible refine KeepsOut.next ?_
    | exact KeepsOut.refused _
    | with_reducible assumption
    | with_reducible refine KeepsOut.ite (fun _ => ?_) (fun _ => ?_)
    | with_reducible refine Keeps.ite (fun _ => ?_) (fun _ => ?_)
    | with_reducible refine foldl_keeps _ _ ?_ (fun _ _ h => ?_)
    | with_reducible refine foldl_pair_keeps _ _ _ ?_ (fun _ _ h => ?_)
    | with_reducible refine issue_keeps _ _ _ _ _ ?_ (fun _ _ h => ?_)
    | with_reducible refine setInv_keeps _ _ _ ?_

theorem execFcmp_keeps {s0 : State} (core : ℕ) (w : IWord) (s : State) (hs : Keeps s0 s) : KeepsOut s0 (execFcmp core w s) := by
  unfold execFcmp
  repeat' first
    | with_reducible refine KeepsOut.next ?_
    | exact KeepsOut.refused _
    | with_reducible assumption
    | with_reducible refine KeepsOut.ite (fun _ => ?_) (fun _ => ?_)
    | with_reducible refine Keeps.ite (fun _ => ?_) (fun _ => ?_)
    | with_reducible refine foldl_keeps _ _ ?_ (fun _ _ h => ?_)
    | with_reducible refine foldl_pair_keeps _ _ _ ?_ (fun _ _ h => ?_)
    | with_reducible refine regOp_keeps _ _ _ _ _ ?_

theorem execIcmp_keeps {s0 : State} (core : ℕ) (w : IWord) (s : State) (hs : Keeps s0 s) : KeepsOut s0 (execIcmp core w s) := by
  unfold execIcmp
  repeat' first
    | with_reducible refine KeepsOut.next ?_
    | exact KeepsOut.refused _
    | with_reducible assumption
    | with_reducible refine KeepsOut.ite (fun _ => ?_) (fun _ => ?_)
    | with_reducible refine Keeps.ite (fun _ => ?_) (fun _ => ?_)
    | with_reducible refine foldl_keeps _ _ ?_ (fun _ _ h => ?_)
    | with_reducible refine foldl_pair_keeps _ _ _ ?_ (fun _ _ h => ?_)
    | with_reducible refine State.draw_keeps ?_
    | with_reducible refine issue_keeps _ _ _ _ _ ?_ (fun _ _ h => ?_)
    | with_reducible refine setInv_keeps _ _ _ ?_

theorem execSel_keeps {s0 : State} (core : ℕ) (w : IWord) (s : State) (hs : Keeps s0 s) : KeepsOut s0 (execSel core w s) := by
  unfold execSel
  repeat' first
    | with_reducible refine KeepsOut.next ?_
    | exact KeepsOut.refused _
    | with_reducible assumption
    | with_reducible refine KeepsOut.ite (fun _ => ?_) (fun _ => ?_)
    | with_reducible refine Keeps.ite (fun _ => ?_) (fun _ => ?_)
    | with_reducible refine foldl_keeps _ _ ?_ (fun _ _ h => ?_)
    | with_reducible refine foldl_pair_keeps _ _ _ ?_ (fun _ _ h => ?_)
    | with_reducible refine regOp_keeps _ _ _ _ _ ?_

theorem jump_keeps {s0 : State} (core : ℕ) (off : ℤ) (i : Inv) (s : State) (hs : Keeps s0 s) : Keeps s0 (jump core off i s) := by
  unfold jump
  repeat' first
    | with_reducible assumption
    | with_reducible refine Keeps.ite (fun _ => ?_) (fun _ => ?_)
    | with_reducible refine foldl_keeps _ _ ?_ (fun _ _ h => ?_)
    | with_reducible refine foldl_pair_keeps _ _ _ ?_ (fun _ _ h => ?_)
    | with_reducible refine progFault_keeps _ _ _ ?_
    | with_reducible refine setInv_keeps _ _ _ ?_

theorem execBr_keeps {s0 : State} (core : ℕ) (w : IWord) (s : State) (hs : Keeps s0 s) : KeepsOut s0 (execBr core w s) := by
  unfold execBr
  repeat' first
    | with_reducible refine KeepsOut.next ?_
    | exact KeepsOut.refused _
    | with_reducible assumption
    | with_reducible refine KeepsOut.ite (fun _ => ?_) (fun _ => ?_)
    | with_reducible refine Keeps.ite (fun _ => ?_) (fun _ => ?_)
    | with_reducible refine foldl_keeps _ _ ?_ (fun _ _ h => ?_)
    | with_reducible refine foldl_pair_keeps _ _ _ ?_ (fun _ _ h => ?_)
    | with_reducible refine issue_keeps _ _ _ _ _ ?_ (fun _ _ h => ?_)
    | with_reducible refine jump_keeps _ _ _ _ ?_

theorem execBrp_keeps {s0 : State} (core : ℕ) (w : IWord) (s : State) (hs : Keeps s0 s) : KeepsOut s0 (execBrp core w s) := by
  unfold execBrp
  repeat' first
    | with_reducible refine KeepsOut.next ?_
    | exact KeepsOut.refused _
    | with_reducible assumption
    | with_reducible refine KeepsOut.ite (fun _ => ?_) (fun _ => ?_)
    | with_reducible refine Keeps.ite (fun _ => ?_) (fun _ => ?_)
    | with_reducible refine foldl_keeps _ _ ?_ (fun _ _ h => ?_)
    | with_reducible refine foldl_pair_keeps _ _ _ ?_ (fun _ _ h => ?_)
    | with_reducible refine issue_keeps _ _ _ _ _ ?_ (fun _ _ h => ?_)
    | with_reducible refine jump_keeps _ _ _ _ ?_
    | with_reducible refine setInv_keeps _ _ _ ?_

theorem execWaitSend_keeps {s0 : State} (core : ℕ) (w : IWord) (s : State) (hs : Keeps s0 s) : KeepsOut s0 (execWaitSend core w s) := by
  unfold execWaitSend
  repeat' first
    | with_reducible refine KeepsOut.next ?_
    | exact KeepsOut.refused _
    | with_reducible assumption
    | with_reducible refine KeepsOut.ite (fun _ => ?_) (fun _ => ?_)
    | with_reducible refine Keeps.ite (fun _ => ?_) (fun _ => ?_)
    | with_reducible refine foldl_keeps _ _ ?_ (fun _ _ h => ?_)
    | with_reducible refine foldl_pair_keeps _ _ _ ?_ (fun _ _ h => ?_)
    | with_reducible refine regOp_keeps _ _ _ _ _ ?_

theorem execWaitLink_keeps {s0 : State} (core : Nat) (w : IWord) (s : State) (hs : Keeps s0 s) : KeepsOut s0 (execWaitLink core w s) := by
  unfold execWaitLink
  repeat' first
    | with_reducible refine KeepsOut.next ?_
    | exact KeepsOut.refused _
    | with_reducible assumption
    | with_reducible refine KeepsOut.ite (fun _ => ?_) (fun _ => ?_)
    | with_reducible refine Keeps.ite (fun _ => ?_) (fun _ => ?_)
    | with_reducible refine foldl_keeps _ _ ?_ (fun _ _ h => ?_)
    | with_reducible refine foldl_pair_keeps _ _ _ ?_ (fun _ _ h => ?_)
    | with_reducible refine setInv_keeps _ _ _ ?_
    | with_reducible refine regOp_keeps _ _ _ _ _ ?_
    | simp only [keeps_set_lanes, keeps_set_ports, keeps_set_blocks, keeps_set_sched, keeps_set_fabric, keeps_set_lasts, keeps_set_host, keeps_set_logs, keeps_set_chip, keeps_set_ctl, keeps_set_time, keeps_set_twin, keeps_set_peals, keeps_set_spine, keeps_set_circ, keeps_set_chans]
    | refine KeepsP.get (by with_reducible assumption) ?_
    | refine KeepsT.get (by with_reducible assumption) ?_
    | simp only [keeps_snd_snd]
    | simp only [keeps_snd]
    | simp only [keepsP_mk]
    | with_reducible refine KeepsP.ite (fun _ => ?_) (fun _ => ?_)
    | split

theorem execFence_keeps {s0 : State} (core : ℕ) (w : IWord) (s : State) (hs : Keeps s0 s) : KeepsOut s0 (execFence core w s) := by
  unfold execFence
  repeat' first
    | with_reducible refine KeepsOut.next ?_
    | exact KeepsOut.refused _
    | with_reducible assumption
    | with_reducible refine KeepsOut.ite (fun _ => ?_) (fun _ => ?_)
    | with_reducible refine Keeps.ite (fun _ => ?_) (fun _ => ?_)
    | with_reducible refine foldl_keeps _ _ ?_ (fun _ _ h => ?_)
    | with_reducible refine foldl_pair_keeps _ _ _ ?_ (fun _ _ h => ?_)
    | with_reducible refine regOp_keeps _ _ _ _ _ ?_

theorem execVoid_keeps {s0 : State} (core : ℕ) (w : IWord) (s : State) (hs : Keeps s0 s) : KeepsOut s0 (execVoid core w s) := by
  unfold execVoid
  repeat' first
    | with_reducible refine KeepsOut.next ?_
    | exact KeepsOut.refused _
    | with_reducible assumption
    | with_reducible refine KeepsOut.ite (fun _ => ?_) (fun _ => ?_)
    | with_reducible refine Keeps.ite (fun _ => ?_) (fun _ => ?_)
    | with_reducible refine foldl_keeps _ _ ?_ (fun _ _ h => ?_)
    | with_reducible refine foldl_pair_keeps _ _ _ ?_ (fun _ _ h => ?_)
    | with_reducible refine issue_keeps _ _ _ _ _ ?_ (fun _ _ h => ?_)
    | with_reducible refine progFault_keeps _ _ _ ?_

theorem tick_keeps {s0 : State} (s : State) (hs : Keeps s0 s) : Keeps s0 (tick s) := by
  unfold tick
  repeat' first
    | with_reducible assumption
    | with_reducible refine Keeps.ite (fun _ => ?_) (fun _ => ?_)
    | with_reducible refine forAll_keeps _ _ ?_ (fun _ _ h => ?_)
    | with_reducible refine foldl_keeps _ _ ?_ (fun _ _ h => ?_)
    | with_reducible refine foldl_pair_keeps _ _ _ ?_ (fun _ _ h => ?_)
    | with_reducible refine forAll_keeps _ _ _ ?_ (fun _ _ h => ?_)
    | with_reducible refine bump_keeps _ _ _ _ ?_
    | simp only [keeps_set_lanes, keeps_set_ports, keeps_set_blocks, keeps_set_sched, keeps_set_fabric, keeps_set_lasts, keeps_set_host, keeps_set_logs, keeps_set_chip, keeps_set_ctl, keeps_set_time, keeps_set_twin, keeps_set_peals, keeps_set_spine, keeps_set_circ, keeps_set_chans]
    | refine KeepsP.get (by with_reducible assumption) ?_
    | refine KeepsT.get (by with_reducible assumption) ?_
    | simp only [keeps_snd_snd]
    | simp only [keeps_snd]
    | simp only [keepsP_mk]
    | with_reducible refine KeepsP.ite (fun _ => ?_) (fun _ => ?_)
    | split

theorem execEnd_keeps {s0 : State} (core : ℕ) (w : IWord) (s : State) (hs : Keeps s0 s) : KeepsOut s0 (execEnd core w s) := by
  unfold execEnd
  repeat' first
    | with_reducible refine KeepsOut.next ?_
    | exact KeepsOut.refused _
    | with_reducible assumption
    | with_reducible refine KeepsOut.ite (fun _ => ?_) (fun _ => ?_)
    | with_reducible refine Keeps.ite (fun _ => ?_) (fun _ => ?_)
    | with_reducible refine foldl_keeps _ _ ?_ (fun _ _ h => ?_)
    | with_reducible refine foldl_pair_keeps _ _ _ ?_ (fun _ _ h => ?_)
    | with_reducible refine issue_keeps _ _ _ _ _ ?_ (fun _ _ h => ?_)
    | with_reducible refine endInvocation_keeps _ _ ?_

end Sys2Proof.Machine
end

