-- ==== Sys2Proof/Laws/KeepsNorm.lean ====
section
/-! SUPPORT. Laws/KeepsNorm.lean: what the operations of Machine/Norm.lean keep. -/
namespace Sys2Proof.Machine

set_option linter.unusedSimpArgs false
set_option linter.unusedTactic false
set_option linter.unreachableTactic false

theorem modNorm_keeps {s0 : State} (key : ℕ) (t : ℕ) (f : NormStep → NormStep) (s : State) (hs : Keeps s0 s) : Keeps s0 (modNorm key t f s) := by
  unfold modNorm
  repeat' first
    | with_reducible assumption
    | with_reducible refine Keeps.ite (fun _ => ?_) (fun _ => ?_)
    | with_reducible refine foldl_keeps _ _ ?_ (fun _ _ h => ?_)
    | with_reducible refine foldl_pair_keeps _ _ _ ?_ (fun _ _ h => ?_)
    | with_reducible refine State.modSpine_keeps _ _ ?_

theorem sendNorm_keeps {s0 : State} (tag : ℕ) (normPeal : ℕ) (t : ℕ) (s : State) (hs : Keeps s0 s) : Keeps s0 (sendNorm tag normPeal t s) := by
  unfold sendNorm
  repeat' first
    | with_reducible assumption
    | with_reducible refine Keeps.ite (fun _ => ?_) (fun _ => ?_)
    | with_reducible refine foldl_keeps _ _ ?_ (fun _ _ h => ?_)
    | with_reducible refine foldl_pair_keeps _ _ _ ?_ (fun _ _ h => ?_)
    | with_reducible refine sendCell_keeps _ _ _ ?_
    | simp only [keeps_set_lanes, keeps_set_ports, keeps_set_blocks, keeps_set_sched, keeps_set_fabric, keeps_set_lasts, keeps_set_host, keeps_set_logs, keeps_set_chip, keeps_set_ctl, keeps_set_time, keeps_set_twin, keeps_set_peals, keeps_set_spine, keeps_set_circ, keeps_set_chans]
    | refine KeepsP.get (by with_reducible assumption) ?_
    | refine KeepsT.get (by with_reducible assumption) ?_
    | simp only [keeps_snd_snd]
    | simp only [keeps_snd]
    | simp only [keepsP_mk]
    | with_reducible refine KeepsP.ite (fun _ => ?_) (fun _ => ?_)
    | split

theorem execNormPartialForm_keeps {s0 : State} (tag : ℕ) (normPeal : ℕ) (trainStep : ℕ) (s : State) (hs : Keeps s0 s) : KeepsOut s0 (execNormPartialForm tag normPeal trainStep s) := by
  unfold execNormPartialForm
  repeat' first
    | with_reducible refine KeepsOut.next ?_
    | exact KeepsOut.refused _
    | with_reducible assumption
    | with_reducible refine KeepsOut.ite (fun _ => ?_) (fun _ => ?_)
    | with_reducible refine Keeps.ite (fun _ => ?_) (fun _ => ?_)
    | with_reducible refine forAll_keeps _ _ ?_ (fun _ _ h => ?_)
    | with_reducible refine foldl_keeps _ _ ?_ (fun _ _ h => ?_)
    | with_reducible refine foldl_pair_keeps _ _ _ ?_ (fun _ _ h => ?_)
    | with_reducible refine modNorm_keeps _ _ _ _ ?_
    | with_reducible refine sendNorm_keeps _ _ _ _ ?_

theorem execNormResend_keeps {s0 : State} (tag : ℕ) (normPeal : ℕ) (s : State) (hs : Keeps s0 s) : KeepsOut s0 (execNormResend tag normPeal s) := by
  unfold execNormResend
  repeat' first
    | with_reducible refine KeepsOut.next ?_
    | exact KeepsOut.refused _
    | with_reducible assumption
    | with_reducible refine KeepsOut.ite (fun _ => ?_) (fun _ => ?_)
    | with_reducible refine Keeps.ite (fun _ => ?_) (fun _ => ?_)
    | with_reducible refine forAll_keeps _ _ ?_ (fun _ _ h => ?_)
    | with_reducible refine foldl_keeps _ _ ?_ (fun _ _ h => ?_)
    | with_reducible refine foldl_pair_keeps _ _ _ ?_ (fun _ _ h => ?_)
    | with_reducible refine sendNorm_keeps _ _ _ _ ?_
    | with_reducible refine bump_keeps _ _ _ _ ?_

theorem modHome_keeps {s0 : State} (np : ℕ) (f : NormHome → NormHome) (s : State) (hs : Keeps s0 s) : Keeps s0 (modHome np f s) := by
  unfold modHome
  repeat' first
    | with_reducible assumption
    | with_reducible refine Keeps.ite (fun _ => ?_) (fun _ => ?_)
    | with_reducible refine foldl_keeps _ _ ?_ (fun _ _ h => ?_)
    | with_reducible refine foldl_pair_keeps _ _ _ ?_ (fun _ _ h => ?_)
    | with_reducible refine State.modSpine_keeps _ _ ?_

theorem sendNormResult_keeps {s0 : State} (tag : ℕ) (np : ℕ) (t : ℕ) (src : ℕ) (dst : ℕ) (r : NormRec) (conflict : Bool) (s : State) (hs : Keeps s0 s) : Keeps s0 (sendNormResult tag np t src dst r conflict s) := by
  unfold sendNormResult
  repeat' first
    | with_reducible assumption
    | with_reducible refine Keeps.ite (fun _ => ?_) (fun _ => ?_)
    | with_reducible refine foldl_keeps _ _ ?_ (fun _ _ h => ?_)
    | with_reducible refine foldl_pair_keeps _ _ _ ?_ (fun _ _ h => ?_)
    | with_reducible refine sendCell_keeps _ _ _ ?_

theorem trySealNorm_keeps {s0 : State} (np : ℕ) (t : ℕ) (s : State) (hs : Keeps s0 s) : Keeps s0 (trySealNorm np t s) := by
  unfold trySealNorm
  repeat' first
    | with_reducible assumption
    | with_reducible refine Keeps.ite (fun _ => ?_) (fun _ => ?_)
    | with_reducible refine forAll_keeps _ _ ?_ (fun _ _ h => ?_)
    | with_reducible refine foldl_keeps _ _ ?_ (fun _ _ h => ?_)
    | with_reducible refine foldl_pair_keeps _ _ _ ?_ (fun _ _ h => ?_)
    | with_reducible refine modHome_keeps _ _ _ ?_
    | with_reducible refine sendNormResult_keeps _ _ _ _ _ _ _ _ ?_
    | simp only [keeps_set_lanes, keeps_set_ports, keeps_set_blocks, keeps_set_sched, keeps_set_fabric, keeps_set_lasts, keeps_set_host, keeps_set_logs, keeps_set_chip, keeps_set_ctl, keeps_set_time, keeps_set_twin, keeps_set_peals, keeps_set_spine, keeps_set_circ, keeps_set_chans]
    | refine KeepsP.get (by with_reducible assumption) ?_
    | refine KeepsT.get (by with_reducible assumption) ?_
    | simp only [keeps_snd_snd]
    | simp only [keeps_snd]
    | simp only [keepsP_mk]
    | with_reducible refine KeepsP.ite (fun _ => ?_) (fun _ => ?_)
    | split

theorem trySealAll_keeps {s0 : State} (s : State) (hs : Keeps s0 s) : Keeps s0 (trySealAll s) := by
  unfold trySealAll
  repeat' first
    | with_reducible assumption
    | with_reducible refine Keeps.ite (fun _ => ?_) (fun _ => ?_)
    | with_reducible refine forAll_keeps _ _ ?_ (fun _ _ h => ?_)
    | with_reducible refine foldl_keeps _ _ ?_ (fun _ _ h => ?_)
    | with_reducible refine foldl_pair_keeps _ _ _ ?_ (fun _ _ h => ?_)
    | with_reducible refine trySealNorm_keeps _ _ _ ?_

theorem copyNorm_keeps {s0 : State} (np : ℕ) (src : ℕ) (t : ℕ) (tr : ℕ) (q : ℕ) (covers : Bool) (s : State) (hs : Keeps s0 s) : Keeps s0 (copyNorm np src t tr q covers s) := by
  unfold copyNorm
  repeat' first
    | with_reducible assumption
    | with_reducible refine Keeps.ite (fun _ => ?_) (fun _ => ?_)
    | with_reducible refine foldl_keeps _ _ ?_ (fun _ _ h => ?_)
    | with_reducible refine foldl_pair_keeps _ _ _ ?_ (fun _ _ h => ?_)
    | with_reducible refine sendTwin_keeps _ _ _ _ _ _ ?_
    | with_reducible refine modHome_keeps _ _ _ ?_

theorem execNormContribReceive_keeps {s0 : State} (cell : Cell) (s : State) (hs : Keeps s0 s) : KeepsOut s0 (execNormContribReceive cell s) := by
  unfold execNormContribReceive
  repeat' first
    | with_reducible refine KeepsOut.next ?_
    | exact KeepsOut.refused _
    | with_reducible assumption
    | with_reducible refine KeepsOut.ite (fun _ => ?_) (fun _ => ?_)
    | with_reducible refine Keeps.ite (fun _ => ?_) (fun _ => ?_)
    | with_reducible refine foldl_keeps _ _ ?_ (fun _ _ h => ?_)
    | with_reducible refine foldl_pair_keeps _ _ _ ?_ (fun _ _ h => ?_)
    | with_reducible refine takeIn_keeps _ _ ?_
    | with_reducible refine countDiscard_keeps _ _ _ ?_
    | with_reducible refine bump_keeps _ _ _ _ ?_
    | with_reducible refine modHome_keeps _ _ _ ?_
    | with_reducible refine trySealNorm_keeps _ _ _ ?_
    | with_reducible refine copyNorm_keeps _ _ _ _ _ _ _ ?_
    | with_reducible refine sendNormResult_keeps _ _ _ _ _ _ _ _ ?_
    | simp only [keeps_set_lanes, keeps_set_ports, keeps_set_blocks, keeps_set_sched, keeps_set_fabric, keeps_set_lasts, keeps_set_host, keeps_set_logs, keeps_set_chip, keeps_set_ctl, keeps_set_time, keeps_set_twin, keeps_set_peals, keeps_set_spine, keeps_set_circ, keeps_set_chans]
    | refine KeepsP.get (by with_reducible assumption) ?_
    | refine KeepsT.get (by with_reducible assumption) ?_
    | simp only [keeps_snd_snd]
    | simp only [keeps_snd]
    | simp only [keepsP_mk]
    | with_reducible refine KeepsP.ite (fun _ => ?_) (fun _ => ?_)
    | split

theorem execNormResultReceive_keeps {s0 : State} (cell : Cell) (s : State) (hs : Keeps s0 s) : KeepsOut s0 (execNormResultReceive cell s) := by
  unfold execNormResultReceive
  repeat' first
    | with_reducible refine KeepsOut.next ?_
    | exact KeepsOut.refused _
    | with_reducible assumption
    | with_reducible refine KeepsOut.ite (fun _ => ?_) (fun _ => ?_)
    | with_reducible refine Keeps.ite (fun _ => ?_) (fun _ => ?_)
    | with_reducible refine foldl_keeps _ _ ?_ (fun _ _ h => ?_)
    | with_reducible refine foldl_pair_keeps _ _ _ ?_ (fun _ _ h => ?_)
    | with_reducible refine takeIn_keeps _ _ ?_
    | with_reducible refine countDiscard_keeps _ _ _ ?_
    | with_reducible refine modNorm_keeps _ _ _ _ ?_
    | with_reducible refine bump_keeps _ _ _ _ ?_
    | simp only [keeps_set_lanes, keeps_set_ports, keeps_set_blocks, keeps_set_sched, keeps_set_fabric, keeps_set_lasts, keeps_set_host, keeps_set_logs, keeps_set_chip, keeps_set_ctl, keeps_set_time, keeps_set_twin, keeps_set_peals, keeps_set_spine, keeps_set_circ, keeps_set_chans]
    | refine KeepsP.get (by with_reducible assumption) ?_
    | refine KeepsT.get (by with_reducible assumption) ?_
    | simp only [keeps_snd_snd]
    | simp only [keeps_snd]
    | simp only [keepsP_mk]
    | with_reducible refine KeepsP.ite (fun _ => ?_) (fun _ => ?_)
    | split

theorem execNormCopyReceive_keeps {s0 : State} (msg : TwinMsg) (s : State) (hs : Keeps s0 s) : KeepsOut s0 (execNormCopyReceive msg s) := by
  unfold execNormCopyReceive
  repeat' first
    | with_reducible refine KeepsOut.next ?_
    | exact KeepsOut.refused _
    | with_reducible assumption
    | with_reducible refine KeepsOut.ite (fun _ => ?_) (fun _ => ?_)
    | with_reducible refine Keeps.ite (fun _ => ?_) (fun _ => ?_)
    | with_reducible refine foldl_keeps _ _ ?_ (fun _ _ h => ?_)
    | with_reducible refine foldl_pair_keeps _ _ _ ?_ (fun _ _ h => ?_)
    | with_reducible refine takeTwin_keeps _ _ _ ?_
    | with_reducible refine badTwin_keeps _ ?_
    | with_reducible refine modHome_keeps _ _ _ ?_
    | simp only [keeps_set_lanes, keeps_set_ports, keeps_set_blocks, keeps_set_sched, keeps_set_fabric, keeps_set_lasts, keeps_set_host, keeps_set_logs, keeps_set_chip, keeps_set_ctl, keeps_set_time, keeps_set_twin, keeps_set_peals, keeps_set_spine, keeps_set_circ, keeps_set_chans]
    | refine KeepsP.get (by with_reducible assumption) ?_
    | refine KeepsT.get (by with_reducible assumption) ?_
    | simp only [keeps_snd_snd]
    | simp only [keeps_snd]
    | simp only [keepsP_mk]
    | with_reducible refine KeepsP.ite (fun _ => ?_) (fun _ => ?_)
    | split

end Sys2Proof.Machine
end

