-- ==== Sys2Proof/Laws/KeepsMem.lean ====
section
/-! SUPPORT. Laws/KeepsMem.lean: what the operations of Machine/Mem.lean keep. -/
namespace Sys2Proof.Machine

set_option linter.unusedSimpArgs false
set_option linter.unusedTactic false
set_option linter.unreachableTactic false

theorem sendSliceReq_keeps {s0 : State} (k : ℕ) (bank : ℕ) (x : ℕ) (s : State) (hs : Keeps s0 s) : Keeps s0 (sendSliceReq k bank x s) := by
  unfold sendSliceReq
  repeat' first
    | with_reducible assumption
    | with_reducible refine Keeps.ite (fun _ => ?_) (fun _ => ?_)
    | with_reducible refine foldl_keeps _ _ ?_ (fun _ _ h => ?_)
    | with_reducible refine foldl_pair_keeps _ _ _ ?_ (fun _ _ h => ?_)
    | with_reducible refine sendTwin_keeps _ _ _ _ _ _ ?_

theorem sliceLost_keeps {s0 : State} (k : ℕ) (bank : ℕ) (xs : List ℕ) (s : State) (hs : Keeps s0 s) : Keeps s0 (sliceLost k bank xs s) := by
  unfold sliceLost
  repeat' first
    | with_reducible assumption
    | with_reducible refine Keeps.ite (fun _ => ?_) (fun _ => ?_)
    | with_reducible refine forAll_keeps _ _ ?_ (fun _ _ h => ?_)
    | with_reducible refine foldl_keeps _ _ ?_ (fun _ _ h => ?_)
    | with_reducible refine foldl_pair_keeps _ _ _ ?_ (fun _ _ h => ?_)
    | with_reducible refine voidFor_keeps _ _ _ ?_
    | with_reducible refine State.modShard_keeps _ _ _ ?_
    | with_reducible refine sendSliceReq_keeps _ _ _ _ ?_
    | with_reducible refine loseShard_keeps _ _ ?_
    | with_reducible refine voidPeal_keeps _ _ _ _ _ _ ?_
    | simp only [keeps_set_lanes, keeps_set_ports, keeps_set_blocks, keeps_set_sched, keeps_set_fabric, keeps_set_lasts, keeps_set_host, keeps_set_logs, keeps_set_chip, keeps_set_ctl, keeps_set_time, keeps_set_twin, keeps_set_peals, keeps_set_spine, keeps_set_circ, keeps_set_chans]
    | refine KeepsP.get (by with_reducible assumption) ?_
    | refine KeepsT.get (by with_reducible assumption) ?_
    | simp only [keeps_snd_snd]
    | simp only [keeps_snd]
    | simp only [keepsP_mk]
    | with_reducible refine KeepsP.ite (fun _ => ?_) (fun _ => ?_)
    | split

theorem stashLost_keeps {s0 : State} (p : ℕ) (g : ℕ) (gone : ℕ → Stashed → Bool) (s : State) (hs : Keeps s0 s) : Keeps s0 (stashLost p g gone s) := by
  unfold stashLost
  repeat' first
    | with_reducible assumption
    | with_reducible refine Keeps.ite (fun _ => ?_) (fun _ => ?_)
    | with_reducible refine forAll_keeps _ _ ?_ (fun _ _ h => ?_)
    | with_reducible refine foldl_keeps _ _ ?_ (fun _ _ h => ?_)
    | with_reducible refine foldl_pair_keeps _ _ _ ?_ (fun _ _ h => ?_)
    | with_reducible refine State.modCirc_keeps _ _ _ ?_
    | with_reducible refine settleLost_keeps _ ?_
    | with_reducible refine countDiscard_keeps _ _ _ ?_
    | with_reducible refine noteLost_keeps _ _ ?_

theorem memberWordDead_keeps {s0 : State} (i : ℕ) (s : State) (hs : Keeps s0 s) : Keeps s0 (memberWordDead i s) := by
  unfold memberWordDead
  repeat' first
    | with_reducible assumption
    | with_reducible refine Keeps.ite (fun _ => ?_) (fun _ => ?_)
    | with_reducible refine forAll_keeps _ _ ?_ (fun _ _ h => ?_)
    | with_reducible refine foldl_keeps _ _ ?_ (fun _ _ h => ?_)
    | with_reducible refine foldl_pair_keeps _ _ _ ?_ (fun _ _ h => ?_)
    | with_reducible refine State.tblPut_keeps _ _ ?_
    | with_reducible refine voidFor_keeps _ _ _ ?_

theorem memberWord_keeps {s0 : State} (r : ℕ) (i : ℕ) (s : State) (hs : Keeps s0 s) : Keeps s0 (memberWord r i s) := by
  unfold memberWord
  repeat' first
    | with_reducible assumption
    | with_reducible refine Keeps.ite (fun _ => ?_) (fun _ => ?_)
    | with_reducible refine foldl_keeps _ _ ?_ (fun _ _ h => ?_)
    | with_reducible refine foldl_pair_keeps _ _ _ ?_ (fun _ _ h => ?_)
    | with_reducible refine memberWordDead_keeps _ _ ?_
    | with_reducible refine State.modFabric_keeps _ _ ?_

theorem ueEffect_keeps {s0 : State} (c : ℕ) (t : UeTarget) (s : State) (hs : Keeps s0 s) : Keeps s0 (ueEffect c t s) := by
  unfold ueEffect
  repeat' first
    | with_reducible assumption
    | with_reducible refine Keeps.ite (fun _ => ?_) (fun _ => ?_)
    | with_reducible refine foldl_keeps _ _ ?_ (fun _ _ h => ?_)
    | with_reducible refine foldl_pair_keeps _ _ _ ?_ (fun _ _ h => ?_)
    | with_reducible refine sliceLost_keeps _ _ _ _ ?_
    | with_reducible refine voidFor_keeps _ _ _ ?_
    | with_reducible refine memberWord_keeps _ _ _ ?_
    | with_reducible refine stashLost_keeps _ _ _ _ ?_
    | simp only [keeps_set_lanes, keeps_set_ports, keeps_set_blocks, keeps_set_sched, keeps_set_fabric, keeps_set_lasts, keeps_set_host, keeps_set_logs, keeps_set_chip, keeps_set_ctl, keeps_set_time, keeps_set_twin, keeps_set_peals, keeps_set_spine, keeps_set_circ, keeps_set_chans]
    | refine KeepsP.get (by with_reducible assumption) ?_
    | refine KeepsT.get (by with_reducible assumption) ?_
    | simp only [keeps_snd_snd]
    | simp only [keeps_snd]
    | simp only [keepsP_mk]
    | with_reducible refine KeepsP.ite (fun _ => ?_) (fun _ => ?_)
    | split

theorem moveShard_keeps {s0 : State} (c : ℕ) (k : ℕ) (a : ℕ × State) (ha : KeepsP s0 a) : KeepsP s0 (moveShard c k a) := by
  unfold moveShard
  repeat' first
    | with_reducible assumption
    | with_reducible refine KeepsP.ite (fun _ => ?_) (fun _ => ?_)
    | simp only [keepsP_mk]
    | with_reducible refine Keeps.ite (fun _ => ?_) (fun _ => ?_)
    | with_reducible refine foldl_keeps _ _ ?_ (fun _ _ h => ?_)
    | with_reducible refine foldl_pair_keeps _ _ _ ?_ (fun _ _ h => ?_)
    | with_reducible refine loseShard_keeps _ _ ?_
    | with_reducible refine sliceLost_keeps _ _ _ _ ?_
    | simp only [keeps_set_lanes, keeps_set_ports, keeps_set_blocks, keeps_set_sched, keeps_set_fabric, keeps_set_lasts, keeps_set_host, keeps_set_logs, keeps_set_chip, keeps_set_ctl, keeps_set_time, keeps_set_twin, keeps_set_peals, keeps_set_spine, keeps_set_circ, keeps_set_chans]
    | refine KeepsP.get (by with_reducible assumption) ?_
    | refine KeepsT.get (by with_reducible assumption) ?_
    | simp only [keeps_snd_snd]
    | simp only [keeps_snd]

theorem movePeal_keeps {s0 : State} (c : ℕ) (pool : ℕ) (p : ℕ) (bytes : ℕ) (a : ℕ × State) (ha : KeepsP s0 a) : KeepsP s0 (movePeal c pool p bytes a) := by
  unfold movePeal
  repeat' first
    | with_reducible assumption
    | with_reducible refine KeepsP.ite (fun _ => ?_) (fun _ => ?_)
    | simp only [keepsP_mk]
    | with_reducible refine Keeps.ite (fun _ => ?_) (fun _ => ?_)
    | with_reducible refine foldl_keeps _ _ ?_ (fun _ _ h => ?_)
    | with_reducible refine foldl_pair_keeps _ _ _ ?_ (fun _ _ h => ?_)
    | with_reducible refine voidFor_keeps _ _ _ ?_
    | with_reducible refine State.modPeal_keeps _ _ _ ?_
    | simp only [keeps_set_lanes, keeps_set_ports, keeps_set_blocks, keeps_set_sched, keeps_set_fabric, keeps_set_lasts, keeps_set_host, keeps_set_logs, keeps_set_chip, keeps_set_ctl, keeps_set_time, keeps_set_twin, keeps_set_peals, keeps_set_spine, keeps_set_circ, keeps_set_chans]
    | refine KeepsP.get (by with_reducible assumption) ?_
    | refine KeepsT.get (by with_reducible assumption) ?_
    | simp only [keeps_snd_snd]
    | simp only [keeps_snd]

theorem shrinkStash_keeps {s0 : State} (c : ℕ) (p : ℕ) (s : State) (hs : Keeps s0 s) : Keeps s0 (shrinkStash c p s) := by
  unfold shrinkStash
  repeat' first
    | with_reducible assumption
    | with_reducible refine Keeps.ite (fun _ => ?_) (fun _ => ?_)
    | with_reducible refine forAll_keeps _ _ ?_ (fun _ _ h => ?_)
    | with_reducible refine foldl_keeps _ _ ?_ (fun _ _ h => ?_)
    | with_reducible refine foldl_pair_keeps _ _ _ ?_ (fun _ _ h => ?_)
    | with_reducible refine State.modCirc_keeps _ _ _ ?_
    | with_reducible refine stashLost_keeps _ _ _ _ ?_

theorem retireChan_keeps {s0 : State} (c : ℕ) (status : ℕ) (reason : ℕ) (s : State) (hs : Keeps s0 s) : Keeps s0 (retireChan c status reason s) := by
  unfold retireChan
  repeat' first
    | with_reducible assumption
    | with_reducible refine Keeps.ite (fun _ => ?_) (fun _ => ?_)
    | with_reducible refine forAll_keeps _ _ ?_ (fun _ _ h => ?_)
    | with_reducible refine foldl_keeps _ _ ?_ (fun _ _ h => ?_)
    | with_reducible refine foldl_pair_keeps _ _ _ ?_ (fun _ _ h => ?_)
    | with_reducible refine State.modChan_keeps _ _ _ ?_
    | with_reducible refine State.modLedger_keeps _ _ _ ?_
    | with_reducible refine ledgerAdd_keeps _ _ _ _ ?_
    | with_reducible refine postEvent_keeps _ _ _ ?_
    | with_reducible refine moveShard_keeps _ _ _ ?_
    | with_reducible refine movePeal_keeps _ _ _ _ _ ?_
    | with_reducible refine shrinkStash_keeps _ _ _ ?_
    | with_reducible refine fenceRegion_keeps _ _ _ _ ?_
    | simp only [keeps_set_lanes, keeps_set_ports, keeps_set_blocks, keeps_set_sched, keeps_set_fabric, keeps_set_lasts, keeps_set_host, keeps_set_logs, keeps_set_chip, keeps_set_ctl, keeps_set_time, keeps_set_twin, keeps_set_peals, keeps_set_spine, keeps_set_circ, keeps_set_chans]
    | refine KeepsP.get (by with_reducible assumption) ?_
    | refine KeepsT.get (by with_reducible assumption) ?_
    | simp only [keeps_snd_snd]
    | simp only [keeps_snd]
    | simp only [keepsP_mk]

theorem retireFrame_keeps {s0 : State} (c : ℕ) (f : ℕ) (reason : ℕ) (s : State) (hs : Keeps s0 s) : Keeps s0 (retireFrame c f reason s) := by
  unfold retireFrame
  repeat' first
    | with_reducible assumption
    | with_reducible refine Keeps.ite (fun _ => ?_) (fun _ => ?_)
    | with_reducible refine foldl_keeps _ _ ?_ (fun _ _ h => ?_)
    | with_reducible refine foldl_pair_keeps _ _ _ ?_ (fun _ _ h => ?_)
    | with_reducible refine State.modLedger_keeps _ _ _ ?_
    | with_reducible refine ledgerAdd_keeps _ _ _ _ ?_
    | with_reducible refine bumpChan_keeps _ _ _ _ ?_
    | with_reducible refine retireChan_keeps _ _ _ _ ?_

theorem ueHandle_keeps {s0 : State} (c : ℕ) (f : ℕ) (t : UeTarget) (poison : Bool) (s : State) (hs : Keeps s0 s) : Keeps s0 (ueHandle c f t poison s) := by
  unfold ueHandle
  repeat' first
    | with_reducible assumption
    | with_reducible refine Keeps.ite (fun _ => ?_) (fun _ => ?_)
    | with_reducible refine foldl_keeps _ _ ?_ (fun _ _ h => ?_)
    | with_reducible refine foldl_pair_keeps _ _ _ ?_ (fun _ _ h => ?_)
    | with_reducible refine postEvent_keeps _ _ _ ?_
    | with_reducible refine ueEffect_keeps _ _ _ ?_
    | with_reducible refine retireFrame_keeps _ _ _ _ ?_
    | with_reducible refine State.modChan_keeps _ _ _ ?_
    | with_reducible refine retireChan_keeps _ _ _ _ ?_
    | simp only [keeps_set_lanes, keeps_set_ports, keeps_set_blocks, keeps_set_sched, keeps_set_fabric, keeps_set_lasts, keeps_set_host, keeps_set_logs, keeps_set_chip, keeps_set_ctl, keeps_set_time, keeps_set_twin, keeps_set_peals, keeps_set_spine, keeps_set_circ, keeps_set_chans]
    | refine KeepsP.get (by with_reducible assumption) ?_
    | refine KeepsT.get (by with_reducible assumption) ?_
    | simp only [keeps_snd_snd]
    | simp only [keeps_snd]
    | simp only [keepsP_mk]
    | with_reducible refine KeepsP.ite (fun _ => ?_) (fun _ => ?_)
    | split

theorem ceFrame_keeps {s0 : State} (c : Nat) (f : Nat) (t : UeTarget) (s : State) (hs : Keeps s0 s) : Keeps s0 (ceFrame c f t s) := by
  unfold ceFrame
  repeat' first
    | with_reducible assumption
    | with_reducible refine Keeps.ite (fun _ => ?_) (fun _ => ?_)
    | with_reducible refine foldl_keeps _ _ ?_ (fun _ _ h => ?_)
    | with_reducible refine foldl_pair_keeps _ _ _ ?_ (fun _ _ h => ?_)
    | with_reducible refine State.modChan_keeps _ _ _ ?_
    | with_reducible refine retireFrame_keeps _ _ _ _ ?_
    | with_reducible refine ueHandle_keeps _ _ _ _ _ ?_
    | simp only [keeps_set_lanes, keeps_set_ports, keeps_set_blocks, keeps_set_sched, keeps_set_fabric, keeps_set_lasts, keeps_set_host, keeps_set_logs, keeps_set_chip, keeps_set_ctl, keeps_set_time, keeps_set_twin, keeps_set_peals, keeps_set_spine, keeps_set_circ, keeps_set_chans]
    | refine KeepsP.get (by with_reducible assumption) ?_
    | refine KeepsT.get (by with_reducible assumption) ?_
    | simp only [keeps_snd_snd]
    | simp only [keeps_snd]
    | simp only [keepsP_mk]
    | with_reducible refine KeepsP.ite (fun _ => ?_) (fun _ => ?_)
    | split

theorem linkCount_keeps {s0 : State} (c : Nat) (l : List LinkEcc) (s : State) (hs : Keeps s0 s) : Keeps s0 (linkCount c l s) := by
  unfold linkCount
  repeat' first
    | with_reducible assumption
    | with_reducible refine Keeps.ite (fun _ => ?_) (fun _ => ?_)
    | with_reducible refine foldl_keeps _ _ ?_ (fun _ _ h => ?_)
    | with_reducible refine foldl_pair_keeps _ _ _ ?_ (fun _ _ h => ?_)
    | with_reducible refine bumpChan_keeps _ _ _ _ ?_
    | simp only [keeps_set_lanes, keeps_set_ports, keeps_set_blocks, keeps_set_sched, keeps_set_fabric, keeps_set_lasts, keeps_set_host, keeps_set_logs, keeps_set_chip, keeps_set_ctl, keeps_set_time, keeps_set_twin, keeps_set_peals, keeps_set_spine, keeps_set_circ, keeps_set_chans]
    | refine KeepsP.get (by with_reducible assumption) ?_
    | refine KeepsT.get (by with_reducible assumption) ?_
    | simp only [keeps_snd_snd]
    | simp only [keeps_snd]
    | simp only [keepsP_mk]
    | with_reducible refine KeepsP.ite (fun _ => ?_) (fun _ => ?_)
    | split

theorem inlineJudge_keeps {s0 : State} (c : Nat) (f : Nat) (t : UeTarget) (ecc : EccKind) (s : State) (hs : Keeps s0 s) : Keeps s0 (inlineJudge c f t ecc s) := by
  unfold inlineJudge
  repeat' first
    | with_reducible assumption
    | with_reducible refine Keeps.ite (fun _ => ?_) (fun _ => ?_)
    | with_reducible refine foldl_keeps _ _ ?_ (fun _ _ h => ?_)
    | with_reducible refine foldl_pair_keeps _ _ _ ?_ (fun _ _ h => ?_)
    | with_reducible refine ceFrame_keeps _ _ _ _ ?_
    | with_reducible refine bumpChan_keeps _ _ _ _ ?_
    | with_reducible refine ueHandle_keeps _ _ _ _ _ ?_
    | simp only [keeps_set_lanes, keeps_set_ports, keeps_set_blocks, keeps_set_sched, keeps_set_fabric, keeps_set_lasts, keeps_set_host, keeps_set_logs, keeps_set_chip, keeps_set_ctl, keeps_set_time, keeps_set_twin, keeps_set_peals, keeps_set_spine, keeps_set_circ, keeps_set_chans]
    | refine KeepsP.get (by with_reducible assumption) ?_
    | refine KeepsT.get (by with_reducible assumption) ?_
    | simp only [keeps_snd_snd]
    | simp only [keeps_snd]
    | simp only [keepsP_mk]
    | with_reducible refine KeepsP.ite (fun _ => ?_) (fun _ => ?_)
    | split

theorem execMemoryUe_keeps {s0 : State} (ue : MemUe) (s : State) (hs : Keeps s0 s) : KeepsOut s0 (execMemoryUe ue s) := by
  unfold execMemoryUe
  repeat' first
    | with_reducible refine KeepsOut.next ?_
    | exact KeepsOut.refused _
    | with_reducible assumption
    | with_reducible refine KeepsOut.ite (fun _ => ?_) (fun _ => ?_)
    | with_reducible refine Keeps.ite (fun _ => ?_) (fun _ => ?_)
    | with_reducible refine foldl_keeps _ _ ?_ (fun _ _ h => ?_)
    | with_reducible refine foldl_pair_keeps _ _ _ ?_ (fun _ _ h => ?_)
    | with_reducible refine inlineJudge_keeps _ _ _ _ _ ?_
    | with_reducible refine linkCount_keeps _ _ _ ?_
    | simp only [keeps_set_lanes, keeps_set_ports, keeps_set_blocks, keeps_set_sched, keeps_set_fabric, keeps_set_lasts, keeps_set_host, keeps_set_logs, keeps_set_chip, keeps_set_ctl, keeps_set_time, keeps_set_twin, keeps_set_peals, keeps_set_spine, keeps_set_circ, keeps_set_chans]
    | refine KeepsP.get (by with_reducible assumption) ?_
    | refine KeepsT.get (by with_reducible assumption) ?_
    | simp only [keeps_snd_snd]
    | simp only [keeps_snd]
    | simp only [keepsP_mk]
    | with_reducible refine KeepsP.ite (fun _ => ?_) (fun _ => ?_)
    | split

theorem execPatrolScrub_keeps {s0 : State} (channel : Nat) (frame : Nat) (burst : Nat) (res : EccKind) (target : UeTarget) (s : State) (hs : Keeps s0 s) : KeepsOut s0 (execPatrolScrub channel frame burst res target s) := by
  unfold execPatrolScrub
  repeat' first
    | with_reducible refine KeepsOut.next ?_
    | exact KeepsOut.refused _
    | with_reducible assumption
    | with_reducible refine KeepsOut.ite (fun _ => ?_) (fun _ => ?_)
    | with_reducible refine Keeps.ite (fun _ => ?_) (fun _ => ?_)
    | with_reducible refine foldl_keeps _ _ ?_ (fun _ _ h => ?_)
    | with_reducible refine foldl_pair_keeps _ _ _ ?_ (fun _ _ h => ?_)
    | with_reducible refine ceFrame_keeps _ _ _ _ ?_
    | with_reducible refine bumpChan_keeps _ _ _ _ ?_
    | with_reducible refine ueHandle_keeps _ _ _ _ _ ?_
    | simp only [keeps_set_lanes, keeps_set_ports, keeps_set_blocks, keeps_set_sched, keeps_set_fabric, keeps_set_lasts, keeps_set_host, keeps_set_logs, keeps_set_chip, keeps_set_ctl, keeps_set_time, keeps_set_twin, keeps_set_peals, keeps_set_spine, keeps_set_circ, keeps_set_chans]
    | refine KeepsP.get (by with_reducible assumption) ?_
    | refine KeepsT.get (by with_reducible assumption) ?_
    | simp only [keeps_snd_snd]
    | simp only [keeps_snd]
    | simp only [keepsP_mk]
    | with_reducible refine KeepsP.ite (fun _ => ?_) (fun _ => ?_)
    | split

theorem execDqsTracking_keeps {s0 : State} (channel : ℕ) (ok : Bool) (s : State) (hs : Keeps s0 s) : KeepsOut s0 (execDqsTracking channel ok s) := by
  unfold execDqsTracking
  repeat' first
    | with_reducible refine KeepsOut.next ?_
    | exact KeepsOut.refused _
    | with_reducible assumption
    | with_reducible refine KeepsOut.ite (fun _ => ?_) (fun _ => ?_)
    | with_reducible refine Keeps.ite (fun _ => ?_) (fun _ => ?_)
    | with_reducible refine foldl_keeps _ _ ?_ (fun _ _ h => ?_)
    | with_reducible refine foldl_pair_keeps _ _ _ ?_ (fun _ _ h => ?_)
    | with_reducible refine State.draw_keeps ?_
    | with_reducible refine bumpChan_keeps _ _ _ _ ?_
    | with_reducible refine State.modChan_keeps _ _ _ ?_
    | with_reducible refine retireChan_keeps _ _ _ _ ?_

theorem setMult_keeps {s0 : State} (c : ℕ) (code : ℕ) (m : ℕ) (s : State) (hs : Keeps s0 s) : Keeps s0 (setMult c code m s) := by
  unfold setMult
  repeat' first
    | with_reducible assumption
    | with_reducible refine Keeps.ite (fun _ => ?_) (fun _ => ?_)
    | with_reducible refine foldl_keeps _ _ ?_ (fun _ _ h => ?_)
    | with_reducible refine foldl_pair_keeps _ _ _ ?_ (fun _ _ h => ?_)
    | with_reducible refine bumpChan_keeps _ _ _ _ ?_
    | with_reducible refine State.modChan_keeps _ _ _ ?_

theorem execMr4Read_keeps {s0 : State} (package : ℕ) (code : ℕ) (mr4Mult : ℕ) (tempC : ℕ) (s : State) (hs : Keeps s0 s) : KeepsOut s0 (execMr4Read package code mr4Mult tempC s) := by
  unfold execMr4Read
  repeat' first
    | with_reducible refine KeepsOut.next ?_
    | exact KeepsOut.refused _
    | with_reducible assumption
    | with_reducible refine KeepsOut.ite (fun _ => ?_) (fun _ => ?_)
    | with_reducible refine Keeps.ite (fun _ => ?_) (fun _ => ?_)
    | with_reducible refine forAll_keeps _ _ ?_ (fun _ _ h => ?_)
    | with_reducible refine foldl_keeps _ _ ?_ (fun _ _ h => ?_)
    | with_reducible refine foldl_pair_keeps _ _ _ ?_ (fun _ _ h => ?_)
    | with_reducible refine setMult_keeps _ _ _ _ ?_
    | with_reducible refine postEvent_keeps _ _ _ ?_

end Sys2Proof.Machine
end

