-- ==== Sys2Proof/Laws/KeepsTime.lean ====
section
/-! SUPPORT. Laws/KeepsTime.lean: what the operations of Machine/Time.lean keep. -/
namespace Sys2Proof.Machine

set_option linter.unusedSimpArgs false
set_option linter.unusedTactic false
set_option linter.unreachableTactic false

theorem takeStep_keeps {s0 : State} (rate : ℤ) (off17 : ℤ) (s : State) (hs : Keeps s0 s) : Keeps s0 (takeStep rate off17 s) := by
  unfold takeStep
  repeat' first
    | with_reducible assumption
    | with_reducible refine Keeps.ite (fun _ => ?_) (fun _ => ?_)
    | with_reducible refine foldl_keeps _ _ ?_ (fun _ _ h => ?_)
    | with_reducible refine foldl_pair_keeps _ _ _ ?_ (fun _ _ h => ?_)
    | with_reducible refine setRate_keeps _ _ ?_
    | with_reducible refine timeTo_keeps _ _ ?_
    | with_reducible refine State.modTime_keeps _ _ ?_

theorem servo_keeps {s0 : State} (o : ℤ) (dt : ℕ) (s : State) (hs : Keeps s0 s) : Keeps s0 (servo o dt s) := by
  unfold servo
  repeat' first
    | with_reducible assumption
    | with_reducible refine Keeps.ite (fun _ => ?_) (fun _ => ?_)
    | with_reducible refine foldl_keeps _ _ ?_ (fun _ _ h => ?_)
    | with_reducible refine foldl_pair_keeps _ _ _ ?_ (fun _ _ h => ?_)
    | with_reducible refine setRate_keeps _ _ ?_
    | with_reducible refine State.modTime_keeps _ _ ?_

theorem measure_keeps {s0 : State} (o : ℤ) (frc : ℕ) (s : State) (hs : Keeps s0 s) : Keeps s0 (measure o frc s) := by
  unfold measure
  repeat' first
    | with_reducible assumption
    | with_reducible refine Keeps.ite (fun _ => ?_) (fun _ => ?_)
    | with_reducible refine foldl_keeps _ _ ?_ (fun _ _ h => ?_)
    | with_reducible refine foldl_pair_keeps _ _ _ ?_ (fun _ _ h => ?_)
    | with_reducible refine State.modTime_keeps _ _ ?_
    | with_reducible refine takeStep_keeps _ _ _ ?_
    | with_reducible refine servo_keeps _ _ _ ?_
    | with_reducible refine circuitsLoseLock_keeps _ ?_
    | with_reducible refine timeTo_keeps _ _ ?_
    | simp only [keeps_set_lanes, keeps_set_ports, keeps_set_blocks, keeps_set_sched, keeps_set_fabric, keeps_set_lasts, keeps_set_host, keeps_set_logs, keeps_set_chip, keeps_set_ctl, keeps_set_time, keeps_set_twin, keeps_set_peals, keeps_set_spine, keeps_set_circ, keeps_set_chans]
    | refine KeepsP.get (by with_reducible assumption) ?_
    | refine KeepsT.get (by with_reducible assumption) ?_
    | simp only [keeps_snd_snd]
    | simp only [keeps_snd]
    | simp only [keepsP_mk]
    | with_reducible refine KeepsP.ite (fun _ => ?_) (fun _ => ?_)
    | split

theorem exchange_keeps {s0 : State} (p : ℕ) (t1 : ℕ) (t2 : ℕ) (t3 : ℕ) (t4 : ℕ) (s : State) (hs : Keeps s0 s) : KeepsT s0 (exchange p t1 t2 t3 t4 s) := by
  unfold exchange
  repeat' first
    | with_reducible assumption
    | with_reducible refine KeepsT.ite (fun _ => ?_) (fun _ => ?_)
    | simp only [keepsT_mk]
    | with_reducible refine Keeps.ite (fun _ => ?_) (fun _ => ?_)
    | with_reducible refine foldl_keeps _ _ ?_ (fun _ _ h => ?_)
    | with_reducible refine foldl_pair_keeps _ _ _ ?_ (fun _ _ h => ?_)
    | with_reducible refine State.modPort_keeps _ _ _ ?_

theorem takeStamp_keeps {s0 : State} (p : ℕ) (seq : ℕ) (s : State) (hs : Keeps s0 s) : KeepsP s0 (takeStamp p seq s) := by
  unfold takeStamp
  repeat' first
    | with_reducible assumption
    | with_reducible refine KeepsP.ite (fun _ => ?_) (fun _ => ?_)
    | simp only [keepsP_mk]
    | with_reducible refine Keeps.ite (fun _ => ?_) (fun _ => ?_)
    | with_reducible refine foldl_keeps _ _ ?_ (fun _ _ h => ?_)
    | with_reducible refine foldl_pair_keeps _ _ _ ?_ (fun _ _ h => ?_)
    | with_reducible refine State.modPort_keeps _ _ _ ?_

theorem nextTseq_keeps {s0 : State} (p : ℕ) (k : ℕ) (s : State) (hs : Keeps s0 s) : KeepsP s0 (nextTseq p k s) := by
  unfold nextTseq
  repeat' first
    | with_reducible assumption
    | with_reducible refine KeepsP.ite (fun _ => ?_) (fun _ => ?_)
    | simp only [keepsP_mk]
    | with_reducible refine Keeps.ite (fun _ => ?_) (fun _ => ?_)
    | with_reducible refine foldl_keeps _ _ ?_ (fun _ _ h => ?_)
    | with_reducible refine foldl_pair_keeps _ _ _ ?_ (fun _ _ h => ?_)
    | with_reducible refine State.modPort_keeps _ _ _ ?_

theorem sendTiming_keeps {s0 : State} (p : ℕ) (k : ℕ) (payload : Bytes) (s : State) (hs : Keeps s0 s) : Keeps s0 (sendTiming p k payload s) := by
  unfold sendTiming
  repeat' first
    | with_reducible assumption
    | with_reducible refine Keeps.ite (fun _ => ?_) (fun _ => ?_)
    | with_reducible refine foldl_keeps _ _ ?_ (fun _ _ h => ?_)
    | with_reducible refine foldl_pair_keeps _ _ _ ?_ (fun _ _ h => ?_)
    | with_reducible refine nextTseq_keeps _ _ _ ?_
    | with_reducible refine sendLinkCell_keeps _ _ _ ?_
    | simp only [keeps_set_lanes, keeps_set_ports, keeps_set_blocks, keeps_set_sched, keeps_set_fabric, keeps_set_lasts, keeps_set_host, keeps_set_logs, keeps_set_chip, keeps_set_ctl, keeps_set_time, keeps_set_twin, keeps_set_peals, keeps_set_spine, keeps_set_circ, keeps_set_chans]
    | refine KeepsP.get (by with_reducible assumption) ?_
    | refine KeepsT.get (by with_reducible assumption) ?_
    | simp only [keeps_snd_snd]
    | simp only [keeps_snd]

theorem execTimingReqSend_keeps {s0 : State} (port : ℕ) (s : State) (hs : Keeps s0 s) : KeepsOut s0 (execTimingReqSend port s) := by
  unfold execTimingReqSend
  repeat' first
    | with_reducible refine KeepsOut.next ?_
    | exact KeepsOut.refused _
    | with_reducible assumption
    | with_reducible refine KeepsOut.ite (fun _ => ?_) (fun _ => ?_)
    | with_reducible refine Keeps.ite (fun _ => ?_) (fun _ => ?_)
    | with_reducible refine foldl_keeps _ _ ?_ (fun _ _ h => ?_)
    | with_reducible refine foldl_pair_keeps _ _ _ ?_ (fun _ _ h => ?_)
    | with_reducible refine sendTiming_keeps _ _ _ _ ?_

theorem execTimingReqReceive_keeps {s0 : State} (port : ℕ) (cell : Cell) (stamp : BitVec 80) (s : State) (hs : Keeps s0 s) : KeepsOut s0 (execTimingReqReceive port cell stamp s) := by
  unfold execTimingReqReceive
  repeat' first
    | with_reducible refine KeepsOut.next ?_
    | exact KeepsOut.refused _
    | with_reducible assumption
    | with_reducible refine KeepsOut.ite (fun _ => ?_) (fun _ => ?_)
    | with_reducible refine Keeps.ite (fun _ => ?_) (fun _ => ?_)
    | with_reducible refine foldl_keeps _ _ ?_ (fun _ _ h => ?_)
    | with_reducible refine foldl_pair_keeps _ _ _ ?_ (fun _ _ h => ?_)
    | with_reducible refine countDiscard_keeps _ _ _ ?_
    | with_reducible refine sendTiming_keeps _ _ _ _ ?_

theorem execTimingRespReceive_keeps {s0 : State} (port : ℕ) (cell : Cell) (stamp : BitVec 80) (s : State) (hs : Keeps s0 s) : KeepsOut s0 (execTimingRespReceive port cell stamp s) := by
  unfold execTimingRespReceive
  repeat' first
    | with_reducible refine KeepsOut.next ?_
    | exact KeepsOut.refused _
    | with_reducible assumption
    | with_reducible refine KeepsOut.ite (fun _ => ?_) (fun _ => ?_)
    | with_reducible refine Keeps.ite (fun _ => ?_) (fun _ => ?_)
    | with_reducible refine foldl_keeps _ _ ?_ (fun _ _ h => ?_)
    | with_reducible refine foldl_pair_keeps _ _ _ ?_ (fun _ _ h => ?_)
    | with_reducible refine countDiscard_keeps _ _ _ ?_
    | with_reducible refine takeStamp_keeps _ _ _ ?_
    | with_reducible refine bumpTime_keeps _ _ ?_
    | with_reducible refine exchange_keeps _ _ _ _ _ _ ?_
    | with_reducible refine measure_keeps _ _ _ ?_
    | simp only [keeps_set_lanes, keeps_set_ports, keeps_set_blocks, keeps_set_sched, keeps_set_fabric, keeps_set_lasts, keeps_set_host, keeps_set_logs, keeps_set_chip, keeps_set_ctl, keeps_set_time, keeps_set_twin, keeps_set_peals, keeps_set_spine, keeps_set_circ, keeps_set_chans]
    | refine KeepsP.get (by with_reducible assumption) ?_
    | refine KeepsT.get (by with_reducible assumption) ?_
    | simp only [keeps_snd_snd]
    | simp only [keeps_snd]
    | simp only [keepsP_mk]
    | with_reducible refine KeepsP.ite (fun _ => ?_) (fun _ => ?_)
    | split

theorem execProbeSend_keeps {s0 : State} (wp : ℕ) (s : State) (hs : Keeps s0 s) : KeepsOut s0 (execProbeSend wp s) := by
  unfold execProbeSend
  repeat' first
    | with_reducible refine KeepsOut.next ?_
    | exact KeepsOut.refused _
    | with_reducible assumption
    | with_reducible refine KeepsOut.ite (fun _ => ?_) (fun _ => ?_)
    | with_reducible refine Keeps.ite (fun _ => ?_) (fun _ => ?_)
    | with_reducible refine foldl_keeps _ _ ?_ (fun _ _ h => ?_)
    | with_reducible refine foldl_pair_keeps _ _ _ ?_ (fun _ _ h => ?_)
    | with_reducible refine nextTseq_keeps _ _ _ ?_
    | with_reducible refine sendLinkCell_keeps _ _ _ ?_
    | simp only [keeps_set_lanes, keeps_set_ports, keeps_set_blocks, keeps_set_sched, keeps_set_fabric, keeps_set_lasts, keeps_set_host, keeps_set_logs, keeps_set_chip, keeps_set_ctl, keeps_set_time, keeps_set_twin, keeps_set_peals, keeps_set_spine, keeps_set_circ, keeps_set_chans]
    | refine KeepsP.get (by with_reducible assumption) ?_
    | refine KeepsT.get (by with_reducible assumption) ?_
    | simp only [keeps_snd_snd]
    | simp only [keeps_snd]

theorem execProbeReceive_keeps {s0 : State} (wp : Nat) (msg : TwinMsg) (stamp : BitVec 80) (s : State) (hs : Keeps s0 s) : KeepsOut s0 (execProbeReceive wp msg stamp s) := by
  unfold execProbeReceive
  repeat' first
    | with_reducible refine KeepsOut.next ?_
    | exact KeepsOut.refused _
    | with_reducible assumption
    | with_reducible refine KeepsOut.ite (fun _ => ?_) (fun _ => ?_)
    | with_reducible refine Keeps.ite (fun _ => ?_) (fun _ => ?_)
    | with_reducible refine foldl_keeps _ _ ?_ (fun _ _ h => ?_)
    | with_reducible refine foldl_pair_keeps _ _ _ ?_ (fun _ _ h => ?_)
    | with_reducible refine countDiscard_keeps _ _ _ ?_
    | with_reducible refine sendLinkCell_keeps _ _ _ ?_
    | simp only [keeps_set_lanes, keeps_set_ports, keeps_set_blocks, keeps_set_sched, keeps_set_fabric, keeps_set_lasts, keeps_set_host, keeps_set_logs, keeps_set_chip, keeps_set_ctl, keeps_set_time, keeps_set_twin, keeps_set_peals, keeps_set_spine, keeps_set_circ, keeps_set_chans]
    | refine KeepsP.get (by with_reducible assumption) ?_
    | refine KeepsT.get (by with_reducible assumption) ?_
    | simp only [keeps_snd_snd]
    | simp only [keeps_snd]
    | simp only [keepsP_mk]
    | with_reducible refine KeepsP.ite (fun _ => ?_) (fun _ => ?_)
    | split

theorem execProbeEchoReceive_keeps {s0 : State} (wp : Nat) (msg : TwinMsg) (stamp : BitVec 80) (s : State) (hs : Keeps s0 s) : KeepsOut s0 (execProbeEchoReceive wp msg stamp s) := by
  unfold execProbeEchoReceive
  repeat' first
    | with_reducible refine KeepsOut.next ?_
    | exact KeepsOut.refused _
    | with_reducible assumption
    | with_reducible refine KeepsOut.ite (fun _ => ?_) (fun _ => ?_)
    | with_reducible refine Keeps.ite (fun _ => ?_) (fun _ => ?_)
    | with_reducible refine foldl_keeps _ _ ?_ (fun _ _ h => ?_)
    | with_reducible refine foldl_pair_keeps _ _ _ ?_ (fun _ _ h => ?_)
    | with_reducible refine countDiscard_keeps _ _ _ ?_
    | with_reducible refine takeStamp_keeps _ _ _ ?_
    | with_reducible refine bump_keeps _ _ _ _ ?_
    | with_reducible refine exchange_keeps _ _ _ _ _ _ ?_
    | simp only [keeps_set_lanes, keeps_set_ports, keeps_set_blocks, keeps_set_sched, keeps_set_fabric, keeps_set_lasts, keeps_set_host, keeps_set_logs, keeps_set_chip, keeps_set_ctl, keeps_set_time, keeps_set_twin, keeps_set_peals, keeps_set_spine, keeps_set_circ, keeps_set_chans]
    | refine KeepsP.get (by with_reducible assumption) ?_
    | refine KeepsT.get (by with_reducible assumption) ?_
    | simp only [keeps_snd_snd]
    | simp only [keeps_snd]
    | simp only [keepsP_mk]
    | with_reducible refine KeepsP.ite (fun _ => ?_) (fun _ => ?_)
    | split

theorem execAnnounceSend_keeps {s0 : State} (port : ℕ) (s : State) (hs : Keeps s0 s) : KeepsOut s0 (execAnnounceSend port s) := by
  unfold execAnnounceSend
  repeat' first
    | with_reducible refine KeepsOut.next ?_
    | exact KeepsOut.refused _
    | with_reducible assumption
    | with_reducible refine KeepsOut.ite (fun _ => ?_) (fun _ => ?_)
    | with_reducible refine Keeps.ite (fun _ => ?_) (fun _ => ?_)
    | with_reducible refine foldl_keeps _ _ ?_ (fun _ _ h => ?_)
    | with_reducible refine foldl_pair_keeps _ _ _ ?_ (fun _ _ h => ?_)
    | with_reducible refine sendTiming_keeps _ _ _ _ ?_

theorem execAnnounceReceive_keeps {s0 : State} (port : ℕ) (cell : Cell) (s : State) (hs : Keeps s0 s) : KeepsOut s0 (execAnnounceReceive port cell s) := by
  unfold execAnnounceReceive
  repeat' first
    | with_reducible refine KeepsOut.next ?_
    | exact KeepsOut.refused _
    | with_reducible assumption
    | with_reducible refine KeepsOut.ite (fun _ => ?_) (fun _ => ?_)
    | with_reducible refine Keeps.ite (fun _ => ?_) (fun _ => ?_)
    | with_reducible refine foldl_keeps _ _ ?_ (fun _ _ h => ?_)
    | with_reducible refine foldl_pair_keeps _ _ _ ?_ (fun _ _ h => ?_)
    | with_reducible refine countDiscard_keeps _ _ _ ?_
    | with_reducible refine reselect_keeps _ ?_
    | with_reducible refine State.modPort_keeps _ _ _ ?_

theorem execAnnounceTimeout_keeps {s0 : State} (port : ℕ) (s : State) (hs : Keeps s0 s) : KeepsOut s0 (execAnnounceTimeout port s) := by
  unfold execAnnounceTimeout
  repeat' first
    | with_reducible refine KeepsOut.next ?_
    | exact KeepsOut.refused _
    | with_reducible assumption
    | with_reducible refine KeepsOut.ite (fun _ => ?_) (fun _ => ?_)
    | with_reducible refine Keeps.ite (fun _ => ?_) (fun _ => ?_)
    | with_reducible refine foldl_keeps _ _ ?_ (fun _ _ h => ?_)
    | with_reducible refine foldl_pair_keeps _ _ _ ?_ (fun _ _ h => ?_)
    | with_reducible refine reselect_keeps _ ?_
    | with_reducible refine State.modPort_keeps _ _ _ ?_

theorem execPpsInEdge_keeps {s0 : State} (frcQ : ℕ) (s : State) (hs : Keeps s0 s) : KeepsOut s0 (execPpsInEdge frcQ s) := by
  unfold execPpsInEdge
  repeat' first
    | with_reducible refine KeepsOut.next ?_
    | exact KeepsOut.refused _
    | with_reducible assumption
    | with_reducible refine KeepsOut.ite (fun _ => ?_) (fun _ => ?_)
    | with_reducible refine Keeps.ite (fun _ => ?_) (fun _ => ?_)
    | with_reducible refine foldl_keeps _ _ ?_ (fun _ _ h => ?_)
    | with_reducible refine foldl_pair_keeps _ _ _ ?_ (fun _ _ h => ?_)
    | with_reducible refine bumpTime_keeps _ _ ?_
    | with_reducible refine reselect_keeps _ ?_
    | with_reducible refine State.modTime_keeps _ _ ?_
    | with_reducible refine measure_keeps _ _ _ ?_
    | simp only [keeps_set_lanes, keeps_set_ports, keeps_set_blocks, keeps_set_sched, keeps_set_fabric, keeps_set_lasts, keeps_set_host, keeps_set_logs, keeps_set_chip, keeps_set_ctl, keeps_set_time, keeps_set_twin, keeps_set_peals, keeps_set_spine, keeps_set_circ, keeps_set_chans]
    | refine KeepsP.get (by with_reducible assumption) ?_
    | refine KeepsT.get (by with_reducible assumption) ?_
    | simp only [keeps_snd_snd]
    | simp only [keeps_snd]
    | simp only [keepsP_mk]
    | with_reducible refine KeepsP.ite (fun _ => ?_) (fun _ => ?_)
    | split

theorem execPpsInLoss_keeps {s0 : State} (s : State) (hs : Keeps s0 s) : KeepsOut s0 (execPpsInLoss s) := by
  unfold execPpsInLoss
  repeat' first
    | with_reducible refine KeepsOut.next ?_
    | exact KeepsOut.refused _
    | with_reducible assumption
    | with_reducible refine KeepsOut.ite (fun _ => ?_) (fun _ => ?_)
    | with_reducible refine Keeps.ite (fun _ => ?_) (fun _ => ?_)
    | with_reducible refine foldl_keeps _ _ ?_ (fun _ _ h => ?_)
    | with_reducible refine foldl_pair_keeps _ _ _ ?_ (fun _ _ h => ?_)
    | with_reducible refine reselect_keeps _ ?_
    | with_reducible refine State.modTime_keeps _ _ ?_

theorem execPpsOutEdge_keeps {s0 : State} (s : State) (hs : Keeps s0 s) : KeepsOut s0 (execPpsOutEdge s) := by
  unfold execPpsOutEdge
  repeat' first
    | with_reducible refine KeepsOut.next ?_
    | exact KeepsOut.refused _
    | with_reducible assumption
    | with_reducible refine KeepsOut.ite (fun _ => ?_) (fun _ => ?_)
    | with_reducible refine Keeps.ite (fun _ => ?_) (fun _ => ?_)
    | with_reducible refine foldl_keeps _ _ ?_ (fun _ _ h => ?_)
    | with_reducible refine foldl_pair_keeps _ _ _ ?_ (fun _ _ h => ?_)
    | with_reducible refine State.modTime_keeps _ _ ?_

theorem execPpsOutEnd_keeps {s0 : State} (s : State) (hs : Keeps s0 s) : KeepsOut s0 (execPpsOutEnd s) := by
  unfold execPpsOutEnd
  repeat' first
    | with_reducible refine KeepsOut.next ?_
    | exact KeepsOut.refused _
    | with_reducible assumption
    | with_reducible refine KeepsOut.ite (fun _ => ?_) (fun _ => ?_)
    | with_reducible refine Keeps.ite (fun _ => ?_) (fun _ => ?_)
    | with_reducible refine foldl_keeps _ _ ?_ (fun _ _ h => ?_)
    | with_reducible refine foldl_pair_keeps _ _ _ ?_ (fun _ _ h => ?_)
    | with_reducible refine State.modTime_keeps _ _ ?_

theorem execPtpMessage_keeps {s0 : State} (p : PtpMsg) (s : State) (hs : Keeps s0 s) : KeepsOut s0 (execPtpMessage p s) := by
  unfold execPtpMessage
  repeat' first
    | with_reducible refine KeepsOut.next ?_
    | exact KeepsOut.refused _
    | with_reducible assumption
    | with_reducible refine KeepsOut.ite (fun _ => ?_) (fun _ => ?_)
    | with_reducible refine Keeps.ite (fun _ => ?_) (fun _ => ?_)
    | with_reducible refine foldl_keeps _ _ ?_ (fun _ _ h => ?_)
    | with_reducible refine foldl_pair_keeps _ _ _ ?_ (fun _ _ h => ?_)
    | with_reducible refine State.modTime_keeps _ _ ?_
    | with_reducible refine reselect_keeps _ ?_
    | with_reducible refine measure_keeps _ _ _ ?_
    | simp only [keeps_set_lanes, keeps_set_ports, keeps_set_blocks, keeps_set_sched, keeps_set_fabric, keeps_set_lasts, keeps_set_host, keeps_set_logs, keeps_set_chip, keeps_set_ctl, keeps_set_time, keeps_set_twin, keeps_set_peals, keeps_set_spine, keeps_set_circ, keeps_set_chans]
    | refine KeepsP.get (by with_reducible assumption) ?_
    | refine KeepsT.get (by with_reducible assumption) ?_
    | simp only [keeps_snd_snd]
    | simp only [keeps_snd]
    | simp only [keepsP_mk]
    | with_reducible refine KeepsP.ite (fun _ => ?_) (fun _ => ?_)
    | split

theorem execPtpMasterLoss_keeps {s0 : State} (s : State) (hs : Keeps s0 s) : KeepsOut s0 (execPtpMasterLoss s) := by
  unfold execPtpMasterLoss
  repeat' first
    | with_reducible refine KeepsOut.next ?_
    | exact KeepsOut.refused _
    | with_reducible assumption
    | with_reducible refine KeepsOut.ite (fun _ => ?_) (fun _ => ?_)
    | with_reducible refine Keeps.ite (fun _ => ?_) (fun _ => ?_)
    | with_reducible refine foldl_keeps _ _ ?_ (fun _ _ h => ?_)
    | with_reducible refine foldl_pair_keeps _ _ _ ?_ (fun _ _ h => ?_)
    | with_reducible refine reselect_keeps _ ?_
    | with_reducible refine State.modTime_keeps _ _ ?_

theorem execHoldoverExpiry_keeps {s0 : State} (s : State) (hs : Keeps s0 s) : KeepsOut s0 (execHoldoverExpiry s) := by
  unfold execHoldoverExpiry
  repeat' first
    | with_reducible refine KeepsOut.next ?_
    | exact KeepsOut.refused _
    | with_reducible assumption
    | with_reducible refine KeepsOut.ite (fun _ => ?_) (fun _ => ?_)
    | with_reducible refine Keeps.ite (fun _ => ?_) (fun _ => ?_)
    | with_reducible refine foldl_keeps _ _ ?_ (fun _ _ h => ?_)
    | with_reducible refine foldl_pair_keeps _ _ _ ?_ (fun _ _ h => ?_)
    | with_reducible refine circuitsLoseLock_keeps _ ?_
    | with_reducible refine timeTo_keeps _ _ ?_

theorem execTrefLoss_keeps {s0 : State} (s : State) (hs : Keeps s0 s) : KeepsOut s0 (execTrefLoss s) := by
  unfold execTrefLoss
  repeat' first
    | with_reducible refine KeepsOut.next ?_
    | exact KeepsOut.refused _
    | with_reducible assumption
    | with_reducible refine KeepsOut.ite (fun _ => ?_) (fun _ => ?_)
    | with_reducible refine Keeps.ite (fun _ => ?_) (fun _ => ?_)
    | with_reducible refine foldl_keeps _ _ ?_ (fun _ _ h => ?_)
    | with_reducible refine foldl_pair_keeps _ _ _ ?_ (fun _ _ h => ?_)
    | with_reducible refine State.modChip_keeps _ _ ?_
    | with_reducible refine circuitsLoseLock_keeps _ ?_
    | with_reducible refine timeTo_keeps _ _ ?_
    | with_reducible refine State.modTime_keeps _ _ ?_

theorem putCfg_keeps {s0 : State} (typ : ℕ) (ver : ℕ) (body : Bytes) (s : State) (hs : Keeps s0 s) : Keeps s0 (putCfg typ ver body s) := by
  exact hs.trans ⟨rfl, Nat.le_refl _, id, fun _ _ => Nat.le_refl _, Nat.le_refl _, rfl⟩

theorem applyTime_keeps {s0 : State} (b : Bytes) (s : State) (hs : Keeps s0 s) : Keeps s0 (applyTime b s) := by
  unfold applyTime
  repeat' first
    | with_reducible assumption
    | with_reducible refine Keeps.ite (fun _ => ?_) (fun _ => ?_)
    | with_reducible refine foldl_keeps _ _ ?_ (fun _ _ h => ?_)
    | with_reducible refine foldl_pair_keeps _ _ _ ?_ (fun _ _ h => ?_)
    | with_reducible refine State.modTime_keeps _ _ ?_
    | with_reducible refine reselect_keeps _ ?_
    | with_reducible refine setRate_keeps _ _ ?_
    | with_reducible refine takeStep_keeps _ _ _ ?_

theorem execTimeSetSource_keeps {s0 : State} (m : Msg) (s : State) (hs : Keeps s0 s) : KeepsOut s0 (execTimeSetSource m s) := by
  unfold execTimeSetSource
  repeat' first
    | with_reducible refine KeepsOut.next ?_
    | exact KeepsOut.refused _
    | with_reducible assumption
    | with_reducible refine KeepsOut.ite (fun _ => ?_) (fun _ => ?_)
    | with_reducible refine Keeps.ite (fun _ => ?_) (fun _ => ?_)
    | with_reducible refine foldl_keeps _ _ ?_ (fun _ _ h => ?_)
    | with_reducible refine foldl_pair_keeps _ _ _ ?_ (fun _ _ h => ?_)
    | with_reducible refine runMsg_keeps _ _ _ _ ?_ (fun _ _ h => ?_)
    | with_reducible refine checked_keeps _ _ _ _ ?_ ?_
    | with_reducible refine putCfg_keeps _ _ _ _ ?_
    | with_reducible refine applyTime_keeps _ _ ?_

theorem execTimeStatus_keeps {s0 : State} (m : Msg) (s : State) (hs : Keeps s0 s) : KeepsOut s0 (execTimeStatus m s) := by
  unfold execTimeStatus
  repeat' first
    | with_reducible refine KeepsOut.next ?_
    | exact KeepsOut.refused _
    | with_reducible assumption
    | with_reducible refine KeepsOut.ite (fun _ => ?_) (fun _ => ?_)
    | with_reducible refine Keeps.ite (fun _ => ?_) (fun _ => ?_)
    | with_reducible refine foldl_keeps _ _ ?_ (fun _ _ h => ?_)
    | with_reducible refine foldl_pair_keeps _ _ _ ?_ (fun _ _ h => ?_)
    | with_reducible refine runMsg_keeps _ _ _ _ ?_ (fun _ _ h => ?_)
    | simp only [keeps_set_lanes, keeps_set_ports, keeps_set_blocks, keeps_set_sched, keeps_set_fabric, keeps_set_lasts, keeps_set_host, keeps_set_logs, keeps_set_chip, keeps_set_ctl, keeps_set_time, keeps_set_twin, keeps_set_peals, keeps_set_spine, keeps_set_circ, keeps_set_chans]
    | refine KeepsP.get (by with_reducible assumption) ?_
    | refine KeepsT.get (by with_reducible assumption) ?_
    | simp only [keeps_snd_snd]
    | simp only [keeps_snd]
    | simp only [keepsP_mk]

end Sys2Proof.Machine
end

