-- ==== Sys2Proof/Laws/KeepsWindow.lean ====
section
/-! SUPPORT. Laws/KeepsWindow.lean: what the operations of Machine/Window.lean keep. -/
namespace Sys2Proof.Machine

set_option linter.unusedSimpArgs false
set_option linter.unusedTactic false
set_option linter.unreachableTactic false

theorem lockSeg_keeps {s0 : State} (g : ℕ) (s : State) (hs : Keeps s0 s) : Keeps s0 (lockSeg g s) := by
  unfold lockSeg
  refine forAll_keeps _ _ (Keeps.of_mem _ hs fun m => ⟨m.1, ?_, m.2.2⟩) fun s w h => ?_
  · exact Memory.foldl_write_wf _ _ _ (Memory.foldl_write_wf _ _ _ (Memory.clear_wf _ _ m.2.1))
  · exact State.draw_keeps (Keeps.of_mem _ h fun m => ⟨m.1, Memory.writes_wf _ _ m.2.1, m.2.2⟩)

theorem healthPut_keeps {s0 : State} (e : ℕ) (w : ℕ) (s : State) (hs : Keeps s0 s) : Keeps s0 (healthPut e w s) := by
  unfold healthPut
  repeat' first
    | with_reducible assumption
    | with_reducible refine Keeps.ite (fun _ => ?_) (fun _ => ?_)
    | with_reducible refine foldl_keeps _ _ ?_ (fun _ _ h => ?_)
    | with_reducible refine foldl_pair_keeps _ _ _ ?_ (fun _ _ h => ?_)
    | with_reducible refine State.tblPut_keeps _ _ ?_

theorem deferTo_keeps {s0 : State} (g : ℕ) (d : Deferred) (s : State) (hs : Keeps s0 s) : Keeps s0 (deferTo g d s) := by
  unfold deferTo
  repeat' first
    | with_reducible assumption
    | with_reducible refine Keeps.ite (fun _ => ?_) (fun _ => ?_)
    | with_reducible refine foldl_keeps _ _ ?_ (fun _ _ h => ?_)
    | with_reducible refine foldl_pair_keeps _ _ _ ?_ (fun _ _ h => ?_)
    | simp only [keeps_set_lanes, keeps_set_ports, keeps_set_blocks, keeps_set_sched, keeps_set_fabric, keeps_set_lasts, keeps_set_host, keeps_set_logs, keeps_set_chip, keeps_set_ctl, keeps_set_time, keeps_set_twin, keeps_set_peals, keeps_set_spine, keeps_set_circ, keeps_set_chans]
    | ((with_reducible refine Keeps.of_mem _ ?_ (fun m => ?_)); on_goal 2 => first | exact m | exact ⟨Memory.writes_wf _ _ m.1, m.2⟩ | exact ⟨m.1, Memory.writes_wf _ _ m.2.1, m.2.2⟩ | exact ⟨m.1, m.2.1, m.2.2.1, Memory.writes_wf _ _ m.2.2.2.1, m.2.2.2.2⟩ | exact ⟨m.1, m.2.1, m.2.2.1, m.2.2.2.1, Memory.writes_wf _ _ m.2.2.2.2⟩ | exact ⟨Memory.clear_wf _ _ m.1, m.2⟩ | exact ⟨m.1, m.2.1, m.2.2.1, Memory.clear_wf _ _ m.2.2.2.1, m.2.2.2.2⟩ | exact ⟨m.1, m.2.1, m.2.2.1, m.2.2.2.1, Memory.clear_wf _ _ m.2.2.2.2⟩)
    | refine KeepsP.get (by with_reducible assumption) ?_
    | refine KeepsT.get (by with_reducible assumption) ?_
    | simp only [keeps_snd_snd]
    | simp only [keeps_snd]
    | simp only [keepsP_mk]
    | with_reducible refine KeepsP.ite (fun _ => ?_) (fun _ => ?_)
    | split
    | dsimp only
    | (intro _ e; cases e)
    | (intro _ e; simp only [Option.some.injEq] at e; subst e)

theorem healthUpdate_keeps {s0 : State} (e : ℕ) (d : Deferred) (s : State) (hs : Keeps s0 s) : Keeps s0 (healthUpdate e d s) := by
  unfold healthUpdate
  repeat' first
    | with_reducible assumption
    | with_reducible refine Keeps.ite (fun _ => ?_) (fun _ => ?_)
    | with_reducible refine foldl_keeps _ _ ?_ (fun _ _ h => ?_)
    | with_reducible refine foldl_pair_keeps _ _ _ ?_ (fun _ _ h => ?_)
    | with_reducible refine deferTo_keeps _ _ _ ?_
    | with_reducible refine healthPut_keeps _ _ _ ?_

theorem applyOne_keeps {s0 : State} (g : ℕ) (d : Deferred) (s : State) (hs : Keeps s0 s) : Keeps s0 (applyOne g d s) := by
  unfold applyOne
  repeat' first
    | with_reducible assumption
    | with_reducible refine Keeps.ite (fun _ => ?_) (fun _ => ?_)
    | with_reducible refine forAll_keeps _ _ ?_ (fun _ _ h => ?_)
    | with_reducible refine foldl_keeps _ _ ?_ (fun _ _ h => ?_)
    | with_reducible refine foldl_pair_keeps _ _ _ ?_ (fun _ _ h => ?_)
    | with_reducible refine State.tblPut_keeps _ _ ?_
    | with_reducible refine healthPut_keeps _ _ _ ?_
    | simp only [keeps_set_lanes, keeps_set_ports, keeps_set_blocks, keeps_set_sched, keeps_set_fabric, keeps_set_lasts, keeps_set_host, keeps_set_logs, keeps_set_chip, keeps_set_ctl, keeps_set_time, keeps_set_twin, keeps_set_peals, keeps_set_spine, keeps_set_circ, keeps_set_chans]
    | refine KeepsP.get (by with_reducible assumption) ?_
    | refine KeepsT.get (by with_reducible assumption) ?_
    | simp only [keeps_snd_snd]
    | simp only [keeps_snd]
    | simp only [keepsP_mk]
    | with_reducible refine KeepsP.ite (fun _ => ?_) (fun _ => ?_)
    | split

theorem applyDeferred_keeps {s0 : State} (g : ℕ) (s : State) (hs : Keeps s0 s) : Keeps s0 (applyDeferred g s) := by
  unfold applyDeferred
  repeat' first
    | with_reducible assumption
    | with_reducible refine Keeps.ite (fun _ => ?_) (fun _ => ?_)
    | with_reducible refine forAll_keeps _ _ ?_ (fun _ _ h => ?_)
    | with_reducible refine foldl_keeps _ _ ?_ (fun _ _ h => ?_)
    | with_reducible refine foldl_pair_keeps _ _ _ ?_ (fun _ _ h => ?_)
    | with_reducible refine applyOne_keeps _ _ _ ?_
    | simp only [keeps_set_lanes, keeps_set_ports, keeps_set_blocks, keeps_set_sched, keeps_set_fabric, keeps_set_lasts, keeps_set_host, keeps_set_logs, keeps_set_chip, keeps_set_ctl, keeps_set_time, keeps_set_twin, keeps_set_peals, keeps_set_spine, keeps_set_circ, keeps_set_chans]
    | ((with_reducible refine Keeps.of_mem _ ?_ (fun m => ?_)); on_goal 2 => first | exact m | exact ⟨Memory.writes_wf _ _ m.1, m.2⟩ | exact ⟨m.1, Memory.writes_wf _ _ m.2.1, m.2.2⟩ | exact ⟨m.1, m.2.1, m.2.2.1, Memory.writes_wf _ _ m.2.2.2.1, m.2.2.2.2⟩ | exact ⟨m.1, m.2.1, m.2.2.1, m.2.2.2.1, Memory.writes_wf _ _ m.2.2.2.2⟩ | exact ⟨Memory.clear_wf _ _ m.1, m.2⟩ | exact ⟨m.1, m.2.1, m.2.2.1, Memory.clear_wf _ _ m.2.2.2.1, m.2.2.2.2⟩ | exact ⟨m.1, m.2.1, m.2.2.1, m.2.2.2.1, Memory.clear_wf _ _ m.2.2.2.2⟩)
    | refine KeepsP.get (by with_reducible assumption) ?_
    | refine KeepsT.get (by with_reducible assumption) ?_
    | simp only [keeps_snd_snd]
    | simp only [keeps_snd]
    | simp only [keepsP_mk]
    | with_reducible refine KeepsP.ite (fun _ => ?_) (fun _ => ?_)
    | split
    | dsimp only
    | (intro _ e; cases e)
    | (intro _ e; simp only [Option.some.injEq] at e; subst e)

theorem publishSeg_keeps {s0 : State} (g : ℕ) (s : State) (hs : Keeps s0 s) : Keeps s0 (publishSeg g s) := by
  unfold publishSeg
  exact State.modFabric_keeps _ _ (Keeps.of_mem _ hs fun m => ⟨Memory.foldl_write_wf _ _ _ (Memory.clear_wf _ _ m.1), m.2⟩)

theorem dropCached_keeps {s0 : State} (keep : ℕ → CacheEnt → Bool) (s : State) (hs : Keeps s0 s) : Keeps s0 (dropCached keep s) := by
  unfold dropCached
  repeat' first
    | with_reducible assumption
    | with_reducible refine Keeps.ite (fun _ => ?_) (fun _ => ?_)
    | with_reducible refine foldl_keeps _ _ ?_ (fun _ _ h => ?_)
    | with_reducible refine foldl_pair_keeps _ _ _ ?_ (fun _ _ h => ?_)
    | simp only [keeps_set_lanes, keeps_set_ports, keeps_set_blocks, keeps_set_sched, keeps_set_fabric, keeps_set_lasts, keeps_set_host, keeps_set_logs, keeps_set_chip, keeps_set_ctl, keeps_set_time, keeps_set_twin, keeps_set_peals, keeps_set_spine, keeps_set_circ, keeps_set_chans]

theorem fenceBoth_keeps {s0 : State} (bank : ℕ) (g : ℕ) (edits : List (ℕ × ℕ × ℕ)) (s : State) (hs : Keeps s0 s) : Keeps s0 (fenceBoth bank g edits s) := by
  unfold fenceBoth
  repeat' first
    | with_reducible assumption
    | with_reducible refine Keeps.ite (fun _ => ?_) (fun _ => ?_)
    | with_reducible refine forAll_keeps _ _ ?_ (fun _ _ h => ?_)
    | with_reducible refine foldl_keeps _ _ ?_ (fun _ _ h => ?_)
    | with_reducible refine foldl_pair_keeps _ _ _ ?_ (fun _ _ h => ?_)
    | with_reducible refine State.tblPut_keeps _ _ ?_
    | simp only [keeps_set_lanes, keeps_set_ports, keeps_set_blocks, keeps_set_sched, keeps_set_fabric, keeps_set_lasts, keeps_set_host, keeps_set_logs, keeps_set_chip, keeps_set_ctl, keeps_set_time, keeps_set_twin, keeps_set_peals, keeps_set_spine, keeps_set_circ, keeps_set_chans]
    | ((with_reducible refine Keeps.of_mem _ ?_ (fun m => ?_)); on_goal 2 => first | exact m | exact ⟨Memory.writes_wf _ _ m.1, m.2⟩ | exact ⟨m.1, Memory.writes_wf _ _ m.2.1, m.2.2⟩ | exact ⟨m.1, m.2.1, m.2.2.1, Memory.writes_wf _ _ m.2.2.2.1, m.2.2.2.2⟩ | exact ⟨m.1, m.2.1, m.2.2.1, m.2.2.2.1, Memory.writes_wf _ _ m.2.2.2.2⟩ | exact ⟨Memory.clear_wf _ _ m.1, m.2⟩ | exact ⟨m.1, m.2.1, m.2.2.1, Memory.clear_wf _ _ m.2.2.2.1, m.2.2.2.2⟩ | exact ⟨m.1, m.2.1, m.2.2.1, m.2.2.2.1, Memory.clear_wf _ _ m.2.2.2.2⟩)
    | refine KeepsP.get (by with_reducible assumption) ?_
    | refine KeepsT.get (by with_reducible assumption) ?_
    | simp only [keeps_snd_snd]
    | simp only [keeps_snd]
    | simp only [keepsP_mk]
    | with_reducible refine KeepsP.ite (fun _ => ?_) (fun _ => ?_)
    | split
    | dsimp only
    | (intro _ e; cases e)
    | (intro _ e; simp only [Option.some.injEq] at e; subst e)

theorem searchFenced_keeps {s0 : State} (fas : List ℕ) (s : State) (hs : Keeps s0 s) : Keeps s0 (searchFenced fas s) := by
  unfold searchFenced
  repeat' first
    | with_reducible assumption
    | with_reducible refine Keeps.ite (fun _ => ?_) (fun _ => ?_)
    | with_reducible refine forAll_keeps _ _ ?_ (fun _ _ h => ?_)
    | with_reducible refine foldl_keeps _ _ ?_ (fun _ _ h => ?_)
    | with_reducible refine foldl_pair_keeps _ _ _ ?_ (fun _ _ h => ?_)
    | with_reducible refine setFenced_keeps _ _ _ ?_
    | with_reducible refine voidPeal_keeps _ _ _ _ _ _ ?_

theorem unlockSeg_keeps {s0 : State} (g : ℕ) (s : State) (hs : Keeps s0 s) : KeepsP s0 (unlockSeg g s) := by
  unfold unlockSeg
  repeat' first
    | with_reducible assumption
    | with_reducible refine KeepsP.ite (fun _ => ?_) (fun _ => ?_)
    | simp only [keepsP_mk]
    | with_reducible refine Keeps.ite (fun _ => ?_) (fun _ => ?_)
    | with_reducible refine foldl_keeps _ _ ?_ (fun _ _ h => ?_)
    | with_reducible refine foldl_pair_keeps _ _ _ ?_ (fun _ _ h => ?_)
    | with_reducible refine postEvent_keeps _ _ _ ?_
    | with_reducible refine bump_keeps _ _ _ _ ?_
    | with_reducible refine publishSeg_keeps _ _ ?_
    | with_reducible refine fenceBoth_keeps _ _ _ _ ?_
    | with_reducible refine dropCached_keeps _ _ ?_
    | with_reducible refine searchFenced_keeps _ _ ?_
    | simp only [keeps_set_lanes, keeps_set_ports, keeps_set_blocks, keeps_set_sched, keeps_set_fabric, keeps_set_lasts, keeps_set_host, keeps_set_logs, keeps_set_chip, keeps_set_ctl, keeps_set_time, keeps_set_twin, keeps_set_peals, keeps_set_spine, keeps_set_circ, keeps_set_chans]
    | refine KeepsP.get (by with_reducible assumption) ?_
    | refine KeepsT.get (by with_reducible assumption) ?_
    | simp only [keeps_snd_snd]
    | simp only [keeps_snd]
    | simp only [keepsP_mk]
    | with_reducible refine KeepsP.ite (fun _ => ?_) (fun _ => ?_)
    | split

theorem releaseSegs_keeps {s0 : State} (publish : Bool) (segs : List ℕ) (s : State) (hs : Keeps s0 s) : KeepsP s0 (releaseSegs publish segs s) := by
  unfold releaseSegs
  repeat' first
    | with_reducible assumption
    | with_reducible refine KeepsP.ite (fun _ => ?_) (fun _ => ?_)
    | simp only [keepsP_mk]
    | with_reducible refine Keeps.ite (fun _ => ?_) (fun _ => ?_)
    | with_reducible refine forAll_keeps _ _ ?_ (fun _ _ h => ?_)
    | with_reducible refine foldl_keeps _ _ ?_ (fun _ _ h => ?_)
    | with_reducible refine foldl_pair_keeps _ _ _ ?_ (fun _ _ h => ?_)
    | with_reducible refine unlockSeg_keeps _ _ ?_
    | with_reducible refine applyDeferred_keeps _ _ ?_
    | with_reducible refine State.modHost_keeps _ _ ?_
    | with_reducible refine settle_keeps _ _ ?_
    | simp only [keeps_set_lanes, keeps_set_ports, keeps_set_blocks, keeps_set_sched, keeps_set_fabric, keeps_set_lasts, keeps_set_host, keeps_set_logs, keeps_set_chip, keeps_set_ctl, keeps_set_time, keeps_set_twin, keeps_set_peals, keeps_set_spine, keeps_set_circ, keeps_set_chans]
    | ((with_reducible refine Keeps.of_mem _ ?_ (fun m => ?_)); on_goal 2 => first | exact m | exact ⟨Memory.writes_wf _ _ m.1, m.2⟩ | exact ⟨m.1, Memory.writes_wf _ _ m.2.1, m.2.2⟩ | exact ⟨m.1, m.2.1, m.2.2.1, Memory.writes_wf _ _ m.2.2.2.1, m.2.2.2.2⟩ | exact ⟨m.1, m.2.1, m.2.2.1, m.2.2.2.1, Memory.writes_wf _ _ m.2.2.2.2⟩ | exact ⟨Memory.clear_wf _ _ m.1, m.2⟩ | exact ⟨m.1, m.2.1, m.2.2.1, Memory.clear_wf _ _ m.2.2.2.1, m.2.2.2.2⟩ | exact ⟨m.1, m.2.1, m.2.2.1, m.2.2.2.1, Memory.clear_wf _ _ m.2.2.2.2⟩)
    | ((with_reducible refine Keeps.of_mem _ ?_ (fun m => ?_)); on_goal 2 => exact ⟨m.1, Memory.foldl_clear_wf _ _ _ m.2.1, m.2.2⟩)
    | refine KeepsP.get (by with_reducible assumption) ?_
    | refine KeepsT.get (by with_reducible assumption) ?_
    | simp only [keeps_snd_snd]
    | simp only [keeps_snd]

theorem dropLocks_keeps {s0 : State} (segs : List ℕ) (s : State) (hs : Keeps s0 s) : Keeps s0 (dropLocks segs s) := by
  unfold dropLocks
  repeat' first
    | with_reducible assumption
    | with_reducible refine Keeps.ite (fun _ => ?_) (fun _ => ?_)
    | with_reducible refine foldl_keeps _ _ ?_ (fun _ _ h => ?_)
    | with_reducible refine foldl_pair_keeps _ _ _ ?_ (fun _ _ h => ?_)
    | with_reducible refine releaseSegs_keeps _ _ _ ?_
    | simp only [keeps_set_lanes, keeps_set_ports, keeps_set_blocks, keeps_set_sched, keeps_set_fabric, keeps_set_lasts, keeps_set_host, keeps_set_logs, keeps_set_chip, keeps_set_ctl, keeps_set_time, keeps_set_twin, keeps_set_peals, keeps_set_spine, keeps_set_circ, keeps_set_chans]
    | refine KeepsP.get (by with_reducible assumption) ?_
    | refine KeepsT.get (by with_reducible assumption) ?_
    | simp only [keeps_snd_snd]
    | simp only [keeps_snd]

theorem lockSegs_keeps {s0 : State} (segs : List ℕ) (s : State) (hs : Keeps s0 s) : KeepsP s0 (lockSegs segs s) := by
  unfold lockSegs
  repeat' first
    | with_reducible assumption
    | with_reducible refine KeepsP.ite (fun _ => ?_) (fun _ => ?_)
    | simp only [keepsP_mk]
    | with_reducible refine Keeps.ite (fun _ => ?_) (fun _ => ?_)
    | with_reducible refine foldl_keeps _ _ ?_ (fun _ _ h => ?_)
    | with_reducible refine foldl_pair_keeps _ _ _ ?_ (fun _ _ h => ?_)
    | with_reducible refine bump_keeps _ _ _ _ ?_
    | with_reducible refine lockSeg_keeps _ _ ?_
    | simp only [keeps_set_lanes, keeps_set_ports, keeps_set_blocks, keeps_set_sched, keeps_set_fabric, keeps_set_lasts, keeps_set_host, keeps_set_logs, keeps_set_chip, keeps_set_ctl, keeps_set_time, keeps_set_twin, keeps_set_peals, keeps_set_spine, keeps_set_circ, keeps_set_chans]
    | refine KeepsP.get (by with_reducible assumption) ?_
    | refine KeepsT.get (by with_reducible assumption) ?_
    | simp only [keeps_snd_snd]
    | simp only [keeps_snd]

theorem cxlDrop_keeps {s0 : State} (cause : ℕ) (off : ℕ) (s : State) (hs : Keeps s0 s) : Keeps s0 (cxlDrop cause off s) := by
  unfold cxlDrop
  repeat' first
    | with_reducible assumption
    | with_reducible refine Keeps.ite (fun _ => ?_) (fun _ => ?_)
    | with_reducible refine foldl_keeps _ _ ?_ (fun _ _ h => ?_)
    | with_reducible refine foldl_pair_keeps _ _ _ ?_ (fun _ _ h => ?_)
    | with_reducible refine bump_keeps _ _ _ _ ?_
    | with_reducible refine postEvent_keeps _ _ _ ?_
    | with_reducible refine State.modHost_keeps _ _ ?_

theorem writeBits_keeps {s0 : State} (cxl : Bool) (off : ℕ) (set : List ℕ) (clr : List ℕ) (s : State) (hs : Keeps s0 s) : Keeps s0 (writeBits cxl off set clr s) := by
  unfold writeBits
  repeat' first
    | with_reducible assumption
    | with_reducible refine Keeps.ite (fun _ => ?_) (fun _ => ?_)
    | with_reducible refine foldl_keeps _ _ ?_ (fun _ _ h => ?_)
    | with_reducible refine foldl_pair_keeps _ _ _ ?_ (fun _ _ h => ?_)
    | with_reducible refine cxlDrop_keeps _ _ _ ?_
    | with_reducible refine releaseSegs_keeps _ _ _ ?_
    | with_reducible refine lockSegs_keeps _ _ ?_
    | simp only [keeps_set_lanes, keeps_set_ports, keeps_set_blocks, keeps_set_sched, keeps_set_fabric, keeps_set_lasts, keeps_set_host, keeps_set_logs, keeps_set_chip, keeps_set_ctl, keeps_set_time, keeps_set_twin, keeps_set_peals, keeps_set_spine, keeps_set_circ, keeps_set_chans]
    | refine KeepsP.get (by with_reducible assumption) ?_
    | refine KeepsT.get (by with_reducible assumption) ?_
    | simp only [keeps_snd_snd]
    | simp only [keeps_snd]

theorem putStaged_keeps {s0 : State} (a : ℕ) (b : Bytes) (s : State) (hs : Keeps s0 s) : Keeps s0 (putStaged a b s) := by
  unfold putStaged
  repeat' first
    | with_reducible assumption
    | with_reducible refine Keeps.ite (fun _ => ?_) (fun _ => ?_)
    | with_reducible refine foldl_keeps _ _ ?_ (fun _ _ h => ?_)
    | with_reducible refine foldl_pair_keeps _ _ _ ?_ (fun _ _ h => ?_)
    | simp only [keeps_set_lanes, keeps_set_ports, keeps_set_blocks, keeps_set_sched, keeps_set_fabric, keeps_set_lasts, keeps_set_host, keeps_set_logs, keeps_set_chip, keeps_set_ctl, keeps_set_time, keeps_set_twin, keeps_set_peals, keeps_set_spine, keeps_set_circ, keeps_set_chans]
    | ((with_reducible refine Keeps.of_mem _ ?_ (fun m => ?_)); on_goal 2 => first | exact m | exact ⟨Memory.writes_wf _ _ m.1, m.2⟩ | exact ⟨m.1, Memory.writes_wf _ _ m.2.1, m.2.2⟩ | exact ⟨m.1, m.2.1, m.2.2.1, Memory.writes_wf _ _ m.2.2.2.1, m.2.2.2.2⟩ | exact ⟨m.1, m.2.1, m.2.2.1, m.2.2.2.1, Memory.writes_wf _ _ m.2.2.2.2⟩ | exact ⟨Memory.clear_wf _ _ m.1, m.2⟩ | exact ⟨m.1, m.2.1, m.2.2.1, Memory.clear_wf _ _ m.2.2.2.1, m.2.2.2.2⟩ | exact ⟨m.1, m.2.1, m.2.2.1, m.2.2.2.1, Memory.clear_wf _ _ m.2.2.2.2⟩)
    | refine KeepsP.get (by with_reducible assumption) ?_
    | refine KeepsT.get (by with_reducible assumption) ?_
    | simp only [keeps_snd_snd]
    | simp only [keeps_snd]
    | simp only [keepsP_mk]
    | with_reducible refine KeepsP.ite (fun _ => ?_) (fun _ => ?_)
    | split
    | dsimp only
    | (intro _ e; cases e)
    | (intro _ e; simp only [Option.some.injEq] at e; subst e)

theorem cxlPiece_keeps {s0 : State} (a : ℕ) (b : Bytes) (s : State) (hs : Keeps s0 s) : Keeps s0 (cxlPiece a b s) := by
  unfold cxlPiece
  repeat' first
    | with_reducible assumption
    | with_reducible refine Keeps.ite (fun _ => ?_) (fun _ => ?_)
    | with_reducible refine foldl_keeps _ _ ?_ (fun _ _ h => ?_)
    | with_reducible refine foldl_pair_keeps _ _ _ ?_ (fun _ _ h => ?_)
    | with_reducible refine writeBits_keeps _ _ _ _ _ ?_
    | with_reducible refine cxlDrop_keeps _ _ _ ?_
    | with_reducible refine putStaged_keeps _ _ _ ?_
    | simp only [keeps_set_lanes, keeps_set_ports, keeps_set_blocks, keeps_set_sched, keeps_set_fabric, keeps_set_lasts, keeps_set_host, keeps_set_logs, keeps_set_chip, keeps_set_ctl, keeps_set_time, keeps_set_twin, keeps_set_peals, keeps_set_spine, keeps_set_circ, keeps_set_chans]
    | refine KeepsP.get (by with_reducible assumption) ?_
    | refine KeepsT.get (by with_reducible assumption) ?_
    | simp only [keeps_snd_snd]
    | simp only [keeps_snd]
    | simp only [keepsP_mk]
    | with_reducible refine KeepsP.ite (fun _ => ?_) (fun _ => ?_)
    | split

theorem execCxlMemWrite_keeps {s0 : State} (win : Window) (off : ℕ) (data : Bytes) (s : State) (hs : Keeps s0 s) : KeepsOut s0 (execCxlMemWrite win off data s) := by
  unfold execCxlMemWrite
  repeat' first
    | with_reducible refine KeepsOut.next ?_
    | exact KeepsOut.refused _
    | with_reducible assumption
    | with_reducible refine KeepsOut.ite (fun _ => ?_) (fun _ => ?_)
    | with_reducible refine Keeps.ite (fun _ => ?_) (fun _ => ?_)
    | with_reducible refine forAll_keeps _ _ ?_ (fun _ _ h => ?_)
    | with_reducible refine foldl_keeps _ _ ?_ (fun _ _ h => ?_)
    | with_reducible refine foldl_pair_keeps _ _ _ ?_ (fun _ _ h => ?_)
    | with_reducible refine cxlDrop_keeps _ _ _ ?_
    | with_reducible refine cxlPiece_keeps _ _ _ ?_
    | simp only [keeps_set_lanes, keeps_set_ports, keeps_set_blocks, keeps_set_sched, keeps_set_fabric, keeps_set_lasts, keeps_set_host, keeps_set_logs, keeps_set_chip, keeps_set_ctl, keeps_set_time, keeps_set_twin, keeps_set_peals, keeps_set_spine, keeps_set_circ, keeps_set_chans]
    | refine KeepsP.get (by with_reducible assumption) ?_
    | refine KeepsT.get (by with_reducible assumption) ?_
    | simp only [keeps_snd_snd]
    | simp only [keeps_snd]
    | simp only [keepsP_mk]
    | with_reducible refine KeepsP.ite (fun _ => ?_) (fun _ => ?_)
    | split

theorem execSegmentLock_keeps {s0 : State} (segs : List ℕ) (s : State) (hs : Keeps s0 s) : KeepsOut s0 (execSegmentLock segs s) := by
  unfold execSegmentLock
  repeat' first
    | with_reducible refine KeepsOut.next ?_
    | exact KeepsOut.refused _
    | with_reducible assumption
    | with_reducible refine KeepsOut.ite (fun _ => ?_) (fun _ => ?_)
    | with_reducible refine Keeps.ite (fun _ => ?_) (fun _ => ?_)
    | with_reducible refine foldl_keeps _ _ ?_ (fun _ _ h => ?_)
    | with_reducible refine foldl_pair_keeps _ _ _ ?_ (fun _ _ h => ?_)
    | with_reducible refine cxlDrop_keeps _ _ _ ?_
    | with_reducible refine writeBits_keeps _ _ _ _ _ ?_

theorem execSegmentUnlock_keeps {s0 : State} (segs : List ℕ) (s : State) (hs : Keeps s0 s) : KeepsOut s0 (execSegmentUnlock segs s) := by
  unfold execSegmentUnlock
  repeat' first
    | with_reducible refine KeepsOut.next ?_
    | exact KeepsOut.refused _
    | with_reducible assumption
    | with_reducible refine KeepsOut.ite (fun _ => ?_) (fun _ => ?_)
    | with_reducible refine Keeps.ite (fun _ => ?_) (fun _ => ?_)
    | with_reducible refine foldl_keeps _ _ ?_ (fun _ _ h => ?_)
    | with_reducible refine foldl_pair_keeps _ _ _ ?_ (fun _ _ h => ?_)
    | with_reducible refine cxlDrop_keeps _ _ _ ?_
    | with_reducible refine writeBits_keeps _ _ _ _ _ ?_

theorem tableAccess_keeps {s0 : State} (action : ℕ) (m : Msg) (s : State) (f : ℕ → ℕ → ℕ → List ℕ → State → Reply × State) (hs : Keeps s0 s) (hf : ∀ a b c d t, Keeps s0 t → KeepsP s0 (f a b c d t)) : KeepsOut s0 (tableAccess action m s f) := by
  unfold tableAccess
  repeat' first
    | with_reducible refine KeepsOut.next ?_
    | exact KeepsOut.refused _
    | with_reducible assumption
    | with_reducible refine KeepsOut.ite (fun _ => ?_) (fun _ => ?_)
    | with_reducible refine Keeps.ite (fun _ => ?_) (fun _ => ?_)
    | with_reducible refine foldl_keeps _ _ ?_ (fun _ _ h => ?_)
    | with_reducible refine foldl_pair_keeps _ _ _ ?_ (fun _ _ h => ?_)
    | with_reducible refine runMsg_keeps _ _ _ _ ?_ (fun _ _ h => ?_)
    | simp only [keeps_set_lanes, keeps_set_ports, keeps_set_blocks, keeps_set_sched, keeps_set_fabric, keeps_set_lasts, keeps_set_host, keeps_set_logs, keeps_set_chip, keeps_set_ctl, keeps_set_time, keeps_set_twin, keeps_set_peals, keeps_set_spine, keeps_set_circ, keeps_set_chans]
    | with_reducible refine hf _ _ _ _ _ ?_
    | refine KeepsP.get (by with_reducible assumption) ?_
    | refine KeepsT.get (by with_reducible assumption) ?_
    | simp only [keeps_snd_snd]
    | simp only [keeps_snd]
    | simp only [keepsP_mk]
    | with_reducible refine KeepsP.ite (fun _ => ?_) (fun _ => ?_)
    | dsimp -iota -proj only
    | split

theorem execTableAccessRead_keeps {s0 : State} (m : Msg) (s : State) (hs : Keeps s0 s) : KeepsOut s0 (execTableAccessRead m s) := by
  unfold execTableAccessRead
  repeat' first
    | with_reducible refine KeepsOut.next ?_
    | exact KeepsOut.refused _
    | with_reducible assumption
    | with_reducible refine KeepsOut.ite (fun _ => ?_) (fun _ => ?_)
    | with_reducible refine Keeps.ite (fun _ => ?_) (fun _ => ?_)
    | with_reducible refine foldl_keeps _ _ ?_ (fun _ _ h => ?_)
    | with_reducible refine foldl_pair_keeps _ _ _ ?_ (fun _ _ h => ?_)
    | with_reducible refine State.hostWrite_keeps _ _ ?_
    | with_reducible refine tableAccess_keeps _ _ _ _ ?_ (fun _ _ _ _ _ h => ?_)
    | simp only [keeps_set_lanes, keeps_set_ports, keeps_set_blocks, keeps_set_sched, keeps_set_fabric, keeps_set_lasts, keeps_set_host, keeps_set_logs, keeps_set_chip, keeps_set_ctl, keeps_set_time, keeps_set_twin, keeps_set_peals, keeps_set_spine, keeps_set_circ, keeps_set_chans]
    | refine KeepsP.get (by with_reducible assumption) ?_
    | refine KeepsT.get (by with_reducible assumption) ?_
    | simp only [keeps_snd_snd]
    | simp only [keeps_snd]
    | simp only [keepsP_mk]
    | with_reducible refine KeepsP.ite (fun _ => ?_) (fun _ => ?_)

theorem execTableAccessWrite_keeps {s0 : State} (m : Msg) (s : State) (hs : Keeps s0 s) : KeepsOut s0 (execTableAccessWrite m s) := by
  unfold execTableAccessWrite
  repeat' first
    | with_reducible refine KeepsOut.next ?_
    | exact KeepsOut.refused _
    | with_reducible assumption
    | with_reducible refine KeepsOut.ite (fun _ => ?_) (fun _ => ?_)
    | with_reducible refine Keeps.ite (fun _ => ?_) (fun _ => ?_)
    | with_reducible refine forAll_keeps _ _ ?_ (fun _ _ h => ?_)
    | with_reducible refine foldl_keeps _ _ ?_ (fun _ _ h => ?_)
    | with_reducible refine foldl_pair_keeps _ _ _ ?_ (fun _ _ h => ?_)
    | with_reducible refine tableAccess_keeps _ _ _ _ ?_ (fun _ _ _ _ _ h => ?_)
    | with_reducible refine writeBits_keeps _ _ _ _ _ ?_
    | with_reducible refine putStaged_keeps _ _ _ ?_
    | simp only [keeps_set_lanes, keeps_set_ports, keeps_set_blocks, keeps_set_sched, keeps_set_fabric, keeps_set_lasts, keeps_set_host, keeps_set_logs, keeps_set_chip, keeps_set_ctl, keeps_set_time, keeps_set_twin, keeps_set_peals, keeps_set_spine, keeps_set_circ, keeps_set_chans]
    | refine KeepsP.get (by with_reducible assumption) ?_
    | refine KeepsT.get (by with_reducible assumption) ?_
    | simp only [keeps_snd_snd]
    | simp only [keeps_snd]
    | simp only [keepsP_mk]
    | with_reducible refine KeepsP.ite (fun _ => ?_) (fun _ => ?_)
    | split

theorem execTableAccessLock_keeps {s0 : State} (m : Msg) (s : State) (hs : Keeps s0 s) : KeepsOut s0 (execTableAccessLock m s) := by
  unfold execTableAccessLock
  repeat' first
    | with_reducible refine KeepsOut.next ?_
    | exact KeepsOut.refused _
    | with_reducible assumption
    | with_reducible refine KeepsOut.ite (fun _ => ?_) (fun _ => ?_)
    | with_reducible refine Keeps.ite (fun _ => ?_) (fun _ => ?_)
    | with_reducible refine forAll_keeps _ _ ?_ (fun _ _ h => ?_)
    | with_reducible refine foldl_keeps _ _ ?_ (fun _ _ h => ?_)
    | with_reducible refine foldl_pair_keeps _ _ _ ?_ (fun _ _ h => ?_)
    | with_reducible refine tableAccess_keeps _ _ _ _ ?_ (fun _ _ _ _ _ h => ?_)
    | with_reducible refine lockSeg_keeps _ _ ?_
    | simp only [keeps_set_lanes, keeps_set_ports, keeps_set_blocks, keeps_set_sched, keeps_set_fabric, keeps_set_lasts, keeps_set_host, keeps_set_logs, keeps_set_chip, keeps_set_ctl, keeps_set_time, keeps_set_twin, keeps_set_peals, keeps_set_spine, keeps_set_circ, keeps_set_chans]
    | refine KeepsP.get (by with_reducible assumption) ?_
    | refine KeepsT.get (by with_reducible assumption) ?_
    | simp only [keeps_snd_snd]
    | simp only [keeps_snd]
    | simp only [keepsP_mk]
    | with_reducible refine KeepsP.ite (fun _ => ?_) (fun _ => ?_)
    | split

theorem execTableAccessUnlock_keeps {s0 : State} (m : Msg) (s : State) (hs : Keeps s0 s) : KeepsOut s0 (execTableAccessUnlock m s) := by
  unfold execTableAccessUnlock
  repeat' first
    | with_reducible refine KeepsOut.next ?_
    | exact KeepsOut.refused _
    | with_reducible assumption
    | with_reducible refine KeepsOut.ite (fun _ => ?_) (fun _ => ?_)
    | with_reducible refine Keeps.ite (fun _ => ?_) (fun _ => ?_)
    | with_reducible refine foldl_keeps _ _ ?_ (fun _ _ h => ?_)
    | with_reducible refine foldl_pair_keeps _ _ _ ?_ (fun _ _ h => ?_)
    | with_reducible refine tableAccess_keeps _ _ _ _ ?_ (fun _ _ _ _ _ h => ?_)
    | with_reducible refine releaseSegs_keeps _ _ _ ?_
    | simp only [keeps_set_lanes, keeps_set_ports, keeps_set_blocks, keeps_set_sched, keeps_set_fabric, keeps_set_lasts, keeps_set_host, keeps_set_logs, keeps_set_chip, keeps_set_ctl, keeps_set_time, keeps_set_twin, keeps_set_peals, keeps_set_spine, keeps_set_circ, keeps_set_chans]
    | refine KeepsP.get (by with_reducible assumption) ?_
    | refine KeepsT.get (by with_reducible assumption) ?_
    | simp only [keeps_snd_snd]
    | simp only [keeps_snd]
    | simp only [keepsP_mk]

theorem execTableAccessDiscard_keeps {s0 : State} (m : Msg) (s : State) (hs : Keeps s0 s) : KeepsOut s0 (execTableAccessDiscard m s) := by
  unfold execTableAccessDiscard
  repeat' first
    | with_reducible refine KeepsOut.next ?_
    | exact KeepsOut.refused _
    | with_reducible assumption
    | with_reducible refine KeepsOut.ite (fun _ => ?_) (fun _ => ?_)
    | with_reducible refine Keeps.ite (fun _ => ?_) (fun _ => ?_)
    | with_reducible refine foldl_keeps _ _ ?_ (fun _ _ h => ?_)
    | with_reducible refine foldl_pair_keeps _ _ _ ?_ (fun _ _ h => ?_)
    | with_reducible refine tableAccess_keeps _ _ _ _ ?_ (fun _ _ _ _ _ h => ?_)
    | with_reducible refine dropLocks_keeps _ _ ?_
    | simp only [keeps_set_lanes, keeps_set_ports, keeps_set_blocks, keeps_set_sched, keeps_set_fabric, keeps_set_lasts, keeps_set_host, keeps_set_logs, keeps_set_chip, keeps_set_ctl, keeps_set_time, keeps_set_twin, keeps_set_peals, keeps_set_spine, keeps_set_circ, keeps_set_chans]
    | refine KeepsP.get (by with_reducible assumption) ?_
    | refine KeepsT.get (by with_reducible assumption) ?_
    | simp only [keeps_snd_snd]
    | simp only [keeps_snd]
    | simp only [keepsP_mk]

end Sys2Proof.Machine
end

