-- ==== Sys2Proof/Laws/KeepsChecker.lean ====
section
/-! SUPPORT. Laws/KeepsChecker.lean: what the operations of Machine/Checker.lean keep. -/
namespace Sys2Proof.Machine

set_option linter.unusedSimpArgs false
set_option linter.unusedTactic false
set_option linter.unreachableTactic false

theorem putDir_keeps {s0 : State} (pid : ℕ) (off : ℕ) (b : Bytes) (s : State) (hs : Keeps s0 s) : Keeps s0 (putDir pid off b s) := by
  unfold putDir
  repeat' first
    | with_reducible assumption
    | with_reducible refine Keeps.ite (fun _ => ?_) (fun _ => ?_)
    | with_reducible refine foldl_keeps _ _ ?_ (fun _ _ h => ?_)
    | with_reducible refine foldl_pair_keeps _ _ _ ?_ (fun _ _ h => ?_)
    | with_reducible refine State.tblPut_keeps _ _ ?_
    | simp only [keeps_set_lanes, keeps_set_ports, keeps_set_blocks, keeps_set_sched, keeps_set_fabric, keeps_set_lasts, keeps_set_host, keeps_set_logs, keeps_set_chip, keeps_set_ctl, keeps_set_time, keeps_set_twin, keeps_set_peals, keeps_set_spine, keeps_set_circ, keeps_set_chans]
    | ((with_reducible refine Keeps.of_mem _ ?_ (fun m => ?_)); on_goal 2 => first | exact m | exact ⟨Memory.writes_wf _ _ m.1, m.2⟩ | exact ⟨m.1, Memory.writes_wf _ _ m.2.1, m.2.2⟩ | exact ⟨m.1, m.2.1, m.2.2.1, Memory.writes_wf _ _ m.2.2.2.1, m.2.2.2.2⟩ | exact ⟨m.1, m.2.1, m.2.2.1, m.2.2.2.1, Memory.writes_wf _ _ m.2.2.2.2⟩ | exact ⟨Memory.clear_wf _ _ m.1, m.2⟩ | exact ⟨m.1, m.2.1, m.2.2.1, Memory.clear_wf _ _ m.2.2.2.1, m.2.2.2.2⟩ | exact ⟨m.1, m.2.1, m.2.2.1, m.2.2.2.1, Memory.clear_wf _ _ m.2.2.2.2⟩)
    | refine KeepsP.get (by with_reducible assumption) ?_
    | refine KeepsT.get (by with_reducible assumption) ?_
    | simp only [keeps_snd_snd]
    | simp only [keeps_snd]
    | simp only [keepsP_mk]
    | with_reducible refine KeepsP.ite (fun _ => ?_) (fun _ => ?_)
    | split
    | dsimp only
    | (intro _ e; cases e)
    | (intro _ e; simp only [Option.some.injEq] at e; subst e)

theorem setVerdict_keeps {s0 : State} (pid : ℕ) (state : ℕ) (reason : ℕ) (fail : ℕ) (wc : ℕ) (s : State) (hs : Keeps s0 s) : Keeps s0 (setVerdict pid state reason fail wc s) := by
  unfold setVerdict
  repeat' first
    | with_reducible assumption
    | with_reducible refine Keeps.ite (fun _ => ?_) (fun _ => ?_)
    | with_reducible refine foldl_keeps _ _ ?_ (fun _ _ h => ?_)
    | with_reducible refine foldl_pair_keeps _ _ _ ?_ (fun _ _ h => ?_)
    | with_reducible refine putDir_keeps _ _ _ _ ?_
    | with_reducible refine postEvent_keeps _ _ _ ?_

theorem execProgramCheckDone_keeps {s0 : State} (pid : ℕ) (s : State) (hs : Keeps s0 s) : KeepsOut s0 (execProgramCheckDone pid s) := by
  unfold execProgramCheckDone
  repeat' first
    | with_reducible refine KeepsOut.next ?_
    | exact KeepsOut.refused _
    | with_reducible assumption
    | with_reducible refine KeepsOut.ite (fun _ => ?_) (fun _ => ?_)
    | with_reducible refine Keeps.ite (fun _ => ?_) (fun _ => ?_)
    | with_reducible refine foldl_keeps _ _ ?_ (fun _ _ h => ?_)
    | with_reducible refine foldl_pair_keeps _ _ _ ?_ (fun _ _ h => ?_)
    | with_reducible refine setVerdict_keeps _ _ _ _ _ _ ?_
    | simp only [keeps_set_lanes, keeps_set_ports, keeps_set_blocks, keeps_set_sched, keeps_set_fabric, keeps_set_lasts, keeps_set_host, keeps_set_logs, keeps_set_chip, keeps_set_ctl, keeps_set_time, keeps_set_twin, keeps_set_peals, keeps_set_spine, keeps_set_circ, keeps_set_chans]
    | refine KeepsP.get (by with_reducible assumption) ?_
    | refine KeepsT.get (by with_reducible assumption) ?_
    | simp only [keeps_snd_snd]
    | simp only [keeps_snd]
    | simp only [keepsP_mk]
    | with_reducible refine KeepsP.ite (fun _ => ?_) (fun _ => ?_)
    | split

end Sys2Proof.Machine
end

