-- ==== Sys2Proof/Laws/KeepsSession.lean ====
section
/-! SUPPORT. Laws/KeepsSession.lean: what the operations of Machine/Session.lean keep. -/
namespace Sys2Proof.Machine

set_option linter.unusedSimpArgs false
set_option linter.unusedTactic false
set_option linter.unreachableTactic false

theorem openSession_keeps {s0 : State} (acc : W64) (entries : ℕ) (addr : ℕ) (s : State) (hs : Keeps s0 s) : Keeps s0 (openSession acc entries addr s) := by
  unfold openSession
  repeat' first
    | with_reducible assumption
    | with_reducible refine Keeps.ite (fun _ => ?_) (fun _ => ?_)
    | with_reducible refine foldl_keeps _ _ ?_ (fun _ _ h => ?_)
    | with_reducible refine foldl_pair_keeps _ _ _ ?_ (fun _ _ h => ?_)
    | with_reducible refine State.modHost_keeps _ _ ?_

theorem execHello_keeps {s0 : State} (m : Msg) (s : State) (hs : Keeps s0 s) : KeepsOut s0 (execHello m s) := by
  unfold execHello
  repeat' first
    | with_reducible refine KeepsOut.next ?_
    | exact KeepsOut.refused _
    | with_reducible assumption
    | with_reducible refine KeepsOut.ite (fun _ => ?_) (fun _ => ?_)
    | with_reducible refine Keeps.ite (fun _ => ?_) (fun _ => ?_)
    | with_reducible refine foldl_keeps _ _ ?_ (fun _ _ h => ?_)
    | with_reducible refine foldl_pair_keeps _ _ _ ?_ (fun _ _ h => ?_)
    | with_reducible refine runMsg_keeps _ _ _ _ ?_ (fun _ _ h => ?_)
    | with_reducible refine checked_keeps _ _ _ _ ?_ ?_
    | with_reducible refine openSession_keeps _ _ _ _ ?_

theorem closeSession_keeps {s0 : State} (s : State) (hs : Keeps s0 s) : Keeps s0 (closeSession s) := by
  unfold closeSession
  repeat' first
    | with_reducible assumption
    | with_reducible refine Keeps.ite (fun _ => ?_) (fun _ => ?_)
    | with_reducible refine foldl_keeps _ _ ?_ (fun _ _ h => ?_)
    | with_reducible refine foldl_pair_keeps _ _ _ ?_ (fun _ _ h => ?_)
    | with_reducible refine State.modHost_keeps _ _ ?_
    | with_reducible refine dropLocks_keeps _ _ ?_

theorem execGoodbye_keeps {s0 : State} (m : Msg) (s : State) (hs : Keeps s0 s) : KeepsOut s0 (execGoodbye m s) := by
  unfold execGoodbye
  repeat' first
    | with_reducible refine KeepsOut.next ?_
    | exact KeepsOut.refused _
    | with_reducible assumption
    | with_reducible refine KeepsOut.ite (fun _ => ?_) (fun _ => ?_)
    | with_reducible refine Keeps.ite (fun _ => ?_) (fun _ => ?_)
    | with_reducible refine foldl_keeps _ _ ?_ (fun _ _ h => ?_)
    | with_reducible refine foldl_pair_keeps _ _ _ ?_ (fun _ _ h => ?_)
    | with_reducible refine runMsg_keeps _ _ _ _ ?_ (fun _ _ h => ?_)
    | with_reducible refine checked_keeps _ _ _ _ ?_ ?_
    | with_reducible refine closeSession_keeps _ ?_

theorem writeEqHead_keeps {s0 : State} (head : ℕ) (s : State) (hs : Keeps s0 s) : Keeps s0 (writeEqHead head s) := by
  unfold writeEqHead
  repeat' first
    | with_reducible assumption
    | with_reducible refine Keeps.ite (fun _ => ?_) (fun _ => ?_)
    | with_reducible refine foldl_keeps _ _ ?_ (fun _ _ h => ?_)
    | with_reducible refine foldl_pair_keeps _ _ _ ?_ (fun _ _ h => ?_)
    | with_reducible refine State.modHost_keeps _ _ ?_

theorem execEqHeadWrite_keeps {s0 : State} (head : BitVec 16) (s : State) (hs : Keeps s0 s) : KeepsOut s0 (execEqHeadWrite head s) := by
  unfold execEqHeadWrite
  repeat' first
    | with_reducible refine KeepsOut.next ?_
    | exact KeepsOut.refused _
    | with_reducible assumption
    | with_reducible refine KeepsOut.ite (fun _ => ?_) (fun _ => ?_)
    | with_reducible refine Keeps.ite (fun _ => ?_) (fun _ => ?_)
    | with_reducible refine foldl_keeps _ _ ?_ (fun _ _ h => ?_)
    | with_reducible refine foldl_pair_keeps _ _ _ ?_ (fun _ _ h => ?_)
    | with_reducible refine writeEqHead_keeps _ _ ?_

theorem execJobAdmit_keeps {s0 : State} (m : Msg) (s : State) (hs : Keeps s0 s) : KeepsOut s0 (execJobAdmit m s) := by
  unfold execJobAdmit
  repeat' first
    | with_reducible refine KeepsOut.next ?_
    | exact KeepsOut.refused _
    | with_reducible assumption
    | with_reducible refine KeepsOut.ite (fun _ => ?_) (fun _ => ?_)
    | with_reducible refine Keeps.ite (fun _ => ?_) (fun _ => ?_)
    | with_reducible refine foldl_keeps _ _ ?_ (fun _ _ h => ?_)
    | with_reducible refine foldl_pair_keeps _ _ _ ?_ (fun _ _ h => ?_)
    | with_reducible refine runMsg_keeps _ _ _ _ ?_ (fun _ _ h => ?_)
    | with_reducible refine checked_keeps _ _ _ _ ?_ ?_
    | with_reducible refine State.modFabric_keeps _ _ ?_

end Sys2Proof.Machine
end

