-- ==== Sys2Proof/Laws/KeepsUpdate.lean ====
section
/-! SUPPORT. Laws/KeepsUpdate.lean: what the operations of Machine/Update.lean keep. -/
namespace Sys2Proof.Machine

set_option linter.unusedSimpArgs false
set_option linter.unusedTactic false
set_option linter.unreachableTactic false

theorem floorOf_setNth (f : Flash) (part p v : Nat) (hp : p < 5) (h : floorOf f part ≤ v) :
    floorOf f p ≤ floorOf { f with floors := setNth 5 f.floors part v } p := by
  simp only [floorOf, setNth, List.getD_eq_getElem?_getD, List.getElem?_map, List.getElem?_range hp, Option.map_some, Option.getD_some] at h ⊢
  split
  · subst_vars; exact h
  · simp [nth]

theorem execFwStageStatus_keeps {s0 : State} (m : Msg) (s : State) (hs : Keeps s0 s) : KeepsOut s0 (execFwStageStatus m s) := by
  unfold execFwStageStatus
  repeat' first
    | with_reducible refine KeepsOut.next ?_
    | exact KeepsOut.refused _
    | with_reducible assumption
    | with_reducible refine KeepsOut.ite (fun _ => ?_) (fun _ => ?_)
    | with_reducible refine Keeps.ite (fun _ => ?_) (fun _ => ?_)
    | with_reducible refine foldl_keeps _ _ ?_ (fun _ _ h => ?_)
    | with_reducible refine foldl_pair_keeps _ _ _ ?_ (fun _ _ h => ?_)
    | with_reducible refine runMsg_keeps _ _ _ _ ?_ (fun _ _ h => ?_)
    | with_reducible refine checked_keeps _ _ _ _ ?_ ?_

theorem migrate_keeps {s0 : State} (s : State) (hs : Keeps s0 s) : Keeps s0 (migrate s) := by
  unfold migrate
  repeat' first
    | with_reducible assumption
    | with_reducible refine Keeps.ite (fun _ => ?_) (fun _ => ?_)
    | with_reducible refine foldl_keeps _ _ ?_ (fun _ _ h => ?_)
    | with_reducible refine foldl_pair_keeps _ _ _ ?_ (fun _ _ h => ?_)
    | with_reducible refine writeBcr_keeps _ ?_ (fun _ => rfl) (fun _ => rfl) (fun _ => rfl)

theorem trialEvent_keeps {s0 : State} (part : ℕ) (outcome : ℕ) (h : Bytes) (s : State) (hs : Keeps s0 s) : Keeps s0 (trialEvent part outcome h s) := by
  unfold trialEvent
  repeat' first
    | with_reducible assumption
    | with_reducible refine Keeps.ite (fun _ => ?_) (fun _ => ?_)
    | with_reducible refine foldl_keeps _ _ ?_ (fun _ _ h => ?_)
    | with_reducible refine foldl_pair_keeps _ _ _ ?_ (fun _ _ h => ?_)
    | with_reducible refine postEvent_keeps _ _ _ ?_

theorem selectStaged_keeps {s0 : State} (part : ℕ) (s : State) (hs : Keeps s0 s) : Keeps s0 (selectStaged part s) := by
  unfold selectStaged
  repeat' first
    | with_reducible assumption
    | with_reducible refine Keeps.ite (fun _ => ?_) (fun _ => ?_)
    | with_reducible refine foldl_keeps _ _ ?_ (fun _ _ h => ?_)
    | with_reducible refine foldl_pair_keeps _ _ _ ?_ (fun _ _ h => ?_)
    | with_reducible refine writeBcr_keeps _ ?_ (fun _ => rfl) (fun _ => rfl) (fun _ => rfl)
    | with_reducible refine State.modCtl_keeps _ _ ?_

theorem restoreSel_keeps {s0 : State} (part : ℕ) (s : State) (hs : Keeps s0 s) : Keeps s0 (restoreSel part s) := by
  unfold restoreSel
  repeat' first
    | with_reducible assumption
    | with_reducible refine Keeps.ite (fun _ => ?_) (fun _ => ?_)
    | with_reducible refine foldl_keeps _ _ ?_ (fun _ _ h => ?_)
    | with_reducible refine foldl_pair_keeps _ _ _ ?_ (fun _ _ h => ?_)
    | with_reducible refine writeBcr_keeps _ ?_ (fun _ => rfl) (fun _ => rfl) (fun _ => rfl)

theorem runSelected_keeps {s0 : State} (part : ℕ) (s : State) (hs : Keeps s0 s) : Keeps s0 (runSelected part s) := by
  unfold runSelected
  repeat' first
    | with_reducible assumption
    | with_reducible refine Keeps.ite (fun _ => ?_) (fun _ => ?_)
    | with_reducible refine foldl_keeps _ _ ?_ (fun _ _ h => ?_)
    | with_reducible refine foldl_pair_keeps _ _ _ ?_ (fun _ _ h => ?_)
    | with_reducible refine State.modCtl_keeps _ _ ?_
    | simp only [keeps_set_lanes, keeps_set_ports, keeps_set_blocks, keeps_set_sched, keeps_set_fabric, keeps_set_lasts, keeps_set_host, keeps_set_logs, keeps_set_chip, keeps_set_ctl, keeps_set_time, keeps_set_twin, keeps_set_peals, keeps_set_spine, keeps_set_circ, keeps_set_chans]
    | refine KeepsP.get (by with_reducible assumption) ?_
    | refine KeepsT.get (by with_reducible assumption) ?_
    | simp only [keeps_snd_snd]
    | simp only [keeps_snd]
    | simp only [keepsP_mk]
    | with_reducible refine KeepsP.ite (fun _ => ?_) (fun _ => ?_)
    | split

theorem runSelectedLasts_keeps {s0 : State} (s : State) (hs : Keeps s0 s) : Keeps s0 (runSelectedLasts s) := by
  unfold runSelectedLasts
  repeat' first
    | with_reducible assumption
    | with_reducible refine Keeps.ite (fun _ => ?_) (fun _ => ?_)
    | with_reducible refine forAll_keeps _ _ ?_ (fun _ _ h => ?_)
    | with_reducible refine foldl_keeps _ _ ?_ (fun _ _ h => ?_)
    | with_reducible refine foldl_pair_keeps _ _ _ ?_ (fun _ _ h => ?_)
    | with_reducible refine runLast_keeps _ _ _ _ ?_
    | simp only [keeps_set_lanes, keeps_set_ports, keeps_set_blocks, keeps_set_sched, keeps_set_fabric, keeps_set_lasts, keeps_set_host, keeps_set_logs, keeps_set_chip, keeps_set_ctl, keeps_set_time, keeps_set_twin, keeps_set_peals, keeps_set_spine, keeps_set_circ, keeps_set_chans]
    | with_reducible refine Keeps.of_flash _ ?_ (fun _ _ => Nat.le_refl _) (Nat.le_refl _) rfl
    | refine KeepsP.get (by with_reducible assumption) ?_
    | refine KeepsT.get (by with_reducible assumption) ?_
    | simp only [keeps_snd_snd]
    | simp only [keeps_snd]
    | simp only [keepsP_mk]
    | with_reducible refine KeepsP.ite (fun _ => ?_) (fun _ => ?_)
    | split

theorem revertPart_keeps {s0 : State} (part : ℕ) (s : State) (hs : Keeps s0 s) : Keeps s0 (revertPart part s) := by
  unfold revertPart
  repeat' first
    | with_reducible assumption
    | with_reducible refine Keeps.ite (fun _ => ?_) (fun _ => ?_)
    | with_reducible refine foldl_keeps _ _ ?_ (fun _ _ h => ?_)
    | with_reducible refine foldl_pair_keeps _ _ _ ?_ (fun _ _ h => ?_)
    | with_reducible refine trialEvent_keeps _ _ _ _ ?_
    | with_reducible refine runSelected_keeps _ _ ?_
    | with_reducible refine restoreSel_keeps _ _ ?_
    | with_reducible refine runSelectedLasts_keeps _ ?_
    | simp only [keeps_set_lanes, keeps_set_ports, keeps_set_blocks, keeps_set_sched, keeps_set_fabric, keeps_set_lasts, keeps_set_host, keeps_set_logs, keeps_set_chip, keeps_set_ctl, keeps_set_time, keeps_set_twin, keeps_set_peals, keeps_set_spine, keeps_set_circ, keeps_set_chans]

theorem commitPart_keeps {s0 : State} (part : ℕ) (s : State) (hs : Keeps s0 s) : Keeps s0 (commitPart part s) := by
  have k : Keeps s0 (if floorOf s.flash part < svnOf (partHdr s part) then
      countWrite (fun f => { f with floors := setNth 5 f.floors part (svnOf (partHdr s part)) }) s else s) := by
    refine Keeps.ite (fun hlt => Keeps.of_flash _ hs (fun p hp => ?_) (Nat.le_refl _) rfl) fun _ => hs
    exact floorOf_setNth _ _ _ _ hp (Nat.le_of_lt hlt)
  unfold commitPart
  refine Keeps.ite (fun _ => settle_keeps _ _ (State.modCtl_keeps _ _ ?_)) fun _ => ?_ <;>
    exact trialEvent_keeps _ _ _ _ (writeBcr_keeps _ k (fun _ => rfl) (fun _ => rfl) (fun _ => rfl))

theorem execTrialExpiry_keeps {s0 : State} (s : State) (hs : Keeps s0 s) : KeepsOut s0 (execTrialExpiry s) := by
  unfold execTrialExpiry
  repeat' first
    | with_reducible refine KeepsOut.next ?_
    | exact KeepsOut.refused _
    | with_reducible assumption
    | with_reducible refine KeepsOut.ite (fun _ => ?_) (fun _ => ?_)
    | with_reducible refine Keeps.ite (fun _ => ?_) (fun _ => ?_)
    | with_reducible refine forAll_keeps _ _ ?_ (fun _ _ h => ?_)
    | with_reducible refine foldl_keeps _ _ ?_ (fun _ _ h => ?_)
    | with_reducible refine foldl_pair_keeps _ _ _ ?_ (fun _ _ h => ?_)
    | with_reducible refine commitPart_keeps _ _ ?_

theorem execSerdesFirmwareFault_keeps {s0 : State} (s : State) (hs : Keeps s0 s) : KeepsOut s0 (execSerdesFirmwareFault s) := by
  unfold execSerdesFirmwareFault
  repeat' first
    | with_reducible refine KeepsOut.next ?_
    | exact KeepsOut.refused _
    | with_reducible assumption
    | with_reducible refine KeepsOut.ite (fun _ => ?_) (fun _ => ?_)
    | with_reducible refine Keeps.ite (fun _ => ?_) (fun _ => ?_)
    | with_reducible refine foldl_keeps _ _ ?_ (fun _ _ h => ?_)
    | with_reducible refine foldl_pair_keeps _ _ _ ?_ (fun _ _ h => ?_)
    | with_reducible refine revertPart_keeps _ _ ?_

theorem rejectPrograms_keeps {s0 : State} (major : ℕ) (s : State) (hs : Keeps s0 s) : Keeps s0 (rejectPrograms major s) := by
  unfold rejectPrograms
  repeat' first
    | with_reducible assumption
    | with_reducible refine Keeps.ite (fun _ => ?_) (fun _ => ?_)
    | with_reducible refine forAll_keeps _ _ ?_ (fun _ _ h => ?_)
    | with_reducible refine foldl_keeps _ _ ?_ (fun _ _ h => ?_)
    | with_reducible refine foldl_pair_keeps _ _ _ ?_ (fun _ _ h => ?_)
    | with_reducible refine setVerdict_keeps _ _ _ _ _ _ ?_

theorem loadPart_keeps {s0 : State} (part : ℕ) (s : State) (hs : Keeps s0 s) : Keeps s0 (loadPart part s) := by
  unfold loadPart
  repeat' first
    | with_reducible assumption
    | with_reducible refine Keeps.ite (fun _ => ?_) (fun _ => ?_)
    | with_reducible refine foldl_keeps _ _ ?_ (fun _ _ h => ?_)
    | with_reducible refine foldl_pair_keeps _ _ _ ?_ (fun _ _ h => ?_)
    | with_reducible refine runSelected_keeps _ _ ?_
    | with_reducible refine rejectPrograms_keeps _ _ ?_
    | with_reducible refine runSelectedLasts_keeps _ ?_
    | with_reducible refine revertPart_keeps _ _ ?_
    | simp only [keeps_set_lanes, keeps_set_ports, keeps_set_blocks, keeps_set_sched, keeps_set_fabric, keeps_set_lasts, keeps_set_host, keeps_set_logs, keeps_set_chip, keeps_set_ctl, keeps_set_time, keeps_set_twin, keeps_set_peals, keeps_set_spine, keeps_set_circ, keeps_set_chans]
    | refine KeepsP.get (by with_reducible assumption) ?_
    | refine KeepsT.get (by with_reducible assumption) ?_
    | simp only [keeps_snd_snd]
    | simp only [keeps_snd]
    | simp only [keepsP_mk]
    | with_reducible refine KeepsP.ite (fun _ => ?_) (fun _ => ?_)
    | split

theorem dropFlight_keeps {s0 : State} (s : State) (hs : Keeps s0 s) : Keeps s0 (dropFlight s) := by
  unfold dropFlight
  repeat' first
    | with_reducible assumption
    | with_reducible refine Keeps.ite (fun _ => ?_) (fun _ => ?_)
    | with_reducible refine forAll_keeps _ _ ?_ (fun _ _ h => ?_)
    | with_reducible refine foldl_keeps _ _ ?_ (fun _ _ h => ?_)
    | with_reducible refine foldl_pair_keeps _ _ _ ?_ (fun _ _ h => ?_)
    | with_reducible refine State.modPeal_keeps _ _ _ ?_

theorem execFwActivate_keeps {s0 : State} (m : Msg) (s : State) (hs : Keeps s0 s) : KeepsOut s0 (execFwActivate m s) := by
  unfold execFwActivate
  repeat' first
    | with_reducible refine KeepsOut.next ?_
    | exact KeepsOut.refused _
    | with_reducible assumption
    | with_reducible refine KeepsOut.ite (fun _ => ?_) (fun _ => ?_)
    | with_reducible refine Keeps.ite (fun _ => ?_) (fun _ => ?_)
    | with_reducible refine foldl_keeps _ _ ?_ (fun _ _ h => ?_)
    | with_reducible refine foldl_pair_keeps _ _ _ ?_ (fun _ _ h => ?_)
    | with_reducible refine runMsg_keeps _ _ _ _ ?_ (fun _ _ h => ?_)
    | with_reducible refine State.modCtl_keeps _ _ ?_
    | with_reducible refine selectStaged_keeps _ _ ?_
    | with_reducible refine dropFlight_keeps _ ?_
    | with_reducible refine bump_keeps _ _ _ _ ?_
    | with_reducible refine loadPart_keeps _ _ ?_
    | simp only [keeps_set_lanes, keeps_set_ports, keeps_set_blocks, keeps_set_sched, keeps_set_fabric, keeps_set_lasts, keeps_set_host, keeps_set_logs, keeps_set_chip, keeps_set_ctl, keeps_set_time, keeps_set_twin, keeps_set_peals, keeps_set_spine, keeps_set_circ, keeps_set_chans]
    | refine KeepsP.get (by with_reducible assumption) ?_
    | refine KeepsT.get (by with_reducible assumption) ?_
    | simp only [keeps_snd_snd]
    | simp only [keeps_snd]
    | simp only [keepsP_mk]
    | with_reducible refine KeepsP.ite (fun _ => ?_) (fun _ => ?_)
    | split

theorem nextIndex.reserveBlock_keeps {s0 : State} (s : State) (hs : Keeps s0 s) : KeepsP s0 (nextIndex.reserveBlock s) := by
  unfold nextIndex.reserveBlock
  have k : Keeps s0 (countWrite (fun f => { f with lmsNext := f.lmsNext + 1 }) s) :=
    Keeps.of_flash _ hs (fun _ _ => Nat.le_refl _) (Nat.le_succ _) rfl
  dsimp only
  simp only [keepsP_mk]
  exact Keeps.ite (fun _ => postEvent_keeps _ _ _ k) fun _ => k

theorem nextIndex_keeps {s0 : State} (s : State) (hs : Keeps s0 s) : KeepsP s0 (nextIndex s) := by
  unfold nextIndex
  split
  · refine KeepsP.ite (fun _ => hs) fun _ => nextIndex.reserveBlock_keeps _ hs
  · exact nextIndex.reserveBlock_keeps _ hs

theorem execAttest_keeps {s0 : State} (m : Msg) (s : State) (hs : Keeps s0 s) : KeepsOut s0 (execAttest m s) := by
  unfold execAttest
  repeat' first
    | with_reducible refine KeepsOut.next ?_
    | exact KeepsOut.refused _
    | with_reducible assumption
    | with_reducible refine KeepsOut.ite (fun _ => ?_) (fun _ => ?_)
    | with_reducible refine Keeps.ite (fun _ => ?_) (fun _ => ?_)
    | with_reducible refine foldl_keeps _ _ ?_ (fun _ _ h => ?_)
    | with_reducible refine foldl_pair_keeps _ _ _ ?_ (fun _ _ h => ?_)
    | with_reducible refine runMsg_keeps _ _ _ _ ?_ (fun _ _ h => ?_)
    | with_reducible refine nextIndex_keeps _ ?_
    | with_reducible refine State.modCtl_keeps _ _ ?_
    | simp only [keeps_set_lanes, keeps_set_ports, keeps_set_blocks, keeps_set_sched, keeps_set_fabric, keeps_set_lasts, keeps_set_host, keeps_set_logs, keeps_set_chip, keeps_set_ctl, keeps_set_time, keeps_set_twin, keeps_set_peals, keeps_set_spine, keeps_set_circ, keeps_set_chans]
    | refine KeepsP.get (by with_reducible assumption) ?_
    | refine KeepsT.get (by with_reducible assumption) ?_
    | simp only [keeps_snd_snd]
    | simp only [keeps_snd]
    | simp only [keepsP_mk]
    | with_reducible refine KeepsP.ite (fun _ => ?_) (fun _ => ?_)
    | split

end Sys2Proof.Machine
end

