-- ==== Sys2Proof/Laws/KeepsService.lean ====
section
/-! SUPPORT. Laws/KeepsService.lean: what the operations of Machine/Service.lean keep. -/
namespace Sys2Proof.Machine

set_option linter.unusedSimpArgs false
set_option linter.unusedTactic false
set_option linter.unreachableTactic false

theorem svcDiscard_keeps {s0 : State} (s : State) (hs : Keeps s0 s) : Keeps s0 (svcDiscard s) := by
  unfold svcDiscard
  repeat' first
    | with_reducible assumption
    | with_reducible refine Keeps.ite (fun _ => ?_) (fun _ => ?_)
    | with_reducible refine foldl_keeps _ _ ?_ (fun _ _ h => ?_)
    | with_reducible refine foldl_pair_keeps _ _ _ ?_ (fun _ _ h => ?_)
    | with_reducible refine bump_keeps _ _ _ _ ?_

theorem svcSend_keeps {s0 : State} (kind : ℕ) (cmd : ℕ) (session : ℕ) (status : ℕ) (mac : Bool) (body : Bytes) (s : State) (hs : Keeps s0 s) : Keeps s0 (svcSend kind cmd session status mac body s) := by
  unfold svcSend
  repeat' first
    | with_reducible assumption
    | with_reducible refine Keeps.ite (fun _ => ?_) (fun _ => ?_)
    | with_reducible refine foldl_keeps _ _ ?_ (fun _ _ h => ?_)
    | with_reducible refine foldl_pair_keeps _ _ _ ?_ (fun _ _ h => ?_)
    | with_reducible refine State.modCtl_keeps _ _ ?_

theorem svcCommand_keeps {s0 : State} (cmd : ℕ) (kind : ℕ) (d : Dgram) (s : State) (f : ℕ → State → State) (hs : Keeps s0 s) (hf : ∀ n t, Keeps s0 t → Keeps s0 (f n t)) : KeepsOut s0 (svcCommand cmd kind d s f) := by
  unfold svcCommand
  repeat' first
    | with_reducible refine KeepsOut.next ?_
    | exact KeepsOut.refused _
    | with_reducible assumption
    | with_reducible refine KeepsOut.ite (fun _ => ?_) (fun _ => ?_)
    | with_reducible refine Keeps.ite (fun _ => ?_) (fun _ => ?_)
    | with_reducible refine foldl_keeps _ _ ?_ (fun _ _ h => ?_)
    | with_reducible refine foldl_pair_keeps _ _ _ ?_ (fun _ _ h => ?_)
    | with_reducible refine svcDiscard_keeps _ ?_
    | with_reducible refine State.modCtl_keeps _ _ ?_
    | simp only [keeps_set_lanes, keeps_set_ports, keeps_set_blocks, keeps_set_sched, keeps_set_fabric, keeps_set_lasts, keeps_set_host, keeps_set_logs, keeps_set_chip, keeps_set_ctl, keeps_set_time, keeps_set_twin, keeps_set_peals, keeps_set_spine, keeps_set_circ, keeps_set_chans]
    | with_reducible refine hf _ _ ?_
    | refine KeepsP.get (by with_reducible assumption) ?_
    | refine KeepsT.get (by with_reducible assumption) ?_
    | simp only [keeps_snd_snd]
    | simp only [keeps_snd]
    | simp only [keepsP_mk]
    | with_reducible refine KeepsP.ite (fun _ => ?_) (fun _ => ?_)
    | dsimp -iota -proj only
    | split

theorem svcReply_keeps {s0 : State} (cmd : ℕ) (n : ℕ) (status : ℕ) (body : Bytes) (s : State) (hs : Keeps s0 s) : Keeps s0 (svcReply cmd n status body s) := by
  unfold svcReply
  repeat' first
    | with_reducible assumption
    | with_reducible refine Keeps.ite (fun _ => ?_) (fun _ => ?_)
    | with_reducible refine foldl_keeps _ _ ?_ (fun _ _ h => ?_)
    | with_reducible refine foldl_pair_keeps _ _ _ ?_ (fun _ _ h => ?_)
    | with_reducible refine svcSend_keeps _ _ _ _ _ _ _ ?_

theorem svcChecked_keeps {s0 : State} (cmd : ℕ) (n : ℕ) (len : Bool) (checks : List (Option ℕ)) (s : State) (f : State → State) (hs : Keeps s0 s) (hf : ∀ t, Keeps s0 t → Keeps s0 (f t)) : Keeps s0 (svcChecked cmd n len checks s f) := by
  unfold svcChecked
  repeat' first
    | with_reducible assumption
    | with_reducible refine Keeps.ite (fun _ => ?_) (fun _ => ?_)
    | with_reducible refine foldl_keeps _ _ ?_ (fun _ _ h => ?_)
    | with_reducible refine foldl_pair_keeps _ _ _ ?_ (fun _ _ h => ?_)
    | with_reducible refine svcReply_keeps _ _ _ _ _ ?_
    | simp only [keeps_set_lanes, keeps_set_ports, keeps_set_blocks, keeps_set_sched, keeps_set_fabric, keeps_set_lasts, keeps_set_host, keeps_set_logs, keeps_set_chip, keeps_set_ctl, keeps_set_time, keeps_set_twin, keeps_set_peals, keeps_set_spine, keeps_set_circ, keeps_set_chans]
    | with_reducible refine hf _ ?_
    | refine KeepsP.get (by with_reducible assumption) ?_
    | refine KeepsT.get (by with_reducible assumption) ?_
    | simp only [keeps_snd_snd]
    | simp only [keeps_snd]
    | simp only [keepsP_mk]
    | with_reducible refine KeepsP.ite (fun _ => ?_) (fun _ => ?_)
    | split

theorem execSvcHello_keeps {s0 : State} (dg : Dgram) (s : State) (hs : Keeps s0 s) : KeepsOut s0 (execSvcHello dg s) := by
  unfold execSvcHello
  repeat' first
    | with_reducible refine KeepsOut.next ?_
    | exact KeepsOut.refused _
    | with_reducible assumption
    | with_reducible refine KeepsOut.ite (fun _ => ?_) (fun _ => ?_)
    | with_reducible refine Keeps.ite (fun _ => ?_) (fun _ => ?_)
    | with_reducible refine foldl_keeps _ _ ?_ (fun _ _ h => ?_)
    | with_reducible refine foldl_pair_keeps _ _ _ ?_ (fun _ _ h => ?_)
    | with_reducible refine State.draw_keeps ?_
    | with_reducible refine svcDiscard_keeps _ ?_
    | with_reducible refine State.modCtl_keeps _ _ ?_
    | with_reducible refine svcSend_keeps _ _ _ _ _ _ _ ?_

theorem execSvcStatus_keeps {s0 : State} (dg : Dgram) (s : State) (hs : Keeps s0 s) : KeepsOut s0 (execSvcStatus dg s) := by
  unfold execSvcStatus
  repeat' first
    | with_reducible refine KeepsOut.next ?_
    | exact KeepsOut.refused _
    | with_reducible assumption
    | with_reducible refine KeepsOut.ite (fun _ => ?_) (fun _ => ?_)
    | with_reducible refine Keeps.ite (fun _ => ?_) (fun _ => ?_)
    | with_reducible refine foldl_keeps _ _ ?_ (fun _ _ h => ?_)
    | with_reducible refine foldl_pair_keeps _ _ _ ?_ (fun _ _ h => ?_)
    | with_reducible refine svcDiscard_keeps _ ?_
    | with_reducible refine svcSend_keeps _ _ _ _ _ _ _ ?_
    | with_reducible refine State.modCtl_keeps _ _ ?_

theorem setStage_keeps {s0 : State} (part : ℕ) (st : ℕ) (s : State) (hs : Keeps s0 s) : Keeps s0 (setStage part st s) := by
  unfold setStage
  repeat' first
    | with_reducible assumption
    | with_reducible refine Keeps.ite (fun _ => ?_) (fun _ => ?_)
    | with_reducible refine foldl_keeps _ _ ?_ (fun _ _ h => ?_)
    | with_reducible refine foldl_pair_keeps _ _ _ ?_ (fun _ _ h => ?_)
    | with_reducible refine State.modCtl_keeps _ _ ?_

theorem endStaging_keeps {s0 : State} (part : ℕ) (st : ℕ) (s : State) (hs : Keeps s0 s) : Keeps s0 (endStaging part st s) := by
  unfold endStaging
  repeat' first
    | with_reducible assumption
    | with_reducible refine Keeps.ite (fun _ => ?_) (fun _ => ?_)
    | with_reducible refine foldl_keeps _ _ ?_ (fun _ _ h => ?_)
    | with_reducible refine foldl_pair_keeps _ _ _ ?_ (fun _ _ h => ?_)
    | with_reducible refine setStage_keeps _ _ _ ?_
    | with_reducible refine State.modCtl_keeps _ _ ?_

theorem execStageBegin_keeps {s0 : State} (dg : Dgram) (s : State) (hs : Keeps s0 s) : KeepsOut s0 (execStageBegin dg s) := by
  unfold execStageBegin
  repeat' first
    | with_reducible refine KeepsOut.next ?_
    | exact KeepsOut.refused _
    | with_reducible assumption
    | with_reducible refine KeepsOut.ite (fun _ => ?_) (fun _ => ?_)
    | with_reducible refine Keeps.ite (fun _ => ?_) (fun _ => ?_)
    | with_reducible refine foldl_keeps _ _ ?_ (fun _ _ h => ?_)
    | with_reducible refine foldl_pair_keeps _ _ _ ?_ (fun _ _ h => ?_)
    | with_reducible refine svcCommand_keeps _ _ _ _ _ ?_ (fun _ _ h => ?_)
    | with_reducible refine svcChecked_keeps _ _ _ _ _ _ ?_ (fun _ h => ?_)
    | with_reducible refine setStage_keeps _ _ _ ?_
    | with_reducible refine svcReply_keeps _ _ _ _ _ ?_
    | with_reducible refine State.modCtl_keeps _ _ ?_
    | simp only [keeps_set_lanes, keeps_set_ports, keeps_set_blocks, keeps_set_sched, keeps_set_fabric, keeps_set_lasts, keeps_set_host, keeps_set_logs, keeps_set_chip, keeps_set_ctl, keeps_set_time, keeps_set_twin, keeps_set_peals, keeps_set_spine, keeps_set_circ, keeps_set_chans]
    | with_reducible refine Keeps.of_flash _ ?_ (fun _ _ => Nat.le_refl _) (Nat.le_refl _) rfl
    | refine KeepsP.get (by with_reducible assumption) ?_
    | refine KeepsT.get (by with_reducible assumption) ?_
    | simp only [keeps_snd_snd]
    | simp only [keeps_snd]
    | simp only [keepsP_mk]
    | with_reducible refine KeepsP.ite (fun _ => ?_) (fun _ => ?_)
    | split

theorem stageAck_keeps {s0 : State} (n : ℕ) (x : Staging) (s : State) (hs : Keeps s0 s) : Keeps s0 (stageAck n x s) := by
  unfold stageAck
  repeat' first
    | with_reducible assumption
    | with_reducible refine Keeps.ite (fun _ => ?_) (fun _ => ?_)
    | with_reducible refine foldl_keeps _ _ ?_ (fun _ _ h => ?_)
    | with_reducible refine foldl_pair_keeps _ _ _ ?_ (fun _ _ h => ?_)
    | with_reducible refine svcSend_keeps _ _ _ _ _ _ _ ?_

theorem execStageData_keeps {s0 : State} (dg : Dgram) (s : State) (hs : Keeps s0 s) : KeepsOut s0 (execStageData dg s) := by
  unfold execStageData
  repeat' first
    | with_reducible refine KeepsOut.next ?_
    | exact KeepsOut.refused _
    | with_reducible assumption
    | with_reducible refine KeepsOut.ite (fun _ => ?_) (fun _ => ?_)
    | with_reducible refine Keeps.ite (fun _ => ?_) (fun _ => ?_)
    | with_reducible refine foldl_keeps _ _ ?_ (fun _ _ h => ?_)
    | with_reducible refine foldl_pair_keeps _ _ _ ?_ (fun _ _ h => ?_)
    | with_reducible refine svcCommand_keeps _ _ _ _ _ ?_ (fun _ _ h => ?_)
    | with_reducible refine svcReply_keeps _ _ _ _ _ ?_
    | with_reducible refine bump_keeps _ _ _ _ ?_
    | with_reducible refine State.modCtl_keeps _ _ ?_
    | with_reducible refine endStaging_keeps _ _ _ ?_
    | with_reducible refine stageAck_keeps _ _ _ ?_
    | simp only [keeps_set_lanes, keeps_set_ports, keeps_set_blocks, keeps_set_sched, keeps_set_fabric, keeps_set_lasts, keeps_set_host, keeps_set_logs, keeps_set_chip, keeps_set_ctl, keeps_set_time, keeps_set_twin, keeps_set_peals, keeps_set_spine, keeps_set_circ, keeps_set_chans]
    | refine KeepsP.get (by with_reducible assumption) ?_
    | refine KeepsT.get (by with_reducible assumption) ?_
    | simp only [keeps_snd_snd]
    | simp only [keeps_snd]
    | simp only [keepsP_mk]
    | with_reducible refine KeepsP.ite (fun _ => ?_) (fun _ => ?_)
    | split

theorem execStageEnd_keeps {s0 : State} (dg : Dgram) (s : State) (hs : Keeps s0 s) : KeepsOut s0 (execStageEnd dg s) := by
  unfold execStageEnd
  repeat' first
    | with_reducible refine KeepsOut.next ?_
    | exact KeepsOut.refused _
    | with_reducible assumption
    | with_reducible refine KeepsOut.ite (fun _ => ?_) (fun _ => ?_)
    | with_reducible refine Keeps.ite (fun _ => ?_) (fun _ => ?_)
    | with_reducible refine foldl_keeps _ _ ?_ (fun _ _ h => ?_)
    | with_reducible refine foldl_pair_keeps _ _ _ ?_ (fun _ _ h => ?_)
    | with_reducible refine svcCommand_keeps _ _ _ _ _ ?_ (fun _ _ h => ?_)
    | with_reducible refine svcReply_keeps _ _ _ _ _ ?_
    | with_reducible refine endStaging_keeps _ _ _ ?_
    | simp only [keeps_set_lanes, keeps_set_ports, keeps_set_blocks, keeps_set_sched, keeps_set_fabric, keeps_set_lasts, keeps_set_host, keeps_set_logs, keeps_set_chip, keeps_set_ctl, keeps_set_time, keeps_set_twin, keeps_set_peals, keeps_set_spine, keeps_set_circ, keeps_set_chans]
    | with_reducible refine Keeps.of_flash _ ?_ (fun _ _ => Nat.le_refl _) (Nat.le_refl _) rfl
    | refine KeepsP.get (by with_reducible assumption) ?_
    | refine KeepsT.get (by with_reducible assumption) ?_
    | simp only [keeps_snd_snd]
    | simp only [keeps_snd]
    | simp only [keepsP_mk]
    | with_reducible refine KeepsP.ite (fun _ => ?_) (fun _ => ?_)
    | split

theorem execStageAbort_keeps {s0 : State} (dg : Dgram) (s : State) (hs : Keeps s0 s) : KeepsOut s0 (execStageAbort dg s) := by
  unfold execStageAbort
  repeat' first
    | with_reducible refine KeepsOut.next ?_
    | exact KeepsOut.refused _
    | with_reducible assumption
    | with_reducible refine KeepsOut.ite (fun _ => ?_) (fun _ => ?_)
    | with_reducible refine Keeps.ite (fun _ => ?_) (fun _ => ?_)
    | with_reducible refine foldl_keeps _ _ ?_ (fun _ _ h => ?_)
    | with_reducible refine foldl_pair_keeps _ _ _ ?_ (fun _ _ h => ?_)
    | with_reducible refine svcCommand_keeps _ _ _ _ _ ?_ (fun _ _ h => ?_)
    | with_reducible refine svcReply_keeps _ _ _ _ _ ?_
    | with_reducible refine endStaging_keeps _ _ _ ?_
    | simp only [keeps_set_lanes, keeps_set_ports, keeps_set_blocks, keeps_set_sched, keeps_set_fabric, keeps_set_lasts, keeps_set_host, keeps_set_logs, keeps_set_chip, keeps_set_ctl, keeps_set_time, keeps_set_twin, keeps_set_peals, keeps_set_spine, keeps_set_circ, keeps_set_chans]
    | refine KeepsP.get (by with_reducible assumption) ?_
    | refine KeepsT.get (by with_reducible assumption) ?_
    | simp only [keeps_snd_snd]
    | simp only [keeps_snd]
    | simp only [keepsP_mk]
    | with_reducible refine KeepsP.ite (fun _ => ?_) (fun _ => ?_)
    | split

theorem execConfigRead_keeps {s0 : State} (dg : Dgram) (s : State) (hs : Keeps s0 s) : KeepsOut s0 (execConfigRead dg s) := by
  unfold execConfigRead
  repeat' first
    | with_reducible refine KeepsOut.next ?_
    | exact KeepsOut.refused _
    | with_reducible assumption
    | with_reducible refine KeepsOut.ite (fun _ => ?_) (fun _ => ?_)
    | with_reducible refine Keeps.ite (fun _ => ?_) (fun _ => ?_)
    | with_reducible refine foldl_keeps _ _ ?_ (fun _ _ h => ?_)
    | with_reducible refine foldl_pair_keeps _ _ _ ?_ (fun _ _ h => ?_)
    | with_reducible refine svcCommand_keeps _ _ _ _ _ ?_ (fun _ _ h => ?_)
    | with_reducible refine svcChecked_keeps _ _ _ _ _ _ ?_ (fun _ h => ?_)
    | with_reducible refine svcReply_keeps _ _ _ _ _ ?_

theorem execConfigWrite_keeps {s0 : State} (dg : Dgram) (s : State) (hs : Keeps s0 s) : KeepsOut s0 (execConfigWrite dg s) := by
  unfold execConfigWrite
  repeat' first
    | with_reducible refine KeepsOut.next ?_
    | exact KeepsOut.refused _
    | with_reducible assumption
    | with_reducible refine KeepsOut.ite (fun _ => ?_) (fun _ => ?_)
    | with_reducible refine Keeps.ite (fun _ => ?_) (fun _ => ?_)
    | with_reducible refine foldl_keeps _ _ ?_ (fun _ _ h => ?_)
    | with_reducible refine foldl_pair_keeps _ _ _ ?_ (fun _ _ h => ?_)
    | with_reducible refine svcCommand_keeps _ _ _ _ _ ?_ (fun _ _ h => ?_)
    | with_reducible refine svcChecked_keeps _ _ _ _ _ _ ?_ (fun _ h => ?_)
    | with_reducible refine putCfg_keeps _ _ _ _ ?_
    | with_reducible refine State.modCtl_keeps _ _ ?_
    | with_reducible refine svcReply_keeps _ _ _ _ _ ?_

theorem changeOpk_keeps {s0 : State} (s : State) (hs : Keeps s0 s) : Keeps s0 (changeOpk s) := by
  unfold changeOpk
  repeat' first
    | with_reducible assumption
    | with_reducible refine Keeps.ite (fun _ => ?_) (fun _ => ?_)
    | with_reducible refine foldl_keeps _ _ ?_ (fun _ _ h => ?_)
    | with_reducible refine foldl_pair_keeps _ _ _ ?_ (fun _ _ h => ?_)
    | with_reducible refine State.modCtl_keeps _ _ ?_

theorem execSetOpk_keeps {s0 : State} (dg : Dgram) (s : State) (hs : Keeps s0 s) : KeepsOut s0 (execSetOpk dg s) := by
  unfold execSetOpk
  repeat' first
    | with_reducible refine KeepsOut.next ?_
    | exact KeepsOut.refused _
    | with_reducible assumption
    | with_reducible refine KeepsOut.ite (fun _ => ?_) (fun _ => ?_)
    | with_reducible refine Keeps.ite (fun _ => ?_) (fun _ => ?_)
    | with_reducible refine foldl_keeps _ _ ?_ (fun _ _ h => ?_)
    | with_reducible refine foldl_pair_keeps _ _ _ ?_ (fun _ _ h => ?_)
    | with_reducible refine svcDiscard_keeps _ ?_
    | with_reducible refine State.modCtl_keeps _ _ ?_
    | with_reducible refine svcSend_keeps _ _ _ _ _ _ _ ?_
    | with_reducible refine changeOpk_keeps _ ?_
    | with_reducible refine putCfg_keeps _ _ _ _ ?_
    | with_reducible refine svcCommand_keeps _ _ _ _ _ ?_ (fun _ _ h => ?_)
    | with_reducible refine svcChecked_keeps _ _ _ _ _ _ ?_ (fun _ h => ?_)
    | with_reducible refine svcReply_keeps _ _ _ _ _ ?_

theorem execClearOpk_keeps {s0 : State} (dg : Dgram) (s : State) (hs : Keeps s0 s) : KeepsOut s0 (execClearOpk dg s) := by
  unfold execClearOpk
  repeat' first
    | with_reducible refine KeepsOut.next ?_
    | exact KeepsOut.refused _
    | with_reducible assumption
    | with_reducible refine KeepsOut.ite (fun _ => ?_) (fun _ => ?_)
    | with_reducible refine Keeps.ite (fun _ => ?_) (fun _ => ?_)
    | with_reducible refine foldl_keeps _ _ ?_ (fun _ _ h => ?_)
    | with_reducible refine foldl_pair_keeps _ _ _ ?_ (fun _ _ h => ?_)
    | with_reducible refine svcDiscard_keeps _ ?_
    | with_reducible refine State.modCtl_keeps _ _ ?_
    | with_reducible refine svcSend_keeps _ _ _ _ _ _ _ ?_
    | with_reducible refine changeOpk_keeps _ ?_
    | simp only [keeps_set_lanes, keeps_set_ports, keeps_set_blocks, keeps_set_sched, keeps_set_fabric, keeps_set_lasts, keeps_set_host, keeps_set_logs, keeps_set_chip, keeps_set_ctl, keeps_set_time, keeps_set_twin, keeps_set_peals, keeps_set_spine, keeps_set_circ, keeps_set_chans]
    | with_reducible refine Keeps.of_flash _ ?_ (fun _ _ => Nat.le_refl _) (Nat.le_refl _) rfl

theorem sendRecords_keeps {s0 : State} (n : ℕ) (a : ℕ) (a1 : List (ℕ × Bytes)) (a2 : State) (ha2 : Keeps s0 a2) : Keeps s0 (sendRecords n a a1 a2) := by
  induction a generalizing a1 a2 with
  | zero => unfold sendRecords; with_reducible assumption
  | succ k ih =>
    unfold sendRecords
    repeat' first
      | with_reducible assumption
      | with_reducible refine Keeps.ite (fun _ => ?_) (fun _ => ?_)
      | with_reducible refine foldl_keeps _ _ ?_ (fun _ _ h => ?_)
      | with_reducible refine foldl_pair_keeps _ _ _ ?_ (fun _ _ h => ?_)
      | simp only [keeps_set_lanes, keeps_set_ports, keeps_set_blocks, keeps_set_sched, keeps_set_fabric, keeps_set_lasts, keeps_set_host, keeps_set_logs, keeps_set_chip, keeps_set_ctl, keeps_set_time, keeps_set_twin, keeps_set_peals, keeps_set_spine, keeps_set_circ, keeps_set_chans]
      | with_reducible refine ih _ _ ?_
      | with_reducible refine svcSend_keeps _ _ _ _ _ _ _ ?_

theorem execLedgerRead_keeps {s0 : State} (dg : Dgram) (s : State) (hs : Keeps s0 s) : KeepsOut s0 (execLedgerRead dg s) := by
  unfold execLedgerRead
  repeat' first
    | with_reducible refine KeepsOut.next ?_
    | exact KeepsOut.refused _
    | with_reducible assumption
    | with_reducible refine KeepsOut.ite (fun _ => ?_) (fun _ => ?_)
    | with_reducible refine Keeps.ite (fun _ => ?_) (fun _ => ?_)
    | with_reducible refine foldl_keeps _ _ ?_ (fun _ _ h => ?_)
    | with_reducible refine foldl_pair_keeps _ _ _ ?_ (fun _ _ h => ?_)
    | with_reducible refine svcCommand_keeps _ _ _ _ _ ?_ (fun _ _ h => ?_)
    | with_reducible refine svcChecked_keeps _ _ _ _ _ _ ?_ (fun _ h => ?_)
    | with_reducible refine svcReply_keeps _ _ _ _ _ ?_
    | with_reducible refine sendRecords_keeps _ _ _ _ ?_

theorem execSvcSessionIdle_keeps {s0 : State} (session : ℕ) (s : State) (hs : Keeps s0 s) : KeepsOut s0 (execSvcSessionIdle session s) := by
  unfold execSvcSessionIdle
  repeat' first
    | with_reducible refine KeepsOut.next ?_
    | exact KeepsOut.refused _
    | with_reducible assumption
    | with_reducible refine KeepsOut.ite (fun _ => ?_) (fun _ => ?_)
    | with_reducible refine Keeps.ite (fun _ => ?_) (fun _ => ?_)
    | with_reducible refine foldl_keeps _ _ ?_ (fun _ _ h => ?_)
    | with_reducible refine foldl_pair_keeps _ _ _ ?_ (fun _ _ h => ?_)
    | with_reducible refine endStaging_keeps _ _ _ ?_
    | with_reducible refine State.modCtl_keeps _ _ ?_
    | simp only [keeps_set_lanes, keeps_set_ports, keeps_set_blocks, keeps_set_sched, keeps_set_fabric, keeps_set_lasts, keeps_set_host, keeps_set_logs, keeps_set_chip, keeps_set_ctl, keeps_set_time, keeps_set_twin, keeps_set_peals, keeps_set_spine, keeps_set_circ, keeps_set_chans]
    | refine KeepsP.get (by with_reducible assumption) ?_
    | refine KeepsT.get (by with_reducible assumption) ?_
    | simp only [keeps_snd_snd]
    | simp only [keeps_snd]
    | simp only [keepsP_mk]
    | with_reducible refine KeepsP.ite (fun _ => ?_) (fun _ => ?_)
    | split

theorem execServicePortLinkAttempt_keeps {s0 : State} (linkUp : Bool) (s : State) (hs : Keeps s0 s) : KeepsOut s0 (execServicePortLinkAttempt linkUp s) := by
  unfold execServicePortLinkAttempt
  repeat' first
    | with_reducible refine KeepsOut.next ?_
    | exact KeepsOut.refused _
    | with_reducible assumption
    | with_reducible refine KeepsOut.ite (fun _ => ?_) (fun _ => ?_)
    | with_reducible refine Keeps.ite (fun _ => ?_) (fun _ => ?_)
    | with_reducible refine foldl_keeps _ _ ?_ (fun _ _ h => ?_)
    | with_reducible refine foldl_pair_keeps _ _ _ ?_ (fun _ _ h => ?_)
    | with_reducible refine State.modChip_keeps _ _ ?_

end Sys2Proof.Machine
end

