-- ==== Sys2Proof/Laws/KeepsRing.lean ====
section
/-! SUPPORT. Laws/KeepsRing.lean: what the operations of Machine/Ring.lean keep. -/
namespace Sys2Proof.Machine

set_option linter.unusedSimpArgs false
set_option linter.unusedTactic false
set_option linter.unreachableTactic false

theorem badAction_keeps {s0 : State} (op : ℕ) (off : ℕ) (port : Bool) (m : Msg) (s : State) (hs : Keeps s0 s) : KeepsOut s0 (badAction op off port m s) := by
  unfold badAction
  repeat' first
    | with_reducible refine KeepsOut.next ?_
    | exact KeepsOut.refused _
    | with_reducible assumption
    | with_reducible refine KeepsOut.ite (fun _ => ?_) (fun _ => ?_)
    | with_reducible refine Keeps.ite (fun _ => ?_) (fun _ => ?_)
    | with_reducible refine foldl_keeps _ _ ?_ (fun _ _ h => ?_)
    | with_reducible refine foldl_pair_keeps _ _ _ ?_ (fun _ _ h => ?_)
    | with_reducible refine runMsg_keeps _ _ _ _ ?_ (fun _ _ h => ?_)
    | simp only [keeps_set_lanes, keeps_set_ports, keeps_set_blocks, keeps_set_sched, keeps_set_fabric, keeps_set_lasts, keeps_set_host, keeps_set_logs, keeps_set_chip, keeps_set_ctl, keeps_set_time, keeps_set_twin, keeps_set_peals, keeps_set_spine, keeps_set_circ, keeps_set_chans]
    | refine KeepsP.get (by with_reducible assumption) ?_
    | refine KeepsT.get (by with_reducible assumption) ?_
    | simp only [keeps_snd_snd]
    | simp only [keeps_snd]
    | simp only [keepsP_mk]

theorem ringDispatch_keeps {s0 : State} (op : ℕ) (m : Msg) (s : State) (hs : Keeps s0 s) : KeepsOut s0 (ringDispatch op m s) := by
  unfold ringDispatch
  repeat' first
    | with_reducible refine KeepsOut.next ?_
    | exact KeepsOut.refused _
    | with_reducible assumption
    | with_reducible refine KeepsOut.ite (fun _ => ?_) (fun _ => ?_)
    | with_reducible refine Keeps.ite (fun _ => ?_) (fun _ => ?_)
    | with_reducible refine foldl_keeps _ _ ?_ (fun _ _ h => ?_)
    | with_reducible refine foldl_pair_keeps _ _ _ ?_ (fun _ _ h => ?_)
    | with_reducible refine execHello_keeps _ _ ?_
    | with_reducible refine execGoodbye_keeps _ _ ?_
    | with_reducible refine execQueryInfo_keeps _ _ ?_
    | with_reducible refine execPlanLoad_keeps _ _ ?_
    | with_reducible refine execPlanStatus_keeps _ _ ?_
    | with_reducible refine execTableBegin_keeps _ _ ?_
    | with_reducible refine execTableCommit_keeps _ _ ?_
    | with_reducible refine execTableAbort_keeps _ _ ?_
    | with_reducible refine execTableAccessRead_keeps _ _ ?_
    | with_reducible refine execTableAccessWrite_keeps _ _ ?_
    | with_reducible refine execTableAccessLock_keeps _ _ ?_
    | with_reducible refine execTableAccessUnlock_keeps _ _ ?_
    | with_reducible refine execTableAccessDiscard_keeps _ _ ?_
    | with_reducible refine runMsg_keeps _ _ _ _ ?_ (fun _ _ h => ?_)
    | with_reducible refine execPortConfigRemove_keeps _ _ ?_
    | with_reducible refine execPortConfigQosOnly_keeps _ _ ?_
    | with_reducible refine execPortConfig_keeps _ _ ?_
    | with_reducible refine execPortFence_keeps _ _ ?_
    | with_reducible refine execPortUnfence_keeps _ _ ?_
    | with_reducible refine execPortDampDamp_keeps _ _ ?_
    | with_reducible refine execPortDampRelease_keeps _ _ ?_
    | with_reducible refine badAction_keeps _ _ _ _ _ ?_
    | with_reducible refine execJobAdmit_keeps _ _ ?_
    | with_reducible refine execJobRetire_keeps _ _ ?_
    | with_reducible refine execPealAdmit_keeps _ _ ?_
    | with_reducible refine execPealArm_keeps _ _ ?_
    | with_reducible refine execPealRetire_keeps _ _ ?_
    | with_reducible refine execPealStatus_keeps _ _ ?_
    | with_reducible refine execPealVoid_keeps _ _ ?_
    | with_reducible refine execShardCreate_keeps _ _ ?_
    | with_reducible refine execStepParams_keeps _ _ ?_
    | with_reducible refine execStepCommitCommit_keeps _ _ ?_
    | with_reducible refine execStepCommitRollback_keeps _ _ ?_
    | with_reducible refine execShardExport_keeps _ _ ?_
    | with_reducible refine execShardImport_keeps _ _ ?_
    | with_reducible refine execTwinPairPair_keeps _ _ ?_
    | with_reducible refine execTwinPairUnpair_keeps _ _ ?_
    | with_reducible refine execTwinStatus_keeps _ _ ?_
    | with_reducible refine execTakeoverGrant_keeps _ _ ?_
    | with_reducible refine execTwinRebuildStart_keeps _ _ ?_
    | with_reducible refine execTwinRebuildAbort_keeps _ _ ?_
    | with_reducible refine execCircuitScheduleLoad_keeps _ _ ?_
    | with_reducible refine execCircuitArmArm_keeps _ _ ?_
    | with_reducible refine execCircuitArmDisarm_keeps _ _ ?_
    | with_reducible refine execTimeSetSource_keeps _ _ ?_
    | with_reducible refine execTimeStatus_keeps _ _ ?_
    | with_reducible refine execSnapshot_keeps _ _ ?_
    | with_reducible refine execHealthRead_keeps _ _ ?_
    | with_reducible refine execEventRead_keeps _ _ ?_
    | with_reducible refine execFwStageStatus_keeps _ _ ?_
    | with_reducible refine execFwActivate_keeps _ _ ?_
    | with_reducible refine execAttest_keeps _ _ ?_
    | with_reducible refine execLastLoad_keeps _ _ ?_
    | with_reducible refine execLastQuery_keeps _ _ ?_
    | with_reducible refine execShadowConfig_keeps _ _ ?_
    | simp only [keeps_set_lanes, keeps_set_ports, keeps_set_blocks, keeps_set_sched, keeps_set_fabric, keeps_set_lasts, keeps_set_host, keeps_set_logs, keeps_set_chip, keeps_set_ctl, keeps_set_time, keeps_set_twin, keeps_set_peals, keeps_set_spine, keeps_set_circ, keeps_set_chans]
    | refine KeepsP.get (by with_reducible assumption) ?_
    | refine KeepsT.get (by with_reducible assumption) ?_
    | simp only [keeps_snd_snd]
    | simp only [keeps_snd]
    | simp only [keepsP_mk]
    | with_reducible refine KeepsP.ite (fun _ => ?_) (fun _ => ?_)
    | split

theorem Out.state_keeps {s0 : State} (s : State) (o : Out) (hs : Keeps s0 s) (h_o : KeepsOut s0 o) : Keeps s0 (Out.state s o) := by
  cases o with
  | next t => exact h_o _ rfl
  | fault _ => exact hs
  | refused _ => exact hs

theorem takeUp_keeps {s0 : State} (n : ℕ) (s : State) (hs : Keeps s0 s) : Keeps s0 (takeUp n s) := by
  unfold takeUp
  repeat' first
    | with_reducible assumption
    | with_reducible refine Keeps.ite (fun _ => ?_) (fun _ => ?_)
    | with_reducible refine foldl_keeps _ _ ?_ (fun _ _ h => ?_)
    | with_reducible refine foldl_pair_keeps _ _ _ ?_ (fun _ _ h => ?_)
    | with_reducible refine State.modMbx_keeps _ _ _ ?_
    | with_reducible refine Out.state_keeps _ _ ?_ ?_
    | with_reducible refine ringDispatch_keeps _ _ _ ?_
    | simp only [keeps_set_lanes, keeps_set_ports, keeps_set_blocks, keeps_set_sched, keeps_set_fabric, keeps_set_lasts, keeps_set_host, keeps_set_logs, keeps_set_chip, keeps_set_ctl, keeps_set_time, keeps_set_twin, keeps_set_peals, keeps_set_spine, keeps_set_circ, keeps_set_chans]
    | refine KeepsP.get (by with_reducible assumption) ?_
    | refine KeepsT.get (by with_reducible assumption) ?_
    | simp only [keeps_snd_snd]
    | simp only [keeps_snd]
    | simp only [keepsP_mk]
    | with_reducible refine KeepsP.ite (fun _ => ?_) (fun _ => ?_)
    | split

theorem resume_keeps {s0 : State} (s : State) (hs : Keeps s0 s) : Keeps s0 (resume s) := by
  unfold resume
  repeat' first
    | with_reducible assumption
    | with_reducible refine Keeps.ite (fun _ => ?_) (fun _ => ?_)
    | with_reducible refine forAll_keeps _ _ ?_ (fun _ _ h => ?_)
    | with_reducible refine foldl_keeps _ _ ?_ (fun _ _ h => ?_)
    | with_reducible refine foldl_pair_keeps _ _ _ ?_ (fun _ _ h => ?_)
    | with_reducible refine answerWaiting_keeps _ _ _ ?_
    | with_reducible refine takeOver_keeps _ ?_
    | with_reducible refine State.modCtl_keeps _ _ ?_
    | with_reducible refine takeUp_keeps _ _ ?_

theorem writeMbx_keeps {s0 : State} (n : Fin 8) (off : ℕ) (v : Byte) (s : State) (hs : Keeps s0 s) : Keeps s0 (writeMbx n off v s) := by
  unfold writeMbx
  repeat' first
    | with_reducible assumption
    | with_reducible refine Keeps.ite (fun _ => ?_) (fun _ => ?_)
    | with_reducible refine foldl_keeps _ _ ?_ (fun _ _ h => ?_)
    | with_reducible refine foldl_pair_keeps _ _ _ ?_ (fun _ _ h => ?_)
    | with_reducible refine Out.state_keeps _ _ ?_ ?_
    | with_reducible refine ringDispatch_keeps _ _ _ ?_
    | with_reducible refine State.modMbx_keeps _ _ _ ?_

theorem writeMsix_keeps {s0 : State} (off : ℕ) (v : Byte) (s : State) (hs : Keeps s0 s) : Keeps s0 (writeMsix off v s) := by
  unfold writeMsix
  repeat' first
    | with_reducible assumption
    | with_reducible refine Keeps.ite (fun _ => ?_) (fun _ => ?_)
    | with_reducible refine foldl_keeps _ _ ?_ (fun _ _ h => ?_)
    | with_reducible refine foldl_pair_keeps _ _ _ ?_ (fun _ _ h => ?_)
    | with_reducible refine State.modHost_keeps _ _ ?_
    | with_reducible refine signal_keeps _ _ ?_

theorem writeByte_keeps {s0 : State} (off : ℕ) (v : Byte) (s : State) (hs : Keeps s0 s) : Keeps s0 (writeByte off v s) := by
  unfold writeByte
  repeat' first
    | with_reducible assumption
    | with_reducible refine Keeps.ite (fun _ => ?_) (fun _ => ?_)
    | with_reducible refine foldl_keeps _ _ ?_ (fun _ _ h => ?_)
    | with_reducible refine foldl_pair_keeps _ _ _ ?_ (fun _ _ h => ?_)
    | with_reducible refine writeEqHead_keeps _ _ ?_
    | with_reducible refine State.modHost_keeps _ _ ?_
    | with_reducible refine writeMbx_keeps _ _ _ _ ?_
    | with_reducible refine writeMsix_keeps _ _ _ ?_

theorem writeBytes_keeps {s0 : State} (a : ℕ) (a1 : Bytes) (a2 : State) (ha2 : Keeps s0 a2) : Keeps s0 (writeBytes a a1 a2) := by
  induction a1 generalizing a a2 with
  | nil => unfold writeBytes; with_reducible assumption
  | cons t ts ih =>
    unfold writeBytes
    exact ih _ _ (writeByte_keeps _ _ _ ha2)

theorem execRegisterWrite_keeps {s0 : State} (off : ℕ) (data : Bytes) (s : State) (hs : Keeps s0 s) : KeepsOut s0 (execRegisterWrite off data s) := by
  unfold execRegisterWrite
  repeat' first
    | with_reducible refine KeepsOut.next ?_
    | exact KeepsOut.refused _
    | with_reducible assumption
    | with_reducible refine KeepsOut.ite (fun _ => ?_) (fun _ => ?_)
    | with_reducible refine Keeps.ite (fun _ => ?_) (fun _ => ?_)
    | with_reducible refine foldl_keeps _ _ ?_ (fun _ _ h => ?_)
    | with_reducible refine foldl_pair_keeps _ _ _ ?_ (fun _ _ h => ?_)
    | with_reducible refine writeBytes_keeps _ _ _ ?_

end Sys2Proof.Machine
end

