-- ==== Sys2Proof/Laws/KeepsPower.lean ====
section
/-! SUPPORT. Laws/KeepsPower.lean: what the operations of Machine/Power.lean keep. -/
namespace Sys2Proof.Machine

set_option linter.unusedSimpArgs false
set_option linter.unusedTactic false
set_option linter.unreachableTactic false

theorem resetModule_keeps {s0 : State} (s : State) (hs : Keeps s0 s) : Keeps s0 (resetModule s) := by
  unfold resetModule
  exact hs.trans ⟨rfl, Nat.le_refl _, fun m => ⟨rfl, rfl, m.2.2.1, rfl, rfl⟩, fun _ _ => Nat.le_refl _, Nat.le_refl _, rfl⟩

theorem execResetNAssert_keeps {s0 : State} (s : State) (hs : Keeps s0 s) : KeepsOut s0 (execResetNAssert s) := by
  unfold execResetNAssert
  repeat' first
    | with_reducible refine KeepsOut.next ?_
    | exact KeepsOut.refused _
    | with_reducible assumption
    | with_reducible refine KeepsOut.ite (fun _ => ?_) (fun _ => ?_)
    | with_reducible refine Keeps.ite (fun _ => ?_) (fun _ => ?_)
    | with_reducible refine foldl_keeps _ _ ?_ (fun _ _ h => ?_)
    | with_reducible refine foldl_pair_keeps _ _ _ ?_ (fun _ _ h => ?_)
    | with_reducible refine resetModule_keeps _ ?_

theorem execSupplyReset_keeps {s0 : State} (die : ℕ) (mv : ℕ) (s : State) (hs : Keeps s0 s) : KeepsOut s0 (execSupplyReset die mv s) := by
  unfold execSupplyReset
  repeat' first
    | with_reducible refine KeepsOut.next ?_
    | exact KeepsOut.refused _
    | with_reducible assumption
    | with_reducible refine KeepsOut.ite (fun _ => ?_) (fun _ => ?_)
    | with_reducible refine Keeps.ite (fun _ => ?_) (fun _ => ?_)
    | with_reducible refine foldl_keeps _ _ ?_ (fun _ _ h => ?_)
    | with_reducible refine foldl_pair_keeps _ _ _ ?_ (fun _ _ h => ?_)
    | with_reducible refine resetModule_keeps _ ?_

theorem execSupplyFail_keeps {s0 : State} (rail : ℕ) (s : State) (hs : Keeps s0 s) : KeepsOut s0 (execSupplyFail rail s) := by
  unfold execSupplyFail
  repeat' first
    | with_reducible refine KeepsOut.next ?_
    | exact KeepsOut.refused _
    | with_reducible assumption
    | with_reducible refine KeepsOut.ite (fun _ => ?_) (fun _ => ?_)
    | with_reducible refine Keeps.ite (fun _ => ?_) (fun _ => ?_)
    | with_reducible refine foldl_keeps _ _ ?_ (fun _ _ h => ?_)
    | with_reducible refine foldl_pair_keeps _ _ _ ?_ (fun _ _ h => ?_)
    | with_reducible refine resetModule_keeps _ ?_

theorem bootFails_keeps {s0 : State} (reason : ℕ) (s : State) (hs : Keeps s0 s) : Keeps s0 (bootFails reason s) := by
  unfold bootFails
  repeat' first
    | with_reducible assumption
    | with_reducible refine Keeps.ite (fun _ => ?_) (fun _ => ?_)
    | with_reducible refine foldl_keeps _ _ ?_ (fun _ _ h => ?_)
    | with_reducible refine foldl_pair_keeps _ _ _ ?_ (fun _ _ h => ?_)
    | with_reducible refine State.modChip_keeps _ _ ?_

theorem takeBcr_keeps {s0 : State} (s : State) (hs : Keeps s0 s) : Keeps s0 (takeBcr s) := by
  unfold takeBcr
  repeat' first
    | with_reducible assumption
    | with_reducible refine Keeps.ite (fun _ => ?_) (fun _ => ?_)
    | with_reducible refine forAll_keeps _ _ ?_ (fun _ _ h => ?_)
    | with_reducible refine foldl_keeps _ _ ?_ (fun _ _ h => ?_)
    | with_reducible refine foldl_pair_keeps _ _ _ ?_ (fun _ _ h => ?_)
    | with_reducible refine restoreSel_keeps _ _ ?_
    | simp only [keeps_set_lanes, keeps_set_ports, keeps_set_blocks, keeps_set_sched, keeps_set_fabric, keeps_set_lasts, keeps_set_host, keeps_set_logs, keeps_set_chip, keeps_set_ctl, keeps_set_time, keeps_set_twin, keeps_set_peals, keeps_set_spine, keeps_set_circ, keeps_set_chans]
    | with_reducible refine Keeps.of_flash _ ?_ (fun _ _ => Nat.le_refl _) (Nat.le_refl _) rfl

theorem bootLast_keeps {s0 : State} (s : State) (id : ℕ) (hs : Keeps s0 s) : Keeps s0 (bootLast s id) := by
  unfold bootLast
  repeat' first
    | with_reducible assumption
    | with_reducible refine Keeps.ite (fun _ => ?_) (fun _ => ?_)
    | with_reducible refine foldl_keeps _ _ ?_ (fun _ _ h => ?_)
    | with_reducible refine foldl_pair_keeps _ _ _ ?_ (fun _ _ h => ?_)
    | with_reducible refine runLast_keeps _ _ _ _ ?_
    | simp only [keeps_set_lanes, keeps_set_ports, keeps_set_blocks, keeps_set_sched, keeps_set_fabric, keeps_set_lasts, keeps_set_host, keeps_set_logs, keeps_set_chip, keeps_set_ctl, keeps_set_time, keeps_set_twin, keeps_set_peals, keeps_set_spine, keeps_set_circ, keeps_set_chans]
    | refine KeepsP.get (by with_reducible assumption) ?_
    | refine KeepsT.get (by with_reducible assumption) ?_
    | simp only [keeps_snd_snd]
    | simp only [keeps_snd]
    | simp only [keepsP_mk]
    | with_reducible refine KeepsP.ite (fun _ => ?_) (fun _ => ?_)
    | split

theorem restoreDie_keeps {s0 : State} (s : State) (die : ℕ) (hs : Keeps s0 s) : Keeps s0 (restoreDie s die) := by
  unfold restoreDie
  repeat' first
    | with_reducible assumption
    | with_reducible refine Keeps.ite (fun _ => ?_) (fun _ => ?_)
    | with_reducible refine forAll_keeps _ _ ?_ (fun _ _ h => ?_)
    | with_reducible refine foldl_keeps _ _ ?_ (fun _ _ h => ?_)
    | with_reducible refine foldl_pair_keeps _ _ _ ?_ (fun _ _ h => ?_)
    | with_reducible refine State.modLedger_keeps _ _ _ ?_
    | with_reducible refine State.modChan_keeps _ _ _ ?_
    | with_reducible refine State.modCore_keeps _ _ _ ?_
    | with_reducible refine State.modSpine_keeps _ _ ?_
    | with_reducible refine State.modChip_keeps _ _ ?_
    | with_reducible refine State.modSeam_keeps _ _ _ _ ?_

theorem startControl_keeps {s0 : State} (s : State) (hs : Keeps s0 s) : Keeps s0 (startControl s) := by
  unfold startControl
  repeat' first
    | with_reducible assumption
    | with_reducible refine Keeps.ite (fun _ => ?_) (fun _ => ?_)
    | with_reducible refine forAll_keeps _ _ ?_ (fun _ _ h => ?_)
    | with_reducible refine foldl_keeps _ _ ?_ (fun _ _ h => ?_)
    | with_reducible refine foldl_pair_keeps _ _ _ ?_ (fun _ _ h => ?_)
    | with_reducible refine runSelected_keeps _ _ ?_
    | with_reducible refine setChip_keeps _ _ _ ?_
    | with_reducible refine migrate_keeps _ ?_
    | with_reducible refine bootLast_keeps _ _ ?_
    | with_reducible refine State.modCtl_keeps _ _ ?_
    | with_reducible refine restoreDie_keeps _ _ ?_
    | with_reducible refine State.modChip_keeps _ _ ?_
    | with_reducible refine fenceRegion_keeps _ _ _ _ ?_

theorem bootImages_keeps {s0 : State} (s : State) (hs : Keeps s0 s) : Keeps s0 (bootImages s) := by
  unfold bootImages
  repeat' first
    | with_reducible assumption
    | with_reducible refine Keeps.ite (fun _ => ?_) (fun _ => ?_)
    | with_reducible refine foldl_keeps _ _ ?_ (fun _ _ h => ?_)
    | with_reducible refine foldl_pair_keeps _ _ _ ?_ (fun _ _ h => ?_)
    | with_reducible refine writeBcr_keeps _ ?_ (fun _ => rfl) (fun _ => rfl) (fun _ => rfl)
    | with_reducible refine bootFails_keeps _ _ ?_
    | with_reducible refine takeBcr_keeps _ ?_
    | with_reducible refine State.modChip_keeps _ _ ?_
    | with_reducible refine startControl_keeps _ ?_
    | simp only [keeps_set_lanes, keeps_set_ports, keeps_set_blocks, keeps_set_sched, keeps_set_fabric, keeps_set_lasts, keeps_set_host, keeps_set_logs, keeps_set_chip, keeps_set_ctl, keeps_set_time, keeps_set_twin, keeps_set_peals, keeps_set_spine, keeps_set_circ, keeps_set_chans]
    | with_reducible refine Keeps.of_flash _ ?_ (fun _ _ => Nat.le_refl _) (Nat.le_refl _) rfl

theorem execResetNRelease_keeps {s0 : State} (boot : BootRun) (s : State) (hs : Keeps s0 s) : KeepsOut s0 (execResetNRelease boot s) := by
  unfold execResetNRelease
  repeat' first
    | with_reducible refine KeepsOut.next ?_
    | exact KeepsOut.refused _
    | with_reducible assumption
    | with_reducible refine KeepsOut.ite (fun _ => ?_) (fun _ => ?_)
    | with_reducible refine Keeps.ite (fun _ => ?_) (fun _ => ?_)
    | with_reducible refine forAll_keeps _ _ ?_ (fun _ _ h => ?_)
    | with_reducible refine foldl_keeps _ _ ?_ (fun _ _ h => ?_)
    | with_reducible refine foldl_pair_keeps _ _ _ ?_ (fun _ _ h => ?_)
    | with_reducible refine State.modChip_keeps _ _ ?_
    | with_reducible refine bootFails_keeps _ _ ?_
    | with_reducible refine bootImages_keeps _ ?_
    | with_reducible refine fenceRegion_keeps _ _ _ _ ?_

theorem trainChan_keeps {s0 : State} (c : ℕ) (t : ChanTrain) (s : State) (hs : Keeps s0 s) : Keeps s0 (trainChan c t s) := by
  unfold trainChan
  repeat' first
    | with_reducible assumption
    | with_reducible refine Keeps.ite (fun _ => ?_) (fun _ => ?_)
    | with_reducible refine foldl_keeps _ _ ?_ (fun _ _ h => ?_)
    | with_reducible refine foldl_pair_keeps _ _ _ ?_ (fun _ _ h => ?_)
    | with_reducible refine State.modChan_keeps _ _ _ ?_
    | with_reducible refine postEvent_keeps _ _ _ ?_
    | with_reducible refine retireChan_keeps _ _ _ _ ?_
    | simp only [keeps_set_lanes, keeps_set_ports, keeps_set_blocks, keeps_set_sched, keeps_set_fabric, keeps_set_lasts, keeps_set_host, keeps_set_logs, keeps_set_chip, keeps_set_ctl, keeps_set_time, keeps_set_twin, keeps_set_peals, keeps_set_spine, keeps_set_circ, keeps_set_chans]
    | refine KeepsP.get (by with_reducible assumption) ?_
    | refine KeepsT.get (by with_reducible assumption) ?_
    | simp only [keeps_snd_snd]
    | simp only [keeps_snd]
    | simp only [keepsP_mk]
    | with_reducible refine KeepsP.ite (fun _ => ?_) (fun _ => ?_)
    | split

theorem execSelftestComplete_keeps {s0 : State} (res : SelfTest) (s : State) (hs : Keeps s0 s) : KeepsOut s0 (execSelftestComplete res s) := by
  unfold execSelftestComplete
  repeat' first
    | with_reducible refine KeepsOut.next ?_
    | exact KeepsOut.refused _
    | with_reducible assumption
    | with_reducible refine KeepsOut.ite (fun _ => ?_) (fun _ => ?_)
    | with_reducible refine Keeps.ite (fun _ => ?_) (fun _ => ?_)
    | with_reducible refine forAll_keeps _ _ ?_ (fun _ _ h => ?_)
    | with_reducible refine foldl_keeps _ _ ?_ (fun _ _ h => ?_)
    | with_reducible refine foldl_pair_keeps _ _ _ ?_ (fun _ _ h => ?_)
    | with_reducible refine revertPart_keeps _ _ ?_
    | with_reducible refine commitPart_keeps _ _ ?_
    | with_reducible refine State.modChip_keeps _ _ ?_
    | with_reducible refine fenceRegion_keeps _ _ _ _ ?_
    | with_reducible refine retireEngine_keeps _ _ ?_
    | with_reducible refine trainChan_keeps _ _ _ ?_
    | with_reducible refine leaveSelftest_keeps _ ?_

theorem execPerstN_keeps {s0 : State} (s : State) (hs : Keeps s0 s) : KeepsOut s0 (execPerstN s) := by
  unfold execPerstN
  repeat' first
    | with_reducible refine KeepsOut.next ?_
    | exact KeepsOut.refused _
    | with_reducible assumption
    | with_reducible refine KeepsOut.ite (fun _ => ?_) (fun _ => ?_)
    | with_reducible refine Keeps.ite (fun _ => ?_) (fun _ => ?_)
    | with_reducible refine foldl_keeps _ _ ?_ (fun _ _ h => ?_)
    | with_reducible refine foldl_pair_keeps _ _ _ ?_ (fun _ _ h => ?_)
    | with_reducible refine closeSession_keeps _ ?_
    | with_reducible refine State.modHost_keeps _ _ ?_

theorem mapChunks_keeps {s0 : State} (f : Peal → ℕ → Chunk → Chunk) (s : State) (hs : Keeps s0 s) : Keeps s0 (mapChunks f s) := by
  unfold mapChunks
  repeat' first
    | with_reducible assumption
    | with_reducible refine Keeps.ite (fun _ => ?_) (fun _ => ?_)
    | with_reducible refine foldl_keeps _ _ ?_ (fun _ _ h => ?_)
    | with_reducible refine foldl_pair_keeps _ _ _ ?_ (fun _ _ h => ?_)
    | simp only [keeps_set_lanes, keeps_set_ports, keeps_set_blocks, keeps_set_sched, keeps_set_fabric, keeps_set_lasts, keeps_set_host, keeps_set_logs, keeps_set_chip, keeps_set_ctl, keeps_set_time, keeps_set_twin, keeps_set_peals, keeps_set_spine, keeps_set_circ, keeps_set_chans]

theorem exposeChunks_keeps {s0 : State} (die : ℕ) (s : State) (hs : Keeps s0 s) : Keeps s0 (exposeChunks die s) := by
  unfold exposeChunks
  repeat' first
    | with_reducible assumption
    | with_reducible refine Keeps.ite (fun _ => ?_) (fun _ => ?_)
    | with_reducible refine foldl_keeps _ _ ?_ (fun _ _ h => ?_)
    | with_reducible refine foldl_pair_keeps _ _ _ ?_ (fun _ _ h => ?_)
    | with_reducible refine mapChunks_keeps _ _ ?_

theorem setVdd_keeps {s0 : State} (die : ℕ) (mv : ℕ) (s : State) (hs : Keeps s0 s) : Keeps s0 (setVdd die mv s) := by
  unfold setVdd
  repeat' first
    | with_reducible assumption
    | with_reducible refine Keeps.ite (fun _ => ?_) (fun _ => ?_)
    | with_reducible refine foldl_keeps _ _ ?_ (fun _ _ h => ?_)
    | with_reducible refine foldl_pair_keeps _ _ _ ?_ (fun _ _ h => ?_)
    | with_reducible refine State.modChip_keeps _ _ ?_

theorem execSupplyWarning_keeps {s0 : State} (die : ℕ) (mv : ℕ) (s : State) (hs : Keeps s0 s) : KeepsOut s0 (execSupplyWarning die mv s) := by
  unfold execSupplyWarning
  repeat' first
    | with_reducible refine KeepsOut.next ?_
    | exact KeepsOut.refused _
    | with_reducible assumption
    | with_reducible refine KeepsOut.ite (fun _ => ?_) (fun _ => ?_)
    | with_reducible refine Keeps.ite (fun _ => ?_) (fun _ => ?_)
    | with_reducible refine foldl_keeps _ _ ?_ (fun _ _ h => ?_)
    | with_reducible refine foldl_pair_keeps _ _ _ ?_ (fun _ _ h => ?_)
    | with_reducible refine setVdd_keeps _ _ _ ?_
    | with_reducible refine State.modChip_keeps _ _ ?_
    | with_reducible refine exposeChunks_keeps _ _ ?_
    | with_reducible refine postEvent_keeps _ _ _ ?_
    | simp only [keeps_set_lanes, keeps_set_ports, keeps_set_blocks, keeps_set_sched, keeps_set_fabric, keeps_set_lasts, keeps_set_host, keeps_set_logs, keeps_set_chip, keeps_set_ctl, keeps_set_time, keeps_set_twin, keeps_set_peals, keeps_set_spine, keeps_set_circ, keeps_set_chans]
    | refine KeepsP.get (by with_reducible assumption) ?_
    | refine KeepsT.get (by with_reducible assumption) ?_
    | simp only [keeps_snd_snd]
    | simp only [keeps_snd]
    | simp only [keepsP_mk]
    | with_reducible refine KeepsP.ite (fun _ => ?_) (fun _ => ?_)
    | split

theorem recheck_keeps {s0 : State} (p : Nat) (c : Nat) (s : State) (hs : Keeps s0 s) : Keeps s0 (recheck p c s) := by
  unfold recheck
  repeat' first
    | with_reducible assumption
    | with_reducible refine Keeps.ite (fun _ => ?_) (fun _ => ?_)
    | with_reducible refine foldl_keeps _ _ ?_ (fun _ _ h => ?_)
    | with_reducible refine foldl_pair_keeps _ _ _ ?_ (fun _ _ h => ?_)
    | with_reducible refine residueVoid_keeps _ _ _ _ ?_
    | with_reducible refine voidFor_keeps _ _ _ ?_
    | with_reducible refine State.modChunk_keeps _ _ _ _ ?_
    | simp only [keeps_set_lanes, keeps_set_ports, keeps_set_blocks, keeps_set_sched, keeps_set_fabric, keeps_set_lasts, keeps_set_host, keeps_set_logs, keeps_set_chip, keeps_set_ctl, keeps_set_time, keeps_set_twin, keeps_set_peals, keeps_set_spine, keeps_set_circ, keeps_set_chans]
    | refine KeepsP.get (by with_reducible assumption) ?_
    | refine KeepsT.get (by with_reducible assumption) ?_
    | simp only [keeps_snd_snd]
    | simp only [keeps_snd]
    | simp only [keepsP_mk]
    | with_reducible refine KeepsP.ite (fun _ => ?_) (fun _ => ?_)
    | split

theorem execSupplyWarningClear_keeps {s0 : State} (die : ℕ) (mv : ℕ) (s : State) (hs : Keeps s0 s) : KeepsOut s0 (execSupplyWarningClear die mv s) := by
  unfold execSupplyWarningClear
  repeat' first
    | with_reducible refine KeepsOut.next ?_
    | exact KeepsOut.refused _
    | with_reducible assumption
    | with_reducible refine KeepsOut.ite (fun _ => ?_) (fun _ => ?_)
    | with_reducible refine Keeps.ite (fun _ => ?_) (fun _ => ?_)
    | with_reducible refine forAll_keeps _ _ ?_ (fun _ _ h => ?_)
    | with_reducible refine foldl_keeps _ _ ?_ (fun _ _ h => ?_)
    | with_reducible refine foldl_pair_keeps _ _ _ ?_ (fun _ _ h => ?_)
    | with_reducible refine postEvent_keeps _ _ _ ?_
    | with_reducible refine setVdd_keeps _ _ _ ?_
    | with_reducible refine ledgerAdd_keeps _ _ _ _ ?_
    | with_reducible refine State.modChip_keeps _ _ ?_
    | with_reducible refine settle_keeps _ _ ?_
    | with_reducible refine recheck_keeps _ _ _ ?_
    | simp only [keeps_set_lanes, keeps_set_ports, keeps_set_blocks, keeps_set_sched, keeps_set_fabric, keeps_set_lasts, keeps_set_host, keeps_set_logs, keeps_set_chip, keeps_set_ctl, keeps_set_time, keeps_set_twin, keeps_set_peals, keeps_set_spine, keeps_set_circ, keeps_set_chans]
    | refine KeepsP.get (by with_reducible assumption) ?_
    | refine KeepsT.get (by with_reducible assumption) ?_
    | simp only [keeps_snd_snd]
    | simp only [keeps_snd]
    | simp only [keepsP_mk]
    | with_reducible refine KeepsP.ite (fun _ => ?_) (fun _ => ?_)
    | split

theorem execSupplyWarningHeld_keeps {s0 : State} (die : ℕ) (s : State) (hs : Keeps s0 s) : KeepsOut s0 (execSupplyWarningHeld die s) := by
  unfold execSupplyWarningHeld
  repeat' first
    | with_reducible refine KeepsOut.next ?_
    | exact KeepsOut.refused _
    | with_reducible assumption
    | with_reducible refine KeepsOut.ite (fun _ => ?_) (fun _ => ?_)
    | with_reducible refine Keeps.ite (fun _ => ?_) (fun _ => ?_)
    | with_reducible refine foldl_keeps _ _ ?_ (fun _ _ h => ?_)
    | with_reducible refine foldl_pair_keeps _ _ _ ?_ (fun _ _ h => ?_)
    | with_reducible refine settle_keeps _ _ ?_
    | with_reducible refine State.modChip_keeps _ _ ?_

theorem execRefclkLoss_keeps {s0 : State} (clk : RefClk) (s : State) (hs : Keeps s0 s) : KeepsOut s0 (execRefclkLoss clk s) := by
  unfold execRefclkLoss
  repeat' first
    | with_reducible refine KeepsOut.next ?_
    | exact KeepsOut.refused _
    | with_reducible assumption
    | with_reducible refine KeepsOut.ite (fun _ => ?_) (fun _ => ?_)
    | with_reducible refine Keeps.ite (fun _ => ?_) (fun _ => ?_)
    | with_reducible refine forAll_keeps _ _ ?_ (fun _ _ h => ?_)
    | with_reducible refine foldl_keeps _ _ ?_ (fun _ _ h => ?_)
    | with_reducible refine foldl_pair_keeps _ _ _ ?_ (fun _ _ h => ?_)
    | with_reducible refine State.modHost_keeps _ _ ?_
    | with_reducible refine State.modChip_keeps _ _ ?_
    | with_reducible refine loseLock_keeps _ _ ?_
    | with_reducible refine retireChan_keeps _ _ _ _ ?_
    | simp only [keeps_set_lanes, keeps_set_ports, keeps_set_blocks, keeps_set_sched, keeps_set_fabric, keeps_set_lasts, keeps_set_host, keeps_set_logs, keeps_set_chip, keeps_set_ctl, keeps_set_time, keeps_set_twin, keeps_set_peals, keeps_set_spine, keeps_set_circ, keeps_set_chans]
    | refine KeepsP.get (by with_reducible assumption) ?_
    | refine KeepsT.get (by with_reducible assumption) ?_
    | simp only [keeps_snd_snd]
    | simp only [keeps_snd]
    | simp only [keepsP_mk]
    | with_reducible refine KeepsP.ite (fun _ => ?_) (fun _ => ?_)
    | split

end Sys2Proof.Machine
end

