-- ==== Sys2Proof/Laws/KeepsControl.lean ====
section
/-! SUPPORT. Laws/KeepsControl.lean: what the operations of Machine/Control.lean keep. -/
namespace Sys2Proof.Machine

set_option linter.unusedSimpArgs false
set_option linter.unusedTactic false
set_option linter.unreachableTactic false

theorem revertControl_keeps {s0 : State} (s : State) (hs : Keeps s0 s) : Keeps s0 (revertControl s) := by
  unfold revertControl
  repeat' first
    | with_reducible assumption
    | with_reducible refine Keeps.ite (fun _ => ?_) (fun _ => ?_)
    | with_reducible refine foldl_keeps _ _ ?_ (fun _ _ h => ?_)
    | with_reducible refine foldl_pair_keeps _ _ _ ?_ (fun _ _ h => ?_)
    | with_reducible refine revertPart_keeps _ _ ?_
    | with_reducible refine State.modCtl_keeps _ _ ?_

theorem crashCore_keeps {s0 : State} (core : ℕ) (s : State) (hs : Keeps s0 s) : Keeps s0 (crashCore core s) := by
  unfold crashCore
  repeat' first
    | with_reducible assumption
    | with_reducible refine Keeps.ite (fun _ => ?_) (fun _ => ?_)
    | with_reducible refine foldl_keeps _ _ ?_ (fun _ _ h => ?_)
    | with_reducible refine foldl_pair_keeps _ _ _ ?_ (fun _ _ h => ?_)
    | with_reducible refine dropFlight_keeps _ ?_
    | with_reducible refine bump_keeps _ _ _ _ ?_
    | with_reducible refine State.modCtl_keeps _ _ ?_
    | with_reducible refine postEvent_keeps _ _ _ ?_
    | with_reducible refine revertControl_keeps _ ?_
    | with_reducible refine settle_keeps _ _ ?_

theorem execCoreWatchdogMiss_keeps {s0 : State} (core : ℕ) (s : State) (hs : Keeps s0 s) : KeepsOut s0 (execCoreWatchdogMiss core s) := by
  unfold execCoreWatchdogMiss
  repeat' first
    | with_reducible refine KeepsOut.next ?_
    | exact KeepsOut.refused _
    | with_reducible assumption
    | with_reducible refine KeepsOut.ite (fun _ => ?_) (fun _ => ?_)
    | with_reducible refine Keeps.ite (fun _ => ?_) (fun _ => ?_)
    | with_reducible refine foldl_keeps _ _ ?_ (fun _ _ h => ?_)
    | with_reducible refine foldl_pair_keeps _ _ _ ?_ (fun _ _ h => ?_)
    | with_reducible refine crashCore_keeps _ _ ?_

theorem execCoreCrash_keeps {s0 : State} (core : ℕ) (s : State) (hs : Keeps s0 s) : KeepsOut s0 (execCoreCrash core s) := by
  unfold execCoreCrash
  repeat' first
    | with_reducible refine KeepsOut.next ?_
    | exact KeepsOut.refused _
    | with_reducible assumption
    | with_reducible refine KeepsOut.ite (fun _ => ?_) (fun _ => ?_)
    | with_reducible refine Keeps.ite (fun _ => ?_) (fun _ => ?_)
    | with_reducible refine foldl_keeps _ _ ?_ (fun _ _ h => ?_)
    | with_reducible refine foldl_pair_keeps _ _ _ ?_ (fun _ _ h => ?_)
    | with_reducible refine crashCore_keeps _ _ ?_

theorem execCoreRestartComplete_keeps {s0 : State} (core : ℕ) (s : State) (hs : Keeps s0 s) : KeepsOut s0 (execCoreRestartComplete core s) := by
  unfold execCoreRestartComplete
  repeat' first
    | with_reducible refine KeepsOut.next ?_
    | exact KeepsOut.refused _
    | with_reducible assumption
    | with_reducible refine KeepsOut.ite (fun _ => ?_) (fun _ => ?_)
    | with_reducible refine Keeps.ite (fun _ => ?_) (fun _ => ?_)
    | with_reducible refine foldl_keeps _ _ ?_ (fun _ _ h => ?_)
    | with_reducible refine foldl_pair_keeps _ _ _ ?_ (fun _ _ h => ?_)
    | with_reducible refine State.modCtl_keeps _ _ ?_
    | with_reducible refine resume_keeps _ ?_

theorem execWardenCompareMismatch_keeps {s0 : State} (restartOk : Bool) (s : State) (hs : Keeps s0 s) : KeepsOut s0 (execWardenCompareMismatch restartOk s) := by
  unfold execWardenCompareMismatch
  repeat' first
    | with_reducible refine KeepsOut.next ?_
    | exact KeepsOut.refused _
    | with_reducible assumption
    | with_reducible refine KeepsOut.ite (fun _ => ?_) (fun _ => ?_)
    | with_reducible refine Keeps.ite (fun _ => ?_) (fun _ => ?_)
    | with_reducible refine foldl_keeps _ _ ?_ (fun _ _ h => ?_)
    | with_reducible refine foldl_pair_keeps _ _ _ ?_ (fun _ _ h => ?_)
    | with_reducible refine State.modCtl_keeps _ _ ?_
    | with_reducible refine postEvent_keeps _ _ _ ?_
    | with_reducible refine dampChip_keeps _ _ ?_

theorem execUncorrectableHubState_keeps {s0 : State} (_loc : HubLoc) (s : State) (hs : Keeps s0 s) : KeepsOut s0 (execUncorrectableHubState _loc s) := by
  unfold execUncorrectableHubState
  repeat' first
    | with_reducible refine KeepsOut.next ?_
    | exact KeepsOut.refused _
    | with_reducible assumption
    | with_reducible refine KeepsOut.ite (fun _ => ?_) (fun _ => ?_)
    | with_reducible refine Keeps.ite (fun _ => ?_) (fun _ => ?_)
    | with_reducible refine foldl_keeps _ _ ?_ (fun _ _ h => ?_)
    | with_reducible refine foldl_pair_keeps _ _ _ ?_ (fun _ _ h => ?_)
    | with_reducible refine bump_keeps _ _ _ _ ?_
    | with_reducible refine dampChip_keeps _ _ ?_

theorem execPauseRestartComplete_keeps {s0 : State} (s : State) (hs : Keeps s0 s) : KeepsOut s0 (execPauseRestartComplete s) := by
  unfold execPauseRestartComplete
  repeat' first
    | with_reducible refine KeepsOut.next ?_
    | exact KeepsOut.refused _
    | with_reducible assumption
    | with_reducible refine KeepsOut.ite (fun _ => ?_) (fun _ => ?_)
    | with_reducible refine Keeps.ite (fun _ => ?_) (fun _ => ?_)
    | with_reducible refine foldl_keeps _ _ ?_ (fun _ _ h => ?_)
    | with_reducible refine foldl_pair_keeps _ _ _ ?_ (fun _ _ h => ?_)
    | with_reducible refine runSelected_keeps _ _ ?_
    | with_reducible refine State.modCtl_keeps _ _ ?_
    | with_reducible refine migrate_keeps _ ?_
    | with_reducible refine answerOp_keeps _ _ _ _ ?_
    | with_reducible refine resume_keeps _ ?_
    | simp only [keeps_set_lanes, keeps_set_ports, keeps_set_blocks, keeps_set_sched, keeps_set_fabric, keeps_set_lasts, keeps_set_host, keeps_set_logs, keeps_set_chip, keeps_set_ctl, keeps_set_time, keeps_set_twin, keeps_set_peals, keeps_set_spine, keeps_set_circ, keeps_set_chans]
    | refine KeepsP.get (by with_reducible assumption) ?_
    | refine KeepsT.get (by with_reducible assumption) ?_
    | simp only [keeps_snd_snd]
    | simp only [keeps_snd]
    | simp only [keepsP_mk]
    | with_reducible refine KeepsP.ite (fun _ => ?_) (fun _ => ?_)
    | split

theorem execHandoverCut_keeps {s0 : State} (s : State) (hs : Keeps s0 s) : KeepsOut s0 (execHandoverCut s) := by
  unfold execHandoverCut
  repeat' first
    | with_reducible refine KeepsOut.next ?_
    | exact KeepsOut.refused _
    | with_reducible assumption
    | with_reducible refine KeepsOut.ite (fun _ => ?_) (fun _ => ?_)
    | with_reducible refine Keeps.ite (fun _ => ?_) (fun _ => ?_)
    | with_reducible refine foldl_keeps _ _ ?_ (fun _ _ h => ?_)
    | with_reducible refine foldl_pair_keeps _ _ _ ?_ (fun _ _ h => ?_)
    | with_reducible refine migrate_keeps _ ?_
    | with_reducible refine runSelected_keeps _ _ ?_
    | with_reducible refine selectStaged_keeps _ _ ?_
    | with_reducible refine answerOp_keeps _ _ _ _ ?_
    | with_reducible refine State.modCtl_keeps _ _ ?_
    | simp only [keeps_set_lanes, keeps_set_ports, keeps_set_blocks, keeps_set_sched, keeps_set_fabric, keeps_set_lasts, keeps_set_host, keeps_set_logs, keeps_set_chip, keeps_set_ctl, keeps_set_time, keeps_set_twin, keeps_set_peals, keeps_set_spine, keeps_set_circ, keeps_set_chans]
    | refine KeepsP.get (by with_reducible assumption) ?_
    | refine KeepsT.get (by with_reducible assumption) ?_
    | simp only [keeps_snd_snd]
    | simp only [keeps_snd]
    | simp only [keepsP_mk]
    | with_reducible refine KeepsP.ite (fun _ => ?_) (fun _ => ?_)
    | split

theorem execHandoverTimeout_keeps {s0 : State} (s : State) (hs : Keeps s0 s) : KeepsOut s0 (execHandoverTimeout s) := by
  unfold execHandoverTimeout
  repeat' first
    | with_reducible refine KeepsOut.next ?_
    | exact KeepsOut.refused _
    | with_reducible assumption
    | with_reducible refine KeepsOut.ite (fun _ => ?_) (fun _ => ?_)
    | with_reducible refine Keeps.ite (fun _ => ?_) (fun _ => ?_)
    | with_reducible refine foldl_keeps _ _ ?_ (fun _ _ h => ?_)
    | with_reducible refine foldl_pair_keeps _ _ _ ?_ (fun _ _ h => ?_)
    | with_reducible refine State.modCtl_keeps _ _ ?_
    | with_reducible refine answerOp_keeps _ _ _ _ ?_
    | simp only [keeps_set_lanes, keeps_set_ports, keeps_set_blocks, keeps_set_sched, keeps_set_fabric, keeps_set_lasts, keeps_set_host, keeps_set_logs, keeps_set_chip, keeps_set_ctl, keeps_set_time, keeps_set_twin, keeps_set_peals, keeps_set_spine, keeps_set_circ, keeps_set_chans]
    | refine KeepsP.get (by with_reducible assumption) ?_
    | refine KeepsT.get (by with_reducible assumption) ?_
    | simp only [keeps_snd_snd]
    | simp only [keeps_snd]
    | simp only [keepsP_mk]
    | with_reducible refine KeepsP.ite (fun _ => ?_) (fun _ => ?_)
    | split

end Sys2Proof.Machine
end

