-- ==== Sys2Proof/Laws/KeepsHealth.lean ====
section
/-! SUPPORT. Laws/KeepsHealth.lean: what the operations of Machine/Health.lean keep. -/
namespace Sys2Proof.Machine

set_option linter.unusedSimpArgs false
set_option linter.unusedTactic false
set_option linter.unreachableTactic false

theorem execThroughputIndexRefresh_keeps {s0 : State} (region : ℕ) (rates : List ℕ) (s : State) (hs : Keeps s0 s) : KeepsOut s0 (execThroughputIndexRefresh region rates s) := by
  unfold execThroughputIndexRefresh
  repeat' first
    | with_reducible refine KeepsOut.next ?_
    | exact KeepsOut.refused _
    | with_reducible assumption
    | with_reducible refine KeepsOut.ite (fun _ => ?_) (fun _ => ?_)
    | with_reducible refine Keeps.ite (fun _ => ?_) (fun _ => ?_)
    | with_reducible refine foldl_keeps _ _ ?_ (fun _ _ h => ?_)
    | with_reducible refine foldl_pair_keeps _ _ _ ?_ (fun _ _ h => ?_)
    | with_reducible refine State.modChip_keeps _ _ ?_

theorem execDerateCompute_keeps {s0 : State} (s : State) (hs : Keeps s0 s) : KeepsOut s0 (execDerateCompute s) := by
  unfold execDerateCompute
  repeat' first
    | with_reducible refine KeepsOut.next ?_
    | exact KeepsOut.refused _
    | with_reducible assumption
    | with_reducible refine KeepsOut.ite (fun _ => ?_) (fun _ => ?_)
    | with_reducible refine Keeps.ite (fun _ => ?_) (fun _ => ?_)
    | with_reducible refine foldl_keeps _ _ ?_ (fun _ _ h => ?_)
    | with_reducible refine foldl_pair_keeps _ _ _ ?_ (fun _ _ h => ?_)
    | with_reducible refine State.modChip_keeps _ _ ?_

theorem execDelayExcursion_keeps {s0 : State} (region : ℕ) (monitor : ℕ) (rate : ℕ) (s : State) (hs : Keeps s0 s) : KeepsOut s0 (execDelayExcursion region monitor rate s) := by
  unfold execDelayExcursion
  repeat' first
    | with_reducible refine KeepsOut.next ?_
    | exact KeepsOut.refused _
    | with_reducible assumption
    | with_reducible refine KeepsOut.ite (fun _ => ?_) (fun _ => ?_)
    | with_reducible refine Keeps.ite (fun _ => ?_) (fun _ => ?_)
    | with_reducible refine foldl_keeps _ _ ?_ (fun _ _ h => ?_)
    | with_reducible refine foldl_pair_keeps _ _ _ ?_ (fun _ _ h => ?_)
    | with_reducible refine ledgerAdd_keeps _ _ _ _ ?_
    | with_reducible refine bump_keeps _ _ _ _ ?_
    | with_reducible refine postEvent_keeps _ _ _ ?_

theorem execSetpointStep_keeps {s0 : State} (acks : AvsAcks) (s : State) (hs : Keeps s0 s) : KeepsOut s0 (execSetpointStep acks s) := by
  unfold execSetpointStep
  repeat' first
    | with_reducible refine KeepsOut.next ?_
    | exact KeepsOut.refused _
    | with_reducible assumption
    | with_reducible refine KeepsOut.ite (fun _ => ?_) (fun _ => ?_)
    | with_reducible refine Keeps.ite (fun _ => ?_) (fun _ => ?_)
    | with_reducible refine foldl_keeps _ _ ?_ (fun _ _ h => ?_)
    | with_reducible refine foldl_pair_keeps _ _ _ ?_ (fun _ _ h => ?_)
    | with_reducible refine State.modChip_keeps _ _ ?_

theorem noteSample_keeps {s0 : State} (die : ℕ) (tj8 : ℤ) (s : State) (hs : Keeps s0 s) : Keeps s0 (noteSample die tj8 s) := by
  unfold noteSample
  repeat' first
    | with_reducible assumption
    | with_reducible refine Keeps.ite (fun _ => ?_) (fun _ => ?_)
    | with_reducible refine foldl_keeps _ _ ?_ (fun _ _ h => ?_)
    | with_reducible refine foldl_pair_keeps _ _ _ ?_ (fun _ _ h => ?_)
    | with_reducible refine State.modLedger_keeps _ _ _ ?_
    | with_reducible refine State.modLogs_keeps _ _ ?_

theorem execTjSample_keeps {s0 : State} (die : ℕ) (tj8 : ℤ) (s : State) (hs : Keeps s0 s) : KeepsOut s0 (execTjSample die tj8 s) := by
  unfold execTjSample
  repeat' first
    | with_reducible refine KeepsOut.next ?_
    | exact KeepsOut.refused _
    | with_reducible assumption
    | with_reducible refine KeepsOut.ite (fun _ => ?_) (fun _ => ?_)
    | with_reducible refine Keeps.ite (fun _ => ?_) (fun _ => ?_)
    | with_reducible refine foldl_keeps _ _ ?_ (fun _ _ h => ?_)
    | with_reducible refine foldl_pair_keeps _ _ _ ?_ (fun _ _ h => ?_)
    | with_reducible refine noteSample_keeps _ _ _ ?_
    | with_reducible refine State.modChip_keeps _ _ ?_
    | with_reducible refine settle_keeps _ _ ?_
    | with_reducible refine ledgerAdd_keeps _ _ _ _ ?_
    | with_reducible refine postEvent_keeps _ _ _ ?_
    | with_reducible refine dampChip_keeps _ _ ?_

theorem execLedgerHourly_keeps {s0 : State} (die : ℕ) (eyes : List ℕ) (s : State) (hs : Keeps s0 s) : KeepsOut s0 (execLedgerHourly die eyes s) := by
  unfold execLedgerHourly
  repeat' first
    | with_reducible refine KeepsOut.next ?_
    | exact KeepsOut.refused _
    | with_reducible assumption
    | with_reducible refine KeepsOut.ite (fun _ => ?_) (fun _ => ?_)
    | with_reducible refine Keeps.ite (fun _ => ?_) (fun _ => ?_)
    | with_reducible refine forAll_keeps _ _ ?_ (fun _ _ h => ?_)
    | with_reducible refine foldl_keeps _ _ ?_ (fun _ _ h => ?_)
    | with_reducible refine foldl_pair_keeps _ _ _ ?_ (fun _ _ h => ?_)
    | with_reducible refine State.modLedger_keeps _ _ _ ?_
    | with_reducible refine ledgerAdd_keeps _ _ _ _ ?_

theorem execLedgerDaily_keeps {s0 : State} (die : ℕ) (s : State) (hs : Keeps s0 s) : KeepsOut s0 (execLedgerDaily die s) := by
  unfold execLedgerDaily
  repeat' first
    | with_reducible refine KeepsOut.next ?_
    | exact KeepsOut.refused _
    | with_reducible assumption
    | with_reducible refine KeepsOut.ite (fun _ => ?_) (fun _ => ?_)
    | with_reducible refine Keeps.ite (fun _ => ?_) (fun _ => ?_)
    | with_reducible refine foldl_keeps _ _ ?_ (fun _ _ h => ?_)
    | with_reducible refine foldl_pair_keeps _ _ _ ?_ (fun _ _ h => ?_)
    | with_reducible refine ledgerAdd_keeps _ _ _ _ ?_
    | with_reducible refine State.modLedger_keeps _ _ _ ?_

theorem execLedgerFlush_keeps {s0 : State} (die : ℕ) (s : State) (hs : Keeps s0 s) : KeepsOut s0 (execLedgerFlush die s) := by
  unfold execLedgerFlush
  repeat' first
    | with_reducible refine KeepsOut.next ?_
    | exact KeepsOut.refused _
    | with_reducible assumption
    | with_reducible refine KeepsOut.ite (fun _ => ?_) (fun _ => ?_)
    | with_reducible refine Keeps.ite (fun _ => ?_) (fun _ => ?_)
    | with_reducible refine foldl_keeps _ _ ?_ (fun _ _ h => ?_)
    | with_reducible refine foldl_pair_keeps _ _ _ ?_ (fun _ _ h => ?_)
    | with_reducible refine State.modLedger_keeps _ _ _ ?_

end Sys2Proof.Machine
end

