-- ==== Sys2Proof/Laws/KeepsHub.lean ====
section
/-! SUPPORT. Laws/KeepsHub.lean: what the operations of Machine/Hub.lean keep. -/
namespace Sys2Proof.Machine

set_option linter.unusedSimpArgs false
set_option linter.unusedTactic false
set_option linter.unreachableTactic false


theorem hubCross_keeps {s0 : State} (x : HubItem) (s : State) (hs : Keeps s0 s) : Keeps s0 (hubCross x s) := by
  unfold hubCross
  repeat' first
    | with_reducible assumption
    | with_reducible refine Keeps.ite (fun _ => ?_) (fun _ => ?_)
    | with_reducible refine foldl_keeps _ _ ?_ (fun _ _ h => ?_)
    | with_reducible refine foldl_pair_keeps _ _ _ ?_ (fun _ _ h => ?_)
    | with_reducible refine sprayTwin_keeps _ _ ?_
    | with_reducible refine returnCredit_keeps _ _ ?_
    | with_reducible refine latch_keeps _ _ ?_
    | simp only [keeps_set_lanes, keeps_set_ports, keeps_set_blocks, keeps_set_sched, keeps_set_fabric, keeps_set_lasts, keeps_set_host, keeps_set_logs, keeps_set_chip, keeps_set_ctl, keeps_set_time, keeps_set_twin, keeps_set_peals, keeps_set_spine, keeps_set_circ, keeps_set_chans]
    | refine KeepsP.get (by with_reducible assumption) ?_
    | refine KeepsT.get (by with_reducible assumption) ?_
    | simp only [keeps_snd_snd]
    | simp only [keeps_snd]
    | simp only [keepsP_mk]
    | with_reducible refine KeepsP.ite (fun _ => ?_) (fun _ => ?_)
    | split

theorem drainHub_keeps {s0 : State} (x0 : Nat) (x1 : State) (hs : Keeps s0 x1) : Keeps s0 (drainHub x0 x1) := by
  induction x0 generalizing x1 with
  | zero => unfold drainHub; with_reducible assumption
  | succ k ih =>
    unfold drainHub
    repeat' first
      | with_reducible assumption
      | with_reducible refine ih _ ?_
      | with_reducible refine Keeps.ite (fun _ => ?_) (fun _ => ?_)
      | with_reducible refine foldl_keeps _ _ ?_ (fun _ _ h => ?_)
      | with_reducible refine foldl_pair_keeps _ _ _ ?_ (fun _ _ h => ?_)
      | with_reducible refine hubCross_keeps _ _ ?_
      | with_reducible refine State.modSched_keeps _ _ ?_
      | simp only [keeps_set_lanes, keeps_set_ports, keeps_set_blocks, keeps_set_sched, keeps_set_fabric, keeps_set_lasts, keeps_set_host, keeps_set_logs, keeps_set_chip, keeps_set_ctl, keeps_set_time, keeps_set_twin, keeps_set_peals, keeps_set_spine, keeps_set_circ, keeps_set_chans]
      | refine KeepsP.get (by with_reducible assumption) ?_
      | refine KeepsT.get (by with_reducible assumption) ?_
      | simp only [keeps_snd_snd]
      | simp only [keeps_snd]
      | simp only [keepsP_mk]
      | with_reducible refine KeepsP.ite (fun _ => ?_) (fun _ => ?_)
      | split
      | dsimp -iota -proj only

theorem expressCross_keeps {s0 : State} (i : Nat) (j : Nat) (x : Nat × BufCell) (s : State) (hs : Keeps s0 s) : Keeps s0 (expressCross i j x s) := by
  unfold expressCross
  repeat' first
    | with_reducible assumption
    | with_reducible refine Keeps.ite (fun _ => ?_) (fun _ => ?_)
    | with_reducible refine foldl_keeps _ _ ?_ (fun _ _ h => ?_)
    | with_reducible refine foldl_pair_keeps _ _ _ ?_ (fun _ _ h => ?_)
    | with_reducible refine State.modSched_keeps _ _ ?_
    | with_reducible refine State.modBlock_keeps _ _ _ ?_
    | with_reducible refine seamPassed_keeps _ _ _ ?_
    | with_reducible refine leaveBlock_keeps _ _ _ ?_
    | with_reducible refine newEnt_keeps _ _ ?_
    | with_reducible refine State.modPort_keeps _ _ _ ?_
    | with_reducible refine countDiscard_keeps _ _ _ ?_
    | simp only [keeps_set_lanes, keeps_set_ports, keeps_set_blocks, keeps_set_sched, keeps_set_fabric, keeps_set_lasts, keeps_set_host, keeps_set_logs, keeps_set_chip, keeps_set_ctl, keeps_set_time, keeps_set_twin, keeps_set_peals, keeps_set_spine, keeps_set_circ, keeps_set_chans]
    | refine KeepsP.get (by with_reducible assumption) ?_
    | refine KeepsT.get (by with_reducible assumption) ?_
    | simp only [keeps_snd_snd]
    | simp only [keeps_snd]
    | simp only [keepsP_mk]
    | with_reducible refine KeepsP.ite (fun _ => ?_) (fun _ => ?_)
    | split

theorem execExpressForward_keeps {s0 : State} (outBlk : Nat) (s : State) (hs : Keeps s0 s) : KeepsOut s0 (execExpressForward outBlk s) := by
  unfold execExpressForward
  repeat' first
    | with_reducible refine KeepsOut.next ?_
    | exact KeepsOut.refused _
    | with_reducible assumption
    | with_reducible refine KeepsOut.ite (fun _ => ?_) (fun _ => ?_)
    | with_reducible refine Keeps.ite (fun _ => ?_) (fun _ => ?_)
    | with_reducible refine foldl_keeps _ _ ?_ (fun _ _ h => ?_)
    | with_reducible refine foldl_pair_keeps _ _ _ ?_ (fun _ _ h => ?_)
    | with_reducible refine expressCross_keeps _ _ _ _ ?_
    | with_reducible refine drainHub_keeps _ _ ?_
    | simp only [keeps_set_lanes, keeps_set_ports, keeps_set_blocks, keeps_set_sched, keeps_set_fabric, keeps_set_lasts, keeps_set_host, keeps_set_logs, keeps_set_chip, keeps_set_ctl, keeps_set_time, keeps_set_twin, keeps_set_peals, keeps_set_spine, keeps_set_circ, keeps_set_chans]
    | refine KeepsP.get (by with_reducible assumption) ?_
    | refine KeepsT.get (by with_reducible assumption) ?_
    | simp only [keeps_snd_snd]
    | simp only [keeps_snd]
    | simp only [keepsP_mk]
    | with_reducible refine KeepsP.ite (fun _ => ?_) (fun _ => ?_)
    | split

theorem execFreezeMarkerArrival_keeps {s0 : State} (die : Nat) (s : State) (hs : Keeps s0 s) : KeepsOut s0 (execFreezeMarkerArrival die s) := by
  unfold execFreezeMarkerArrival
  repeat' first
    | with_reducible refine KeepsOut.next ?_
    | exact KeepsOut.refused _
    | with_reducible assumption
    | with_reducible refine KeepsOut.ite (fun _ => ?_) (fun _ => ?_)
    | with_reducible refine Keeps.ite (fun _ => ?_) (fun _ => ?_)
    | with_reducible refine foldl_keeps _ _ ?_ (fun _ _ h => ?_)
    | with_reducible refine foldl_pair_keeps _ _ _ ?_ (fun _ _ h => ?_)
    | with_reducible refine latch_keeps _ _ ?_
    | with_reducible refine hubWait_keeps _ _ ?_
    | simp only [keeps_set_lanes, keeps_set_ports, keeps_set_blocks, keeps_set_sched, keeps_set_fabric, keeps_set_lasts, keeps_set_host, keeps_set_logs, keeps_set_chip, keeps_set_ctl, keeps_set_time, keeps_set_twin, keeps_set_peals, keeps_set_spine, keeps_set_circ, keeps_set_chans]
    | refine KeepsP.get (by with_reducible assumption) ?_
    | refine KeepsT.get (by with_reducible assumption) ?_
    | simp only [keeps_snd_snd]
    | simp only [keeps_snd]
    | simp only [keepsP_mk]
    | with_reducible refine KeepsP.ite (fun _ => ?_) (fun _ => ?_)
    | split

end Sys2Proof.Machine
end

