-- ==== Sys2Proof/Laws/KeepsSpot.lean ====
section
/-! SUPPORT. Laws/KeepsSpot.lean: what the operations of Machine/Spot.lean keep. -/
namespace Sys2Proof.Machine

set_option linter.unusedSimpArgs false
set_option linter.unusedTactic false
set_option linter.unreachableTactic false

theorem runWord_keeps {s0 : State} (core : Nat) (w : Nat) (s : State) (hs : Keeps s0 s) : KeepsOut s0 (runWord core w s) := by
  unfold runWord
  repeat' first
    | with_reducible refine KeepsOut.next ?_
    | exact KeepsOut.refused _
    | with_reducible assumption
    | with_reducible refine KeepsOut.ite (fun _ => ?_) (fun _ => ?_)
    | with_reducible refine Keeps.ite (fun _ => ?_) (fun _ => ?_)
    | with_reducible refine foldl_keeps _ _ ?_ (fun _ _ h => ?_)
    | with_reducible refine foldl_pair_keeps _ _ _ ?_ (fun _ _ h => ?_)
    | with_reducible refine execLdc_keeps _ _ _ ?_
    | with_reducible refine execSts_keeps _ _ _ ?_
    | with_reducible refine execLdi_keeps _ _ _ ?_
    | with_reducible refine execMovCtx_keeps _ _ _ ?_
    | with_reducible refine execMov_keeps _ _ _ ?_
    | with_reducible refine execAccxVreg_keeps _ _ _ ?_
    | with_reducible refine execUnacc_keeps _ _ _ ?_
    | with_reducible refine execRndx_keeps _ _ _ ?_
    | with_reducible refine execVsum_keeps _ _ _ ?_
    | with_reducible refine execFadd_keeps _ _ _ ?_
    | with_reducible refine execFsub_keeps _ _ _ ?_
    | with_reducible refine execFmul_keeps _ _ _ ?_
    | with_reducible refine execFfma_keeps _ _ _ ?_
    | with_reducible refine execFmax_keeps _ _ _ ?_
    | with_reducible refine execFmin_keeps _ _ _ ?_
    | with_reducible refine execFdiv_keeps _ _ _ _ ?_
    | with_reducible refine execFsqrt_keeps _ _ _ _ ?_
    | with_reducible refine execFrsq_keeps _ _ _ _ ?_
    | with_reducible refine execFscl_keeps _ _ _ ?_
    | with_reducible refine execFabs_keeps _ _ _ ?_
    | with_reducible refine execFneg_keeps _ _ _ ?_
    | with_reducible refine execFclmp_keeps _ _ _ ?_
    | with_reducible refine execIadd_keeps _ _ _ ?_
    | with_reducible refine execIsub_keeps _ _ _ ?_
    | with_reducible refine execImax_keeps _ _ _ ?_
    | with_reducible refine execImin_keeps _ _ _ ?_
    | with_reducible refine execAnd_keeps _ _ _ ?_
    | with_reducible refine execOr_keeps _ _ _ ?_
    | with_reducible refine execXor_keeps _ _ _ ?_
    | with_reducible refine execShl_keeps _ _ _ ?_
    | with_reducible refine execShr_keeps _ _ _ ?_
    | with_reducible refine execShrArith_keeps _ _ _ ?_
    | with_reducible refine execCvt_keeps _ _ _ ?_
    | with_reducible refine execQnt_keeps _ _ _ ?_
    | with_reducible refine execDqt_keeps _ _ _ ?_
    | with_reducible refine execFcmp_keeps _ _ _ ?_
    | with_reducible refine execIcmp_keeps _ _ _ ?_
    | with_reducible refine execSel_keeps _ _ _ ?_
    | with_reducible refine execBr_keeps _ _ _ ?_
    | with_reducible refine execBrp_keeps _ _ _ ?_
    | with_reducible refine execWaitSend_keeps _ _ _ ?_
    | with_reducible refine execFence_keeps _ _ _ ?_
    | with_reducible refine dropInv_keeps _ _ ?_
    | simp only [keeps_set_lanes, keeps_set_ports, keeps_set_blocks, keeps_set_sched, keeps_set_fabric, keeps_set_lasts, keeps_set_host, keeps_set_logs, keeps_set_chip, keeps_set_ctl, keeps_set_time, keeps_set_twin, keeps_set_peals, keeps_set_spine, keeps_set_circ, keeps_set_chans]
    | refine KeepsP.get (by with_reducible assumption) ?_
    | refine KeepsT.get (by with_reducible assumption) ?_
    | simp only [keeps_snd_snd]
    | simp only [keeps_snd]
    | simp only [keepsP_mk]
    | with_reducible refine KeepsP.ite (fun _ => ?_) (fun _ => ?_)
    | split

theorem runHandler_keeps {s0 : State} (core : Nat) (pid : Nat) (x2 : Nat) (x3 : State) (hs : Keeps s0 x3) : Keeps s0 (runHandler core pid x2 x3) := by
  induction x2 generalizing x3 with
  | zero => unfold runHandler; with_reducible assumption
  | succ k ih =>
    unfold runHandler
    repeat' first
      | with_reducible assumption
      | with_reducible refine ih _ ?_
      | with_reducible refine Keeps.ite (fun _ => ?_) (fun _ => ?_)
      | with_reducible refine foldl_keeps _ _ ?_ (fun _ _ h => ?_)
      | with_reducible refine foldl_pair_keeps _ _ _ ?_ (fun _ _ h => ?_)
      | refine runWord_keeps _ _ _ ?_ _ (by with_reducible assumption)
      | simp only [keeps_set_lanes, keeps_set_ports, keeps_set_blocks, keeps_set_sched, keeps_set_fabric, keeps_set_lasts, keeps_set_host, keeps_set_logs, keeps_set_chip, keeps_set_ctl, keeps_set_time, keeps_set_twin, keeps_set_peals, keeps_set_spine, keeps_set_circ, keeps_set_chans]
      | refine KeepsP.get (by with_reducible assumption) ?_
      | refine KeepsT.get (by with_reducible assumption) ?_
      | simp only [keeps_snd_snd]
      | simp only [keeps_snd]
      | simp only [keepsP_mk]
      | with_reducible refine KeepsP.ite (fun _ => ?_) (fun _ => ?_)
      | split
      | dsimp -iota -proj only

theorem execSpotFwdReceive_keeps {s0 : State} (msg : TwinMsg) (s : State) (hs : Keeps s0 s) : KeepsOut s0 (execSpotFwdReceive msg s) := by
  unfold execSpotFwdReceive
  repeat' first
    | with_reducible refine KeepsOut.next ?_
    | exact KeepsOut.refused _
    | with_reducible assumption
    | with_reducible refine KeepsOut.ite (fun _ => ?_) (fun _ => ?_)
    | with_reducible refine Keeps.ite (fun _ => ?_) (fun _ => ?_)
    | with_reducible refine foldl_keeps _ _ ?_ (fun _ _ h => ?_)
    | with_reducible refine foldl_pair_keeps _ _ _ ?_ (fun _ _ h => ?_)
    | with_reducible refine takeTwin_keeps _ _ _ ?_
    | with_reducible refine badTwin_keeps _ ?_
    | with_reducible refine State.modPeal_keeps _ _ _ ?_
    | with_reducible refine sendTwinFrom_keeps _ _ _ _ _ _ _ ?_
    | simp only [keeps_set_lanes, keeps_set_ports, keeps_set_blocks, keeps_set_sched, keeps_set_fabric, keeps_set_lasts, keeps_set_host, keeps_set_logs, keeps_set_chip, keeps_set_ctl, keeps_set_time, keeps_set_twin, keeps_set_peals, keeps_set_spine, keeps_set_circ, keeps_set_chans]
    | refine KeepsP.get (by with_reducible assumption) ?_
    | refine KeepsT.get (by with_reducible assumption) ?_
    | simp only [keeps_snd_snd]
    | simp only [keeps_snd]
    | simp only [keepsP_mk]
    | with_reducible refine KeepsP.ite (fun _ => ?_) (fun _ => ?_)
    | split

end Sys2Proof.Machine
end

