-- ==== Sys2Proof/Laws/State.lean ====
section
/-! SUPPORT. Laws/State.lean: what each named update of the state leaves and changes, field by field. -/
namespace Sys2Proof.Laws
open Sys2Proof.Machine

@[simp] theorem State_modLane_lanes {s : State} {n} {f} : (s.modLane n f).lanes = s.lanes.upd n {} f := rfl
@[simp] theorem State_modLane_ports {s : State} {n} {f} : (s.modLane n f).ports = s.ports := rfl
@[simp] theorem State_modLane_blocks {s : State} {n} {f} : (s.modLane n f).blocks = s.blocks := rfl
@[simp] theorem State_modLane_sched {s : State} {n} {f} : (s.modLane n f).sched = s.sched := rfl
@[simp] theorem State_modLane_fabric {s : State} {n} {f} : (s.modLane n f).fabric = s.fabric := rfl
@[simp] theorem State_modLane_lasts {s : State} {n} {f} : (s.modLane n f).lasts = s.lasts := rfl
@[simp] theorem State_modLane_mem {s : State} {n} {f} : (s.modLane n f).mem = s.mem := rfl
@[simp] theorem State_modLane_host {s : State} {n} {f} : (s.modLane n f).host = s.host := rfl
@[simp] theorem State_modLane_logs {s : State} {n} {f} : (s.modLane n f).logs = s.logs := rfl
@[simp] theorem State_modLane_chip {s : State} {n} {f} : (s.modLane n f).chip = s.chip := rfl
@[simp] theorem State_modLane_ctl {s : State} {n} {f} : (s.modLane n f).ctl = s.ctl := rfl
@[simp] theorem State_modLane_flash {s : State} {n} {f} : (s.modLane n f).flash = s.flash := rfl
@[simp] theorem State_modLane_time {s : State} {n} {f} : (s.modLane n f).time = s.time := rfl
@[simp] theorem State_modLane_twin {s : State} {n} {f} : (s.modLane n f).twin = s.twin := rfl
@[simp] theorem State_modLane_peals {s : State} {n} {f} : (s.modLane n f).peals = s.peals := rfl
@[simp] theorem State_modLane_spine {s : State} {n} {f} : (s.modLane n f).spine = s.spine := rfl
@[simp] theorem State_modLane_circ {s : State} {n} {f} : (s.modLane n f).circ = s.circ := rfl
@[simp] theorem State_modLane_chans {s : State} {n} {f} : (s.modLane n f).chans = s.chans := rfl
@[simp] theorem State_modLane_free {s : State} {n} {f} : (s.modLane n f).free = s.free := rfl
@[simp] theorem State_modLane_pending {s : State} {n} {f} : (s.modLane n f).pending = s.pending := rfl
@[simp] theorem State_modPort_lanes {s : State} {n} {f} : (s.modPort n f).lanes = s.lanes := rfl
@[simp] theorem State_modPort_ports {s : State} {n} {f} : (s.modPort n f).ports = s.ports.mod n f := rfl
@[simp] theorem State_modPort_blocks {s : State} {n} {f} : (s.modPort n f).blocks = s.blocks := rfl
@[simp] theorem State_modPort_sched {s : State} {n} {f} : (s.modPort n f).sched = s.sched := rfl
@[simp] theorem State_modPort_fabric {s : State} {n} {f} : (s.modPort n f).fabric = s.fabric := rfl
@[simp] theorem State_modPort_lasts {s : State} {n} {f} : (s.modPort n f).lasts = s.lasts := rfl
@[simp] theorem State_modPort_mem {s : State} {n} {f} : (s.modPort n f).mem = s.mem := rfl
@[simp] theorem State_modPort_host {s : State} {n} {f} : (s.modPort n f).host = s.host := rfl
@[simp] theorem State_modPort_logs {s : State} {n} {f} : (s.modPort n f).logs = s.logs := rfl
@[simp] theorem State_modPort_chip {s : State} {n} {f} : (s.modPort n f).chip = s.chip := rfl
@[simp] theorem State_modPort_ctl {s : State} {n} {f} : (s.modPort n f).ctl = s.ctl := rfl
@[simp] theorem State_modPort_flash {s : State} {n} {f} : (s.modPort n f).flash = s.flash := rfl
@[simp] theorem State_modPort_time {s : State} {n} {f} : (s.modPort n f).time = s.time := rfl
@[simp] theorem State_modPort_twin {s : State} {n} {f} : (s.modPort n f).twin = s.twin := rfl
@[simp] theorem State_modPort_peals {s : State} {n} {f} : (s.modPort n f).peals = s.peals := rfl
@[simp] theorem State_modPort_spine {s : State} {n} {f} : (s.modPort n f).spine = s.spine := rfl
@[simp] theorem State_modPort_circ {s : State} {n} {f} : (s.modPort n f).circ = s.circ := rfl
@[simp] theorem State_modPort_chans {s : State} {n} {f} : (s.modPort n f).chans = s.chans := rfl
@[simp] theorem State_modPort_free {s : State} {n} {f} : (s.modPort n f).free = s.free := rfl
@[simp] theorem State_modPort_pending {s : State} {n} {f} : (s.modPort n f).pending = s.pending := rfl
@[simp] theorem State_modBlock_lanes {s : State} {n} {f} : (s.modBlock n f).lanes = s.lanes := rfl
@[simp] theorem State_modBlock_ports {s : State} {n} {f} : (s.modBlock n f).ports = s.ports := rfl
@[simp] theorem State_modBlock_blocks {s : State} {n} {f} : (s.modBlock n f).blocks = s.blocks.upd n {} f := rfl
@[simp] theorem State_modBlock_sched {s : State} {n} {f} : (s.modBlock n f).sched = s.sched := rfl
@[simp] theorem State_modBlock_fabric {s : State} {n} {f} : (s.modBlock n f).fabric = s.fabric := rfl
@[simp] theorem State_modBlock_lasts {s : State} {n} {f} : (s.modBlock n f).lasts = s.lasts := rfl
@[simp] theorem State_modBlock_mem {s : State} {n} {f} : (s.modBlock n f).mem = s.mem := rfl
@[simp] theorem State_modBlock_host {s : State} {n} {f} : (s.modBlock n f).host = s.host := rfl
@[simp] theorem State_modBlock_logs {s : State} {n} {f} : (s.modBlock n f).logs = s.logs := rfl
@[simp] theorem State_modBlock_chip {s : State} {n} {f} : (s.modBlock n f).chip = s.chip := rfl
@[simp] theorem State_modBlock_ctl {s : State} {n} {f} : (s.modBlock n f).ctl = s.ctl := rfl
@[simp] theorem State_modBlock_flash {s : State} {n} {f} : (s.modBlock n f).flash = s.flash := rfl
@[simp] theorem State_modBlock_time {s : State} {n} {f} : (s.modBlock n f).time = s.time := rfl
@[simp] theorem State_modBlock_twin {s : State} {n} {f} : (s.modBlock n f).twin = s.twin := rfl
@[simp] theorem State_modBlock_peals {s : State} {n} {f} : (s.modBlock n f).peals = s.peals := rfl
@[simp] theorem State_modBlock_spine {s : State} {n} {f} : (s.modBlock n f).spine = s.spine := rfl
@[simp] theorem State_modBlock_circ {s : State} {n} {f} : (s.modBlock n f).circ = s.circ := rfl
@[simp] theorem State_modBlock_chans {s : State} {n} {f} : (s.modBlock n f).chans = s.chans := rfl
@[simp] theorem State_modBlock_free {s : State} {n} {f} : (s.modBlock n f).free = s.free := rfl
@[simp] theorem State_modBlock_pending {s : State} {n} {f} : (s.modBlock n f).pending = s.pending := rfl
@[simp] theorem State_modMbx_lanes {s : State} {n} {f} : (s.modMbx n f).lanes = s.lanes := rfl
@[simp] theorem State_modMbx_ports {s : State} {n} {f} : (s.modMbx n f).ports = s.ports := rfl
@[simp] theorem State_modMbx_blocks {s : State} {n} {f} : (s.modMbx n f).blocks = s.blocks := rfl
@[simp] theorem State_modMbx_sched {s : State} {n} {f} : (s.modMbx n f).sched = s.sched := rfl
@[simp] theorem State_modMbx_fabric {s : State} {n} {f} : (s.modMbx n f).fabric = s.fabric := rfl
@[simp] theorem State_modMbx_lasts {s : State} {n} {f} : (s.modMbx n f).lasts = s.lasts := rfl
@[simp] theorem State_modMbx_mem {s : State} {n} {f} : (s.modMbx n f).mem = s.mem := rfl
@[simp] theorem State_modMbx_logs {s : State} {n} {f} : (s.modMbx n f).logs = s.logs := rfl
@[simp] theorem State_modMbx_chip {s : State} {n} {f} : (s.modMbx n f).chip = s.chip := rfl
@[simp] theorem State_modMbx_ctl {s : State} {n} {f} : (s.modMbx n f).ctl = s.ctl := rfl
@[simp] theorem State_modMbx_flash {s : State} {n} {f} : (s.modMbx n f).flash = s.flash := rfl
@[simp] theorem State_modMbx_time {s : State} {n} {f} : (s.modMbx n f).time = s.time := rfl
@[simp] theorem State_modMbx_twin {s : State} {n} {f} : (s.modMbx n f).twin = s.twin := rfl
@[simp] theorem State_modMbx_peals {s : State} {n} {f} : (s.modMbx n f).peals = s.peals := rfl
@[simp] theorem State_modMbx_spine {s : State} {n} {f} : (s.modMbx n f).spine = s.spine := rfl
@[simp] theorem State_modMbx_circ {s : State} {n} {f} : (s.modMbx n f).circ = s.circ := rfl
@[simp] theorem State_modMbx_chans {s : State} {n} {f} : (s.modMbx n f).chans = s.chans := rfl
@[simp] theorem State_modMbx_free {s : State} {n} {f} : (s.modMbx n f).free = s.free := rfl
@[simp] theorem State_modMbx_pending {s : State} {n} {f} : (s.modMbx n f).pending = s.pending := rfl
@[simp] theorem State_modChip_lanes {s : State} {f} : (s.modChip f).lanes = s.lanes := rfl
@[simp] theorem State_modChip_ports {s : State} {f} : (s.modChip f).ports = s.ports := rfl
@[simp] theorem State_modChip_blocks {s : State} {f} : (s.modChip f).blocks = s.blocks := rfl
@[simp] theorem State_modChip_sched {s : State} {f} : (s.modChip f).sched = s.sched := rfl
@[simp] theorem State_modChip_fabric {s : State} {f} : (s.modChip f).fabric = s.fabric := rfl
@[simp] theorem State_modChip_lasts {s : State} {f} : (s.modChip f).lasts = s.lasts := rfl
@[simp] theorem State_modChip_mem {s : State} {f} : (s.modChip f).mem = s.mem := rfl
@[simp] theorem State_modChip_host {s : State} {f} : (s.modChip f).host = s.host := rfl
@[simp] theorem State_modChip_logs {s : State} {f} : (s.modChip f).logs = s.logs := rfl
@[simp] theorem State_modChip_chip {s : State} {f} : (s.modChip f).chip = f s.chip := rfl
@[simp] theorem State_modChip_ctl {s : State} {f} : (s.modChip f).ctl = s.ctl := rfl
@[simp] theorem State_modChip_flash {s : State} {f} : (s.modChip f).flash = s.flash := rfl
@[simp] theorem State_modChip_time {s : State} {f} : (s.modChip f).time = s.time := rfl
@[simp] theorem State_modChip_twin {s : State} {f} : (s.modChip f).twin = s.twin := rfl
@[simp] theorem State_modChip_peals {s : State} {f} : (s.modChip f).peals = s.peals := rfl
@[simp] theorem State_modChip_spine {s : State} {f} : (s.modChip f).spine = s.spine := rfl
@[simp] theorem State_modChip_circ {s : State} {f} : (s.modChip f).circ = s.circ := rfl
@[simp] theorem State_modChip_chans {s : State} {f} : (s.modChip f).chans = s.chans := rfl
@[simp] theorem State_modChip_free {s : State} {f} : (s.modChip f).free = s.free := rfl
@[simp] theorem State_modChip_pending {s : State} {f} : (s.modChip f).pending = s.pending := rfl
@[simp] theorem State_modLogs_lanes {s : State} {f} : (s.modLogs f).lanes = s.lanes := rfl
@[simp] theorem State_modLogs_ports {s : State} {f} : (s.modLogs f).ports = s.ports := rfl
@[simp] theorem State_modLogs_blocks {s : State} {f} : (s.modLogs f).blocks = s.blocks := rfl
@[simp] theorem State_modLogs_sched {s : State} {f} : (s.modLogs f).sched = s.sched := rfl
@[simp] theorem State_modLogs_fabric {s : State} {f} : (s.modLogs f).fabric = s.fabric := rfl
@[simp] theorem State_modLogs_lasts {s : State} {f} : (s.modLogs f).lasts = s.lasts := rfl
@[simp] theorem State_modLogs_mem {s : State} {f} : (s.modLogs f).mem = s.mem := rfl
@[simp] theorem State_modLogs_host {s : State} {f} : (s.modLogs f).host = s.host := rfl
@[simp] theorem State_modLogs_logs {s : State} {f} : (s.modLogs f).logs = f s.logs := rfl
@[simp] theorem State_modLogs_chip {s : State} {f} : (s.modLogs f).chip = s.chip := rfl
@[simp] theorem State_modLogs_ctl {s : State} {f} : (s.modLogs f).ctl = s.ctl := rfl
@[simp] theorem State_modLogs_flash {s : State} {f} : (s.modLogs f).flash = s.flash := rfl
@[simp] theorem State_modLogs_time {s : State} {f} : (s.modLogs f).time = s.time := rfl
@[simp] theorem State_modLogs_twin {s : State} {f} : (s.modLogs f).twin = s.twin := rfl
@[simp] theorem State_modLogs_peals {s : State} {f} : (s.modLogs f).peals = s.peals := rfl
@[simp] theorem State_modLogs_spine {s : State} {f} : (s.modLogs f).spine = s.spine := rfl
@[simp] theorem State_modLogs_circ {s : State} {f} : (s.modLogs f).circ = s.circ := rfl
@[simp] theorem State_modLogs_chans {s : State} {f} : (s.modLogs f).chans = s.chans := rfl
@[simp] theorem State_modLogs_free {s : State} {f} : (s.modLogs f).free = s.free := rfl
@[simp] theorem State_modLogs_pending {s : State} {f} : (s.modLogs f).pending = s.pending := rfl
@[simp] theorem State_modHost_lanes {s : State} {f} : (s.modHost f).lanes = s.lanes := rfl
@[simp] theorem State_modHost_ports {s : State} {f} : (s.modHost f).ports = s.ports := rfl
@[simp] theorem State_modHost_blocks {s : State} {f} : (s.modHost f).blocks = s.blocks := rfl
@[simp] theorem State_modHost_sched {s : State} {f} : (s.modHost f).sched = s.sched := rfl
@[simp] theorem State_modHost_fabric {s : State} {f} : (s.modHost f).fabric = s.fabric := rfl
@[simp] theorem State_modHost_lasts {s : State} {f} : (s.modHost f).lasts = s.lasts := rfl
@[simp] theorem State_modHost_mem {s : State} {f} : (s.modHost f).mem = s.mem := rfl
@[simp] theorem State_modHost_host {s : State} {f} : (s.modHost f).host = f s.host := rfl
@[simp] theorem State_modHost_logs {s : State} {f} : (s.modHost f).logs = s.logs := rfl
@[simp] theorem State_modHost_chip {s : State} {f} : (s.modHost f).chip = s.chip := rfl
@[simp] theorem State_modHost_ctl {s : State} {f} : (s.modHost f).ctl = s.ctl := rfl
@[simp] theorem State_modHost_flash {s : State} {f} : (s.modHost f).flash = s.flash := rfl
@[simp] theorem State_modHost_time {s : State} {f} : (s.modHost f).time = s.time := rfl
@[simp] theorem State_modHost_twin {s : State} {f} : (s.modHost f).twin = s.twin := rfl
@[simp] theorem State_modHost_peals {s : State} {f} : (s.modHost f).peals = s.peals := rfl
@[simp] theorem State_modHost_spine {s : State} {f} : (s.modHost f).spine = s.spine := rfl
@[simp] theorem State_modHost_circ {s : State} {f} : (s.modHost f).circ = s.circ := rfl
@[simp] theorem State_modHost_chans {s : State} {f} : (s.modHost f).chans = s.chans := rfl
@[simp] theorem State_modHost_free {s : State} {f} : (s.modHost f).free = s.free := rfl
@[simp] theorem State_modHost_pending {s : State} {f} : (s.modHost f).pending = s.pending := rfl
@[simp] theorem State_modMem_lanes {s : State} {f} : (s.modMem f).lanes = s.lanes := rfl
@[simp] theorem State_modMem_ports {s : State} {f} : (s.modMem f).ports = s.ports := rfl
@[simp] theorem State_modMem_blocks {s : State} {f} : (s.modMem f).blocks = s.blocks := rfl
@[simp] theorem State_modMem_sched {s : State} {f} : (s.modMem f).sched = s.sched := rfl
@[simp] theorem State_modMem_fabric {s : State} {f} : (s.modMem f).fabric = s.fabric := rfl
@[simp] theorem State_modMem_lasts {s : State} {f} : (s.modMem f).lasts = s.lasts := rfl
@[simp] theorem State_modMem_mem {s : State} {f} : (s.modMem f).mem = f s.mem := rfl
@[simp] theorem State_modMem_host {s : State} {f} : (s.modMem f).host = s.host := rfl
@[simp] theorem State_modMem_logs {s : State} {f} : (s.modMem f).logs = s.logs := rfl
@[simp] theorem State_modMem_chip {s : State} {f} : (s.modMem f).chip = s.chip := rfl
@[simp] theorem State_modMem_ctl {s : State} {f} : (s.modMem f).ctl = s.ctl := rfl
@[simp] theorem State_modMem_flash {s : State} {f} : (s.modMem f).flash = s.flash := rfl
@[simp] theorem State_modMem_time {s : State} {f} : (s.modMem f).time = s.time := rfl
@[simp] theorem State_modMem_twin {s : State} {f} : (s.modMem f).twin = s.twin := rfl
@[simp] theorem State_modMem_peals {s : State} {f} : (s.modMem f).peals = s.peals := rfl
@[simp] theorem State_modMem_spine {s : State} {f} : (s.modMem f).spine = s.spine := rfl
@[simp] theorem State_modMem_circ {s : State} {f} : (s.modMem f).circ = s.circ := rfl
@[simp] theorem State_modMem_chans {s : State} {f} : (s.modMem f).chans = s.chans := rfl
@[simp] theorem State_modMem_free {s : State} {f} : (s.modMem f).free = s.free := rfl
@[simp] theorem State_modMem_pending {s : State} {f} : (s.modMem f).pending = s.pending := rfl
@[simp] theorem State_modFabric_lanes {s : State} {f} : (s.modFabric f).lanes = s.lanes := rfl
@[simp] theorem State_modFabric_ports {s : State} {f} : (s.modFabric f).ports = s.ports := rfl
@[simp] theorem State_modFabric_blocks {s : State} {f} : (s.modFabric f).blocks = s.blocks := rfl
@[simp] theorem State_modFabric_sched {s : State} {f} : (s.modFabric f).sched = s.sched := rfl
@[simp] theorem State_modFabric_fabric {s : State} {f} : (s.modFabric f).fabric = f s.fabric := rfl
@[simp] theorem State_modFabric_lasts {s : State} {f} : (s.modFabric f).lasts = s.lasts := rfl
@[simp] theorem State_modFabric_mem {s : State} {f} : (s.modFabric f).mem = s.mem := rfl
@[simp] theorem State_modFabric_host {s : State} {f} : (s.modFabric f).host = s.host := rfl
@[simp] theorem State_modFabric_logs {s : State} {f} : (s.modFabric f).logs = s.logs := rfl
@[simp] theorem State_modFabric_chip {s : State} {f} : (s.modFabric f).chip = s.chip := rfl
@[simp] theorem State_modFabric_ctl {s : State} {f} : (s.modFabric f).ctl = s.ctl := rfl
@[simp] theorem State_modFabric_flash {s : State} {f} : (s.modFabric f).flash = s.flash := rfl
@[simp] theorem State_modFabric_time {s : State} {f} : (s.modFabric f).time = s.time := rfl
@[simp] theorem State_modFabric_twin {s : State} {f} : (s.modFabric f).twin = s.twin := rfl
@[simp] theorem State_modFabric_peals {s : State} {f} : (s.modFabric f).peals = s.peals := rfl
@[simp] theorem State_modFabric_spine {s : State} {f} : (s.modFabric f).spine = s.spine := rfl
@[simp] theorem State_modFabric_circ {s : State} {f} : (s.modFabric f).circ = s.circ := rfl
@[simp] theorem State_modFabric_chans {s : State} {f} : (s.modFabric f).chans = s.chans := rfl
@[simp] theorem State_modFabric_free {s : State} {f} : (s.modFabric f).free = s.free := rfl
@[simp] theorem State_modFabric_pending {s : State} {f} : (s.modFabric f).pending = s.pending := rfl
@[simp] theorem State_modTwin_lanes {s : State} {f} : (s.modTwin f).lanes = s.lanes := rfl
@[simp] theorem State_modTwin_ports {s : State} {f} : (s.modTwin f).ports = s.ports := rfl
@[simp] theorem State_modTwin_blocks {s : State} {f} : (s.modTwin f).blocks = s.blocks := rfl
@[simp] theorem State_modTwin_sched {s : State} {f} : (s.modTwin f).sched = s.sched := rfl
@[simp] theorem State_modTwin_fabric {s : State} {f} : (s.modTwin f).fabric = s.fabric := rfl
@[simp] theorem State_modTwin_lasts {s : State} {f} : (s.modTwin f).lasts = s.lasts := rfl
@[simp] theorem State_modTwin_mem {s : State} {f} : (s.modTwin f).mem = s.mem := rfl
@[simp] theorem State_modTwin_host {s : State} {f} : (s.modTwin f).host = s.host := rfl
@[simp] theorem State_modTwin_logs {s : State} {f} : (s.modTwin f).logs = s.logs := rfl
@[simp] theorem State_modTwin_chip {s : State} {f} : (s.modTwin f).chip = s.chip := rfl
@[simp] theorem State_modTwin_ctl {s : State} {f} : (s.modTwin f).ctl = s.ctl := rfl
@[simp] theorem State_modTwin_flash {s : State} {f} : (s.modTwin f).flash = s.flash := rfl
@[simp] theorem State_modTwin_time {s : State} {f} : (s.modTwin f).time = s.time := rfl
@[simp] theorem State_modTwin_twin {s : State} {f} : (s.modTwin f).twin = f s.twin := rfl
@[simp] theorem State_modTwin_peals {s : State} {f} : (s.modTwin f).peals = s.peals := rfl
@[simp] theorem State_modTwin_spine {s : State} {f} : (s.modTwin f).spine = s.spine := rfl
@[simp] theorem State_modTwin_circ {s : State} {f} : (s.modTwin f).circ = s.circ := rfl
@[simp] theorem State_modTwin_chans {s : State} {f} : (s.modTwin f).chans = s.chans := rfl
@[simp] theorem State_modTwin_free {s : State} {f} : (s.modTwin f).free = s.free := rfl
@[simp] theorem State_modTwin_pending {s : State} {f} : (s.modTwin f).pending = s.pending := rfl
@[simp] theorem State_modCtl_lanes {s : State} {f} : (s.modCtl f).lanes = s.lanes := rfl
@[simp] theorem State_modCtl_ports {s : State} {f} : (s.modCtl f).ports = s.ports := rfl
@[simp] theorem State_modCtl_blocks {s : State} {f} : (s.modCtl f).blocks = s.blocks := rfl
@[simp] theorem State_modCtl_sched {s : State} {f} : (s.modCtl f).sched = s.sched := rfl
@[simp] theorem State_modCtl_fabric {s : State} {f} : (s.modCtl f).fabric = s.fabric := rfl
@[simp] theorem State_modCtl_lasts {s : State} {f} : (s.modCtl f).lasts = s.lasts := rfl
@[simp] theorem State_modCtl_mem {s : State} {f} : (s.modCtl f).mem = s.mem := rfl
@[simp] theorem State_modCtl_host {s : State} {f} : (s.modCtl f).host = s.host := rfl
@[simp] theorem State_modCtl_logs {s : State} {f} : (s.modCtl f).logs = s.logs := rfl
@[simp] theorem State_modCtl_chip {s : State} {f} : (s.modCtl f).chip = s.chip := rfl
@[simp] theorem State_modCtl_ctl {s : State} {f} : (s.modCtl f).ctl = f s.ctl := rfl
@[simp] theorem State_modCtl_flash {s : State} {f} : (s.modCtl f).flash = s.flash := rfl
@[simp] theorem State_modCtl_time {s : State} {f} : (s.modCtl f).time = s.time := rfl
@[simp] theorem State_modCtl_twin {s : State} {f} : (s.modCtl f).twin = s.twin := rfl
@[simp] theorem State_modCtl_peals {s : State} {f} : (s.modCtl f).peals = s.peals := rfl
@[simp] theorem State_modCtl_spine {s : State} {f} : (s.modCtl f).spine = s.spine := rfl
@[simp] theorem State_modCtl_circ {s : State} {f} : (s.modCtl f).circ = s.circ := rfl
@[simp] theorem State_modCtl_chans {s : State} {f} : (s.modCtl f).chans = s.chans := rfl
@[simp] theorem State_modCtl_free {s : State} {f} : (s.modCtl f).free = s.free := rfl
@[simp] theorem State_modCtl_pending {s : State} {f} : (s.modCtl f).pending = s.pending := rfl
@[simp] theorem State_modTime_lanes {s : State} {f} : (s.modTime f).lanes = s.lanes := rfl
@[simp] theorem State_modTime_ports {s : State} {f} : (s.modTime f).ports = s.ports := rfl
@[simp] theorem State_modTime_blocks {s : State} {f} : (s.modTime f).blocks = s.blocks := rfl
@[simp] theorem State_modTime_sched {s : State} {f} : (s.modTime f).sched = s.sched := rfl
@[simp] theorem State_modTime_fabric {s : State} {f} : (s.modTime f).fabric = s.fabric := rfl
@[simp] theorem State_modTime_lasts {s : State} {f} : (s.modTime f).lasts = s.lasts := rfl
@[simp] theorem State_modTime_mem {s : State} {f} : (s.modTime f).mem = s.mem := rfl
@[simp] theorem State_modTime_host {s : State} {f} : (s.modTime f).host = s.host := rfl
@[simp] theorem State_modTime_logs {s : State} {f} : (s.modTime f).logs = s.logs := rfl
@[simp] theorem State_modTime_chip {s : State} {f} : (s.modTime f).chip = s.chip := rfl
@[simp] theorem State_modTime_ctl {s : State} {f} : (s.modTime f).ctl = s.ctl := rfl
@[simp] theorem State_modTime_flash {s : State} {f} : (s.modTime f).flash = s.flash := rfl
@[simp] theorem State_modTime_time {s : State} {f} : (s.modTime f).time = f s.time := rfl
@[simp] theorem State_modTime_twin {s : State} {f} : (s.modTime f).twin = s.twin := rfl
@[simp] theorem State_modTime_peals {s : State} {f} : (s.modTime f).peals = s.peals := rfl
@[simp] theorem State_modTime_spine {s : State} {f} : (s.modTime f).spine = s.spine := rfl
@[simp] theorem State_modTime_circ {s : State} {f} : (s.modTime f).circ = s.circ := rfl
@[simp] theorem State_modTime_chans {s : State} {f} : (s.modTime f).chans = s.chans := rfl
@[simp] theorem State_modTime_free {s : State} {f} : (s.modTime f).free = s.free := rfl
@[simp] theorem State_modTime_pending {s : State} {f} : (s.modTime f).pending = s.pending := rfl
@[simp] theorem State_draw_lanes {s : State} : (s.draw).lanes = s.lanes := rfl
@[simp] theorem State_draw_ports {s : State} : (s.draw).ports = s.ports := rfl
@[simp] theorem State_draw_blocks {s : State} : (s.draw).blocks = s.blocks := rfl
@[simp] theorem State_draw_sched {s : State} : (s.draw).sched = s.sched := rfl
@[simp] theorem State_draw_fabric {s : State} : (s.draw).fabric = s.fabric := rfl
@[simp] theorem State_draw_lasts {s : State} : (s.draw).lasts = s.lasts := rfl
@[simp] theorem State_draw_mem {s : State} : (s.draw).mem = s.mem := rfl
@[simp] theorem State_draw_host {s : State} : (s.draw).host = s.host := rfl
@[simp] theorem State_draw_logs {s : State} : (s.draw).logs = s.logs := rfl
@[simp] theorem State_draw_chip {s : State} : (s.draw).chip = s.chip := rfl
@[simp] theorem State_draw_ctl {s : State} : (s.draw).ctl = s.ctl := rfl
@[simp] theorem State_draw_flash {s : State} : (s.draw).flash = s.flash := rfl
@[simp] theorem State_draw_time {s : State} : (s.draw).time = s.time := rfl
@[simp] theorem State_draw_twin {s : State} : (s.draw).twin = s.twin := rfl
@[simp] theorem State_draw_peals {s : State} : (s.draw).peals = s.peals := rfl
@[simp] theorem State_draw_spine {s : State} : (s.draw).spine = s.spine := rfl
@[simp] theorem State_draw_circ {s : State} : (s.draw).circ = s.circ := rfl
@[simp] theorem State_draw_chans {s : State} : (s.draw).chans = s.chans := rfl
@[simp] theorem State_draw_free {s : State} : (s.draw).free = s.free + 1 := rfl
@[simp] theorem State_draw_pending {s : State} : (s.draw).pending = s.pending := rfl
@[simp] theorem State_modLedger_lanes {s : State} {n} {f} : (s.modLedger n f).lanes = s.lanes := rfl
@[simp] theorem State_modLedger_ports {s : State} {n} {f} : (s.modLedger n f).ports = s.ports := rfl
@[simp] theorem State_modLedger_blocks {s : State} {n} {f} : (s.modLedger n f).blocks = s.blocks := rfl
@[simp] theorem State_modLedger_sched {s : State} {n} {f} : (s.modLedger n f).sched = s.sched := rfl
@[simp] theorem State_modLedger_fabric {s : State} {n} {f} : (s.modLedger n f).fabric = s.fabric := rfl
@[simp] theorem State_modLedger_lasts {s : State} {n} {f} : (s.modLedger n f).lasts = s.lasts := rfl
@[simp] theorem State_modLedger_mem {s : State} {n} {f} : (s.modLedger n f).mem = s.mem := rfl
@[simp] theorem State_modLedger_host {s : State} {n} {f} : (s.modLedger n f).host = s.host := rfl
@[simp] theorem State_modLedger_chip {s : State} {n} {f} : (s.modLedger n f).chip = s.chip := rfl
@[simp] theorem State_modLedger_ctl {s : State} {n} {f} : (s.modLedger n f).ctl = s.ctl := rfl
@[simp] theorem State_modLedger_flash {s : State} {n} {f} : (s.modLedger n f).flash = s.flash := rfl
@[simp] theorem State_modLedger_time {s : State} {n} {f} : (s.modLedger n f).time = s.time := rfl
@[simp] theorem State_modLedger_twin {s : State} {n} {f} : (s.modLedger n f).twin = s.twin := rfl
@[simp] theorem State_modLedger_peals {s : State} {n} {f} : (s.modLedger n f).peals = s.peals := rfl
@[simp] theorem State_modLedger_spine {s : State} {n} {f} : (s.modLedger n f).spine = s.spine := rfl
@[simp] theorem State_modLedger_circ {s : State} {n} {f} : (s.modLedger n f).circ = s.circ := rfl
@[simp] theorem State_modLedger_chans {s : State} {n} {f} : (s.modLedger n f).chans = s.chans := rfl
@[simp] theorem State_modLedger_free {s : State} {n} {f} : (s.modLedger n f).free = s.free := rfl
@[simp] theorem State_modLedger_pending {s : State} {n} {f} : (s.modLedger n f).pending = s.pending := rfl
@[simp] theorem ledgerAdd_lanes {s : State} {n} {m} {b} : (ledgerAdd n m b s).lanes = s.lanes := rfl
@[simp] theorem ledgerAdd_ports {s : State} {n} {m} {b} : (ledgerAdd n m b s).ports = s.ports := rfl
@[simp] theorem ledgerAdd_blocks {s : State} {n} {m} {b} : (ledgerAdd n m b s).blocks = s.blocks := rfl
@[simp] theorem ledgerAdd_sched {s : State} {n} {m} {b} : (ledgerAdd n m b s).sched = s.sched := rfl
@[simp] theorem ledgerAdd_fabric {s : State} {n} {m} {b} : (ledgerAdd n m b s).fabric = s.fabric := rfl
@[simp] theorem ledgerAdd_lasts {s : State} {n} {m} {b} : (ledgerAdd n m b s).lasts = s.lasts := rfl
@[simp] theorem ledgerAdd_mem {s : State} {n} {m} {b} : (ledgerAdd n m b s).mem = s.mem := rfl
@[simp] theorem ledgerAdd_host {s : State} {n} {m} {b} : (ledgerAdd n m b s).host = s.host := rfl
@[simp] theorem ledgerAdd_chip {s : State} {n} {m} {b} : (ledgerAdd n m b s).chip = s.chip := rfl
@[simp] theorem ledgerAdd_ctl {s : State} {n} {m} {b} : (ledgerAdd n m b s).ctl = s.ctl := rfl
@[simp] theorem ledgerAdd_flash {s : State} {n} {m} {b} : (ledgerAdd n m b s).flash = s.flash := rfl
@[simp] theorem ledgerAdd_time {s : State} {n} {m} {b} : (ledgerAdd n m b s).time = s.time := rfl
@[simp] theorem ledgerAdd_twin {s : State} {n} {m} {b} : (ledgerAdd n m b s).twin = s.twin := rfl
@[simp] theorem ledgerAdd_peals {s : State} {n} {m} {b} : (ledgerAdd n m b s).peals = s.peals := rfl
@[simp] theorem ledgerAdd_spine {s : State} {n} {m} {b} : (ledgerAdd n m b s).spine = s.spine := rfl
@[simp] theorem ledgerAdd_circ {s : State} {n} {m} {b} : (ledgerAdd n m b s).circ = s.circ := rfl
@[simp] theorem ledgerAdd_chans {s : State} {n} {m} {b} : (ledgerAdd n m b s).chans = s.chans := rfl
@[simp] theorem ledgerAdd_free {s : State} {n} {m} {b} : (ledgerAdd n m b s).free = s.free := rfl
@[simp] theorem ledgerAdd_pending {s : State} {n} {m} {b} : (ledgerAdd n m b s).pending = s.pending := rfl
@[simp] theorem State_hostWrite_lanes {s : State} {a} {b} : (s.hostWrite a b).lanes = s.lanes := rfl
@[simp] theorem State_hostWrite_ports {s : State} {a} {b} : (s.hostWrite a b).ports = s.ports := rfl
@[simp] theorem State_hostWrite_blocks {s : State} {a} {b} : (s.hostWrite a b).blocks = s.blocks := rfl
@[simp] theorem State_hostWrite_sched {s : State} {a} {b} : (s.hostWrite a b).sched = s.sched := rfl
@[simp] theorem State_hostWrite_fabric {s : State} {a} {b} : (s.hostWrite a b).fabric = s.fabric := rfl
@[simp] theorem State_hostWrite_lasts {s : State} {a} {b} : (s.hostWrite a b).lasts = s.lasts := rfl
@[simp] theorem State_hostWrite_host {s : State} {a} {b} : (s.hostWrite a b).host = s.host := rfl
@[simp] theorem State_hostWrite_logs {s : State} {a} {b} : (s.hostWrite a b).logs = s.logs := rfl
@[simp] theorem State_hostWrite_chip {s : State} {a} {b} : (s.hostWrite a b).chip = s.chip := rfl
@[simp] theorem State_hostWrite_ctl {s : State} {a} {b} : (s.hostWrite a b).ctl = s.ctl := rfl
@[simp] theorem State_hostWrite_flash {s : State} {a} {b} : (s.hostWrite a b).flash = s.flash := rfl
@[simp] theorem State_hostWrite_time {s : State} {a} {b} : (s.hostWrite a b).time = s.time := rfl
@[simp] theorem State_hostWrite_twin {s : State} {a} {b} : (s.hostWrite a b).twin = s.twin := rfl
@[simp] theorem State_hostWrite_peals {s : State} {a} {b} : (s.hostWrite a b).peals = s.peals := rfl
@[simp] theorem State_hostWrite_spine {s : State} {a} {b} : (s.hostWrite a b).spine = s.spine := rfl
@[simp] theorem State_hostWrite_circ {s : State} {a} {b} : (s.hostWrite a b).circ = s.circ := rfl
@[simp] theorem State_hostWrite_chans {s : State} {a} {b} : (s.hostWrite a b).chans = s.chans := rfl
@[simp] theorem State_hostWrite_free {s : State} {a} {b} : (s.hostWrite a b).free = s.free := rfl
@[simp] theorem State_hostWrite_pending {s : State} {a} {b} : (s.hostWrite a b).pending = s.pending := rfl
@[simp] theorem State_tblPut_lanes {s : State} {a} {b} : (s.tblPut a b).lanes = s.lanes := rfl
@[simp] theorem State_tblPut_ports {s : State} {a} {b} : (s.tblPut a b).ports = s.ports := rfl
@[simp] theorem State_tblPut_blocks {s : State} {a} {b} : (s.tblPut a b).blocks = s.blocks := rfl
@[simp] theorem State_tblPut_sched {s : State} {a} {b} : (s.tblPut a b).sched = s.sched := rfl
@[simp] theorem State_tblPut_fabric {s : State} {a} {b} : (s.tblPut a b).fabric = s.fabric := rfl
@[simp] theorem State_tblPut_lasts {s : State} {a} {b} : (s.tblPut a b).lasts = s.lasts := rfl
@[simp] theorem State_tblPut_host {s : State} {a} {b} : (s.tblPut a b).host = s.host := rfl
@[simp] theorem State_tblPut_logs {s : State} {a} {b} : (s.tblPut a b).logs = s.logs := rfl
@[simp] theorem State_tblPut_chip {s : State} {a} {b} : (s.tblPut a b).chip = s.chip := rfl
@[simp] theorem State_tblPut_ctl {s : State} {a} {b} : (s.tblPut a b).ctl = s.ctl := rfl
@[simp] theorem State_tblPut_flash {s : State} {a} {b} : (s.tblPut a b).flash = s.flash := rfl
@[simp] theorem State_tblPut_time {s : State} {a} {b} : (s.tblPut a b).time = s.time := rfl
@[simp] theorem State_tblPut_twin {s : State} {a} {b} : (s.tblPut a b).twin = s.twin := rfl
@[simp] theorem State_tblPut_peals {s : State} {a} {b} : (s.tblPut a b).peals = s.peals := rfl
@[simp] theorem State_tblPut_spine {s : State} {a} {b} : (s.tblPut a b).spine = s.spine := rfl
@[simp] theorem State_tblPut_circ {s : State} {a} {b} : (s.tblPut a b).circ = s.circ := rfl
@[simp] theorem State_tblPut_chans {s : State} {a} {b} : (s.tblPut a b).chans = s.chans := rfl
@[simp] theorem State_tblPut_free {s : State} {a} {b} : (s.tblPut a b).free = s.free := rfl
@[simp] theorem State_tblPut_pending {s : State} {a} {b} : (s.tblPut a b).pending = s.pending := rfl
@[simp] theorem State_modChan_lanes {s : State} {n} {f} : (s.modChan n f).lanes = s.lanes := rfl
@[simp] theorem State_modChan_ports {s : State} {n} {f} : (s.modChan n f).ports = s.ports := rfl
@[simp] theorem State_modChan_blocks {s : State} {n} {f} : (s.modChan n f).blocks = s.blocks := rfl
@[simp] theorem State_modChan_sched {s : State} {n} {f} : (s.modChan n f).sched = s.sched := rfl
@[simp] theorem State_modChan_fabric {s : State} {n} {f} : (s.modChan n f).fabric = s.fabric := rfl
@[simp] theorem State_modChan_lasts {s : State} {n} {f} : (s.modChan n f).lasts = s.lasts := rfl
@[simp] theorem State_modChan_mem {s : State} {n} {f} : (s.modChan n f).mem = s.mem := rfl
@[simp] theorem State_modChan_host {s : State} {n} {f} : (s.modChan n f).host = s.host := rfl
@[simp] theorem State_modChan_logs {s : State} {n} {f} : (s.modChan n f).logs = s.logs := rfl
@[simp] theorem State_modChan_chip {s : State} {n} {f} : (s.modChan n f).chip = s.chip := rfl
@[simp] theorem State_modChan_ctl {s : State} {n} {f} : (s.modChan n f).ctl = s.ctl := rfl
@[simp] theorem State_modChan_flash {s : State} {n} {f} : (s.modChan n f).flash = s.flash := rfl
@[simp] theorem State_modChan_time {s : State} {n} {f} : (s.modChan n f).time = s.time := rfl
@[simp] theorem State_modChan_twin {s : State} {n} {f} : (s.modChan n f).twin = s.twin := rfl
@[simp] theorem State_modChan_peals {s : State} {n} {f} : (s.modChan n f).peals = s.peals := rfl
@[simp] theorem State_modChan_spine {s : State} {n} {f} : (s.modChan n f).spine = s.spine := rfl
@[simp] theorem State_modChan_circ {s : State} {n} {f} : (s.modChan n f).circ = s.circ := rfl
@[simp] theorem State_modChan_chans {s : State} {n} {f} : (s.modChan n f).chans = s.chans.upd n {} f := rfl
@[simp] theorem State_modChan_free {s : State} {n} {f} : (s.modChan n f).free = s.free := rfl
@[simp] theorem State_modChan_pending {s : State} {n} {f} : (s.modChan n f).pending = s.pending := rfl
@[simp] theorem State_modPeal_lanes {s : State} {n} {f} : (s.modPeal n f).lanes = s.lanes := rfl
@[simp] theorem State_modPeal_ports {s : State} {n} {f} : (s.modPeal n f).ports = s.ports := rfl
@[simp] theorem State_modPeal_blocks {s : State} {n} {f} : (s.modPeal n f).blocks = s.blocks := rfl
@[simp] theorem State_modPeal_sched {s : State} {n} {f} : (s.modPeal n f).sched = s.sched := rfl
@[simp] theorem State_modPeal_fabric {s : State} {n} {f} : (s.modPeal n f).fabric = s.fabric := rfl
@[simp] theorem State_modPeal_lasts {s : State} {n} {f} : (s.modPeal n f).lasts = s.lasts := rfl
@[simp] theorem State_modPeal_mem {s : State} {n} {f} : (s.modPeal n f).mem = s.mem := rfl
@[simp] theorem State_modPeal_host {s : State} {n} {f} : (s.modPeal n f).host = s.host := rfl
@[simp] theorem State_modPeal_logs {s : State} {n} {f} : (s.modPeal n f).logs = s.logs := rfl
@[simp] theorem State_modPeal_chip {s : State} {n} {f} : (s.modPeal n f).chip = s.chip := rfl
@[simp] theorem State_modPeal_ctl {s : State} {n} {f} : (s.modPeal n f).ctl = s.ctl := rfl
@[simp] theorem State_modPeal_flash {s : State} {n} {f} : (s.modPeal n f).flash = s.flash := rfl
@[simp] theorem State_modPeal_time {s : State} {n} {f} : (s.modPeal n f).time = s.time := rfl
@[simp] theorem State_modPeal_twin {s : State} {n} {f} : (s.modPeal n f).twin = s.twin := rfl
@[simp] theorem State_modPeal_peals {s : State} {n} {f} : (s.modPeal n f).peals = s.peals.mod n f := rfl
@[simp] theorem State_modPeal_spine {s : State} {n} {f} : (s.modPeal n f).spine = s.spine := rfl
@[simp] theorem State_modPeal_circ {s : State} {n} {f} : (s.modPeal n f).circ = s.circ := rfl
@[simp] theorem State_modPeal_chans {s : State} {n} {f} : (s.modPeal n f).chans = s.chans := rfl
@[simp] theorem State_modPeal_free {s : State} {n} {f} : (s.modPeal n f).free = s.free := rfl
@[simp] theorem State_modPeal_pending {s : State} {n} {f} : (s.modPeal n f).pending = s.pending := rfl
@[simp] theorem State_modSpine_lanes {s : State} {f} : (s.modSpine f).lanes = s.lanes := rfl
@[simp] theorem State_modSpine_ports {s : State} {f} : (s.modSpine f).ports = s.ports := rfl
@[simp] theorem State_modSpine_blocks {s : State} {f} : (s.modSpine f).blocks = s.blocks := rfl
@[simp] theorem State_modSpine_sched {s : State} {f} : (s.modSpine f).sched = s.sched := rfl
@[simp] theorem State_modSpine_fabric {s : State} {f} : (s.modSpine f).fabric = s.fabric := rfl
@[simp] theorem State_modSpine_lasts {s : State} {f} : (s.modSpine f).lasts = s.lasts := rfl
@[simp] theorem State_modSpine_mem {s : State} {f} : (s.modSpine f).mem = s.mem := rfl
@[simp] theorem State_modSpine_host {s : State} {f} : (s.modSpine f).host = s.host := rfl
@[simp] theorem State_modSpine_logs {s : State} {f} : (s.modSpine f).logs = s.logs := rfl
@[simp] theorem State_modSpine_chip {s : State} {f} : (s.modSpine f).chip = s.chip := rfl
@[simp] theorem State_modSpine_ctl {s : State} {f} : (s.modSpine f).ctl = s.ctl := rfl
@[simp] theorem State_modSpine_flash {s : State} {f} : (s.modSpine f).flash = s.flash := rfl
@[simp] theorem State_modSpine_time {s : State} {f} : (s.modSpine f).time = s.time := rfl
@[simp] theorem State_modSpine_twin {s : State} {f} : (s.modSpine f).twin = s.twin := rfl
@[simp] theorem State_modSpine_peals {s : State} {f} : (s.modSpine f).peals = s.peals := rfl
@[simp] theorem State_modSpine_spine {s : State} {f} : (s.modSpine f).spine = f s.spine := rfl
@[simp] theorem State_modSpine_circ {s : State} {f} : (s.modSpine f).circ = s.circ := rfl
@[simp] theorem State_modSpine_chans {s : State} {f} : (s.modSpine f).chans = s.chans := rfl
@[simp] theorem State_modSpine_free {s : State} {f} : (s.modSpine f).free = s.free := rfl
@[simp] theorem State_modSpine_pending {s : State} {f} : (s.modSpine f).pending = s.pending := rfl
@[simp] theorem State_modShard_lanes {s : State} {n} {f} : (s.modShard n f).lanes = s.lanes := rfl
@[simp] theorem State_modShard_ports {s : State} {n} {f} : (s.modShard n f).ports = s.ports := rfl
@[simp] theorem State_modShard_blocks {s : State} {n} {f} : (s.modShard n f).blocks = s.blocks := rfl
@[simp] theorem State_modShard_sched {s : State} {n} {f} : (s.modShard n f).sched = s.sched := rfl
@[simp] theorem State_modShard_fabric {s : State} {n} {f} : (s.modShard n f).fabric = s.fabric := rfl
@[simp] theorem State_modShard_lasts {s : State} {n} {f} : (s.modShard n f).lasts = s.lasts := rfl
@[simp] theorem State_modShard_mem {s : State} {n} {f} : (s.modShard n f).mem = s.mem := rfl
@[simp] theorem State_modShard_host {s : State} {n} {f} : (s.modShard n f).host = s.host := rfl
@[simp] theorem State_modShard_logs {s : State} {n} {f} : (s.modShard n f).logs = s.logs := rfl
@[simp] theorem State_modShard_chip {s : State} {n} {f} : (s.modShard n f).chip = s.chip := rfl
@[simp] theorem State_modShard_ctl {s : State} {n} {f} : (s.modShard n f).ctl = s.ctl := rfl
@[simp] theorem State_modShard_flash {s : State} {n} {f} : (s.modShard n f).flash = s.flash := rfl
@[simp] theorem State_modShard_time {s : State} {n} {f} : (s.modShard n f).time = s.time := rfl
@[simp] theorem State_modShard_twin {s : State} {n} {f} : (s.modShard n f).twin = s.twin := rfl
@[simp] theorem State_modShard_peals {s : State} {n} {f} : (s.modShard n f).peals = s.peals := rfl
@[simp] theorem State_modShard_circ {s : State} {n} {f} : (s.modShard n f).circ = s.circ := rfl
@[simp] theorem State_modShard_chans {s : State} {n} {f} : (s.modShard n f).chans = s.chans := rfl
@[simp] theorem State_modShard_free {s : State} {n} {f} : (s.modShard n f).free = s.free := rfl
@[simp] theorem State_modShard_pending {s : State} {n} {f} : (s.modShard n f).pending = s.pending := rfl
@[simp] theorem State_modCore_lanes {s : State} {n} {f} : (s.modCore n f).lanes = s.lanes := rfl
@[simp] theorem State_modCore_ports {s : State} {n} {f} : (s.modCore n f).ports = s.ports := rfl
@[simp] theorem State_modCore_blocks {s : State} {n} {f} : (s.modCore n f).blocks = s.blocks := rfl
@[simp] theorem State_modCore_sched {s : State} {n} {f} : (s.modCore n f).sched = s.sched := rfl
@[simp] theorem State_modCore_fabric {s : State} {n} {f} : (s.modCore n f).fabric = s.fabric := rfl
@[simp] theorem State_modCore_lasts {s : State} {n} {f} : (s.modCore n f).lasts = s.lasts := rfl
@[simp] theorem State_modCore_mem {s : State} {n} {f} : (s.modCore n f).mem = s.mem := rfl
@[simp] theorem State_modCore_host {s : State} {n} {f} : (s.modCore n f).host = s.host := rfl
@[simp] theorem State_modCore_logs {s : State} {n} {f} : (s.modCore n f).logs = s.logs := rfl
@[simp] theorem State_modCore_chip {s : State} {n} {f} : (s.modCore n f).chip = s.chip := rfl
@[simp] theorem State_modCore_ctl {s : State} {n} {f} : (s.modCore n f).ctl = s.ctl := rfl
@[simp] theorem State_modCore_flash {s : State} {n} {f} : (s.modCore n f).flash = s.flash := rfl
@[simp] theorem State_modCore_time {s : State} {n} {f} : (s.modCore n f).time = s.time := rfl
@[simp] theorem State_modCore_twin {s : State} {n} {f} : (s.modCore n f).twin = s.twin := rfl
@[simp] theorem State_modCore_peals {s : State} {n} {f} : (s.modCore n f).peals = s.peals := rfl
@[simp] theorem State_modCore_circ {s : State} {n} {f} : (s.modCore n f).circ = s.circ := rfl
@[simp] theorem State_modCore_chans {s : State} {n} {f} : (s.modCore n f).chans = s.chans := rfl
@[simp] theorem State_modCore_free {s : State} {n} {f} : (s.modCore n f).free = s.free := rfl
@[simp] theorem State_modCore_pending {s : State} {n} {f} : (s.modCore n f).pending = s.pending := rfl
@[simp] theorem State_modSched_lanes {s : State} {f} : (s.modSched f).lanes = s.lanes := rfl
@[simp] theorem State_modSched_ports {s : State} {f} : (s.modSched f).ports = s.ports := rfl
@[simp] theorem State_modSched_blocks {s : State} {f} : (s.modSched f).blocks = s.blocks := rfl
@[simp] theorem State_modSched_sched {s : State} {f} : (s.modSched f).sched = f s.sched := rfl
@[simp] theorem State_modSched_fabric {s : State} {f} : (s.modSched f).fabric = s.fabric := rfl
@[simp] theorem State_modSched_lasts {s : State} {f} : (s.modSched f).lasts = s.lasts := rfl
@[simp] theorem State_modSched_mem {s : State} {f} : (s.modSched f).mem = s.mem := rfl
@[simp] theorem State_modSched_host {s : State} {f} : (s.modSched f).host = s.host := rfl
@[simp] theorem State_modSched_logs {s : State} {f} : (s.modSched f).logs = s.logs := rfl
@[simp] theorem State_modSched_chip {s : State} {f} : (s.modSched f).chip = s.chip := rfl
@[simp] theorem State_modSched_ctl {s : State} {f} : (s.modSched f).ctl = s.ctl := rfl
@[simp] theorem State_modSched_flash {s : State} {f} : (s.modSched f).flash = s.flash := rfl
@[simp] theorem State_modSched_time {s : State} {f} : (s.modSched f).time = s.time := rfl
@[simp] theorem State_modSched_twin {s : State} {f} : (s.modSched f).twin = s.twin := rfl
@[simp] theorem State_modSched_peals {s : State} {f} : (s.modSched f).peals = s.peals := rfl
@[simp] theorem State_modSched_spine {s : State} {f} : (s.modSched f).spine = s.spine := rfl
@[simp] theorem State_modSched_circ {s : State} {f} : (s.modSched f).circ = s.circ := rfl
@[simp] theorem State_modSched_chans {s : State} {f} : (s.modSched f).chans = s.chans := rfl
@[simp] theorem State_modSched_free {s : State} {f} : (s.modSched f).free = s.free := rfl
@[simp] theorem State_modSched_pending {s : State} {f} : (s.modSched f).pending = s.pending := rfl
@[simp] theorem State_modCirc_lanes {s : State} {n} {f} : (s.modCirc n f).lanes = s.lanes := rfl
@[simp] theorem State_modCirc_ports {s : State} {n} {f} : (s.modCirc n f).ports = s.ports := rfl
@[simp] theorem State_modCirc_blocks {s : State} {n} {f} : (s.modCirc n f).blocks = s.blocks := rfl
@[simp] theorem State_modCirc_sched {s : State} {n} {f} : (s.modCirc n f).sched = s.sched := rfl
@[simp] theorem State_modCirc_fabric {s : State} {n} {f} : (s.modCirc n f).fabric = s.fabric := rfl
@[simp] theorem State_modCirc_lasts {s : State} {n} {f} : (s.modCirc n f).lasts = s.lasts := rfl
@[simp] theorem State_modCirc_mem {s : State} {n} {f} : (s.modCirc n f).mem = s.mem := rfl
@[simp] theorem State_modCirc_host {s : State} {n} {f} : (s.modCirc n f).host = s.host := rfl
@[simp] theorem State_modCirc_logs {s : State} {n} {f} : (s.modCirc n f).logs = s.logs := rfl
@[simp] theorem State_modCirc_chip {s : State} {n} {f} : (s.modCirc n f).chip = s.chip := rfl
@[simp] theorem State_modCirc_ctl {s : State} {n} {f} : (s.modCirc n f).ctl = s.ctl := rfl
@[simp] theorem State_modCirc_flash {s : State} {n} {f} : (s.modCirc n f).flash = s.flash := rfl
@[simp] theorem State_modCirc_time {s : State} {n} {f} : (s.modCirc n f).time = s.time := rfl
@[simp] theorem State_modCirc_twin {s : State} {n} {f} : (s.modCirc n f).twin = s.twin := rfl
@[simp] theorem State_modCirc_peals {s : State} {n} {f} : (s.modCirc n f).peals = s.peals := rfl
@[simp] theorem State_modCirc_spine {s : State} {n} {f} : (s.modCirc n f).spine = s.spine := rfl
@[simp] theorem State_modCirc_circ {s : State} {n} {f} : (s.modCirc n f).circ = s.circ.upd n {} f := rfl
@[simp] theorem State_modCirc_chans {s : State} {n} {f} : (s.modCirc n f).chans = s.chans := rfl
@[simp] theorem State_modCirc_free {s : State} {n} {f} : (s.modCirc n f).free = s.free := rfl
@[simp] theorem State_modCirc_pending {s : State} {n} {f} : (s.modCirc n f).pending = s.pending := rfl
@[simp] theorem State_modFlash_lanes {s : State} {f} : (s.modFlash f).lanes = s.lanes := rfl
@[simp] theorem State_modFlash_ports {s : State} {f} : (s.modFlash f).ports = s.ports := rfl
@[simp] theorem State_modFlash_blocks {s : State} {f} : (s.modFlash f).blocks = s.blocks := rfl
@[simp] theorem State_modFlash_sched {s : State} {f} : (s.modFlash f).sched = s.sched := rfl
@[simp] theorem State_modFlash_fabric {s : State} {f} : (s.modFlash f).fabric = s.fabric := rfl
@[simp] theorem State_modFlash_lasts {s : State} {f} : (s.modFlash f).lasts = s.lasts := rfl
@[simp] theorem State_modFlash_mem {s : State} {f} : (s.modFlash f).mem = s.mem := rfl
@[simp] theorem State_modFlash_host {s : State} {f} : (s.modFlash f).host = s.host := rfl
@[simp] theorem State_modFlash_logs {s : State} {f} : (s.modFlash f).logs = s.logs := rfl
@[simp] theorem State_modFlash_chip {s : State} {f} : (s.modFlash f).chip = s.chip := rfl
@[simp] theorem State_modFlash_ctl {s : State} {f} : (s.modFlash f).ctl = s.ctl := rfl
@[simp] theorem State_modFlash_flash {s : State} {f} : (s.modFlash f).flash = f s.flash := rfl
@[simp] theorem State_modFlash_time {s : State} {f} : (s.modFlash f).time = s.time := rfl
@[simp] theorem State_modFlash_twin {s : State} {f} : (s.modFlash f).twin = s.twin := rfl
@[simp] theorem State_modFlash_peals {s : State} {f} : (s.modFlash f).peals = s.peals := rfl
@[simp] theorem State_modFlash_spine {s : State} {f} : (s.modFlash f).spine = s.spine := rfl
@[simp] theorem State_modFlash_circ {s : State} {f} : (s.modFlash f).circ = s.circ := rfl
@[simp] theorem State_modFlash_chans {s : State} {f} : (s.modFlash f).chans = s.chans := rfl
@[simp] theorem State_modFlash_free {s : State} {f} : (s.modFlash f).free = s.free := rfl
@[simp] theorem State_modFlash_pending {s : State} {f} : (s.modFlash f).pending = s.pending := rfl
@[simp] theorem State_modChunk_lanes {s : State} {n} {m} {f} : (s.modChunk n m f).lanes = s.lanes := rfl
@[simp] theorem State_modChunk_ports {s : State} {n} {m} {f} : (s.modChunk n m f).ports = s.ports := rfl
@[simp] theorem State_modChunk_blocks {s : State} {n} {m} {f} : (s.modChunk n m f).blocks = s.blocks := rfl
@[simp] theorem State_modChunk_sched {s : State} {n} {m} {f} : (s.modChunk n m f).sched = s.sched := rfl
@[simp] theorem State_modChunk_fabric {s : State} {n} {m} {f} : (s.modChunk n m f).fabric = s.fabric := rfl
@[simp] theorem State_modChunk_lasts {s : State} {n} {m} {f} : (s.modChunk n m f).lasts = s.lasts := rfl
@[simp] theorem State_modChunk_mem {s : State} {n} {m} {f} : (s.modChunk n m f).mem = s.mem := rfl
@[simp] theorem State_modChunk_host {s : State} {n} {m} {f} : (s.modChunk n m f).host = s.host := rfl
@[simp] theorem State_modChunk_logs {s : State} {n} {m} {f} : (s.modChunk n m f).logs = s.logs := rfl
@[simp] theorem State_modChunk_chip {s : State} {n} {m} {f} : (s.modChunk n m f).chip = s.chip := rfl
@[simp] theorem State_modChunk_ctl {s : State} {n} {m} {f} : (s.modChunk n m f).ctl = s.ctl := rfl
@[simp] theorem State_modChunk_flash {s : State} {n} {m} {f} : (s.modChunk n m f).flash = s.flash := rfl
@[simp] theorem State_modChunk_time {s : State} {n} {m} {f} : (s.modChunk n m f).time = s.time := rfl
@[simp] theorem State_modChunk_twin {s : State} {n} {m} {f} : (s.modChunk n m f).twin = s.twin := rfl
@[simp] theorem State_modChunk_spine {s : State} {n} {m} {f} : (s.modChunk n m f).spine = s.spine := rfl
@[simp] theorem State_modChunk_circ {s : State} {n} {m} {f} : (s.modChunk n m f).circ = s.circ := rfl
@[simp] theorem State_modChunk_chans {s : State} {n} {m} {f} : (s.modChunk n m f).chans = s.chans := rfl
@[simp] theorem State_modChunk_free {s : State} {n} {m} {f} : (s.modChunk n m f).free = s.free := rfl
@[simp] theorem State_modChunk_pending {s : State} {n} {m} {f} : (s.modChunk n m f).pending = s.pending := rfl
@[simp] theorem State_modSeam_lanes {s : State} {n} {m} {f} : (s.modSeam n m f).lanes = s.lanes := rfl
@[simp] theorem State_modSeam_ports {s : State} {n} {m} {f} : (s.modSeam n m f).ports = s.ports := rfl
@[simp] theorem State_modSeam_blocks {s : State} {n} {m} {f} : (s.modSeam n m f).blocks = s.blocks := rfl
@[simp] theorem State_modSeam_sched {s : State} {n} {m} {f} : (s.modSeam n m f).sched = s.sched := rfl
@[simp] theorem State_modSeam_fabric {s : State} {n} {m} {f} : (s.modSeam n m f).fabric = s.fabric := rfl
@[simp] theorem State_modSeam_lasts {s : State} {n} {m} {f} : (s.modSeam n m f).lasts = s.lasts := rfl
@[simp] theorem State_modSeam_mem {s : State} {n} {m} {f} : (s.modSeam n m f).mem = s.mem := rfl
@[simp] theorem State_modSeam_host {s : State} {n} {m} {f} : (s.modSeam n m f).host = s.host := rfl
@[simp] theorem State_modSeam_logs {s : State} {n} {m} {f} : (s.modSeam n m f).logs = s.logs := rfl
@[simp] theorem State_modSeam_ctl {s : State} {n} {m} {f} : (s.modSeam n m f).ctl = s.ctl := rfl
@[simp] theorem State_modSeam_flash {s : State} {n} {m} {f} : (s.modSeam n m f).flash = s.flash := rfl
@[simp] theorem State_modSeam_time {s : State} {n} {m} {f} : (s.modSeam n m f).time = s.time := rfl
@[simp] theorem State_modSeam_twin {s : State} {n} {m} {f} : (s.modSeam n m f).twin = s.twin := rfl
@[simp] theorem State_modSeam_peals {s : State} {n} {m} {f} : (s.modSeam n m f).peals = s.peals := rfl
@[simp] theorem State_modSeam_spine {s : State} {n} {m} {f} : (s.modSeam n m f).spine = s.spine := rfl
@[simp] theorem State_modSeam_circ {s : State} {n} {m} {f} : (s.modSeam n m f).circ = s.circ := rfl
@[simp] theorem State_modSeam_chans {s : State} {n} {m} {f} : (s.modSeam n m f).chans = s.chans := rfl
@[simp] theorem State_modSeam_free {s : State} {n} {m} {f} : (s.modSeam n m f).free = s.free := rfl
@[simp] theorem State_modSeam_pending {s : State} {n} {m} {f} : (s.modSeam n m f).pending = s.pending := rfl
@[simp] theorem ring_lanes {s : State} {n} {m} : (ring n m s).lanes = s.lanes := rfl
@[simp] theorem ring_ports {s : State} {n} {m} : (ring n m s).ports = s.ports := rfl
@[simp] theorem ring_blocks {s : State} {n} {m} : (ring n m s).blocks = s.blocks := rfl
@[simp] theorem ring_sched {s : State} {n} {m} : (ring n m s).sched = s.sched := rfl
@[simp] theorem ring_fabric {s : State} {n} {m} : (ring n m s).fabric = s.fabric := rfl
@[simp] theorem ring_lasts {s : State} {n} {m} : (ring n m s).lasts = s.lasts := rfl
@[simp] theorem ring_mem {s : State} {n} {m} : (ring n m s).mem = s.mem := rfl
@[simp] theorem ring_logs {s : State} {n} {m} : (ring n m s).logs = s.logs := rfl
@[simp] theorem ring_chip {s : State} {n} {m} : (ring n m s).chip = s.chip := rfl
@[simp] theorem ring_ctl {s : State} {n} {m} : (ring n m s).ctl = s.ctl := rfl
@[simp] theorem ring_flash {s : State} {n} {m} : (ring n m s).flash = s.flash := rfl
@[simp] theorem ring_time {s : State} {n} {m} : (ring n m s).time = s.time := rfl
@[simp] theorem ring_twin {s : State} {n} {m} : (ring n m s).twin = s.twin := rfl
@[simp] theorem ring_peals {s : State} {n} {m} : (ring n m s).peals = s.peals := rfl
@[simp] theorem ring_spine {s : State} {n} {m} : (ring n m s).spine = s.spine := rfl
@[simp] theorem ring_circ {s : State} {n} {m} : (ring n m s).circ = s.circ := rfl
@[simp] theorem ring_chans {s : State} {n} {m} : (ring n m s).chans = s.chans := rfl
@[simp] theorem ring_free {s : State} {n} {m} : (ring n m s).free = s.free := rfl
@[simp] theorem ring_pending {s : State} {n} {m} : (ring n m s).pending = s.pending := rfl
@[simp] theorem bumpN_lanes {s : State} {a} {b} {c} {d} : (bumpN a b c d s).lanes = s.lanes := by simp only [bumpN]; split <;> rfl
@[simp] theorem bumpN_ports {s : State} {a} {b} {c} {d} : (bumpN a b c d s).ports = s.ports := by simp only [bumpN]; split <;> rfl
@[simp] theorem bumpN_blocks {s : State} {a} {b} {c} {d} : (bumpN a b c d s).blocks = s.blocks := by simp only [bumpN]; split <;> rfl
@[simp] theorem bumpN_sched {s : State} {a} {b} {c} {d} : (bumpN a b c d s).sched = s.sched := by simp only [bumpN]; split <;> rfl
@[simp] theorem bumpN_fabric {s : State} {a} {b} {c} {d} : (bumpN a b c d s).fabric = s.fabric := by simp only [bumpN]; split <;> rfl
@[simp] theorem bumpN_lasts {s : State} {a} {b} {c} {d} : (bumpN a b c d s).lasts = s.lasts := by simp only [bumpN]; split <;> rfl
@[simp] theorem bumpN_mem {s : State} {a} {b} {c} {d} : (bumpN a b c d s).mem = s.mem := by simp only [bumpN]; split <;> rfl
@[simp] theorem bumpN_host {s : State} {a} {b} {c} {d} : (bumpN a b c d s).host = s.host := by simp only [bumpN]; split <;> rfl
@[simp] theorem bumpN_chip {s : State} {a} {b} {c} {d} : (bumpN a b c d s).chip = s.chip := by simp only [bumpN]; split <;> rfl
@[simp] theorem bumpN_ctl {s : State} {a} {b} {c} {d} : (bumpN a b c d s).ctl = s.ctl := by simp only [bumpN]; split <;> rfl
@[simp] theorem bumpN_flash {s : State} {a} {b} {c} {d} : (bumpN a b c d s).flash = s.flash := by simp only [bumpN]; split <;> rfl
@[simp] theorem bumpN_time {s : State} {a} {b} {c} {d} : (bumpN a b c d s).time = s.time := by simp only [bumpN]; split <;> rfl
@[simp] theorem bumpN_twin {s : State} {a} {b} {c} {d} : (bumpN a b c d s).twin = s.twin := by simp only [bumpN]; split <;> rfl
@[simp] theorem bumpN_peals {s : State} {a} {b} {c} {d} : (bumpN a b c d s).peals = s.peals := by simp only [bumpN]; split <;> rfl
@[simp] theorem bumpN_spine {s : State} {a} {b} {c} {d} : (bumpN a b c d s).spine = s.spine := by simp only [bumpN]; split <;> rfl
@[simp] theorem bumpN_circ {s : State} {a} {b} {c} {d} : (bumpN a b c d s).circ = s.circ := by simp only [bumpN]; split <;> rfl
@[simp] theorem bumpN_chans {s : State} {a} {b} {c} {d} : (bumpN a b c d s).chans = s.chans := by simp only [bumpN]; split <;> rfl
@[simp] theorem bumpN_free {s : State} {a} {b} {c} {d} : (bumpN a b c d s).free = s.free := by simp only [bumpN]; split <;> rfl
@[simp] theorem bumpN_pending {s : State} {a} {b} {c} {d} : (bumpN a b c d s).pending = s.pending := by simp only [bumpN]; split <;> rfl
@[simp] theorem bump_lanes {s : State} {a} {b} {c} : (bump a b c s).lanes = s.lanes := by simp [bump]
@[simp] theorem bump_ports {s : State} {a} {b} {c} : (bump a b c s).ports = s.ports := by simp [bump]
@[simp] theorem bump_blocks {s : State} {a} {b} {c} : (bump a b c s).blocks = s.blocks := by simp [bump]
@[simp] theorem bump_sched {s : State} {a} {b} {c} : (bump a b c s).sched = s.sched := by simp [bump]
@[simp] theorem bump_fabric {s : State} {a} {b} {c} : (bump a b c s).fabric = s.fabric := by simp [bump]
@[simp] theorem bump_lasts {s : State} {a} {b} {c} : (bump a b c s).lasts = s.lasts := by simp [bump]
@[simp] theorem bump_mem {s : State} {a} {b} {c} : (bump a b c s).mem = s.mem := by simp [bump]
@[simp] theorem bump_host {s : State} {a} {b} {c} : (bump a b c s).host = s.host := by simp [bump]
@[simp] theorem bump_chip {s : State} {a} {b} {c} : (bump a b c s).chip = s.chip := by simp [bump]
@[simp] theorem bump_ctl {s : State} {a} {b} {c} : (bump a b c s).ctl = s.ctl := by simp [bump]
@[simp] theorem bump_flash {s : State} {a} {b} {c} : (bump a b c s).flash = s.flash := by simp [bump]
@[simp] theorem bump_time {s : State} {a} {b} {c} : (bump a b c s).time = s.time := by simp [bump]
@[simp] theorem bump_twin {s : State} {a} {b} {c} : (bump a b c s).twin = s.twin := by simp [bump]
@[simp] theorem bump_peals {s : State} {a} {b} {c} : (bump a b c s).peals = s.peals := by simp [bump]
@[simp] theorem bump_spine {s : State} {a} {b} {c} : (bump a b c s).spine = s.spine := by simp [bump]
@[simp] theorem bump_circ {s : State} {a} {b} {c} : (bump a b c s).circ = s.circ := by simp [bump]
@[simp] theorem bump_chans {s : State} {a} {b} {c} : (bump a b c s).chans = s.chans := by simp [bump]
@[simp] theorem bump_free {s : State} {a} {b} {c} : (bump a b c s).free = s.free := by simp [bump]
@[simp] theorem bump_pending {s : State} {a} {b} {c} : (bump a b c s).pending = s.pending := by simp [bump]
@[simp] theorem bumpPort_lanes {s : State} {a} {b} : (bumpPort a b s).lanes = s.lanes := by simp [bumpPort]
@[simp] theorem bumpPort_ports {s : State} {a} {b} : (bumpPort a b s).ports = s.ports := by simp [bumpPort]
@[simp] theorem bumpPort_blocks {s : State} {a} {b} : (bumpPort a b s).blocks = s.blocks := by simp [bumpPort]
@[simp] theorem bumpPort_sched {s : State} {a} {b} : (bumpPort a b s).sched = s.sched := by simp [bumpPort]
@[simp] theorem bumpPort_fabric {s : State} {a} {b} : (bumpPort a b s).fabric = s.fabric := by simp [bumpPort]
@[simp] theorem bumpPort_lasts {s : State} {a} {b} : (bumpPort a b s).lasts = s.lasts := by simp [bumpPort]
@[simp] theorem bumpPort_mem {s : State} {a} {b} : (bumpPort a b s).mem = s.mem := by simp [bumpPort]
@[simp] theorem bumpPort_host {s : State} {a} {b} : (bumpPort a b s).host = s.host := by simp [bumpPort]
@[simp] theorem bumpPort_chip {s : State} {a} {b} : (bumpPort a b s).chip = s.chip := by simp [bumpPort]
@[simp] theorem bumpPort_ctl {s : State} {a} {b} : (bumpPort a b s).ctl = s.ctl := by simp [bumpPort]
@[simp] theorem bumpPort_flash {s : State} {a} {b} : (bumpPort a b s).flash = s.flash := by simp [bumpPort]
@[simp] theorem bumpPort_time {s : State} {a} {b} : (bumpPort a b s).time = s.time := by simp [bumpPort]
@[simp] theorem bumpPort_twin {s : State} {a} {b} : (bumpPort a b s).twin = s.twin := by simp [bumpPort]
@[simp] theorem bumpPort_peals {s : State} {a} {b} : (bumpPort a b s).peals = s.peals := by simp [bumpPort]
@[simp] theorem bumpPort_spine {s : State} {a} {b} : (bumpPort a b s).spine = s.spine := by simp [bumpPort]
@[simp] theorem bumpPort_circ {s : State} {a} {b} : (bumpPort a b s).circ = s.circ := by simp [bumpPort]
@[simp] theorem bumpPort_chans {s : State} {a} {b} : (bumpPort a b s).chans = s.chans := by simp [bumpPort]
@[simp] theorem bumpPort_free {s : State} {a} {b} : (bumpPort a b s).free = s.free := by simp [bumpPort]
@[simp] theorem bumpPort_pending {s : State} {a} {b} : (bumpPort a b s).pending = s.pending := by simp [bumpPort]
@[simp] theorem bumpPortN_lanes {s : State} {a} {b} {c} : (bumpPortN a b c s).lanes = s.lanes := by simp [bumpPortN]
@[simp] theorem bumpPortN_ports {s : State} {a} {b} {c} : (bumpPortN a b c s).ports = s.ports := by simp [bumpPortN]
@[simp] theorem bumpPortN_blocks {s : State} {a} {b} {c} : (bumpPortN a b c s).blocks = s.blocks := by simp [bumpPortN]
@[simp] theorem bumpPortN_sched {s : State} {a} {b} {c} : (bumpPortN a b c s).sched = s.sched := by simp [bumpPortN]
@[simp] theorem bumpPortN_fabric {s : State} {a} {b} {c} : (bumpPortN a b c s).fabric = s.fabric := by simp [bumpPortN]
@[simp] theorem bumpPortN_lasts {s : State} {a} {b} {c} : (bumpPortN a b c s).lasts = s.lasts := by simp [bumpPortN]
@[simp] theorem bumpPortN_mem {s : State} {a} {b} {c} : (bumpPortN a b c s).mem = s.mem := by simp [bumpPortN]
@[simp] theorem bumpPortN_host {s : State} {a} {b} {c} : (bumpPortN a b c s).host = s.host := by simp [bumpPortN]
@[simp] theorem bumpPortN_chip {s : State} {a} {b} {c} : (bumpPortN a b c s).chip = s.chip := by simp [bumpPortN]
@[simp] theorem bumpPortN_ctl {s : State} {a} {b} {c} : (bumpPortN a b c s).ctl = s.ctl := by simp [bumpPortN]
@[simp] theorem bumpPortN_flash {s : State} {a} {b} {c} : (bumpPortN a b c s).flash = s.flash := by simp [bumpPortN]
@[simp] theorem bumpPortN_time {s : State} {a} {b} {c} : (bumpPortN a b c s).time = s.time := by simp [bumpPortN]
@[simp] theorem bumpPortN_twin {s : State} {a} {b} {c} : (bumpPortN a b c s).twin = s.twin := by simp [bumpPortN]
@[simp] theorem bumpPortN_peals {s : State} {a} {b} {c} : (bumpPortN a b c s).peals = s.peals := by simp [bumpPortN]
@[simp] theorem bumpPortN_spine {s : State} {a} {b} {c} : (bumpPortN a b c s).spine = s.spine := by simp [bumpPortN]
@[simp] theorem bumpPortN_circ {s : State} {a} {b} {c} : (bumpPortN a b c s).circ = s.circ := by simp [bumpPortN]
@[simp] theorem bumpPortN_chans {s : State} {a} {b} {c} : (bumpPortN a b c s).chans = s.chans := by simp [bumpPortN]
@[simp] theorem bumpPortN_free {s : State} {a} {b} {c} : (bumpPortN a b c s).free = s.free := by simp [bumpPortN]
@[simp] theorem bumpPortN_pending {s : State} {a} {b} {c} : (bumpPortN a b c s).pending = s.pending := by simp [bumpPortN]
@[simp] theorem bumpCirc_lanes {s : State} {a} {b} {c} : (bumpCirc a b c s).lanes = s.lanes := by simp [bumpCirc]
@[simp] theorem bumpCirc_ports {s : State} {a} {b} {c} : (bumpCirc a b c s).ports = s.ports := by simp [bumpCirc]
@[simp] theorem bumpCirc_blocks {s : State} {a} {b} {c} : (bumpCirc a b c s).blocks = s.blocks := by simp [bumpCirc]
@[simp] theorem bumpCirc_sched {s : State} {a} {b} {c} : (bumpCirc a b c s).sched = s.sched := by simp [bumpCirc]
@[simp] theorem bumpCirc_fabric {s : State} {a} {b} {c} : (bumpCirc a b c s).fabric = s.fabric := by simp [bumpCirc]
@[simp] theorem bumpCirc_lasts {s : State} {a} {b} {c} : (bumpCirc a b c s).lasts = s.lasts := by simp [bumpCirc]
@[simp] theorem bumpCirc_mem {s : State} {a} {b} {c} : (bumpCirc a b c s).mem = s.mem := by simp [bumpCirc]
@[simp] theorem bumpCirc_host {s : State} {a} {b} {c} : (bumpCirc a b c s).host = s.host := by simp [bumpCirc]
@[simp] theorem bumpCirc_chip {s : State} {a} {b} {c} : (bumpCirc a b c s).chip = s.chip := by simp [bumpCirc]
@[simp] theorem bumpCirc_ctl {s : State} {a} {b} {c} : (bumpCirc a b c s).ctl = s.ctl := by simp [bumpCirc]
@[simp] theorem bumpCirc_flash {s : State} {a} {b} {c} : (bumpCirc a b c s).flash = s.flash := by simp [bumpCirc]
@[simp] theorem bumpCirc_time {s : State} {a} {b} {c} : (bumpCirc a b c s).time = s.time := by simp [bumpCirc]
@[simp] theorem bumpCirc_twin {s : State} {a} {b} {c} : (bumpCirc a b c s).twin = s.twin := by simp [bumpCirc]
@[simp] theorem bumpCirc_peals {s : State} {a} {b} {c} : (bumpCirc a b c s).peals = s.peals := by simp [bumpCirc]
@[simp] theorem bumpCirc_spine {s : State} {a} {b} {c} : (bumpCirc a b c s).spine = s.spine := by simp [bumpCirc]
@[simp] theorem bumpCirc_circ {s : State} {a} {b} {c} : (bumpCirc a b c s).circ = s.circ := by simp [bumpCirc]
@[simp] theorem bumpCirc_chans {s : State} {a} {b} {c} : (bumpCirc a b c s).chans = s.chans := by simp [bumpCirc]
@[simp] theorem bumpCirc_free {s : State} {a} {b} {c} : (bumpCirc a b c s).free = s.free := by simp [bumpCirc]
@[simp] theorem bumpCirc_pending {s : State} {a} {b} {c} : (bumpCirc a b c s).pending = s.pending := by simp [bumpCirc]
@[simp] theorem bumpChan_lanes {s : State} {a} {b} {c} : (bumpChan a b c s).lanes = s.lanes := by simp [bumpChan]
@[simp] theorem bumpChan_ports {s : State} {a} {b} {c} : (bumpChan a b c s).ports = s.ports := by simp [bumpChan]
@[simp] theorem bumpChan_blocks {s : State} {a} {b} {c} : (bumpChan a b c s).blocks = s.blocks := by simp [bumpChan]
@[simp] theorem bumpChan_sched {s : State} {a} {b} {c} : (bumpChan a b c s).sched = s.sched := by simp [bumpChan]
@[simp] theorem bumpChan_fabric {s : State} {a} {b} {c} : (bumpChan a b c s).fabric = s.fabric := by simp [bumpChan]
@[simp] theorem bumpChan_lasts {s : State} {a} {b} {c} : (bumpChan a b c s).lasts = s.lasts := by simp [bumpChan]
@[simp] theorem bumpChan_mem {s : State} {a} {b} {c} : (bumpChan a b c s).mem = s.mem := by simp [bumpChan]
@[simp] theorem bumpChan_host {s : State} {a} {b} {c} : (bumpChan a b c s).host = s.host := by simp [bumpChan]
@[simp] theorem bumpChan_chip {s : State} {a} {b} {c} : (bumpChan a b c s).chip = s.chip := by simp [bumpChan]
@[simp] theorem bumpChan_ctl {s : State} {a} {b} {c} : (bumpChan a b c s).ctl = s.ctl := by simp [bumpChan]
@[simp] theorem bumpChan_flash {s : State} {a} {b} {c} : (bumpChan a b c s).flash = s.flash := by simp [bumpChan]
@[simp] theorem bumpChan_time {s : State} {a} {b} {c} : (bumpChan a b c s).time = s.time := by simp [bumpChan]
@[simp] theorem bumpChan_twin {s : State} {a} {b} {c} : (bumpChan a b c s).twin = s.twin := by simp [bumpChan]
@[simp] theorem bumpChan_peals {s : State} {a} {b} {c} : (bumpChan a b c s).peals = s.peals := by simp [bumpChan]
@[simp] theorem bumpChan_spine {s : State} {a} {b} {c} : (bumpChan a b c s).spine = s.spine := by simp [bumpChan]
@[simp] theorem bumpChan_circ {s : State} {a} {b} {c} : (bumpChan a b c s).circ = s.circ := by simp [bumpChan]
@[simp] theorem bumpChan_chans {s : State} {a} {b} {c} : (bumpChan a b c s).chans = s.chans := by simp [bumpChan]
@[simp] theorem bumpChan_free {s : State} {a} {b} {c} : (bumpChan a b c s).free = s.free := by simp [bumpChan]
@[simp] theorem bumpChan_pending {s : State} {a} {b} {c} : (bumpChan a b c s).pending = s.pending := by simp [bumpChan]
@[simp] theorem bumpTime_lanes {s : State} {a} : (bumpTime a s).lanes = s.lanes := by simp [bumpTime]
@[simp] theorem bumpTime_ports {s : State} {a} : (bumpTime a s).ports = s.ports := by simp [bumpTime]
@[simp] theorem bumpTime_blocks {s : State} {a} : (bumpTime a s).blocks = s.blocks := by simp [bumpTime]
@[simp] theorem bumpTime_sched {s : State} {a} : (bumpTime a s).sched = s.sched := by simp [bumpTime]
@[simp] theorem bumpTime_fabric {s : State} {a} : (bumpTime a s).fabric = s.fabric := by simp [bumpTime]
@[simp] theorem bumpTime_lasts {s : State} {a} : (bumpTime a s).lasts = s.lasts := by simp [bumpTime]
@[simp] theorem bumpTime_mem {s : State} {a} : (bumpTime a s).mem = s.mem := by simp [bumpTime]
@[simp] theorem bumpTime_host {s : State} {a} : (bumpTime a s).host = s.host := by simp [bumpTime]
@[simp] theorem bumpTime_chip {s : State} {a} : (bumpTime a s).chip = s.chip := by simp [bumpTime]
@[simp] theorem bumpTime_ctl {s : State} {a} : (bumpTime a s).ctl = s.ctl := by simp [bumpTime]
@[simp] theorem bumpTime_flash {s : State} {a} : (bumpTime a s).flash = s.flash := by simp [bumpTime]
@[simp] theorem bumpTime_time {s : State} {a} : (bumpTime a s).time = s.time := by simp [bumpTime]
@[simp] theorem bumpTime_twin {s : State} {a} : (bumpTime a s).twin = s.twin := by simp [bumpTime]
@[simp] theorem bumpTime_peals {s : State} {a} : (bumpTime a s).peals = s.peals := by simp [bumpTime]
@[simp] theorem bumpTime_spine {s : State} {a} : (bumpTime a s).spine = s.spine := by simp [bumpTime]
@[simp] theorem bumpTime_circ {s : State} {a} : (bumpTime a s).circ = s.circ := by simp [bumpTime]
@[simp] theorem bumpTime_chans {s : State} {a} : (bumpTime a s).chans = s.chans := by simp [bumpTime]
@[simp] theorem bumpTime_free {s : State} {a} : (bumpTime a s).free = s.free := by simp [bumpTime]
@[simp] theorem bumpTime_pending {s : State} {a} : (bumpTime a s).pending = s.pending := by simp [bumpTime]
@[simp] theorem bumpPeal_lanes {s : State} {a} {b} {c} : (bumpPeal a b c s).lanes = s.lanes := by simp only [bumpPeal]; split <;> simp
@[simp] theorem bumpPeal_ports {s : State} {a} {b} {c} : (bumpPeal a b c s).ports = s.ports := by simp only [bumpPeal]; split <;> simp
@[simp] theorem bumpPeal_blocks {s : State} {a} {b} {c} : (bumpPeal a b c s).blocks = s.blocks := by simp only [bumpPeal]; split <;> simp
@[simp] theorem bumpPeal_sched {s : State} {a} {b} {c} : (bumpPeal a b c s).sched = s.sched := by simp only [bumpPeal]; split <;> simp
@[simp] theorem bumpPeal_fabric {s : State} {a} {b} {c} : (bumpPeal a b c s).fabric = s.fabric := by simp only [bumpPeal]; split <;> simp
@[simp] theorem bumpPeal_lasts {s : State} {a} {b} {c} : (bumpPeal a b c s).lasts = s.lasts := by simp only [bumpPeal]; split <;> simp
@[simp] theorem bumpPeal_mem {s : State} {a} {b} {c} : (bumpPeal a b c s).mem = s.mem := by simp only [bumpPeal]; split <;> simp
@[simp] theorem bumpPeal_host {s : State} {a} {b} {c} : (bumpPeal a b c s).host = s.host := by simp only [bumpPeal]; split <;> simp
@[simp] theorem bumpPeal_chip {s : State} {a} {b} {c} : (bumpPeal a b c s).chip = s.chip := by simp only [bumpPeal]; split <;> simp
@[simp] theorem bumpPeal_ctl {s : State} {a} {b} {c} : (bumpPeal a b c s).ctl = s.ctl := by simp only [bumpPeal]; split <;> simp
@[simp] theorem bumpPeal_flash {s : State} {a} {b} {c} : (bumpPeal a b c s).flash = s.flash := by simp only [bumpPeal]; split <;> simp
@[simp] theorem bumpPeal_time {s : State} {a} {b} {c} : (bumpPeal a b c s).time = s.time := by simp only [bumpPeal]; split <;> simp
@[simp] theorem bumpPeal_twin {s : State} {a} {b} {c} : (bumpPeal a b c s).twin = s.twin := by simp only [bumpPeal]; split <;> simp
@[simp] theorem bumpPeal_peals {s : State} {a} {b} {c} : (bumpPeal a b c s).peals = s.peals := by simp only [bumpPeal]; split <;> simp
@[simp] theorem bumpPeal_spine {s : State} {a} {b} {c} : (bumpPeal a b c s).spine = s.spine := by simp only [bumpPeal]; split <;> simp
@[simp] theorem bumpPeal_circ {s : State} {a} {b} {c} : (bumpPeal a b c s).circ = s.circ := by simp only [bumpPeal]; split <;> simp
@[simp] theorem bumpPeal_chans {s : State} {a} {b} {c} : (bumpPeal a b c s).chans = s.chans := by simp only [bumpPeal]; split <;> simp
@[simp] theorem bumpPeal_free {s : State} {a} {b} {c} : (bumpPeal a b c s).free = s.free := by simp only [bumpPeal]; split <;> simp
@[simp] theorem bumpPeal_pending {s : State} {a} {b} {c} : (bumpPeal a b c s).pending = s.pending := by simp only [bumpPeal]; split <;> simp
@[simp] theorem signal_lanes {s : State} {n} : (signal n s).lanes = s.lanes := by rfl
@[simp] theorem signal_ports {s : State} {n} : (signal n s).ports = s.ports := by rfl
@[simp] theorem signal_blocks {s : State} {n} : (signal n s).blocks = s.blocks := by rfl
@[simp] theorem signal_sched {s : State} {n} : (signal n s).sched = s.sched := by rfl
@[simp] theorem signal_fabric {s : State} {n} : (signal n s).fabric = s.fabric := by rfl
@[simp] theorem signal_lasts {s : State} {n} : (signal n s).lasts = s.lasts := by rfl
@[simp] theorem signal_logs {s : State} {n} : (signal n s).logs = s.logs := by rfl
@[simp] theorem signal_chip {s : State} {n} : (signal n s).chip = s.chip := by rfl
@[simp] theorem signal_ctl {s : State} {n} : (signal n s).ctl = s.ctl := by rfl
@[simp] theorem signal_flash {s : State} {n} : (signal n s).flash = s.flash := by rfl
@[simp] theorem signal_time {s : State} {n} : (signal n s).time = s.time := by rfl
@[simp] theorem signal_twin {s : State} {n} : (signal n s).twin = s.twin := by rfl
@[simp] theorem signal_peals {s : State} {n} : (signal n s).peals = s.peals := by rfl
@[simp] theorem signal_spine {s : State} {n} : (signal n s).spine = s.spine := by rfl
@[simp] theorem signal_circ {s : State} {n} : (signal n s).circ = s.circ := by rfl
@[simp] theorem signal_chans {s : State} {n} : (signal n s).chans = s.chans := by rfl
@[simp] theorem signal_free {s : State} {n} : (signal n s).free = s.free := by rfl
@[simp] theorem signal_pending {s : State} {n} : (signal n s).pending = s.pending := by rfl
@[simp] theorem eqFail_lanes {s : State} : (eqFail s).lanes = s.lanes := by simp [eqFail]
@[simp] theorem eqFail_ports {s : State} : (eqFail s).ports = s.ports := by simp [eqFail]
@[simp] theorem eqFail_blocks {s : State} : (eqFail s).blocks = s.blocks := by simp [eqFail]
@[simp] theorem eqFail_sched {s : State} : (eqFail s).sched = s.sched := by simp [eqFail]
@[simp] theorem eqFail_fabric {s : State} : (eqFail s).fabric = s.fabric := by simp [eqFail]
@[simp] theorem eqFail_lasts {s : State} : (eqFail s).lasts = s.lasts := by simp [eqFail]
@[simp] theorem eqFail_logs {s : State} : (eqFail s).logs = s.logs := by simp [eqFail]
@[simp] theorem eqFail_chip {s : State} : (eqFail s).chip = s.chip := by simp [eqFail]
@[simp] theorem eqFail_ctl {s : State} : (eqFail s).ctl = s.ctl := by simp [eqFail]
@[simp] theorem eqFail_flash {s : State} : (eqFail s).flash = s.flash := by simp [eqFail]
@[simp] theorem eqFail_time {s : State} : (eqFail s).time = s.time := by simp [eqFail]
@[simp] theorem eqFail_twin {s : State} : (eqFail s).twin = s.twin := by simp [eqFail]
@[simp] theorem eqFail_peals {s : State} : (eqFail s).peals = s.peals := by simp [eqFail]
@[simp] theorem eqFail_spine {s : State} : (eqFail s).spine = s.spine := by simp [eqFail]
@[simp] theorem eqFail_circ {s : State} : (eqFail s).circ = s.circ := by simp [eqFail]
@[simp] theorem eqFail_chans {s : State} : (eqFail s).chans = s.chans := by simp [eqFail]
@[simp] theorem eqFail_free {s : State} : (eqFail s).free = s.free := by simp [eqFail]
@[simp] theorem eqFail_pending {s : State} : (eqFail s).pending = s.pending := by simp [eqFail]
@[simp] theorem eqPut_lanes {s : State} {e} : (eqPut e s).lanes = s.lanes := by simp only [eqPut]; (repeat' split) <;> simp
@[simp] theorem eqPut_ports {s : State} {e} : (eqPut e s).ports = s.ports := by simp only [eqPut]; (repeat' split) <;> simp
@[simp] theorem eqPut_blocks {s : State} {e} : (eqPut e s).blocks = s.blocks := by simp only [eqPut]; (repeat' split) <;> simp
@[simp] theorem eqPut_sched {s : State} {e} : (eqPut e s).sched = s.sched := by simp only [eqPut]; (repeat' split) <;> simp
@[simp] theorem eqPut_fabric {s : State} {e} : (eqPut e s).fabric = s.fabric := by simp only [eqPut]; (repeat' split) <;> simp
@[simp] theorem eqPut_lasts {s : State} {e} : (eqPut e s).lasts = s.lasts := by simp only [eqPut]; (repeat' split) <;> simp
@[simp] theorem eqPut_chip {s : State} {e} : (eqPut e s).chip = s.chip := by simp only [eqPut]; (repeat' split) <;> simp
@[simp] theorem eqPut_ctl {s : State} {e} : (eqPut e s).ctl = s.ctl := by simp only [eqPut]; (repeat' split) <;> simp
@[simp] theorem eqPut_flash {s : State} {e} : (eqPut e s).flash = s.flash := by simp only [eqPut]; (repeat' split) <;> simp
@[simp] theorem eqPut_time {s : State} {e} : (eqPut e s).time = s.time := by simp only [eqPut]; (repeat' split) <;> simp
@[simp] theorem eqPut_twin {s : State} {e} : (eqPut e s).twin = s.twin := by simp only [eqPut]; (repeat' split) <;> simp
@[simp] theorem eqPut_peals {s : State} {e} : (eqPut e s).peals = s.peals := by simp only [eqPut]; (repeat' split) <;> simp
@[simp] theorem eqPut_spine {s : State} {e} : (eqPut e s).spine = s.spine := by simp only [eqPut]; (repeat' split) <;> simp
@[simp] theorem eqPut_circ {s : State} {e} : (eqPut e s).circ = s.circ := by simp only [eqPut]; (repeat' split) <;> simp
@[simp] theorem eqPut_chans {s : State} {e} : (eqPut e s).chans = s.chans := by simp only [eqPut]; (repeat' split) <;> simp
@[simp] theorem eqPut_free {s : State} {e} : (eqPut e s).free = s.free := by simp only [eqPut]; (repeat' split) <;> simp
@[simp] theorem eqPut_pending {s : State} {e} : (eqPut e s).pending = s.pending := by simp only [eqPut]; (repeat' split) <;> simp
@[simp] theorem postEvent_lanes {s : State} {a} {b} : (postEvent a b s).lanes = s.lanes := by simp [postEvent]
@[simp] theorem postEvent_ports {s : State} {a} {b} : (postEvent a b s).ports = s.ports := by simp [postEvent]
@[simp] theorem postEvent_blocks {s : State} {a} {b} : (postEvent a b s).blocks = s.blocks := by simp [postEvent]
@[simp] theorem postEvent_sched {s : State} {a} {b} : (postEvent a b s).sched = s.sched := by simp [postEvent]
@[simp] theorem postEvent_fabric {s : State} {a} {b} : (postEvent a b s).fabric = s.fabric := by simp [postEvent]
@[simp] theorem postEvent_lasts {s : State} {a} {b} : (postEvent a b s).lasts = s.lasts := by simp [postEvent]
@[simp] theorem postEvent_chip {s : State} {a} {b} : (postEvent a b s).chip = s.chip := by simp [postEvent]
@[simp] theorem postEvent_ctl {s : State} {a} {b} : (postEvent a b s).ctl = s.ctl := by simp [postEvent]
@[simp] theorem postEvent_flash {s : State} {a} {b} : (postEvent a b s).flash = s.flash := by simp [postEvent]
@[simp] theorem postEvent_time {s : State} {a} {b} : (postEvent a b s).time = s.time := by simp [postEvent]
@[simp] theorem postEvent_twin {s : State} {a} {b} : (postEvent a b s).twin = s.twin := by simp [postEvent]
@[simp] theorem postEvent_peals {s : State} {a} {b} : (postEvent a b s).peals = s.peals := by simp [postEvent]
@[simp] theorem postEvent_spine {s : State} {a} {b} : (postEvent a b s).spine = s.spine := by simp [postEvent]
@[simp] theorem postEvent_circ {s : State} {a} {b} : (postEvent a b s).circ = s.circ := by simp [postEvent]
@[simp] theorem postEvent_chans {s : State} {a} {b} : (postEvent a b s).chans = s.chans := by simp [postEvent]
@[simp] theorem postEvent_free {s : State} {a} {b} : (postEvent a b s).free = s.free := by simp [postEvent]
@[simp] theorem postEvent_pending {s : State} {a} {b} : (postEvent a b s).pending = s.pending := by simp [postEvent]
@[simp] theorem answer_lanes {s : State} {w} {r} : (answer w r s).lanes = s.lanes := by simp only [answer]; (repeat' split) <;> simp
@[simp] theorem answer_ports {s : State} {w} {r} : (answer w r s).ports = s.ports := by simp only [answer]; (repeat' split) <;> simp
@[simp] theorem answer_blocks {s : State} {w} {r} : (answer w r s).blocks = s.blocks := by simp only [answer]; (repeat' split) <;> simp
@[simp] theorem answer_sched {s : State} {w} {r} : (answer w r s).sched = s.sched := by simp only [answer]; (repeat' split) <;> simp
@[simp] theorem answer_fabric {s : State} {w} {r} : (answer w r s).fabric = s.fabric := by simp only [answer]; (repeat' split) <;> simp
@[simp] theorem answer_lasts {s : State} {w} {r} : (answer w r s).lasts = s.lasts := by simp only [answer]; (repeat' split) <;> simp
@[simp] theorem answer_logs {s : State} {w} {r} : (answer w r s).logs = s.logs := by simp only [answer]; (repeat' split) <;> simp
@[simp] theorem answer_chip {s : State} {w} {r} : (answer w r s).chip = s.chip := by simp only [answer]; (repeat' split) <;> simp
@[simp] theorem answer_ctl {s : State} {w} {r} : (answer w r s).ctl = s.ctl := by simp only [answer]; (repeat' split) <;> simp
@[simp] theorem answer_flash {s : State} {w} {r} : (answer w r s).flash = s.flash := by simp only [answer]; (repeat' split) <;> simp
@[simp] theorem answer_time {s : State} {w} {r} : (answer w r s).time = s.time := by simp only [answer]; (repeat' split) <;> simp
@[simp] theorem answer_twin {s : State} {w} {r} : (answer w r s).twin = s.twin := by simp only [answer]; (repeat' split) <;> simp
@[simp] theorem answer_peals {s : State} {w} {r} : (answer w r s).peals = s.peals := by simp only [answer]; (repeat' split) <;> simp
@[simp] theorem answer_spine {s : State} {w} {r} : (answer w r s).spine = s.spine := by simp only [answer]; (repeat' split) <;> simp
@[simp] theorem answer_circ {s : State} {w} {r} : (answer w r s).circ = s.circ := by simp only [answer]; (repeat' split) <;> simp
@[simp] theorem answer_chans {s : State} {w} {r} : (answer w r s).chans = s.chans := by simp only [answer]; (repeat' split) <;> simp
@[simp] theorem answer_free {s : State} {w} {r} : (answer w r s).free = s.free := by simp only [answer]; (repeat' split) <;> simp
@[simp] theorem answer_pending {s : State} {w} {r} : (answer w r s).pending = s.pending := by simp only [answer]; (repeat' split) <;> simp

end Sys2Proof.Laws
end

