-- ==== Sys2Proof/Tests/Slice0.lean ====
section
/-! SUPPORT. Tests/Slice0.lean: worked examples of the manual, ill-formed terms, and for each statement states and operands that meet its
hypotheses. -/
namespace Sys2Proof.Tests
open Sys2Proof Sys2Proof.Machine

set_option Elab.async false

/-! Ill-formed terms are refused (WellFormed). -/

def badMsg : Msg := { mbx := 0, ver := 1, flags := 0, seqid := 1, len := 0, rsvd := 0, body := List.replicate 4017 0 }

theorem test_illformed_refused :
    Cell.ok { hdr := 0, payload := zeros 63, crc := 0 } = false ∧ Msg.ok badMsg = false ∧
    Dgram.ok { ver := 1, kind := 0, session := 0, seq := 0, mac := zeros 31, body := [] } = false ∧
    TwinMsg.ok { tmsg := 256, tag := 0, src := 0, head := zeros 64, data := [] } = false ∧
    TwinMsg.ok { tmsg := 1, tag := 0, src := 0, head := zeros 64, data := zeros 65 } = false ∧
    laneOk 1056 = false ∧ portOk 1025 = false ∧ coreOk 528 = false ∧ idOk 4096 = false := by decide +kernel

theorem test_wellformed_accepted :
    Cell.ok { hdr := 0, payload := zeros 64, crc := 0 } = true ∧ laneOk 1055 = true ∧ portOk 1048 = true ∧ coreOk 527 = true ∧ idOk 4095 = true := by decide

/-! Worked examples of the manual. -/

/-- The header of chapter 02's example, apart from its HOPS of 2. -/
theorem test_header_example :
    ((mkCell 4 2 1 true false 0x2A5C3 0x11040 0x123 (pealTs 0x0A7 2 0x000410 1 0) (zeros 64)).set 113 3 2).hdr = 0x44A5952E188820091853C00082020000 := by
  decide +kernel

/-- CRC-32C and CRC-64 check values of the string 123456789 (R37, R310). -/
theorem test_crc_check_values :
    crc32c [0x31, 0x32, 0x33, 0x34, 0x35, 0x36, 0x37, 0x38, 0x39] = 0xE3069283 ∧ crc64 [0x31, 0x32, 0x33, 0x34, 0x35, 0x36, 0x37, 0x38, 0x39] = 0x995DC9BBDF1939FA := by
  decide +kernel

/-- Chapter 14's HELLO example: the map accepted of an offer, and without the library's major. -/
theorem test_hello_example : acceptedMap 0x102FCF true = 0x2FCB ∧ acceptedMap 0x102FCF false = 0x2700 := by decide +kernel

/-- The descriptor of chapter 07's first example: REDUCE_BCAST, SUM, BF16 to FP32, ANCHOR_LSB −10, region 0. -/
def sumDesc : BitVec 512 := BitVec.ofNat 512
  (place 2 28 3 + place 1 36 4 + place 1014 44 10 + place 1 64 4 + place 4 80 4 + place 2 88 8 + place 4 96 18 + place 2048 160 24 + place 1000 256 20)

/-- Four BF16 inputs in lane 0 sum to 1,410 with residue 1,410 and LOSS 1, in any order. -/
def sumCell (x : Nat) : Cell := mkCell 4 2 0 false false 0 0 0 (pealTs 0 0 0x400 1 0) (toLE 2 x ++ zeros 62)
def sumRow (xs : List Nat) : Row := xs.foldl (fun r x => r.accumulate sumDesc false (-10) (sumCell x)) {}

theorem test_sum_example :
    (sumRow [0x3FC0, 0xBE00, 0x3B01, 0x3A00]).at 0 = 1410 ∧ (sumRow [0x3FC0, 0xBE00, 0x3B01, 0x3A00]).residue = 1410 ∧
    (sumRow [0x3FC0, 0xBE00, 0x3B01, 0x3A00]).loss = 1 := by decide +kernel
theorem test_sum_example_reversed :
    (sumRow [0x3A00, 0x3B01, 0xBE00, 0x3FC0]).at 0 = 1410 ∧ (sumRow [0x3A00, 0x3B01, 0xBE00, 0x3FC0]).resIn = 1410 := by decide +kernel

/-- The marking example of chapter 05: a class-0 VC4 cell at depth 5,000 has p = 13,494. -/
theorem test_mark_example : markProb (shippedMark) 4 0 5000 = 13494 := by decide +kernel

/-- The timing example of chapter 13: o = 1.25 ns and d = 37.75 ns, in units of 2^-17 ns. -/
theorem test_timing_example :
    (exchange 1024 (5000000000 * 65536) (5000000039 * 65536) (5000000062 * 65536 + 32768) (5000000099 * 65536) State.reset).1 = 163840 ∧
    ((exchange 1024 (5000000000 * 65536) (5000000039 * 65536) (5000000062 * 65536 + 32768) (5000000099 * 65536) State.reset).2.2.port 1024).dvals = [4947968] := by
  decide +kernel

/-- The thermal example of chapter 18: T(896) = 928. -/
theorem test_curve_example : curveAt [(880, 960), (920, 880)] 896 = 928 ∧ curveAt [(660, 880), (680, 945)] 676 = 932 := by decide +kernel

/-- RNDX's example in chapter 08: 1,410 × 2^-10 is 0x3FB04000 as FP32. -/
theorem test_round_example : f32.round false 1410 1 (-10) = some 0x3FB04000 ∧ fBf16.round false 1410 1 (-10) = some 0x3FB0 := by decide +kernel

/-- FP32 addition in order loses the 1 (chapter 07). -/
theorem test_fadd_loses : fAdd (fAdd 0x4B800000 0x3F800000) 0xCB800000 = 0 := by decide +kernel

/-! States for the witnesses below. -/

def desc (fs : List (Nat × Nat × Nat)) : BitVec 512 := BitVec.ofNat 512 (fs.foldl (fun a f => a + place f.2.2 f.1 f.2.1) 0)

/-- A chip in SERVICE with a session open and every feature in force. -/
def up : State := { State.reset with
  chip := { inReset := false, st := .service, tested := true }
  host := { cxlUp := true, busMaster := true, session := true, features := 0x3FFF } }

/-- A peal, and on core 0 an invocation of it. -/
def prog (p : Peal) (i : Inv) : State := { up with peals := [(i.peal, p)], spine := { cores := [(0, { inv := some i })] } }

/-- An invocation of ON_CHUNK of peal 0 at cell 0. -/
def inv1 : Inv := { peal := 0, entry := 1, x := 0 }

/-- A running peal of a descriptor. -/
def live (d : BitVec 512) : Peal := { desc := d, st := .running, isOpen := true }

/-- A KIND 5 peal in BF16 on a shard of the same formats. -/
def updDesc : BitVec 512 := desc [(28, 3, 5), (36, 4, 1), (40, 4, 1), (64, 4, 1), (80, 4, 4), (88, 8, 2), (96, 18, 4), (160, 24, 64), (256, 20, 1000), (448, 16, 0x12), (464, 16, 7)]

/-! Instructions: words at the ends of their fields, in the scalar and the vector form. -/

def word (d a b c imm : Nat) : IWord := ⟨BitVec.ofNat 4 d, BitVec.ofNat 4 a, BitVec.ofNat 4 b, BitVec.ofNat 4 c, BitVec.ofNat 10 imm⟩

theorem witness_fp_instructions :
    (∀ op ∈ [0x10, 0x11, 0x12, 0x14, 0x15, 0x16], Issues (prog {} inv1) 0 op (word 15 15 15 15 0) inv1 ∧ Issues (prog {} inv1) 0 op (word 15 15 15 0 0x200) inv1) ∧
    (∀ op ∈ [0x17, 0x18, 0x1A, 0x1B], Issues (prog {} inv1) 0 op (word 15 15 0 15 0) inv1 ∧ Issues (prog {} inv1) 0 op (word 15 15 0 0 0x200) inv1) ∧
    (Issues (prog {} inv1) 0 0x19 (word 15 15 15 15 0) inv1) ∧
    (∀ op ∈ [0x13, 0x1C], Issues (prog {} inv1) 0 op (word 15 15 15 15 0) inv1 ∧ Issues (prog {} inv1) 0 op (word 15 15 15 15 0x200) inv1) := by
  unfold Issues; decide +kernel

theorem witness_integer_instructions :
    (∀ op ∈ [0x20, 0x21, 0x22, 0x23, 0x24, 0x25, 0x26, 0x27, 0x28, 0x29],
      Issues (prog {} inv1) 0 op (word 15 15 15 15 0) inv1 ∧ Issues (prog {} inv1) 0 op (word 15 15 15 0 0x100) inv1 ∧
      Issues (prog {} inv1) 0 op (word 3 3 3 15 0x200) inv1) ∧
    (∀ op ∈ [0x27, 0x28, 0x29], Issues (prog {} inv1) 0 op (word 15 15 0 15 0x0FF) inv1 ∧ Issues (prog {} inv1) 0 op (word 3 3 0 15 0x2A0) inv1) := by
  unfold Issues; decide +kernel

theorem witness_moves_and_comparisons :
    Issues (prog {} inv1) 0 0x06 (word 15 0 0 0 0x200) inv1 ∧
    (∀ e ∈ [(0, word 15 15 0 15 0), (1, word 15 15 0 15 0x40), (2, word 15 15 0 0 0x9F), (3, word 15 15 0 0 0xC0), (4, word 3 15 0 15 0x100), (5, word 15 3 0 15 0x140),
        (6, word 3 3 0 0 0x180), (7, word 3 15 0 0 0x1C0), (8, word 15 3 0 0 0x200), (9, word 3 3 0 0 0x240), (11, word 3 15 0 0 0x2C0)],
      Issues (prog {} inv1) 0 0x07 e.2 inv1 ∧ field e.2.imm.toNat 6 4 = e.1 ∧ e.1 ≠ 10) ∧
    (Issues (prog {} inv1) 0 0x07 (word 15 0 0 0 0x28C) inv1 ∧ field (word 15 0 0 0 0x28C).imm.toNat 6 4 = 10 ∧
      ctxOk inv1.entry (isUpdate ((prog {} inv1).peal inv1.peal).desc) (field (word 15 0 0 0 0x28C).imm.toNat 0 5) = true) ∧
    Issues (prog {} inv1) 0 0x32 (word 15 15 15 3 0) inv1 ∧
    (∀ w ∈ [word 3 15 15 0 7, word 3 15 15 0 0x207], Issues (prog {} inv1) 0 0x30 w inv1) ∧
    (∀ w ∈ [word 3 15 15 0 0xD, word 3 15 15 0 0x105, word 3 3 3 0 0x205], Issues (prog {} inv1) 0 0x31 w inv1) := by
  unfold Issues; decide +kernel

theorem witness_conversions :
    (∀ k ≤ 5, Issues (prog (live sumDesc) inv1) 0 0x2C (word 15 15 0 15 (64 * k)) inv1) ∧ Issues (prog (live sumDesc) inv1) 0 0x2D (word 15 15 15 15 0x290) inv1 ∧
    Issues (prog (live sumDesc) inv1) 0 0x2E (word 15 15 15 15 0x290) inv1 ∧ (∀ k ≤ 12, Issues (prog (live sumDesc) inv1) 0 0x0C (word 15 3 15 15 (64 * k)) inv1) ∧
    Issues (prog (live sumDesc) inv1) 0 0x0E (word 3 3 0 15 0) inv1 := by
  unfold Issues; decide +kernel

/-- An invocation of that peal, with its shard. -/
def updState (i : Inv) : State :=
  let s := prog (live updDesc) i
  { s with spine := { s.spine with shards := [(7, { desc := desc [(36, 4, 1), (40, 4, 1), (160, 24, 64)], st := .bound })] } }

/-- The last access that fits each window. -/
def invOff (off : Nat) : Inv := { inv1 with s := BitVec.ofNat 32 off :: List.replicate 15 0, cell := some (sumCell 0), link := some 0 }
theorem witness_loads :
    (∀ e ∈ [(0x01, 0x180, 128), (0x01, 0x1E0, 252), (0x01, 0x330, 0), (0x01, 0x380, 3968), (0x02, 0x040, 0), (0x02, 0x0E0, 252), (0x02, 0x080, 128)],
      Issues (prog (live sumDesc) (invOff e.2.2)) 0 e.1 (word 0 0 0 0 e.2.1) (invOff e.2.2) ∧ accessOk (prog (live sumDesc) (invOff e.2.2)) (invOff e.2.2) (word 0 0 0 0 e.2.1) = true) ∧
    (∀ e ∈ [(0x04, 0x260, 0), (0x04, 0x2E0, 4)],
      Issues (updState (invOff e.2.2)) 0 e.1 (word 0 0 0 0 e.2.1) (invOff e.2.2) ∧ accessOk (updState (invOff e.2.2)) (invOff e.2.2) (word 0 0 0 0 e.2.1) = true) := by
  unfold Issues; decide +kernel

theorem witness_stores :
    (∀ imm ∈ [0x080, 0x0B6], accessOk (prog (live sumDesc) (invOff 128)) (invOff 128) (word 0 0 0 0 imm) = true) ∧
    (∀ e ∈ [word 0 0 15 15 0x080, word 0 0 3 15 0x0C0, word 0 0 15 0 0x0E6], Issues (prog (live sumDesc) (invOff 0)) 0 0x03 e (invOff 0) ∧ accessOk (prog (live sumDesc) (invOff 0)) (invOff 0) e = true) ∧
    (Issues (updState (invOff 0)) 0 0x05 (word 0 0 15 0 0x260) (invOff 0) ∧ accessOk (updState (invOff 0)) (invOff 0) (word 0 0 15 0 0x260) = true) := by
  unfold Issues; decide +kernel

/-- The table window with the image of user program 0x0100 in segment 16: entry points at words 2, 3, 4 and 5, one loop of BOUND 3 at word 5. -/
def userTable : Memory := ([(wProg + 4, [0x10, 0]), (wProg + 0x10010, toLE 4 2 ++ toLE 4 3 ++ toLE 4 4 ++ toLE 4 5), (wProg + 0x1003C, toLE 2 1),
  (wProg + 0x10040, toLE 4 (5 + 3 * 65536))] : List (Nat × Bytes)).foldl (fun m e => m.writes tblDefault e.1 e.2) []
def userDesc : BitVec 512 := desc [(28, 3, 2), (36, 4, 1), (40, 4, 1), (64, 4, 1), (80, 4, 4), (88, 8, 2), (96, 18, 4), (160, 24, 2048), (256, 20, 1000), (448, 16, 0x100)]
def user (p : Peal) (i : Inv) : State := let s := prog p i; { s with mem := { s.mem with tbl := userTable } }

/-- A PROGRAM peal with the user program and an open round, with nothing on core 0. -/
def userIdle (p : Peal) (k : Core) : State := { up with peals := [(0, p)], spine := { cores := [(0, k)] }, mem := { up.mem with tbl := userTable } }

def i5 (n : Nat) : Inv := { inv1 with pc := 5, taken := if n = 0 then [] else [(5, (5, n))] }

theorem witness_program_faults_memory :
    (∀ e ∈ [(0x01, word 0 0 0 0 0x180, 129), (0x01, word 0 0 0 0 0x180, 256), (0x02, word 0 0 0 0 0x040, 256), (0x03, word 0 0 15 0 0x0E6, 254), (0x04, word 0 0 0 0 0x260, 0), (0x05, word 0 0 15 0 0x260, 0)],
      Issues (prog (live sumDesc) (invOff e.2.2)) 0 e.1 e.2.1 (invOff e.2.2) ∧ accessOk (prog (live sumDesc) (invOff e.2.2)) (invOff e.2.2) e.2.1 = false) := by
  unfold Issues; decide +kernel

theorem witness_program_faults :
    (∀ imm ∈ [0x3FF, 0x3FA], ∀ n ∈ [3, 7], Issues (user (live userDesc) (i5 n)) 0 0x38 (word 0 0 0 0 imm) (i5 n) ∧ ((5 : Int) + 1 + (BitVec.ofNat 10 imm).toInt).toNat ≤ (i5 n).pc ∧
      (loopBound (user (live userDesc) (i5 n)) (dProgram userDesc) 5).getD 0 < ((i5 n).taken.look 5 (0, 0)).2 + 1) ∧
    (∀ q ∈ [2, 15], Issues (prog (live sumDesc) inv1) 0 0x08 (word 0 15 15 0 q) inv1 ∧ partsOf (dFmt sumDesc) (dResFmt sumDesc) ≤ q) ∧
    (let i : Inv := { inv1 with parts := [⟨1, [], 0⟩] }
     Issues (prog (live sumDesc) i) 0 0x08 (word 0 15 15 0 1) i ∧ i.parts.any (fun x => x.part == 1) = true) ∧
    (Issues (prog (live sumDesc) { inv1 with entry := 3 }) 0 0x08 (word 0 15 15 0 0) { inv1 with entry := 3 } ∧ partsDue sumDesc 3 = 0) ∧
    (Issues (prog (live sumDesc) inv1) 0 0x3D (word 0 0 0 0 0) inv1 ∧ 0 < partsDue sumDesc inv1.entry ∧ inv1.parts.any (fun x => x.part == 0) = false) ∧
    (∀ p ∈ [4096, 1], Issues (prog (live sumDesc) (invOff p)) 0 0x09 (word 0 0 15 0 0) (invOff p) ∧
      (4096 ≤ ((invOff p).sr 0).toNat ∨ ¬((prog (live sumDesc) (invOff p)).peal ((invOff p).sr 0).toNat).st = .running)) ∧
    (let i : Inv := { inv1 with v := List.replicate 512 0x7F800000 }
     Issues (prog (live sumDesc) i) 0 0x0B (word 0 0 0 0 0x100) i ∧ notFinite ((vregElts (word 0 0 0 0 0x100) i).getD 31 .nan) = true) ∧
    Issues (prog (live sumDesc) inv1) 0 0x3C (word 0 0 0 0 0) inv1 ∧
    (∀ op ∈ [(0x16, word 0 0 0 0 0x200), (0x17, word 0 0 0 0 0x200), (0x18, word 0 0 0 0 0x200)], Issues (prog (live sumDesc) inv1) 0 op.1 op.2 inv1) ∧
    (let s : State := { user (live userDesc) (i5 0) with fabric := { replicas := [(imageAddr (user (live userDesc) (i5 0)) 0x100 + 128 + 16, 15)] } }
     (s.core 0).inv = some (i5 0) ∧ fetchBad s (i5 0) = true) := by
  unfold Issues; decide +kernel

theorem witness_row_instructions :
    (Issues (prog (live sumDesc) { inv1 with cell := some (sumCell 0) }) 0 0x0A (word 0 0 0 0 0x080) { inv1 with cell := some (sumCell 0) } ∧ field (word 0 0 0 0 0x080).imm.toNat 8 2 = 0) ∧
    (Issues (prog (live sumDesc) inv1) 0 0x0A (word 0 15 0 15 0x1D0) inv1 ∧ field (word 0 15 0 15 0x1D0).imm.toNat 8 2 = 1) ∧
    (Issues (prog (live sumDesc) inv1) 0 0x0B (word 0 15 0 15 0x1D0) inv1 ∧ field (word 0 15 0 15 0x1D0).imm.toNat 8 2 = 1 ∧
      (vregElts (word 0 15 0 15 0x1D0) inv1).all (fun x => !notFinite x) = true) ∧
    (Issues (prog (live sumDesc) { inv1 with cell := some (sumCell 0x3FC0) }) 0 0x0B (word 0 0 0 0 0) { inv1 with cell := some (sumCell 0x3FC0) } ∧
      (cellElts sumDesc (sumCell 0x3FC0)).all (fun x => !notFinite x) = true) ∧
    (Issues (prog (live sumDesc) inv1) 0 0x0D (word 3 0 0 0 0) inv1 ∧ (invRow (prog (live sumDesc) inv1) inv1).1.spec = 0 ∧
      rowOk sumDesc (invRow (prog (live sumDesc) inv1) inv1).1 = true) ∧
    (let s := prog { live sumDesc with chunks := [(0, { rows := [(0, { spec := 1 })] })] } inv1
     Issues s 0 0x0D (word 3 0 0 0 0) inv1 ∧ (invRow s inv1).1.spec ≠ 0) ∧
    (let s := prog { live sumDesc with chunks := [(0, { rows := [(0, { resIn := 1 })] })] } inv1
     Issues s 0 0x0D (word 3 0 0 0 0) inv1 ∧ (invRow s inv1).1.spec = 0 ∧ rowOk sumDesc (invRow s inv1).1 = false) := by
  unfold Issues; decide +kernel

theorem witness_emit_and_echo :
    (Issues (prog (live sumDesc) inv1) 0 0x08 (word 0 15 15 0 0x010) inv1 ∧ 0 < partsOf (dFmt sumDesc) (dResFmt sumDesc) ∧ inv1.parts.any (fun x => x.part == 0) = false ∧
      partsDue sumDesc inv1.entry ≠ 0) ∧
    (Issues (prog (live sumDesc) inv1) 0 0x09 (word 15 0 15 0 0x010) inv1 ∧ (inv1.sr 0).toNat < 4096 ∧ dTag ((prog (live sumDesc) inv1).peal (inv1.sr 0).toNat).desc = dTag sumDesc ∧
      ((prog (live sumDesc) inv1).peal (inv1.sr 0).toNat).st = .running) ∧
    (let s := { prog (live sumDesc) (invOff 4095) with peals := [(0, live sumDesc), (4095, { live sumDesc with st := .armed })] }
     Issues s 0 0x09 (word 15 0 15 0 0x010) (invOff 4095) ∧ ((invOff 4095).sr 0).toNat < 4096 ∧ (s.peal ((invOff 4095).sr 0).toNat).st = .armed) := by
  unfold Issues; decide +kernel

theorem witness_control :
    (Issues (user (live userDesc) (i5 0)) 0 0x38 (word 0 0 0 0 0) (i5 0) ∧ (i5 0).pc < ((5 : Int) + 1 + (BitVec.ofNat 10 0).toInt).toNat) ∧
    (∀ imm ∈ [0x3FF, 0x3FA], ∀ n ∈ [0, 2], Issues (user (live userDesc) (i5 n)) 0 0x38 (word 0 0 0 0 imm) (i5 n) ∧ ((5 : Int) + 1 + (BitVec.ofNat 10 imm).toInt).toNat ≤ (i5 n).pc ∧
      ((i5 n).taken.look 5 (0, 0)).2 + 1 ≤ (loopBound (user (live userDesc) (i5 n)) (dProgram userDesc) 5).getD 0) ∧
    (Issues (user (live userDesc) (i5 0)) 0 0x39 (word 2 0 0 3 0x1FF) (i5 0) ∧ predTest 2 ((i5 0).pr 3) = true ∧ (i5 0).pc < ((5 : Int) + 1 + (BitVec.ofNat 10 0x1FF).toInt).toNat) ∧
    (Issues (user (live userDesc) (i5 2)) 0 0x39 (word 2 0 0 3 0x3FF) (i5 2) ∧ predTest 2 ((i5 2).pr 3) = true) ∧
    (Issues (user (live userDesc) (i5 2)) 0 0x39 (word 0 0 0 3 0x3FF) (i5 2) ∧ predTest 0 ((i5 2).pr 3) = false) ∧
    Issues (user (live userDesc) (i5 0)) 0 0x3A (word 0 0 0 0 0) (i5 0) ∧
    (let s := { prog (live sumDesc) (invOff 9) with peals := [(0, live sumDesc), (9, { live sumDesc with linkStep := some 0 })] }
     Issues s 0 0x3A (word 0 0 0 0 1) (invOff 9) ∧ linkSealed s (invOff 9) ((invOff 9).sr 0).toNat = true) ∧
    (let s := { prog (live sumDesc) (invOff 9) with peals := [(0, live sumDesc), (9, live sumDesc)] }
     Issues s 0 0x3A (word 0 0 0 0 1) (invOff 9) ∧ linkSealed s (invOff 9) ((invOff 9).sr 0).toNat = false) ∧
    Issues (user (live userDesc) (i5 0)) 0 0x3B (word 0 0 0 0 0) (i5 0) ∧
    (let i : Inv := { inv1 with parts := [⟨0, [], 0⟩] }
     Issues (prog (live userDesc) i) 0 0x3D (word 0 0 0 0 0) i ∧ partsDue userDesc i.entry = 1 ∧ i.parts.any (fun x => x.part == 0) = true) := by
  unfold Issues; decide +kernel

theorem witness_entry_points :
    (userEntry (userIdle (live userDesc) {}) (dProgram userDesc) 0 = some 2 ∧ coreFree (userIdle (live userDesc) {}) 0 0 = true ∧
      (((userIdle (live userDesc) { queue := [(0, 0, sumCell 0)] }).core 0).queue.find? fun q => q.1 == 0 && q.2.1 == 0 && q.2.2.index == 0x400) = some (0, 0, sumCell 0)) ∧
    (let s := userIdle { live userDesc with chunks := [(0, { complete := true })] } {}
     rowWaits s (cellCore s userDesc 0) 0 0 = true ∧ userEntry s (dProgram userDesc) 1 = some 3) ∧
    (let d := desc [(28, 3, 2), (36, 4, 1), (40, 4, 1), (64, 4, 1), (160, 24, 1), (448, 16, 0x100)]
     let s := userIdle { live d with chunks := [(0, { complete := true, ended := [0] })] } {}
     libProgram (dProgram d) = false ∧ userEntry s (dProgram d) 2 = some 4 ∧ stepWaits s (cellCore s d 0) 0 0 = some false) ∧
    (let s := userIdle (live userDesc) { voids := [(0, 1, 3, 8)] }
     ((s.core 0).voids.find? fun v => v.1 == 0) = some (0, 1, 3, 8) ∧ userEntry s (dProgram userDesc) 3 = some 5 ∧ (s.core 0).inv = none) ∧
    (let s : State := { up with peals := [(0, { live sumDesc with chunks := [(0, { complete := true })] })] }
     rowWaits s (cellCore s sumDesc 0) 0 0 = true ∧ userEntry s (dProgram sumDesc) 1 = none ∧ isUpdate sumDesc = false ∧ rowOk sumDesc {} = true) ∧
    (let s : State := { up with peals := [(0, { live sumDesc with chunks := [(0, { complete := true, rows := [(0, { resIn := 1 })] })] })] }
     rowWaits s (cellCore s sumDesc 0) 0 0 = true ∧ userEntry s (dProgram sumDesc) 1 = none ∧ rowOk sumDesc { resIn := 1 } = false) ∧
    (let s : State := { up with spine := { cores := [(527, { voids := [(4095, 1, 3, 8)] })] } }
     ((s.core 527).voids.find? fun v => v.1 == 4095) = some (4095, 1, 3, 8) ∧ userEntry s (dProgram sumDesc) 3 = none) := by
  decide +kernel

/-! Mailbox messages. -/

def bod (n : Nat) (fs : List (Nat × Nat × Nat)) : Bytes := fs.foldl (fun b f => putLE b f.1 f.2.1 f.2.2) (zeros n)

/-- A direct message on mailbox 1 with SEQID 1. -/
def ask (b : Bytes) : Msg := { mbx := 1, ver := 1, flags := 0, seqid := 1, len := BitVec.ofNat 32 b.length, rsvd := 0, body := b }

/-- A message is served, and its body reads as it was written. -/
def serves (op : Nat) (b : Bytes) (s : State) : Prop := Served op (ask b) s ∧ reqBody (ring op (ask b) s) (ask b) = b

def tagged : State := { up with fabric := { tags := [(0x123, 0xFF)] } }
def logged : State := { up with logs := { events := [⟨0x4003, true, 7, 0, zeros 16⟩], ledgers := [(4, { flash := [(3, zeros 64)] })] } }
/-- A chip with 2-wide port 1022, configured and judged against its plan record. -/
def cabled : State := { up with
  ports := [(1022, { width := 2, enabled := true, judged := some ⟨5, 0x1003, 0, 9, 6, 2⟩ })]
  fabric := { plan := { loaded := true, planTag := 9, recs := [(1022, ⟨2, 1, 6, 2, 1, 0, 5⟩)] } } }

theorem witness_response : respAddr (ask []) = none ∧ (1 : Nat) ≠ (ask []).mbx.val + 1 := by decide +kernel

theorem witness_sessions :
    (let s : State := { up with host := { up.host with session := false, features := 0 } }
     let b := bod 32 [(0, 8, 0x102FCF), (8, 2, 1), (12, 4, 65536), (16, 8, 4096)]
     serves 0x01 b s ∧ zeroAt b 10 2 = true ∧ eqSizeOk (le b 12 4) = true ∧ le b 16 8 % 4096 = 0 ∧ zeroAt b 24 8 = true ∧ heldState (ring 0x01 (ask b) s) = false) ∧
    serves 0x02 [] up ∧
    (let b := bod 136 [(0, 2, 4095), (8 + 127, 1, 0x40)]
     serves 0x50 b cabled ∧ le b 0 2 < 4096 ∧ zeroAt b 2 6 = true ∧ (∀ p ∈ maskPorts (BitVec.ofNat 1024 (le b 8 128)), (ring 0x50 (ask b) cabled).hasPort p = true) ∧
       (ring 0x50 (ask b) cabled).fabric.tags.look? (le b 0 2) = none ∧
       (∀ p ∈ maskPorts (BitVec.ofNat 1024 (le b 8 128)), (planRec (ring 0x50 (ask b) cabled) p).isSome = true ∧ planCode (ring 0x50 (ask b) cabled) p ∉ [1, 2, 3])) ∧
    (let b := bod 24 [(0, 4, 7), (4, 4, 4096), (8, 8, 64)]
     serves 0xB2 b logged ∧ 1 ≤ le b 4 4 ∧ le b 4 4 ≤ 4096 ∧ le b 8 8 % 64 = 0 ∧ zeroAt b 16 8 = true ∧ eventsFrom logged (BitVec.ofNat 32 (le b 0 4)) ≠ [] ∧
       (ring 0xB2 (ask b) logged).dmaBad (le b 8 8) 64 = false) ∧
    (let b := bod 32 [(0, 1, 4), (4, 4, 65536), (16, 8, 64)]
     serves 0xB1 b logged ∧ byteAt b 0 < 5 ∧ zeroAt b 1 3 = true ∧ 1 ≤ le b 4 4 ∧ le b 4 4 ≤ 65536 ∧ zeroAt b 24 8 = true ∧ ledgerFrom logged 4 0 1 ≠ [] ∧
       (ring 0xB1 (ask b) logged).dmaBad (le b 16 8) 64 = false) := by
  unfold serves Served; and_intros <;> decide +kernel

/-- QUERY_INFO and LAST_QUERY answer up to 16,416 bytes, so they are asked INDIRECT for the longest page. -/
def askInd (b : Bytes) (n : Nat) : Msg :=
  { mbx := 1, ver := 1, flags := 1, seqid := 1, len := BitVec.ofNat 32 b.length, rsvd := 0, body := bod 32 [(0, 8, 4096), (8, 8, 8192), (16, 4, n)] }
def hosting (b : Bytes) (s : State) : State := { s with mem := { s.mem with host := Memory.writes zeroDefault [] 4096 b } }
def lasted : State := { up with lasts := [(1, ⟨zeros 32, [], none⟩), (7, ⟨zeros 32, [], some (zeros 32, [])⟩)] }

theorem witness_reports :
    (∀ pg ∈ [0, 3], let b := bod 8 [(0, 1, pg)]
      Served 0x10 (askInd b 8176) (hosting b up) ∧ byteAt (reqBody (hosting b up) (askInd b 8176)) 0 < 4 ∧ zeroAt (reqBody (hosting b up) (askInd b 8176)) 1 7 = true) ∧
    Served 0x21 (askInd [] 16400) up ∧
    (let b := bod 4 [(0, 2, 4095)]; serves 0x63 b up ∧ le b 0 2 < 4096 ∧ zeroAt b 2 2 = true) ∧
    serves 0x81 [] up ∧ serves 0xA1 [] up ∧ serves 0xC0 [] up ∧
    (∀ e ∈ [(1, 0), (7, 0), (7, 1)], let b := bod 8 [(0, 1, e.1), (1, 1, e.2)]
      Served 0xD1 (askInd b 16416) (hosting b lasted) ∧ byteAt (reqBody (hosting b lasted) (askInd b 16416)) 0 = e.1 ∧ zeroAt (reqBody (hosting b lasted) (askInd b 16416)) 2 6 = true ∧
        (lasted.lasts.look? e.1).isSome = true) := by
  unfold serves Served; and_intros <;> decide +kernel

def changing : State := { up with fabric := { open_ := true, epoch := 3 } }
def planBody : Bytes := bod 80 [(0, 4, 0x11040), (4, 4, 1), (8, 8, 77), (16, 4, 9), (20, 1, 100), (21, 1, 99), (22, 1, 16), (23, 1, 12), (24, 2, 10000), (26, 1, 16), (28, 4, 60000),
  (64, 2, 1022 + 1 * 1024), (66, 2, 6 + 1 * 1024), (68, 4, 1), (72, 8, 5)]

theorem witness_tables :
    (let r := ring 0x20 (ask planBody) up
     serves 0x20 planBody up ∧ firstOf (planHeader planBody ++ [(List.range (bodyRecs planBody).length).findSome? fun k => recCheck r planBody (bodyRecs planBody) k]) = none ∧
       (planOf planBody).circOrder.length ≤ 128 ∧ (∀ e ∈ r.ports, e.2.st ≠ .up) ∧ r.fabric.tags = []) ∧
    (let b := bod 8 [(0, 1, 3)]; let s : State := { up with fabric := { epoch := 3 } }
     serves 0x30 b s ∧ zeroAt b 1 7 = true ∧ s.fabric.open_ = false ∧ s.fabric.drain = none ∧ byteAt b 0 = s.fabric.epoch ∧ byteAt b 0 < 4) ∧
    (∀ n ∈ [0, 100, 100000], let b := bod 8 [(0, 4, n)]; let r := ring 0x31 (ask b) changing
     serves 0x31 b changing ∧ (le b 0 4 = 0 ∨ 100 ≤ le b 0 4 ∧ le b 0 4 ≤ 100000) ∧ zeroAt b 4 4 = true ∧ r.fabric.open_ = true ∧ r.mem.locked = [] ∧
       commitFail r (1 - r.fabric.epoch % 2) = none) ∧
    (serves 0x32 [] changing ∧ changing.fabric.open_ = true) := by
  unfold serves Served; and_intros <;> decide +kernel

def locked : State := { up with mem := { locked := [16, 17, 32, 33] }, fabric := { open_ := true } }
theorem witness_table_access :
    (let b := bod 24 [(4, 4, 16), (8, 8, 0x0FFFFFF0), (16, 8, 64)]
     serves 0x33 b up ∧ accessCheck (withAction 0 0 b) = none ∧ (ring 0x33 (ask b) up).dmaBad (le b 16 8) (le b 4 4) = false) ∧
    (let b := bod 24 [(0, 1, 1), (4, 4, 16), (8, 8, 0x20FF8), (16, 8, 64)]; let r := ring 0x33 (ask b) locked
     serves 0x33 b locked ∧ accessCheck (withAction 0 1 b) = none ∧ restricted r = false ∧
       (segsOf (le b 8 8) (le b 4 4)).findSome? (fun g => (writeRefusal r g).map fun x => (g, x)) = none ∧ r.dmaBad (le b 16 8) (le b 4 4) = false ∧
       (∀ p ∈ piecesOf (le b 8 8) (r.hostRead (le b 16 8) (le b 4 4)), segOf (p.1 / 4096) ≠ .bitmap ∧ editRefused r p.1 p.2 = false)) ∧
    (let b := bod 24 [(0, 1, 2), (4, 4, 8192), (8, 8, 0x11000)]; let r := ring 0x33 (ask b) locked
     serves 0x33 b locked ∧ accessCheck (withAction 0 2 b) = none ∧ restricted r = false ∧ (∀ g ∈ segsOf (le b 8 8) (le b 4 4), (segOf g).lockable = true) ∧
       ((segsOf (le b 8 8) (le b 4 4)).filter fun g => !r.isLocked g) = [18]) ∧
    (∀ a ∈ [3, 4], let b := bod 24 [(0, 1, a), (4, 4, 8192), (8, 8, 0x10000)]
     serves 0x33 b locked ∧ accessCheck (withAction 0 a b) = none ∧ restricted locked = false) := by
  unfold serves Served; and_intros <;> decide +kernel

def portBody (p w b3 prof : Nat) : Bytes :=
  bod 208 ([(0, 2, p), (2, 1, w), (3, 1, b3), (4, 1, prof), (27, 1, 1), (28, 3, 1204 * 2 ^ w), (32, 4, 1), (36, 4, 64 * 2 ^ w)] ++ (List.range 7).map fun v => (16 + v, 1, 1))
def ported (st : PState) : State := { up with ports := [(1020, { width := 4, enabled := true, longReach := true, profile := 3, st := st, trained := true }), (1024, weltReset)] }

theorem witness_port_config :
    (let b := portBody 1016 3 3 3; let r := ring 0x40 (ask b) up
     serves 0x40 b up ∧ firstOf (configFields (withBits false false b)) = none ∧ 1016 % 8 = 0 ∧ overlaps r 1016 8 = false ∧ qosCheck (withBits false false b) 8 = none ∧
       reachBreaks r = false ∧ r.hasPort 1016 = false) ∧
    (let b := portBody 1020 2 3 3; let r := ring 0x40 (ask b) (ported .up); let q := r.port 1020
     serves 0x40 b (ported .up) ∧ overlaps r 1020 4 = false ∧ qosCheck (withBits false false b) 4 = none ∧ reachBreaks r = false ∧
       q.width = 4 ∧ q.longReach = bit (byteAt b 3) 1 ∧ q.profile = byteAt b 4) ∧
    (∀ st ∈ [PState.down, .absent, .fenced], let b := portBody 1020 0 1 0; let r := ring 0x40 (ask b) (ported st)
     serves 0x40 b (ported st) ∧ overlaps r 1020 1 = false ∧ qosCheck (withBits false false b) 1 = none ∧ (r.port 1020).st = st) ∧
    (let b := withBits true false (portBody 1020 2 7 3); let r := ring 0x40 (ask b) (ported .fenced); let q := r.port 1020
     serves 0x40 b (ported .fenced) ∧ firstOf (configFields b) = none ∧ r.hasPort 1020 = true ∧ 2 ^ byteAt b 2 = q.width ∧ bit (byteAt b 3) 0 = q.enabled ∧
       bit (byteAt b 3) 1 = q.longReach ∧ byteAt b 4 = q.profile ∧ qosCheck b q.width = none) ∧
    (let b := withBits false true (portBody 1020 2 8 3); let r := ring 0x40 (ask b) (ported .down)
     serves 0x40 b (ported .down) ∧ firstOf (configFields b) = none ∧ firstOf (qosReserved b) = none ∧ r.hasPort 1020 = true ∧ (r.port 1020).st = .down) := by
  unfold serves Served; and_intros <;> decide +kernel

theorem witness_port_moves :
    (∀ p ∈ [1020, 1024], ∀ e ∈ [(0x41, none), (0x43, some 0), (0x43, some 1)], let b := bod 4 [(0, 2, p), (2, 1, (e.2 : Option Nat).getD 0)]; let r := ring e.1 (ask b) (ported .up)
      serves e.1 b (ported .up) ∧ portThere r p = true ∧ byteAt b 2 = e.2.getD 0 ∧ byteAt b 3 = 0 ∧ ((ported .up).port p).st ≠ .fenced ∧ ((ported .up).port p).enabled = true ∧
        condemned (ported .up) p = false) ∧
    (let b := bod 4 [(0, 2, 1020)]; serves 0x42 b (ported .fenced) ∧ portThere (ring 0x42 (ask b) (ported .fenced)) 1020 = true ∧ ((ported .fenced).port 1020).st = .fenced) := by
  unfold serves Served; and_intros <;> decide +kernel

def admitBody : Bytes := toLE 64 (desc [(0, 12, 4095), (16, 12, 0x123), (28, 3, 2), (36, 4, 1), (64, 4, 8), (80, 4, 10), (84, 4, 12), (88, 8, 1), (96, 18, 131072), (160, 24, 16777214),
  (224, 16, 64), (240, 4, 8), (256, 20, 10)]).toNat
/-- Peal 4095 with one member at the last entry, FA 0xFFFFF. -/
def memberDesc (tw : Nat) : BitVec 512 := desc [(0, 12, 4095), (16, 12, 0x123), (28, 3, 2), (36, 4, 1), (56, 1, tw), (64, 4, 1), (80, 4, 4), (88, 8, 2), (96, 18, 1), (128, 23, 8388607), (160, 24, 2048), (256, 20, 1000)]
def pealed (tw : Nat) (st : PealSt) : State := { tagged with
  peals := [(4095, { desc := memberDesc tw, st := st, fas := [(0xFFFFF, 0)] })]
  mem := { tbl := Memory.writes tblDefault [] (memberAddr 8388607) (toLE 8 0x7FFFFF) }
  twin := { st := .paired } }

theorem witness_peal_messages :
    (let b := bod 4 [(0, 2, 0x123)]; serves 0x51 b tagged ∧ le b 0 2 < 4096 ∧ zeroAt b 2 2 = true ∧ ((ring 0x51 (ask b) tagged).fabric.tags.look? 0x123).isSome = true) ∧
    (let r := ring 0x60 (ask admitBody) tagged; let d := BitVec.ofNat 512 (le admitBody 0 64)
     serves 0x60 admitBody tagged ∧ firstOf (admitChecks r d) = none ∧ (placement r d).isSome = true ∧ (memberFit r (dMembers d)).isSome = true ∧ memberRoom r d = true) ∧
    (∀ tw ∈ [0, 1], ∀ st ∈ [PealSt.admitted, .voided], let b := bod 4 [(0, 2, 4095)]; let r := ring 0x61 (ask b) (pealed tw st)
     serves 0x61 b (pealed tw st) ∧ zeroAt b 2 2 = true ∧ firstOf (armChecks r 4095) = none ∧ dTwinned (r.peal 4095).desc = (tw == 1)) ∧
    (∀ st ∈ [PealSt.admitted, .retiring], let b := bod 4 [(0, 2, 4095)]; serves 0x62 b (pealed 0 st) ∧ ((ring 0x62 (ask b) (pealed 0 st)).peal 4095).st = st) ∧
    (∀ st ∈ [PealSt.armed, .running, .sealed], let b := bod 4 [(0, 2, 4095), (2, 1, 1)]
     serves 0x64 b (pealed 0 st) ∧ byteAt b 2 < 2 ∧ zeroAt b 3 1 = true ∧ roundLive ((ring 0x64 (ask b) (pealed 0 st)).peal 4095) = true) := by
  unfold serves Served; and_intros <;> decide +kernel

def shardDesc (tw : Nat) : BitVec 512 := desc [(0, 12, 4095), (16, 12, 0x123), (32, 4, 1), (36, 1, tw), (48, 24, 16)]
def sharded (st : ShardSt) (pst : PealSt) : State := { tagged with
  peals := [(4095, { desc := desc [(0, 12, 4095), (16, 12, 0x123), (28, 3, 5), (36, 4, 1), (40, 4, 1), (64, 4, 1), (96, 18, 1), (160, 24, 16), (448, 16, 0x12), (464, 16, 4095)], st := pst, step := 8 })]
  spine := { shards := [(4095, { desc := shardDesc 0, st := st, peal := 4095, pending := true, pendStep := 7, nextCell := 15 })] } }

theorem witness_shard_create :
    (let b := toLE 64 (shardDesc 1).toNat
     let r := ring 0x70 (ask b) tagged
     serves 0x70 b tagged ∧ shardFault (shardDesc 1) = none ∧ recordFault (normRecords b) = none ∧ shardConsistent (shardDesc 1) (normRecords b) = true ∧
       r.host.features.getLsbD 3 = true ∧ (r.fabric.tags.look? (shTag (shardDesc 1))).isSome = true ∧ (r.shard 4095).st = .free ∧ shNormEn (shardDesc 1) = false ∧
       ∀ start < 128, shardRoom r (shardDesc 1) start = true) := by
  unfold serves Served; and_intros <;> decide +kernel

/-- The channel offset is a free value below 128, so the room is there whatever it is. -/
theorem witness_shard_create_room : shardRoom (ring 0x70 (ask (toLE 64 (shardDesc 1).toNat)) tagged) (shardDesc 1) (Config.extentStart tagged.free).toNat = true :=
  witness_shard_create.2.2.2.2.2.2.2.2 _ (Config.extentStart tagged.free).isLt

set_option maxRecDepth 4096 in
theorem witness_shard_messages :
    (let b := bod 288 [(0, 2, 4095), (8, 8, 8)]; let s := sharded .bound .armed; let r := ring 0x71 (ask b) s
     serves 0x71 b s ∧ zeroAt b 2 6 = true ∧ zeroAt b 24 8 = true ∧ updatePeal r 4095 = true ∧ le b 8 8 = nextParams (r.peal 4095) ∧ notLost r 4095 = true) ∧
    (let b := bod 16 [(0, 2, 4095), (8, 8, 7)]; let s := sharded .bound .armed; let r := ring 0x72 (ask b) s
     serves 0x72 b s ∧ firstOf (commitFields r b) = none ∧ le b 8 8 < (r.peal 4095).step ∧ rollbackOk r (le b 0 2) (le b 8 8) = true) ∧
    (let b := bod 16 [(0, 2, 4095), (8, 8, 8)]; let s := sharded .bound .sealed; let r := ring 0x72 (ask b) s
     serves 0x72 b s ∧ firstOf (commitFields r b) = none ∧ rollbackOk r (le b 0 2) (le b 8 8) = true) ∧
    (∀ k ∈ [0, 1], ∀ st ∈ [ShardSt.ready, .bound], let b := bod 32 [(0, 2, 4095), (2, 1, k), (8, 4, 15), (12, 4, 1), (16, 8, 64)]; let s := sharded st .armed; let r := ring 0x73 (ask b) s
     serves 0x73 b s ∧ byteAt b 2 < 2 ∧ firstOf (moveFields b) = none ∧ zeroAt b 24 8 = true ∧ (r.shard 4095).st = st ∧ (r.shard 4095).pending = true ∧
       le b 8 4 + le b 12 4 ≤ shCells (r.shard 4095).desc ∧ r.dmaBad (le b 16 8) (le b 12 4 * sliceBytes (r.shard 4095).desc) = false) ∧
    (∀ st ∈ [ShardSt.loading, .ready, .bound], let b := bod 40 [(0, 2, 4095), (2, 1, 1), (8, 4, 15), (12, 4, 1), (16, 8, 64), (24, 4, crc32c (zeros 448))]; let s := sharded st .admitted; let r := ring 0x74 (ask b) s
     serves 0x74 b s ∧ byteAt b 2 < 2 ∧ firstOf (moveFields b) = none ∧ zeroAt b 28 4 = true ∧ (r.shard 4095).st = st ∧ (r.peal (r.shard 4095).peal).st = .admitted ∧
       le b 8 4 = (r.shard 4095).nextCell ∧ le b 8 4 + le b 12 4 = shCells (r.shard 4095).desc ∧ r.dmaBad (le b 16 8) (le b 12 4 * sliceBytes (r.shard 4095).desc) = false ∧
       crc32c (r.hostRead (le b 16 8) (le b 12 4 * sliceBytes (r.shard 4095).desc)) = le b 24 4) := by
  unfold serves Served; and_intros <;> decide +kernel

def pairing (st : Pair) : State := { up with fabric := { plan := { loaded := true, twinChip := 77 } }, twin := { st := st, rebuild := true, tookOver := true } }

theorem witness_pair_messages :
    (∀ q ∈ [8, 64], ∀ d ∈ [10, 1000], ∀ h ∈ [10, 60000], let b := bod 32 [(1, 1, q), (4, 4, d), (8, 8, 77), (16, 4, h)]; let r := ring 0x80 (ask b) (pairing .solo)
     serves 0x80 b (pairing .solo) ∧ le b 8 8 ≠ 0 ∧ le b 8 8 = r.fabric.plan.twinChip.toNat ∧ 8 ≤ byteAt b 1 ∧ byteAt b 1 ≤ 64 ∧ zeroAt b 2 2 = true ∧
       10 ≤ le b 4 4 ∧ le b 4 4 ≤ 1000 ∧ 10 ≤ le b 16 4 ∧ le b 16 4 ≤ 60000 ∧ zeroAt b 20 12 = true ∧ r.twin.st = .solo) ∧
    (let b := bod 32 [(0, 1, 1)]; let r := ring 0x80 (ask b) (pairing .orphan)
     serves 0x80 b (pairing .orphan) ∧ zeroAt b 2 2 = true ∧ zeroAt b 20 12 = true ∧ twinnedAdmitted r = false ∧ r.twin.st ≠ .takeover) ∧
    (∀ st ∈ [Pair.orphan, .takeover, .solo], let b := bod 16 [(0, 8, 77)]; let r := ring 0x82 (ask b) (pairing st)
     serves 0x82 b (pairing st) ∧ le b 0 8 = r.fabric.plan.twinChip.toNat ∧ zeroAt b 8 8 = true ∧ r.twin.st = st ∧ r.twin.tookOver = true) ∧
    (∀ a ∈ [0, 1], let b := bod 16 [(0, 1, a), (8, 8, 77)]; let r := ring 0x83 (ask b) (pairing .syncing)
     serves 0x83 b (pairing .syncing) ∧ firstOf (rebuildFields r b) = none ∧ r.twin.st = .syncing ∧ r.twin.isNew = false ∧ r.twin.rebuild = true) := by
  unfold serves Served; and_intros <;> decide +kernel

def slotA : Slot := ⟨19, false, 7, 5, 1, 9⟩
def sched1 : Schedule := ⟨1, 200000, 2, 2, 100, 15, 1, 1, 1, [slotA]⟩
def optical (c : Circ) : State := { up with
  ports := [(1023, { enabled := true })], fabric := { plan := { loaded := true, recs := [(1023, ⟨1, 2, 0, 1, 0, 0, 0⟩)] } }, time := { st := .locked, valid := true }, circ := [(1023, c)] }

theorem witness_circuit_messages :
    (let b := bod 80 [(0, 2, 1023), (2, 2, 1), (4, 4, 1), (8, 8, 200000), (16, 4, 2), (20, 4, 2), (24, 4, 100), (28, 2, 15), (30, 1, 1), (31, 1, 1), (32, 2, 1), (64, 4, 19), (68, 2, 5), (72, 8, 9)]
     serves 0x90 b (optical {}) ∧ firstOf (scheduleChecks (ring 0x90 (ask b) (optical {})) b) = none) ∧
    (let b := bod 8 [(0, 2, 1023)]; let r := ring 0x91 (ask b) (optical { sched := some sched1 })
     serves 0x91 b (optical { sched := some sched1 }) ∧ restricted r = false ∧ firstOf (armFields (withAction 2 0 b)) = none ∧ timeLocked r = true ∧ (r.port 1023).st ≠ .fenced ∧
       (r.circOf 1023).armed = false ∧ (r.circOf 1023).sched = some sched1) ∧
    (∀ c ∈ [({ armed := false } : Circ), { armed := true }, { armed := true, ended := true }], let b := bod 8 [(0, 2, 1023), (2, 1, 1)]; let r := ring 0x91 (ask b) (optical c)
     serves 0x91 b (optical c) ∧ firstOf (armFields (withAction 2 1 b)) = none ∧ r.circOf 1023 = c ∧ c.succ = none) ∧
    (∀ e ∈ [(1, 1, 0), (15, 3600000, 1000000000), (2, 1, 0)], let b := bod 32 [(0, 1, e.1), (4, 4, e.2.1), (8, 8, e.2.2), (16, 2, 10000), (18, 2, 10000)]
     serves 0xA0 b up ∧ byteAt b 0 ≠ 0 ∧ byteAt b 0 < 16 ∧ zeroAt b 2 2 = true ∧ 1 ≤ le b 4 4 ∧ le b 4 4 ≤ 3600000 ∧ (bit (byteAt b 0) 1 = true → le b 8 8 % 1000000000 = 0) ∧
       (bit (byteAt b 0) 3 = true → le b 8 8 ≠ 0 ∧ (ring 0xA0 (ask b) up).time.valid = false) ∧ (bit (byteAt b 0) 1 = false → bit (byteAt b 0) 3 = false → le b 8 8 = 0) ∧
       le b 16 2 ≤ 10000 ∧ le b 18 2 ≤ 10000 ∧ zeroAt b 21 11 = true) := by
  unfold serves Served; and_intros <;> decide +kernel

def staged (p mode : Nat) : State := { up with
  ctl := { running := (List.range 5).map fun k => (k, { hdr := shippedManifest k, sigOk := true, hashOk := true }), stageSt := [(p, 2)] }
  lasts := [], flash := { shippedFlash with cfg := [(2, ⟨1, 0, bod 8 [(0, 1, mode)]⟩)] } }
def activates (p mode : Nat) : Prop :=
  let b := bod 16 [(0, 1, p)]
  let b := putBytes b 8 (verTriple (shippedManifest p))
  let r := ring 0xC1 (ask b) (staged p mode)
  let st := (stagedImage r p).getD ⟨[], false, false⟩
  serves 0xC1 b (staged p mode) ∧ byteAt b 0 = p ∧ p < 5 ∧ zeroAt b 1 7 = true ∧ zeroAt b 14 2 = true ∧ r.ctl.stageSt.look p 0 = 2 ∧ (b.drop 8).take 6 = verTriple st.hdr ∧
    r.ctl.act = none ∧ r.flash.trial = 0 ∧ r.chip.st = .service ∧ imageValid r.flash p st = true ∧ compatible (setWith r p st.hdr) (lastsWith r p) = true ∧
    (p = 1 → majorOf st.hdr = libMajor r ∨ heldPeals r = []) ∧ twinAgrees r p st.hdr = true ∧ wantsHandover r = (mode == 1) ∧ needsPause st.hdr = false ∧ r.host.features.getLsbD 5 = true

theorem witness_fw_activate : activates 0 0 ∧ activates 0 1 ∧ activates 1 0 ∧ activates 2 1 ∧ activates 3 0 ∧ activates 4 0 := by
  unfold activates serves Served; and_intros <;> decide +kernel

theorem witness_control_messages :
    (let b := bod 8 []; serves 0xB0 b up ∧ byteAt b 0 = 0 ∧ zeroAt b 1 7 = true ∧ (ring 0xB0 (ask b) up).logs.freeze = none) ∧
    (let s : State := { up with flash := { shippedFlash with lmsNext := lmsBlocks - 1 }, time := { frc := 10000000000 }, ctl := { quoteAt := some 0 } }
     let m := { askInd (bod 40 [(0, 1, 7)]) 8192 with seqid := 5 }
     let t := hosting (bod 40 [(0, 1, 7)]) s
     Served 0xC2 m t ∧ zeroAt (reqBody (ring 0xC2 m t) m) 32 8 = true ∧ (ring 0xC2 m t).flash.lmsNext < lmsBlocks ∧ (ring 0xC2 m t).ctl.quoteAt = some 0 ∧ 0 + 10000000000 ≤ (ring 0xC2 m t).now) ∧
    (let b := fit 32 (shippedHeader 6) ++ shippedBody 6; let s : State := { staged 3 0 with lasts := [(6, ⟨shippedHeader 6, shippedBody 6, none⟩)] }; let r := ring 0xD0 (ask b) s
     serves 0xD0 b s ∧ lastFault r b = none ∧ lastPending r (byteAt b 0) = false ∧ r.ctl.stageSt.look 4 0 ≠ 2 ∧ inTrial r 4 = false) ∧
    (∀ e ∈ [(0, 0, 1, 10), (1, 63, 3600, 1000)], let b := bod 32 [(0, 1, e.1), (1, 1, e.2.1), (4, 4, e.2.2.1), (8, 8, 4096), (16, 4, e.2.2.2)]
     serves 0xE0 b up ∧ byteAt b 0 < 2 ∧ byteAt b 1 < 64 ∧ (byteAt b 0 = 1 → byteAt b 1 ≠ 0) ∧ zeroAt b 2 2 = true ∧ 1 ≤ le b 4 4 ∧ le b 4 4 ≤ 3600 ∧ le b 8 8 % 4096 = 0 ∧
       10 ≤ le b 16 4 ∧ le b 16 4 ≤ 1000 ∧ zeroAt b 20 12 = true) := by
  unfold serves Served; and_intros <;> decide +kernel

theorem witness_replay_and_overrun :
    (∀ e ∈ [(none, false), (some 8192, false), (some 8192, true)], ∀ busy ∈ [false, true],
      let x : Mailbox := { any := true, lastSeq := 1, busy := busy, saved := zeros 20, savedIn := e.1 }
      let s : State := { up with host := { up.host with mbx := [(1, x)] }, mem := { dmaFail := if e.2 then [(8192, 1)] else [] } }
      (s.mbx 1).any = true ∧ (s.mbx 1).lastSeq = (ask []).seqid ∧ (s.mbx 1).busy = busy ∧ (s.mbx 1).savedIn = e.1 ∧ s.dmaBad 8192 ((s.mbx 1).saved.drop 16).length = e.2) := by
  decide +kernel

theorem witness_host_writes :
    (up.host.cxlUp = true ∧ up.chip.inReset = false ∧ up.host.features.getLsbD 8 = true) ∧
    (let s : State := { up with host := { up.host with features := 0 } }
     s.host.cxlUp = true ∧ s.chip.inReset = false ∧ s.host.features.getLsbD 8 = false) ∧
    (∀ pid ∈ [0x100, 0x4FF], let s : State := { up with mem := { tbl := Memory.writes tblDefault [] (dirAddr pid + 2) [1] } }
     userProgram pid = true ∧ progState s pid = 1 ∧ checkProgram s pid = some (1, 0)) := by decide +kernel

/-- A user program that passes the checker: ON_STEP_END alone, one END, in segment 16. -/
def endOnly : Bytes := bod 128 [(0, 2, 0x100), (4, 1, 4), (5, 1, 16), (16, 8, 2 ^ 64 - 1), (28, 4, 2 ^ 32 - 1), (40, 4, 3), (56, 4, 1)] ++ toLE 4 0xF4000000 ++ zeros 124
def submitted : State := { up with mem := { tbl :=
  ((Memory.writes tblDefault [] wProg (bod 16 [(2, 1, 1), (4, 2, 16 + 1024), (8, 4, crc32c endOnly)])).writes tblDefault (wProg + 0x10000) endOnly) } }

set_option maxRecDepth 4096 in
theorem witness_checker_admits : progState submitted 0x100 = 1 ∧ checkProgram submitted 0x100 = none := by
  and_intros <;> decide +kernel

/-! The service port. Session 7 has the key 0xAA. -/

def sess : Svc := ⟨[0xAA], 0, 0, 0, false, false⟩
def svcState : State := { up with chip := { up.chip with svcLink := true }, ctl := { sessions := [(7, sess)] } }
def keyed : State := { svcState with flash := { shippedFlash with cfg := [(4, ⟨1, 0, zeros 32⟩)] } }

/-- A datagram of session 7 with SEQ 1 and the MAC of its key. -/
def dgram (cmd : Nat) (kind : Byte) (b : Bytes) : Dgram :=
  { ver := 1, kind := kind, session := 7, seq := 1, body := b
    mac := fit 32 (Config.hmac [0xAA] (dgramHeader 1 kind cmd (7 : W32).toNat (1 : W32).toNat 0 b.length ++ b)) }

theorem dgram_accepted (cmd : Nat) (kind : Byte) (b : Bytes) (s : State) (h : svcUp s = true) (hb : s.chip.st ≠ .boot) (hs : s.svc 7 = some sess) :
    Accepted cmd kind.toNat (dgram cmd kind b) s sess :=
  ⟨h, hb, hs, rfl, rfl, by simp [macOk, dgram, sess], by simp [sess, dgram]⟩

theorem fit_length (n : Nat) (b : Bytes) : (fit n b).length = n := by
  simp only [fit, zeros, List.length_append, List.length_take, List.length_replicate]; omega

theorem witness_service_sessions :
    (let d : Dgram := { ver := 1, kind := 0, session := 0, seq := 0, mac := zeros 32, body := zeros 32 }
     svcUp svcState = true ∧ svcState.chip.st ≠ .boot ∧ d.ver = 1 ∧ d.kind = 0 ∧ d.body.length = 32 ∧ svcState.opk = none ∧ svcState.now < 600000000000) ∧
    (Accepted 0x30 0 (dgram 0x30 0 (zeros 32)) keyed sess ∧ keyed.opk ≠ none ∧ sess.stale = false ∧ (dgram 0x30 0 (zeros 32)).body.length = 32) ∧
    svcState.svc 7 = some sess ∧
    (up.chip.inReset = false ∧ up.chip.svcLink = false ∧ up.chip.refLost.contains 0 = false) :=
  ⟨by decide +kernel, ⟨dgram_accepted 0x30 0 _ keyed (by decide +kernel) (by decide +kernel) (by decide +kernel), by decide +kernel, rfl, by decide +kernel⟩,
    by decide +kernel, by decide +kernel⟩

/-- Session 7 stages part 2, 6,144 bytes, with the chunks below 4 but one. -/
def staging7 (have3 : Bool) : Staging := ⟨7, 2, 6144, [(0, zeros 1024), (1, zeros 1024), (2, zeros 1024)] ++ if have3 then [(3, zeros 1024)] else []⟩
def stagingState (have3 : Bool) : State := { svcState with ctl := { svcState.ctl with staging := some (staging7 have3) } }

def chunkBody (k : Nat) : Bytes := toLE 4 k ++ fit 32 (Config.sha256 (zeros 1024)) ++ zeros 1024

theorem witness_stage_data_body (k : Nat) : (chunkBody k).drop 36 = zeros 1024 ∧ ((chunkBody k).drop 4).take 32 = fit 32 (Config.sha256 (zeros 1024)) ∧
    le (chunkBody k) 0 4 = leNat (toLE 4 k) := by
  have h4 : (toLE 4 k).length = 4 := rfl
  have hf := fit_length 32 (Config.sha256 (zeros 1024))
  refine ⟨?_, ?_, ?_⟩
  · rw [chunkBody, List.drop_left' (by rw [List.length_append, h4, hf])]
  · rw [chunkBody, List.append_assoc, List.drop_left' h4, List.take_left' hf]
  · rw [chunkBody, List.append_assoc, le]; simp [List.take_left' h4]

theorem witness_staging :
    (∀ p ∈ [(0, 25165824), (4, 8388608), (2, 4096)], let b := bod 8 [(0, 1, p.1), (4, 4, p.2)]; let r := svcIn (dgram 0x10 0 b) sess (stagingState true)
      b.length = 8 ∧ byteAt b 0 < 5 ∧ zeroAt b 1 3 = true ∧ 4096 ≤ le b 4 4 ∧ le b 4 4 ≤ slotBytes (byteAt b 0) ∧ inTrial r (byteAt b 0) = false ∧ r.ctl.act = none ∧
        r.ctl.staging = some (staging7 true) ∧ (staging7 true).session = 7 ∧ lastPending r 7 = false) ∧
    (∀ have3 ∈ [true, false], let s := stagingState have3; svcUp s = true ∧ s.chip.st ≠ .boot ∧ s.svc 7 = some sess ∧ s.ctl.staging = some (staging7 have3)) ∧
    (leNat (toLE 4 4) < ceilDiv (staging7 true).len 1024 ∧ (zeros 1024).length = min 1024 ((staging7 true).len - 1024 * leNat (toLE 4 4)) ∧ decide (4 < 4) = false) ∧
    (let g := staging7 false
     let g' := { g with chunks := g.chunks.put 3 (zeros 1024) }
     leNat (toLE 4 3) < ceilDiv g.len 1024 ∧ (decide (3 < 4) && (g.chunks.look? 3).isNone && decide (4 ≤ nextChunk g')) = true ∧
       earlyCheck (stagingState false) g.part (chunkBytes g' 0 4) = some eRange) := by
  and_intros <;> decide +kernel

theorem witness_staging_accepted (cmd : Nat) (kind : Byte) (b : Bytes) (have3 : Bool) : Accepted cmd kind.toNat (dgram cmd kind b) (stagingState have3) sess :=
  dgram_accepted cmd kind b _ (by cases have3 <;> decide +kernel) (by cases have3 <;> decide +kernel) (by cases have3 <;> decide +kernel)

theorem witness_service_records :
    (∀ t ∈ [1, 2, 3], let b := bod 2 [(0, 2, t)]; let r := svcIn (dgram 0x20 0 b) sess keyed
      b.length = 2 ∧ 1 ≤ le b 0 2 ∧ le b 0 2 ≤ 4 ∧ (cfgBody r (le b 0 2)).isSome = true) ∧
    (cfgBody (svcIn (dgram 0x20 0 (bod 2 [(0, 2, 4)])) sess keyed) 4).isSome = true ∧
    (∀ b ∈ [bod 32 [(0, 1, 15), (4, 4, 3600000), (16, 2, 10000)], bod 8 [(0, 1, 1), (4, 4, 3600)], bod 38 [(16, 1, 128)]], let r := svcIn (dgram 0x21 0 b) sess keyed
      (∃ t ∈ [1, 2, 3], cfgType b.length = some t ∧ t ≠ 0 ∧ cfgOk t b = true) ∧ inTrial r 0 = false) ∧
    (let b := bod 32 [(0, 1, 4), (4, 4, 65536)]
     b.length = 32 ∧ byteAt b 0 < 5 ∧ zeroAt b 1 3 = true ∧ 1 ≤ le b 4 4 ∧ le b 4 4 ≤ 65536 ∧ zeroAt b 24 8 = true) := by
  and_intros <;> decide +kernel

/-! Reset, supplies, ports and lanes. -/

theorem witness_resets : (4 < 5 ∧ 579 < 580 ∧ 7 < 8) ∧ exec .resetNAssert up = exec (.supplyReset 4 579) up := by refine ⟨by decide, rfl⟩

theorem witness_boot :
    (∀ b ∈ [BootRun.mk false [], BootRun.mk true [true, true, true, true]], State.reset.chip.inReset = true ∧ (b.hubPuf = true → ∀ r < 4, b.dies.getD r true = true) ∧ State.reset.flash.recordOk = true) ∧
    ({ State.reset with flash := { shippedFlash with recordOk := false } } : State).flash.recordOk = false ∧
    (∀ tr ∈ [0, 8], let s : State := { up with chip := { inReset := false, st := .selftest }, flash := { shippedFlash with trial := tr } }
      s.chip.st = .selftest ∧ s.chip.tested = false ∧ (inTrial s 3 = true → trainingWorse s ⟨true, [3], [(127, ⟨1, 9, 9, 9, 9⟩)], [63]⟩ = false)) := by decide +kernel

def warned : State := { up with chip := { up.chip with warn := [(4, ⟨0, 650⟩)] } }
theorem witness_supplies :
    (up.chip.inReset = false ∧ 4 < 5 ∧ 659 < 660 ∧ up.chip.warn.look? 4 = none) ∧ (warned.chip.inReset = false ∧ warned.chip.warn.look? 4 = some ⟨0, 650⟩ ∧ 670 ≤ 670) ∧
    (∀ r ∈ [0, 3], r < 4) := by decide +kernel

def lasts6 : Tbl Last := [(4, ⟨[], shippedBody 4, none⟩), (5, ⟨[], shippedBody 5, none⟩), (6, ⟨[], shippedBody 6, none⟩)]
/-- Port 1022, 2 wide, in a state, with its last lane locked. -/
def port2 (q : Port) (l : Lane) : State := { up with lasts := lasts6, ports := [(1022, { q with width := 2, enabled := true }), (1024, weltReset)], lanes := [(1023, { l with locked := true })] }

theorem witness_port_training :
    (∀ st ∈ [PState.down, .absent], mayTrain (port2 { st := st } {}) 1022 = true) ∧ (∀ st ∈ [PState.up, .fenced], mayTrain (port2 { st := st } {}) 1022 = false) ∧
    (let s := port2 { st := .training, train := some ⟨true, [[0, 2], [0, 0]], 0⟩ } {}
     (s.port 1022).st = .training ∧ (isCircuit s 1022 && (s.circOf 1022).armed) = false ∧ (s.port 1022).train = some ⟨true, [[0, 2], [0, 0]], 0⟩ ∧
       bit (byteAt [0, 2] 1) 1 = true ∧ 0 + 1 < ([[0, 2], [0, 0]] : List Bytes).length) ∧
    (let s := port2 { st := .training, train := some ⟨false, [[0, 2], [0, 0]], 1⟩ } {}
     (s.port 1022).train = some ⟨false, [[0, 2], [0, 0]], 1⟩ ∧ bit (byteAt [0, 0] 1) 1 = false) ∧
    (let s := port2 { st := .damped, hold := .timed 10 } {}
     (s.port 1022).st = .damped ∧ (s.port 1022).hold = .timed 10 ∧ condemned s 1022 = false ∧ (s.port 1022).enabled = true) := by
  and_intros <;> decide +kernel

def discovery : Cell := mkCell 12 0 0 false false 0 0 0 (place 7 49 10 + place 1 47 2) (toLE 8 5 ++ toLE 4 (0x1003 + 2 ^ 20) ++ toLE 4 9 ++ zeros 48)
def heard1 : Heard := ⟨5, 0x1003, 1, 9, 7, 2⟩

theorem witness_link_errors :
    (laneOk 1055 = true ∧ laneOk 0 = true) ∧
    (let s := port2 { st := .check } {}
     (s.port 1022).st = .check ∧ (s.port 1022).checkMax.getD (sm s 0x08 4) < sm s 0x08 4 + 1) ∧
    (∀ f ∈ [(50 * 131072 : Int), 50 * 131072 + 1], let s := port2 { st := .check, flight := some f } {}
     (s.port 1022).st = .check ∧ (s.port 1022).flight = some f ∧ sm s 0x08 4 ≤ (s.port 1022).checkMax.getD (sm s 0x08 4) ∧ (f ≤ reachLimit s 1022 ∨ reachLimit s 1022 < f)) ∧
    (∀ st ∈ [PState.up, .check, .quarantine, .fenced], ∀ mx ∈ [none, some 7], let s := port2 { st := st, serMax := mx } {}
      (s.port 1022).st = st ∧ (s.port 1022).serMax.getD (sm s 0x0C 4) < max 7 (sm s 0x0C 4) + 1 ∧ 0 ≤ (s.port 1022).serMax.getD (sm s 0x0C 4)) ∧
    (let s := port2 { st := .up } { stomps := 1, sent := 1000000 }
     (s.lane 1023).stomps * 1000000 ≤ (s.lane 1023).stompMax.getD (sm s 0x28 4) * (s.lane 1023).sent) ∧
    (let s := port2 { st := .up } { stomps := 1 }
     (s.lane 1023).stompMax.getD (sm s 0x28 4) * (s.lane 1023).sent < (s.lane 1023).stomps * 1000000) := by
  and_intros <;> decide +kernel

theorem witness_discovery :
    (∀ h ∈ [none, some heard1], let s := port2 { st := .check, heard := h } {}
      isWelt 1022 = false ∧ (s.port 1022).st = .check ∧ discovery.crcOk = true ∧ discovery.typ = tDiscovery ∧ heardOf discovery = some heard1 ∧ (s.port 1022).heard = h) ∧
    heardOf { discovery with payload := zeros 63 ++ [1] } = none := by
  and_intros <;> decide +kernel

/-- A good link control word: ACK and CRED fields zero, its CRC16 last. -/
def lcw : BitVec 128 := 0 ||| BitVec.ofNat 128 (crc16Bits 0x1021 0xFFFF 112 0)
def rx (l : Lane) : State := port2 { st := .up } l
def fate1 : RxCell := ⟨3, 4, 0, sumCell 0⟩
def stomp (tail : Nat) : Cell := mkCell 15 0 0 false false 0 0 0 (place 3 43 16 + place 4 39 4 + place 1 36 3 + place tail 34 1) (zeros 64)

theorem witness_control_words :
    (lcwOk lcw = true ∧ lcwOk 0 = false) ∧
    (∀ n ∈ [0, 2, 3], let s := rx { lostLcws := n }
      portOfLane s 1023 = some 1022 ∧ (s.port 1022).st = .up ∧ (s.lane 1023).locked = true ∧ ((bump 0x03 1023 4 s).lane 1023).lostLcws = n) ∧
    (∀ st ∈ [PState.up, .check, .quarantine, .training], ((port2 { st := st } {}).port 1022).st = st ∧ st ≠ .down ∧ st ≠ .absent) ∧
    (let s := rx { unacked := [⟨3, 0, []⟩] }; (s.lane 1023).unacked = [⟨3, 0, []⟩] ∧ portOfLane s 1023 = some 1022) ∧
    (∀ st ∈ [PState.damped, .fenced, .down, .training, .absent, .up, .check, .quarantine], let s := port2 { st := st } {}
      (stomp 0).typ = tStomp ∧ Cell.ok (stomp 0) = true ∧ (stomp 0).crcOk = true ∧ (s.port 1022).st = st ∧ stompOk s (stomp 0) = true) ∧
    stompOk (rx {}) ((stomp 0).set 0 1 1) = false ∧
    (∀ fs ∈ [[], [fate1]], let s := rx { pos := 1, fates := fs }
      (((lanesOf s 1022).find? fun l => (s.lane l).pos == (stomp 0).f 36 3).getD 1023) = 1023 ∧
        ((s.lane 1023).fates.find? fun f => f.lsn == BitVec.ofNat 16 ((stomp 0).f 43 16) && f.slot == (stomp 0).f 39 4) = fs.head?) ∧
    (bit (stomp 0).hdr.toNat 34 = false ∧ bit (stomp 1).hdr.toNat 34 = true) := by
  and_intros <;> decide +kernel

theorem witness_lanes :
    (let s := rx {}; portOfLane s 1023 = some 1022 ∧ (Verdict.mk 0 true []).uncorrectable = true ∧ (Verdict.mk 3 false []).uncorrectable = false ∧
       ueSlot (s.lane 1023) 0 = some (0, 0) ∧ ueSlot (s.lane 1023) 9 = none ∧ linked (s.port 1022).st = true) ∧
    ((port2 { st := .up } {}).modLane 1023 fun l => { l with locked := false }).lane 1023 = {} ∧
    (∀ e ∈ [({ rxFrom := 5 } : Lane), {}, { rxCw := 9 }, { rxCw := 9, rxUe := [0] }, { rxBad := true }], let s := rx e
      portOfLane s 1023 = some 1022 ∧ laneOk 1023 = true ∧ Cell.ok (sumCell 0) = true ∧ (s.lane 1023).locked = true ∧ linked (s.port 1022).st = true ∧
        (s.lane 1023).rxBad = e.rxBad ∧ (s.lane 1023).badNow = false ∧ (4 < (s.lane 1023).rxFrom ∨ (s.lane 1023).rxFrom ≤ 4) ∧
        decide (lastCw (s.lane 1023).rxBlk 4 < (s.lane 1023).rxCw) = (e.rxCw == 9) ∧ (s.lane 1023).ueAt (s.lane 1023).rxBlk 4 = (e.rxUe == [0])) ∧
    ((sumCell 0).crcOk = true ∧ ({ sumCell 0 with crc := 0 } : Cell).crcOk = false) ∧
    (let s := port2 { st := .up, qosNext := some [] } {}
     s.hasPort 1022 = true ∧ isWelt 1022 = false ∧ (s.port 1022).qosNext.isSome = true ∧ (s.port 1022).st ≠ .down ∧ (s.port 1022).st ≠ .training ∧ (s.port 1022).st ≠ .absent ∧
       (s.lane (nextLane s 1022)).unacked.length < 128) := by
  and_intros <;> decide +kernel

/-! The switch. -/

def org0 : Origin := ⟨some 0, 4, 0, 0, 0⟩
def buf (vc : Nat) : BufCell := ⟨mkCell 1 vc 0 false false 5 6 7 0 (zeros 64), { org0 with vc := vc }, .port, 1, false⟩
def copyBuf : BufCell := { buf 4 with route := .copy 1 }
def upPort : Port := { width := 1, enabled := true, st := .up, credits := [9, 9, 9, 9, 9, 9, 9, 9] }
/-- Ports 0 and 1023 UP; blocks and scheduler as given. -/
def switch_ (b0 b31 : Block) (y : Sched) : State := { up with ports := [(0, upPort), (1023, upPort)], blocks := [(0, b0), (31, b31)], sched := y }
def claim1 : Claim := ⟨5, 0, 31, 1023, 4, 3, 16, none, 0, false, true⟩

theorem witness_switch :
    (∀ a ∈ [Alloc.mk false [(1023, buf 4)], Alloc.mk true [(1023, buf 4), (0, buf 4)]], let s := switch_ { alloc := [a] } {} {}
      awaiting s 0 0 4 = none ∧ ((s.block 0).alloc.find? fun a => (a.copies.any fun x => x.2.org.port == some 0 && x.2.org.vc == 4) && movable s 0 4 a) = some a ∧ a.copies.head? = some (1023, buf 4)) ∧
    (let s := switch_ { await := [buf 4] } {} {}; awaiting s 0 0 4 = some (buf 4) ∧ 0 < sharedFree s 0) ∧
    (∀ e ∈ [(buf 4, false), (copyBuf, true)], let s := switch_ { pend := [(1023, e.1)] } {} {}
     ((s.block 0).pend.find? fun x => !copyLive s x.1 x.2 || voqOk s 0 x.1 x.2.cell.vc) = some (1023, e.1) ∧ isCopyCell e.1 = e.2 ∧ copyLive s 1023 e.1 = true) ∧
    (let s := switch_ { pend := [(1022, buf 4)] } {} {}
     ((s.block 0).pend.find? fun x => !copyLive s x.1 x.2 || voqOk s 0 x.1 x.2.cell.vc) = some (1022, buf 4) ∧ copyLive s 1022 (buf 4) = false) ∧
    (∀ before ∈ [false, true], let t : TrainOut := ⟨9, 0, 1023, 4, 7, [], 3, false⟩; let s := switch_ {} {} { trains := [t] ++ if before then [⟨8, 0, 0, 4, 1, [], 3, false⟩] else [] }
     outBlock 1023 = 31 ∧ (s.sched.trains.find? fun t => t.inB == 0 && t.port == 1023 && t.vc == 4 && t.number == 7 && !t.early) = some t ∧ wayBusy s t = before) ∧
    (let s := switch_ { express := [(1023, buf 0)] } {} {}
     blockDead s 0 = false ∧ expressHead s 0 31 = some (1023, buf 0) ∧ expressRoom s 1023 = true ∧ s.sched.expPtr.look 31 0 = 0) ∧
    (∀ r ∈ [false, true], ((switch_ {} {} { engines := [(63, { retired := r })] }).sched.engines.look 63 {}).retired = r) := by
  and_intros <;> decide +kernel

theorem witness_waves_and_claims :
    (let t : State := switch_ { voqs := [(vkey 0 4, [buf 4])] } {} {}
     let s : State := { t with sched := { t.sched with claims := [] } }
     (selectVoq 31 31 s).1 = none ∧
     (eligibleVoqs s 0 0 ≠ [] → (selectVoq 0 0 s).1 = some (0, 4) ∧
       (let u := (makeClaim 64 0 0 0 4 true (selectVoq 0 0 s).2); (((answerClaim u.1 u.2).sched.claims.find? (·.id == u.1.id)).bind (·.reply)) = some 1)) ∧ eligibleVoqs s 0 0 ≠ []) ∧
    (let s := switch_ {} {} { claims := [claim1] }
     findClaim s 31 1023 4 16 3 0 = some claim1 ∧ findClaim s 30 1023 4 16 3 0 = none) ∧
    (∀ r ∈ [none, some 3], let c := { claim1 with reply := r }; let s := switch_ {} {} { claims := [c] }
      (s.sched.claims.find? fun c => c.id == 5 && c.inB == 0 && !c.bound) = some c ∧ (s.sched.claims.find? fun c => c.id == 5 && c.outB == 31) = some c ∧
        (∀ d ∈ s.sched.claims, d.inB = 0 → d.port = c.port → d.vc = c.vc → d.bound = false → c.id ≤ d.id)) ∧
    (let s := switch_ {} {} { claims := [{ claim1 with reply := some 3, bound := true }] }
     (s.sched.claims.find? fun c => c.id == 5 && c.outB == 31) = some { claim1 with reply := some 3, bound := true }) := by
  and_intros <;> decide +kernel

theorem witness_seams :
    (∀ e ∈ [(0, 0), (9, 1)], e.1 < 10 ∧ e.2 < 2) ∧
    (∀ d ∈ [SeamDir.mk 4 8 2 [], ⟨0, 8, 4, []⟩, ⟨1, 8, 4, []⟩, ⟨0, 4, 0, []⟩, ⟨0, 5, 0, []⟩], let s : State := { up with chip := { up.chip with seams := [(19, d)] } }
      s.seam 9 1 = d ∧ (d.attempts < 4 ∨ 4 ≤ d.attempts) ∧ (d.width ≤ 4 ∨ 4 < d.width)) ∧
    (199727 < 199728 ∧ (up.block 31).retired.contains 199727 = false) ∧
    (let s : State := { up with blocks := [(31, { retired := [5] })] }; (s.block 31).retired.contains 5 = true) := by
  and_intros <;> decide +kernel

def echo1 : Cell := mkCell 9 5 0 false false 0 6 7 (place 1 15 32) (zeros 64)
def sample1 : Sample := ⟨0, 6, 7, 0, 0, 3, 2, 0, 0⟩

theorem witness_path_health :
    (let s : State := { up with fabric := { samples := [(2, [sample1])] } }
     echo1.typ = tEcho ∧ forChip s echo1.dst = true ∧ (takeIn echo1 s).1 = none ∧
       oldest (((List.range 4).map fun r => (s.fabric.samples.look r []).filter (echoMatches echo1)).flatten) = some sample1) ∧
    (∀ k < 4, up.fabric.seamBusy[k]? = some false) := by
  and_intros <;> decide +kernel

/-! Peals at their home. Peal 4095 with one contributor, FA 0xFFFFF, in round 3. -/

def home (q : Peal) (k : Core) : State :=
  let s := pealed 0 .running
  { s with peals := [(4095, { q with desc := memberDesc 0, round := 3, fas := [(0xFFFFF, 0)], nextOpen := 2 })], twin := {}, spine := { cores := (List.range 528).map fun c => (c, k) } }
def openPeal (st : PealSt) (a : Option Int) : Peal := { st := st, isOpen := true, chunks := [(0, { anchor := a }), (1, {})] }
def contrib (x round : Nat) : Cell := mkCell 4 2 0 false false 0 0xFFFFF 0x123 (pealTs 4095 round x 1 0) (toLE 2 0x3FC0 ++ zeros 62)
def badCrc (c : Cell) : Cell := { c with crc := c.crc + 1 }
def undo1 (bad : Bool) : Undo := ⟨contrib 0 3, 4095, 3, bad⟩

def winCell : Cell := mkCell 8 5 0 false false 0 0 0x123 (place 4095 47 12 + place 1 46 1 + place 3 44 2 + place 16 20 24) (zeros 64)
def flowWin : Cell := mkCell 8 5 0 false false 0 9 0x123 (place 7 47 12 + place 16 20 24) (zeros 64)
def held1 : HeldWin := ⟨1, 4095, 3, 0, true, 4, 0, 1, [contrib 0 3], 0, 8, false, none⟩

theorem witness_windows :
    (let s := home (openPeal .running none) {}
     let t := (takeIn winCell s).2
     winCell.typ = tWindow ∧ winCell.crcOk = true ∧ forChip t winCell.dst = true ∧ bit winCell.hdr.toNat 46 = true ∧ (t.peal 4095).st ≠ .free ∧ winCell.tag = dTag (t.peal 4095).desc ∧
       field winCell.hdr.toNat 47 12 = 4095 ∧ field winCell.hdr.toNat 44 2 = (t.peal 4095).round ∧ (namedWin t winCell).2.granted = false ∧ zeroAt winCell.payload 3 61 = true) ∧
    (let s := { home (openPeal .running none) {} with fabric := { wins := [(4096 + 4095, held1)] } }
     let t := (takeIn winCell s).2
     let h := (namedWin t winCell).2
     forChip t winCell.dst = true ∧ h.granted = true ∧ precedes (field winCell.hdr.toNat 20 24) h.limit = false ∧ precedes (le winCell.payload 0 3) h.ack = false) ∧
    (let s := home (openPeal .running none) {}
     let t := (takeIn flowWin s).2
     flowWin.typ = tWindow ∧ flowWin.crcOk = true ∧ forChip t flowWin.dst = true ∧ bit flowWin.hdr.toNat 46 = false ∧ (namedWin t flowWin).2.granted = false ∧ zeroAt flowWin.payload 3 61 = true) ∧
    (let s := { home (openPeal .running none) {} with fabric := { wins := [(4096 + 4095, held1)] } }
     s.fabric.wins.look? (4096 + 4095) = some held1 ∧ (held1.cells.filter fun x => held1.granted && precedes x.index held1.limit).foldl (fun l x => insertIndex held1.ack x l) [] ≠ [] ∧ held1.stopped = false ∧
       held1.round = (s.peal held1.id).round ∧ (s.peal held1.id).st ≠ .free) ∧
    (let s := home { openPeal .running none with wins := [(0, {})] } {}
     (s.peal 4095).isOpen = true ∧ ((s.peal 4095).wins.look? 0).isSome = true ∧ ((s.peal 4095).win 0).ack < winLimit (s.peal 4095) 0) := by
  and_intros <;> decide +kernel

theorem witness_contributions :
    (let s := home (openPeal .running (some (-10))) {}; let c := contrib 0 3
     coreTakes s c = true ∧ speculates s c = true ∧ (s.core (cellCore s (s.peal 4095).desc c.index)).ring.length < 16) ∧
    (let s := home (openPeal .running (some (-10))) { ring := List.replicate 16 (undo1 false) }; let c := contrib 0 3
     coreTakes s c = true ∧ speculates s c = true ∧ 16 ≤ (s.core (cellCore s (s.peal 4095).desc c.index)).ring.length) ∧
    (let s := home (openPeal .running none) {}
     speculates s (contrib 0 3) = false ∧ (badCrc (contrib 0 3)).crcOk = false ∧ speculates s (badCrc (contrib 0 3)) = false ∧ (contrib 0 3).crcOk = true ∧
       judgeContrib (takeIn (contrib 0 3) s).2 (contrib 0 3) false = none ∧ coreTakes s (contrib 0 3) = true) ∧
    (let s := home (openPeal .running none) {}
     speculates s (contrib 0 2) = false ∧ (contrib 0 2).crcOk = true ∧ judgeContrib (takeIn (contrib 0 2) s).2 (contrib 0 2) false = some 1) ∧
    (∀ bad ∈ [false, true], let s := home (openPeal .running (some (-10))) { ring := [undo1 bad] }
     (s.core 527).ring = [undo1 bad] ∧ eventsFull s 527 = false ∧ judgeContrib (s.modCore 527 fun k => { k with ring := [] }) (undo1 bad).cell false = none ∧ (undo1 bad).bad = bad) ∧
    (let s := home (openPeal .voided (some (-10))) { ring := [undo1 false] }
     (s.core 527).ring = [undo1 false] ∧ eventsFull s 527 = false ∧ judgeContrib (s.modCore 527 fun k => { k with ring := [] }) (undo1 false).cell false = some 1) := by
  and_intros <;> decide +kernel

def autoDesc : BitVec 512 := memberDesc 0 ||| BitVec.ofNat 512 (2 ^ 55)
def expHome (exps : List Nat) : State := let s := home (openPeal .running none) {}
  { s with peals := [(4095, { openPeal .running none with desc := autoDesc, round := 3, fas := [(0xFFFFF, 0)], nextOpen := 2, wins := [(0, { exps := exps })] })] }
def expCell : Cell := mkCell 7 2 0 false false 0 0xFFFFF 0x123 (pealTs 4095 3 0 1 0) (toLE 2 9 ++ zeros 62)
def repair : Cell := mkCell 8 5 0 false false 0 0xFFFFF 0x123 (place 4095 47 12 + place 3 44 2) (zeros 64)

theorem witness_reports_at_home :
    (∀ exps ∈ [[], [0]], let s := expHome exps; let t := (takeIn expCell s).2
      expCell.crcOk = true ∧ judgeContrib t expCell true = none ∧ zeroAt expCell.payload 2 62 = true ∧ (((t.peal expCell.flow).win 0).exps.contains (chunkOf autoDesc expCell.index)) = (exps == [0])) ∧
    (let s := home (openPeal .voided none) {}; judgeContrib (takeIn expCell s).2 expCell true = some 1) ∧
    (zeroAt repair.payload 3 61 = true ∧ repair.flow = 4095 ∧ (up.peal repair.flow).st = .free) ∧
    (∀ st ∈ [PealSt.sealed, .running], let s := home (openPeal st none) {}
      (s.peal repair.flow).st = st ∧ dTag (s.peal repair.flow).desc = repair.tag ∧ (s.peal repair.flow).round = repair.f 44 2) := by
  and_intros <;> decide +kernel

theorem witness_chunks_and_rounds :
    (let s := home { openPeal .running (some (-10)) with wins := [(0, { ack := 1 })] } {}
     (s.peal 4095).isOpen = true ∧ chunkReady s 4095 0 = true) ∧
    (let s := home { st := .running, isOpen := true, nextOpen := 2, chunks := [(0, { anchor := some 0, complete := true, ended := [0] }), (1, {})] } {}
     releasable s 4095 0 = true) ∧
    (let s := home { st := .sealed } {}
     (s.peal 4095).st = .sealed ∧ isUpdate (s.peal 4095).desc = false ∧ pairedFor s (s.peal 4095) = false) ∧
    (let s := { pairing .paired with peals := [(0, { desc := updDesc ||| 2 ^ 56, st := .sealed, agreed := true })] }
     (s.peal 0).st = .sealed ∧ isUpdate (s.peal 0).desc = true ∧ pairedFor s (s.peal 0) = true ∧ (s.peal 0).agreed = true) ∧
    (∀ st ∈ [PealSt.running, .armed, .retiring], ((home { st := st } {}).peal 4095).st = st) := by
  and_intros <;> decide +kernel

/-! The twin pair. Peal 4095 is twinned, SPOT on, with one contributor; shard 4095 is bound to it. -/

def tm (k : Nat) (head : List (Nat × Nat × Nat)) (data : Bytes) : TwinMsg := { tmsg := k, tag := 0x123, src := 1, head := bod 64 head, data := data }
/-- Peal 4095 with chunks of 2^cl cells, in round 3, in a pair state. -/
def pairHome (cl : Nat) (q : Peal) (tw : Twin) : State :=
  let s := pealed 1 .running
  { s with peals := [(4095, { q with desc := memberDesc 1 ||| BitVec.ofNat 512 (cl * 2 ^ 84), round := 3, fas := [(0xFFFFF, 0)] })], twin := tw }

theorem witness_spot :
    (let m := tm 0x0A [(0, 2, 4095), (2, 1, 3), (8, 4, 0)] (zeros 64)
     twinOk 0x0A m = true ∧ (∀ cl ∈ [4, 0], let t := takeTwin 3 m (pairHome cl { st := .running, isOpen := true } { st := .paired })
       twinPeal t (le m.head 0 2) m.tag = true ∧ t.twin.st = .paired ∧ (t.peal (le m.head 0 2)).round = byteAt m.head 2 ∧
         (owedTotal t (t.peal 4095).desc 0 = if cl = 4 then 16 else 1))) ∧
    twinOk 0x0B (tm 0x0B [(0, 2, 4095), (2, 1, 3)] []) = true ∧
    (let m := tm 0x0B [(0, 2, 4095), (2, 1, 3)] []
     let t := takeTwin 3 m (pairHome 0 { st := .running, isOpen := true } { st := .paired })
     twinPeal t (le m.head 0 2) m.tag = true ∧ (t.peal (le m.head 0 2)).round = byteAt m.head 2 ∧ (t.peal (le m.head 0 2)).isOpen = true) ∧
    (let s := pairHome 0 { st := .running, isOpen := true, chunks := [(7, { complete := true, spot := .waiting })] } { st := .paired }
     (s.peal 4095).chunks.look? 7 = some { complete := true, spot := .waiting } ∧ s.twin.st = .paired ∧ (s.peal 4095).isOpen = true) := by
  and_intros <;> decide +kernel

/-- A norm group of two peals at TRAIN_STEP 9 with STEP_CELLS 0, so that nothing is left to run; `first` says whether peal 1 has its step. -/
def normState (first : Bool) : State :=
  let d := desc [(16, 12, 0x123), (28, 3, 5), (36, 4, 1), (40, 4, 1), (64, 4, 1), (448, 16, 0x12)]
  let q : Peal := { st := .running, isOpen := true, params := [(0, ⟨9, []⟩)] }
  let sd := desc [(16, 12, 0x123), (32, 4, 1), (39, 1, 1), (80, 12, 0x7F0), (96, 9, 1)]
  { tagged with
    peals := [(1, { q with desc := d ||| BitVec.ofNat 512 (1 * 2 ^ 464), isOpen := first }), (2, { q with desc := d ||| BitVec.ofNat 512 (2 * 2 ^ 464) })]
    spine := { shards := [(1, { desc := sd, st := .bound, peal := 1 }), (2, { desc := sd, st := .bound, peal := 2 })] } }
def normCell (tr : Nat) : Cell := mkCell 4 2 0 false false 0 6 0x123 (pealTs 0x7F0 0 0 0 0) (putLE (putLE (zeros 64) 0 16 5) 16 10 (9 + tr * 2 ^ 72))
def normHomed (recs : Tbl NormRec) : State := { normState true with spine := { (normState true).spine with homes := [(0x7F0, { tag := 0x123, list := [(6, 0)], recs := recs })] } }

theorem witness_norm :
    (∀ first ∈ [true, false], let s := normState first
      normDone s 0x123 0x7F0 9 = (if first then [1, 2] else [2]) ∧ (normGroup s 0x123 0x7F0).map (·.2) = [1, 2]) ∧
    (let c := normCell 2; c.crcOk = true ∧ byteAt c.payload 24 ≤ 1 ∧ zeroAt c.payload 26 38 = true ∧ c.flow = 0x7F0 ∧ c.tag = 0x123 ∧ c.src = 6 ∧ le c.payload 16 8 = 9 ∧ byteAt c.payload 25 = 2) ∧
    (∀ e ∈ [([] : Tbl NormRec), [(9, { tryNo := 2, total := some 5 })], [(9, { tryNo := 3 })]], let s := normHomed e; let t := (takeIn (normCell 2) s).2
      ∃ h, t.spine.homes.look? 0x7F0 = some h ∧ h.tag = 0x123 ∧ (h.list.any fun x => x.1 == 6) = true ∧ normServes t 0x7F0 = true ∧ h.recs = e) ∧
    (let h : NormHome := { tag := 0x123, list := [(6, 0)] }
     (((normRecord h 9 2).map (·.2.total)) = some none) ∧ ((normRecord { h with recs := [(9, { tryNo := 2, total := some 5 })] } 9 2).map (·.2.total) = some (some 5)) ∧
       normRecord { h with recs := [(9, { tryNo := 3 })] } 9 2 = none) ∧
    (∀ tries ∈ [2, 258, 3], let s : State := { normState true with spine := { (normState true).spine with norms := [(normKey 0x123 0x7F0, [(9, { tries := tries, sum := some 5 })])] } }
      let c := normCell 2; let t := (takeIn c s).2
      c.crcOk = true ∧ zeroAt c.payload 26 2 = true ∧ zeroAt c.payload 32 32 = true ∧ (normSteps t (normKey c.tag c.flow)).look? 9 = some { tries := tries, sum := some 5 } ∧
        (tries % 256 = byteAt c.payload 25 ∨ tries = 3)) ∧
    (let m := tm 0x12 [(0, 2, 0x7F0), (2, 1, 2), (8, 8, 9)] []
     let t := takeTwin 1 m (normHomed [])
     twinOk 0x12 m = true ∧ (t.spine.homes.look? (le m.head 0 2)).isSome = true ∧ (normRecord { tag := 0x123, list := [(6, 0)] } (le m.head 8 8) (byteAt m.head 2)).isSome = true) := by
  refine ⟨by decide +kernel, by decide +kernel, ?_, by decide +kernel, by decide +kernel, by decide +kernel⟩
  intro e he
  exact ⟨{ tag := 0x123, list := [(6, 0)], recs := e }, by revert e; decide +kernel⟩

def twinned (st : Pair) (wp : PState) (new : Bool) : State := { pairing st with
  ports := [(1024, { weltReset with st := wp }), (1048, { weltReset with st := wp })], twin := { st := st, isNew := new } }

theorem witness_pair_states :
    (∀ e ∈ [(Pair.paired, PState.check), (.orphan, .quarantine), (.solo, .up), (.syncing, .up)], let s := twinned e.1 e.2 false; 3 < 4 ∧ (s.port (weltPort 3)).st = e.2 ∧ s.twin.st = e.1) ∧
    (∀ id ∈ [77, 78], (tm 1 [(0, 8, id)] []).tmsg = 0x01 ∧ twinOk 0x01 (tm 1 [(0, 8, id)] []) = true) ∧
    (let m := tm 2 [(0, 8, 78)] []; let t := takeTwin 0 m (twinned .paired .up false); twinOk 0x02 m = true ∧ BitVec.ofNat 64 (le m.head 0 8) ≠ t.fabric.plan.twinChip) ∧
    (let s := pairHome 0 { st := .running } { st := .syncing }
     s.twin.st = .syncing ∧ (∀ p ∈ twinnedPeals s, (s.peal p).joined = false)) ∧
    (∀ st ∈ [Pair.syncing, .paired, .orphan, .takeover], (twinned st .up false).twin.st ≠ .solo) ∧
    (∀ r ∈ [0, 1], ∀ st ∈ [Pair.syncing, .paired, .orphan], let m := tm 2 [(0, 8, 77), (8, 1, r), (9, 1, 3)] []; let t := takeTwin 0 m (twinned st .up false)
      t.fabric.plan.twinChip ≠ 0 ∧ BitVec.ofNat 64 (le m.head 0 8) = t.fabric.plan.twinChip ∧ byteAt m.head 8 = r ∧ t.twin.st = st ∧ twinOk 0x02 m = true ∧ twinOk 0x03 m = true) ∧
    (let s := pairHome 0 { st := .running, joined := true } { st := .syncing }
     s.twin.st = .syncing ∧ (∃ p ∈ twinnedPeals s, (s.peal p).joined = true)) ∧
    (∀ new ∈ [false, true], (twinned .takeover .up new).twin.st = .takeover) := by
  and_intros <;> decide +kernel

theorem witness_twin_rounds :
    (∀ re ∈ [false, true], ∀ w ∈ [false, true], let m := tm 4 [(0, 2, 4095), (3, 1, 3)] []
      let s := pairHome 0 { st := .armed, waiting := w, rejoins := re } { st := .paired }; let t := takeTwin 0 m s
      twinOk 0x04 m = true ∧ twinPeal t (le m.head 0 2) m.tag = true ∧ byteAt m.head 2 = 0 ∧ (s.peal 4095).st = .armed ∧ (s.peal 4095).isOpen = false ∧ (s.peal 4095).waiting = w ∧
        (s.peal 4095).rejoins = re) ∧
    (∀ r ∈ [2, 3], let m := tm 4 [(0, 2, 4095), (2, 1, 1), (3, 1, r), (4, 1, 8)] []; let s := pairHome 0 { st := .running } { st := .paired }
     twinOk 0x04 m = true ∧ byteAt m.head 2 = 1 ∧ roundLive (s.peal 4095) = true ∧ (s.peal 4095).round = 3 ∧ byteAt m.head 3 = r) ∧
    (∀ a ∈ [2, 3], ∀ x ∈ [8, 9], let m := tm 4 [(0, 2, 4095), (2, 1, a), (8, 8, x)] []; let s := pairHome 0 { st := .sealed, step := 8 } { st := .paired }; let t := takeTwin 0 m s
      twinOk 0x04 m = true ∧ twinPeal t (le m.head 0 2) m.tag = true ∧ byteAt m.head 2 = a ∧ rollbackOk t (le m.head 0 2) (le m.head 8 8) = (x == 8)) := by
  and_intros <;> decide +kernel

/-- A twinned KIND 5 peal of one cell, bound to shard 4095; side 0 does not home the chunk that side 1 homes. -/
def mirrorState (x : Nat) (done agreed : Bool) (mine theirs : Tbl DigestSet) : State :=
  let d := desc [(16, 12, 0x123), (28, 3, 5), (36, 4, 1), (40, 4, 1), (56, 1, 1), (64, 4, 1), (160, 24, x), (448, 16, 0x12), (464, 16, 4095)]
  let xs := if done then List.range x else []
  { tagged with
    peals := [(4095, { desc := d, st := .running, isOpen := true, round := 3, ended := xs, mirEnded := xs, agreed := agreed })]
    spine := { shards := [(4095, { desc := desc [(16, 12, 0x123), (32, 4, 1), (36, 1, 1), (48, 24, x)], st := .bound, peal := 4095, badSlices := [(1, 0)] })] }
    twin := { st := .paired, mine := mine, theirs := theirs } }

theorem witness_mirror_and_digests :
    (let s := mirrorState 4 false false [] []
     ∃ x < 4, let m := tm 8 [(0, 2, 4095), (2, 1, 3), (4, 4, x)] []; let t := takeTwin 2 m s
       twinOk 0x08 m = true ∧ twinPeal s (le m.head 0 2) m.tag = true ∧ isUpdate (s.peal 4095).desc = true ∧ (s.peal 4095).round = byteAt m.head 2 ∧ le m.head 4 4 < dStepCells (s.peal 4095).desc ∧
         (s.peal 4095).isOpen = true ∧ isHome t (s.peal 4095) (chunkOf (s.peal 4095).desc (le m.head 4 4)) = false) ∧
    (let s := mirrorState 4 true false [] []
     boundPeal s 4095 = some 4095 ∧ pairedFor s (s.peal 4095) = true ∧ (s.peal 4095).isOpen = true ∧ stepEndsDone s (s.peal 4095) = true ∧ s.twin.mine.look? 4095 = none) ∧
    (let s := mirrorState 4 true false [(4095, ⟨0, []⟩)] []
     boundPeal s 4095 = some 4095 ∧ pairedFor s (s.peal 4095) = true ∧ (s.twin.mine.look? 4095).isSome = true ∧ s.twin.theirs.look? 4095 = none ∧ (s.peal 4095).agreed = false) ∧
    (twinOk 0x09 (tm 9 [(0, 2, 4095), (20, 4, 2)] (zeros 16)) = true ∧ twinOk 0x05 (tm 5 [(0, 2, 4095), (2, 1, 1)] []) = true ∧ twinOk 0x06 (tm 6 [(28, 4, 9)] []) = true) ∧
    (let u : TwinTx := ⟨7, 5, sumCell 0⟩
     ((twinned .paired .up false).modTwin fun t => { t with unacked := [u] }).twin.unacked.find? (fun u => u.vc == 7 && u.tseq == 5) = some u) := by
  and_intros <;> decide +kernel

theorem witness_rebuild :
    twinOk 0x07 (tm 7 [(0, 2, 4095)] []) = true ∧
    (let s := pairHome 0 { st := .armed, isOpen := true } { st := .syncing }
     (s.peal 4095).armMbx = [] ∧ dTwinned (s.peal 4095).desc = true ∧ s.twin.st = .syncing ∧ s.twin.isNew = false ∧ (s.peal 4095).joined = false ∧ (s.peal 4095).isOpen = true) ∧
    (∀ w ∈ [[], [(1 : Fin 8)]], let s := pairHome 0 { st := .admitted, armMbx := w } { st := .paired }
      (s.peal 4095).armMbx = w ∧ (dTwinned (s.peal 4095).desc && (s.peal 4095).isOpen && s.twin.st == .syncing && !s.twin.isNew && !(s.peal 4095).joined) = false) ∧
    (let s := mirrorState 1 false false [] []; let b := zeros 448
     ∀ a ∈ [0, 1], let m := tm 0x0C [(0, 2, 4095), (2, 1, 1), (3, 1, a), (8, 4, 1), (12, 4, crc32c b)] b; let t := takeTwin 4 m (s.modTwin fun t => { t with st := .syncing })
       twinOk 0x0C m = true ∧ (m.data.drop (le m.head 8 4 * sliceBytes (t.shard 4095).desc)).all (· == 0) = true ∧
       (t.shard 4095).st ≠ .free ∧ (t.shard 4095).st ≠ .lost ∧ (m.data.take (le m.head 8 4 * sliceBytes (t.shard 4095).desc)).length = le m.head 8 4 * sliceBytes (t.shard 4095).desc ∧
         le m.head 4 4 + le m.head 8 4 ≤ shCells (t.shard 4095).desc ∧ t.twin.st = .syncing ∧ t.twin.rebuild = false ∧ boundPeal t 4095 = some 4095) ∧
    (∀ a ∈ [2, 3, 0], let m := tm 0x0D [(0, 2, 4095), (2, 1, a), (3, 1, 1)] []; let t := takeTwin 0 m ((mirrorState 1 false false [] []).modTwin fun t => { t with st := .syncing })
      twinOk 0x0D m = true ∧ (t.shard 4095).st ≠ .free ∧ (t.shard 4095).st ≠ .lost ∧ t.twin.st = .syncing ∧ t.twin.rebuild = false ∧ byteAt m.head 2 = a ∧
        (t.peals.any fun e => e.2.st != .free && isUpdate e.2.desc && dShard e.2.desc == 4095) = true ∧ (t.peal (t.shard 4095).peal).joined = false) ∧
    (let s := pairHome 0 { st := .armed, heldRebuild := true } { st := .syncing, copying := some ⟨4095, none, 0⟩ }
     s.twin.copying = some ⟨4095, none, 0⟩ ∧ (s.peal 4095).joined = false ∧ (s.peal 4095).heldRebuild = true) ∧
    (let s : State := { up with spine := { shards := [(1, { st := .ready })] } }; (s.shard 1).st ≠ .free ∧ (s.shard 1).st ≠ .lost ∧ boundPeal s 1 = none ∧
      twinOk 0x0E (tm 0x0E [(0, 2, 1), (8, 4, 2)] []) = true) := by
  and_intros <;> decide +kernel

set_option maxRecDepth 4096 in
/-- The CRC of a copied slice of zeros is what its message says. -/
theorem witness_copy_crc : let m := tm 0x0C [(12, 4, crc32c (zeros 448))] (zeros 448); crc32c (m.data.take 448) = le m.head 12 4 := by decide +kernel

def fenceCell (state scope b16 b17 b18 : Nat) : Cell := mkCell 11 0 0 false false 0 0 0 (place scope 56 3 + place state 53 3) (toLE 8 5 ++ toLE 8 77 ++ toLE 1 b16 ++ toLE 1 b17 ++ toLE 1 b18 ++ zeros 45)
/-- Port 1022, UP, a leaf that conforms; the twin is chip 77. -/
def leafPort : State := { cabled with
  ports := [(1022, { width := 2, enabled := true, st := .up, judged := some ⟨5, 0x1C43, 1, 9, 6, 2⟩ })]
  fabric := { plan := { loaded := true, planTag := 9, twinChip := 77, recs := [(1022, ⟨2, 0, 6, 2, 1, 0x31, 5⟩)] } } }

theorem witness_probes_and_fences :
    (∀ st ∈ [PState.check, .up], let s := twinned .paired st false; (s.port (weltPort 3)).st = st ∧ timingState st = true) ∧
    (∀ q ∈ [([] : List Stamp), [⟨5, 100, 0⟩]], let m := tm 0x10 [(20, 2, 5)] []
      let s : State := { twinned .paired .up false with ports := [(1048, { weltReset with st := .up, stamps := q })] }
      (takeStamp (weltPort 3) (le m.head 20 2) s).1 = q.head?.map (·.t1)) ∧
    (byteAt (tm 0x11 [(1, 1, 4)] []).head 1 = 4 ∧ byteAt (tm 0x11 [(1, 1, 6)] []).head 1 ≠ 4 ∧ twinOk 0x11 (tm 0x11 [(1, 1, 4)] []) = true ∧ twinOk 0x11 (tm 0x11 [(1, 1, 6)] []) = true ∧
      twinOk 0x0F (tm 0x0F [(10, 2, 9)] []) = true ∧ twinOk 0x10 (tm 0x10 [(20, 2, 5)] []) = true) ∧
    (∀ st ∈ [PState.damped, .fenced], (port2 { st := st } {}).hasPort 1022 = true ∧ ((port2 { st := st } {}).port 1022).st = st ∧ isWelt 1022 = false ∧
      (twinned .paired st false).hasPort 1048 = true ∧ ((twinned .paired st false).port 1048).st = st ∧ isWelt 1048 = true) ∧
    (∀ c ∈ [fenceCell 6 3 0 0 0, fenceCell 4 3 0 0 0, fenceCell 0 4 1 1 0, fenceCell 0 4 1 0 1, fenceCell 0 4 0 0 0], isWelt 1022 = false ∧ (leafPort.port 1022).st = .up ∧ c.crcOk = true ∧
      c.typ = tFence ∧ fenceOk c = true ∧ (c.f 56 3 < 4 ∨ 4 ≤ c.f 56 3)) ∧
    (∀ e ∈ [(leafPort, true), (cabled, false)], let c := fenceCell 0 4 1 1 0
      (portRole e.1 1022 == 0 && (planCode e.1 1022 == 0 || planCode e.1 1022 == 6)
          && le c.payload 0 8 == (match planRec e.1 1022 with | some r => r.peerChip.toNat | none => 0) && e.1.fabric.plan.twinChip != 0 && le c.payload 8 8 == e.1.fabric.plan.twinChip.toNat) = e.2) := by
  and_intros <;> decide +kernel

/-! Memory channels, circuits, time, the control plane and health. -/

theorem witness_memory_channels :
    (127 < 128 ∧ 63 < 64 ∧ chanServes up 127 = true ∧ chanLive up 127 = true ∧ 31 < 32) ∧ (∀ t ∈ [105, 106], (105 < t ∨ t ≤ 105)) := by decide +kernel

def slotD : Slot := ⟨10, true, 0, 0, 1, 0⟩
def sched2 : Schedule := { sched1 with slots := [slotA, slotD], cycles := 0 }
/-- A port that runs slot 0 of a schedule with a dark slot after it. -/
def running0 : Circ := { sched := some sched2, armed := true, started := true, edge := 200019 }
def optUp (st : PState) (c : Circ) : State := { optical c with ports := [(1023, { enabled := true, st := st })] }
def notice (t : Nat) : Cell := mkCell 13 0 0 false false 0 0 0 0 (toLE 8 t ++ zeros 56)

theorem witness_circuit_edges :
    (∀ f ∈ [0, 15], (({ queues := [(7, { fill := f })] } : Circ).queues.look 7 {}).fill = f) ∧
    (let s := optUp .up { running0 with writer := [(7, buf 4)] }
     (s.circOf 1023).writer = [(7, buf 4)] ∧ (stashTake s 1023 7 (buf 4)).isSome = true) ∧
    (let s := optUp .up running0; let c := s.circOf 1023
     c.armed = true ∧ nextContinues c = false ∧ (s.port 1023).st = .up ∧ nextSlot c = some (sched2, 1, 0) ∧ sched2.slots[1]? = some slotD) ∧
    (∀ t ∈ [200119, 200120], (notice t).crcOk = true ∧ (notice t).typ = tCircuit ∧ zeroAt (notice t).payload 24 40 = true ∧
      (decide (100 < ((le (notice t).payload 0 8 : Int) - 200019).natAbs) = (t == 200120))) ∧
    (let c : Circ := { running0 with disarm := true }; c.armed = true ∧ c.disarm = true) ∧
    (let c : Circ := { running0 with sched := some { sched2 with cycles := 1 }, slot := 1 }; c.armed = true ∧ c.disarm = false ∧ nextSlot c = none) ∧
    (running0.armed = true ∧ running0.disarm = false ∧ nextSlot running0 = some (sched2, 1, 0) ∧ sched2.slots[1]? = some slotD) ∧
    (∀ eq ∈ [true, false], let s := { optUp .down running0 with lasts := if eq then [(2, ⟨[], toLE 8 9 ++ toLE 2 5 ++ toLE 2 (1023 % 2048 + 2048) ++ zeros 20, none⟩)] else [] }
      curSlot (s.circOf 1023) = some slotA ∧ (s.circOf 1023).armed = true ∧ slotA.dark = false ∧ (s.circOf 1023).failed = false ∧ (s.circOf 1023).suspended = false ∧
        (s.port 1023).st = .down ∧ (s.port 1023).enabled = true ∧ ((lanesOf s 1023).all (eqHas s 1023) = eq) ∧
        (s.circOf 1023).full = false ∧ (s.circOf 1023).opened = false) ∧
    (let s := optUp .training { running0 with full := true }; (s.circOf 1023).full = true ∧ (s.port 1023).st = .training ∧ curSlot (s.circOf 1023) = some slotA) := by
  and_intros <;> decide +kernel

def timing (k seq : Nat) (pay : Bytes) : Cell := mkCell 10 0 0 false false 0 0 0 (place k 56 3 + place seq 40 16) pay
def stamped (d : List Int) : State := { port2 { st := .check, stamps := [⟨65535, 0, 0⟩], dvals := d } {} with time := {} }

theorem witness_timing_cells :
    (∀ st ∈ [PState.check, .up], isWelt 1022 = false ∧ timingState ((port2 { st := st } {}).port 1022).st = true) ∧
    (let c := timing 0 0 (zeros 9 ++ [4, 0, 4] ++ zeros 52); takesTiming (stamped []) 1022 c 0 = true ∧ announceOk c.payload = true) ∧
    (let c := timing 1 65535 (zeros 64); takesTiming (stamped []) 1022 c 1 = true ∧ zeroAt c.payload 10 54 = true) ∧
    (∀ seq ∈ [0, 65535], let c := timing 2 0 (zeros 20 ++ toLE 2 seq ++ zeros 42)
      takesTiming (stamped []) 1022 c 2 = true ∧ zeroAt c.payload 22 42 = true ∧ (takeStamp 1022 (le c.payload 20 2) (stamped [])).1 = if seq = 0 then none else some 0) ∧
    (∀ e ∈ [(([] : List Int), true), ([-9999999], false)], (exchange 1022 0 0 0 0 (stamped e.1)).2.1 = e.2) := by
  and_intros <;> decide +kernel

def ppsState (src : Nat) (p : Option Nat) : State := { up with time := { st := .locked, src := src, mask := 2, ppsAt := p, ppsTod := some 5000000000 } }

theorem witness_time_references :
    (∀ f ∈ [4000000000 + 4000, 4000000000 + 4001], decide (4000 < (((f : Int) - (0 : Nat)) - 4000000000).natAbs) = (f == 4000004001)) ∧
    ((ppsState 2 (some 0)).time.ppsAt = some 0 ∧ (ppsState 1 none).time.ppsAt = none) ∧
    ((reselect ((ppsState 2 (some 0)).modTime fun t => { t with ppsAt := some 4000000000, ppsTod := some 6000000000, ppsOk := true, tod := 0 })).time.src = 2) ∧
    ((reselect (({ up with time := { mask := 0 } } : State).modTime fun t => { t with ppsAt := some 4000000000, ppsTod := none, ppsOk := true, tod := 0 })).time.src ≠ 2) ∧
    (∀ d ∈ [none, some (3 : Int)], let s : State := { up with time := { src := 3, ptp := some (9, 1), ptpDelay := d, ptpSync := some (1, 2) } }
      (match s.time.ptp with | some (m, _) => m == (9 : W64) | none => false) = true ∧ s.time.ptpDelay = d ∧ s.time.src = 3 ∧ s.time.ptpSync = some (1, 2)) ∧
    ((match up.time.ptp with | some (m, _) => m == (9 : W64) | none => false) = false) ∧
    ({ up with time := { st := .holdover } } : State).time.st = .holdover := by
  and_intros <;> decide +kernel

theorem witness_control_cores :
    (let s : State := { up with ctl := { crashed := [3] } }; s.ctl.crashed.contains 3 = true) ∧ up.chip.inReset = false ∧
    (∀ h ∈ [false, true], let s : State := { up with ctl := { act := some ⟨0, h, 1, []⟩ } }; s.ctl.act = some ⟨0, h, 1, []⟩ ∧ (h = true → coresDown s = false)) ∧
    (let s : State := { up with flash := { shippedFlash with trial := 4 } }; inTrial s 2 = true) := by decide +kernel

/-- LAST_VDERATE with ADAPT clear and VSET_TARGET as shipped. -/
def rail (sp : Nat) (w : Bool) : State := { up with lasts := lasts6, chip := { up.chip with setpoint := sp, warn := if w then [(0, ⟨0, 650⟩)] else [] } }

theorem witness_monitors :
    (3 < 4 ∧ 15 < 16 ∧ (List.replicate 16 1024).length = 16 ∧ 20 * 972 < 19 * 1024 ∧ ¬(20 * 973 < 19 * 1024)) ∧
    (let b := (rail 700 false).lastBody 5
     (rail 700 false).chip.inReset = false ∧ (rail 700 false).chip.st ≠ .boot ∧ (rail 700 false).chip.avsStop = false ∧ ((rail 700 false).lasts.look? 5).isSome = true ∧
       (rail 700 false).chip.setpoint ≤ nextSetpoint (rail 700 false) ∧ nextSetpoint (rail 700 false) ≠ (rail 700 false).chip.setpoint ∧
       nextSetpoint (rail (le b 0 2) false) = (rail (le b 0 2) false).chip.setpoint ∧
       (rail 700 false).chip.stepAt = 0 ∧ nextSetpoint (rail 900 true) < (rail 900 true).chip.setpoint ∧ mayNotLower (rail 900 true) = true ∧ mayNotLower (rail 900 false) = false) ∧
    (∀ e ∈ [([some 3, some 3, some 3, some 3, some 3], true), ([some 3, some 3, some 3, some 3, none], false), ([some 4, some 0, some 0, some 0, some 0], false)],
      ((e.1 : List (Option Nat)).length == 5 && e.1.all fun f => match f with | some n => decide (n ≤ 3) | none => false) = e.2) ∧
    (∀ tj ∈ [(879 : Int), 880, 919, 920, 999, 1000], tj < 880 ∨ (880 ≤ tj ∧ tj < 920) ∨ (920 ≤ tj ∧ tj < 1000) ∨ 1000 ≤ tj) := by
  and_intros <;> decide +kernel

theorem witness_trip :
    (let s := rail 750 false
     let t := noteSample 4 1000 (s.modChip fun c => { c with tj := (List.range 5).map fun d => if d = 4 then 1000 else c.tj.getD d 0 })
     t.chip.tjWarn.contains 4 = false ∧ t.chip.thermN = false) := by and_intros <;> decide +kernel

theorem witness_records :
    (let s : State := { lasted with fabric := { tags := [] } }
     s.lasts.look? 7 = some ⟨zeros 32, [], some (zeros 32, [])⟩ ∧ s.fabric.tags = []) ∧
    (∀ bad ∈ [true, false], let s : State := { up with
        host := { up.host with shadow := { enable := true, tables := 0x20, addr := 4096, suspects := [wPool / 4096] } }
        mem := { dmaFail := if bad then [(4096 + wPool, 1)] else [] } }
      let gs := (shadowSegs s).filter fun g => !s.isLocked g
      s.host.shadow.enable = true ∧ (gs.find? fun g => s.dmaBad (s.host.shadow.addr + 4096 * g) 4096) = (if bad then some (wPool / 4096) else none) ∧
        s.host.shadow.suspects.contains (wPool / 4096) = true ∧ s.dmaBad (s.host.shadow.addr + 4096 * (wPool / 4096)) 4096 = bad) ∧
    (up.chip.inReset = false ∧ 4 < 5 ∧ 3 < 4) := by
  and_intros <;> decide +kernel

/-! Exact accumulation. -/

theorem witness_special_inputs :
    (∀ st ∈ [0, 1, 2, 3], let r : Row := { lane := [st] }; r.lane.getD 0 0 = st ∧ -(2 ^ (accW sumDesc - 1)) ≤ r.at 0 ∧ r.at 0 < 2 ^ (accW sumDesc - 1)) ∧
    sums sumDesc = true ∧ 0 < elems sumDesc ∧
    (cellElts sumDesc (sumCell 0x7FC0))[0]? = some .nan ∧ (cellElts sumDesc (sumCell 0x7F80))[0]? = some (.inf false) ∧ (cellElts sumDesc (sumCell 0xFF80))[0]? = some (.inf true) ∧
    (let sq := sumDesc ||| BitVec.ofNat 512 (3 * 2 ^ 32)
     dOp sq = 3 ∧ sums sq = true ∧ ¬(dOp sumDesc = 3 ∨ (dOp sumDesc = 4 ∧ true = true))) := by
  and_intros <;> decide +kernel

theorem witness_loss : sums sumDesc = true ∧ (sumRow [0x3A00]).loss = 1 ∧ (sumRow [0x3B01]).loss = 0 ∧ (sumRow [0]).loss = 0 := by
  and_intros <;> decide +kernel

/-! Register reads: the offsets, bits and constants of R376 and R378. -/

theorem test_register_read :
    barWord { State.reset with host := { session := true, eqHead := 7, eqOverflow := true }, chip := { st := .service } } 0x000 = 0x103 ∧
    barWord { State.reset with host := { session := true, eqHead := 7, eqOverflow := true } } 0x020 = 7 ∧
    barWord { State.reset with host := { eqOverflow := true } } 0x028 = 2 ∧
    barWord { State.reset with host := { mbx := [(1, { busy := true, irqEn := true })] } } 0x2004 = 9 ∧ dvsecWord 0x0C = 0x52544C4B := by
  and_intros <;> decide +kernel

/-! Steps. -/

theorem witness_step :
    (({ up with pending := [.ppsInLoss, .drainTimerExpiry] } : State).pending = .ppsInLoss :: [.drainTimerExpiry]) ∧ up.pending = [] ∧ State.reset.chip.inReset = true := by
  and_intros <;> decide +kernel

theorem witness_memory : State.reset.memOk ∧ ∃ t, step { State.reset with pending := [.drainTimerExpiry] } = .next t := by
  refine ⟨?_, _, rfl⟩
  unfold State.memOk Mems.ok; decide +kernel

theorem witness_floors : ∃ t, step { up with pending := [.drainTimerExpiry] } = .next t ∧ floorOf up.flash 4 ≤ floorOf t.flash 4 := ⟨_, rfl, le_refl _⟩

theorem witness_queue : ∃ t, exec .drainTimerExpiry { up with pending := [.ppsInLoss] } = .next t ∧ t.pending = [.ppsInLoss] := ⟨_, rfl, rfl⟩

end Sys2Proof.Tests
end

/-! PROOFS of the architecture family: control messages (O27), seams and memory errors (O41), records, shadow passes and markers (O58). -/
namespace Sys2Proof.Proofs
open Sys2Proof Sys2Proof.Machine Sys2Proof.Laws

/-! How a served message ends, from the reply of its opcode's own rules. -/

section Served
variable {c : Instr} {op : Nat} {m : Msg} {s : State} {f : Bytes → State → Option Reply × State}

/-- Rules that reply OK to the request `b` in the rung state `r` answer the message with the reply's body. -/
theorem answersOk_of_reply {body : Bytes} {t : State} (b : Bytes) (r : State) (hs : Served op m s) (he : exec c s = runMsg op m s f)
    (hf : f b r = (some (.ok body), t)) (hr : r = ring op m s := by rfl) (hb : b = reqBody r m := by rfl) : AnswersOk c op m s body t := by
  subst hr hb
  exact ⟨false, by rw [he, runMsg_eq hs, hf]; rfl⟩

/-- Rules that give the request `b` in the rung state `r` no reply yet leave the message waiting in its mailbox. -/
theorem defers_of_noReply {t : State} (b : Bytes) (r : State) (hs : Served op m s) (he : exec c s = runMsg op m s f)
    (hf : f b r = (none, t)) (hr : r = ring op m s := by rfl) (hb : b = reqBody r m := by rfl) : Defers c op m s t := by
  subst hr hb
  rw [Defers, he, runMsg_eq hs, hf]

end Served

/-- Reserved bytes pass their check exactly when they are zero. -/
theorem rsvd_none (b : Bytes) (off n : Nat) : rsvd b off n = none ↔ zeroAt b off n = true := need_none _ _

/-- A check-list that passes refuses with nothing. -/
theorem not_refused {α : Type} {l : List (Option α)} {x : α} (hpass : firstOf l = none) : firstOf l ≠ some x := by simp [hpass]

/-! The checks of FW_ACTIVATE (R426). -/

/-- The chip states in which part `p` may be activated. -/
def mayActivate (p : Nat) (st : CState) : Bool :=
  match st with
  | .service | .pairing | .degraded => true
  | .safeMonitor => p == 0
  | _ => false

theorem mayActivate_iff (p : Nat) (st : CState) :
    mayActivate p st = true ↔ st = .service ∨ st = .pairing ∨ st = .degraded ∨ st = .safeMonitor ∧ p = 0 := by
  cases st <;> simp [mayActivate]

/-- The checks of FW_ACTIVATE for the staged image `st` of part `p`, in the order of R426; `hand` says whether the activation hands over. -/
def activateChecks (p : Nat) (st : Image) (hand : Bool) (b : Bytes) (s : State) : List (Option Reply) :=
  [need (decide (p < 5)) (Reply.range 0), rsvd b 1 7, rsvd b 14 2, need (s.ctl.stageSt.look p 0 == 2) (.err eState),
    need ((b.drop 8).take 6 == verTriple st.hdr) (.range 8), need (s.ctl.act.isNone && s.flash.trial == 0) (.err eBusy),
    need (mayActivate p s.chip.st) (.err eState), need (imageValid s.flash p st) (.err eAuth),
    need (compatible (setWith s p st.hdr) (lastsWith s p)) (.err eState),
    need (!(p == 1 && majorOf st.hdr != libMajor s && !(heldPeals s).isEmpty)) (.err eState), need (twinAgrees s p st.hdr) (.err eTwin),
    need (!hand || s.host.features.getLsbD 5) (.err eFeature)]

/-- Settles O27: each message passes its checks, and what its rules reply past them is read off. -/
theorem controlMessagesTakeEffect : Obligations.ControlMessagesTakeEffect := by
  unfold Obligations.ControlMessagesTakeEffect
  intro m s
  refine ⟨?snapshot, ?fwActivate, ?attest, ?lastLoad, ?shadowConfig⟩
  case snapshot =>
    intro hs r b hkind hres hfree
    refine defers_of_noReply b r hs exec_snapshot ?_
    rw [(firstOf_none _).mpr (by simp [need_none, rsvd_none, hkind, hres, hfree])]
    rfl
  case fwActivate =>
    intro hs r b p st act hp h1 h14 hst hver hact htrial hchip himg hcompat hlib htwin
    have hpass (hand : Bool) (hf : hand = true → r.host.features.getLsbD 5 = true) : firstOf (activateChecks p st hand b r) = none := by
      have hlib' : (¬p = 1 ∨ majorOf st.hdr = libMajor r) ∨ heldPeals r = [] := or_assoc.mpr (imp_iff_not_or.mp hlib)
      have hf' : hand = false ∨ r.host.features.getLsbD 5 = true := by cases hand <;> simp_all
      simp only [firstOf_none, activateChecks, List.forall_mem_cons, need_none, rsvd_none]
      exact ⟨by simpa using hp, h1, h14, by simpa using hst, by simpa using hver, by simp [hact, htrial], (mayActivate_iff _ _).mpr hchip,
        himg, hcompat, by simpa using hlib', htwin, by simpa using hf', nofun⟩
    refine ⟨fun hp0 hwant hpause hfeat => ?handover, fun hp0 => ?load, fun hp0 hstay => ?restart⟩
    case handover =>
      have hand : (p == 0 && wantsHandover r && !needsPause st.hdr) = true := by simp [hp0, hwant, hpause]
      refine defers_of_noReply b r hs exec_fwActivate ?_
      dsimp only
      split
      · next h => exact absurd h (not_refused (hpass _ fun _ => hfeat))
      · rw [hand]; rfl
    case load =>
      have stay : (p == 0 && wantsHandover r && !needsPause st.hdr) = false := by simp [hp0]
      refine answersOk_of_reply b r hs exec_fwActivate ?_
      dsimp only
      split
      · next h => exact absurd h (not_refused (hpass _ (by rw [stay]; nofun)))
      · rw [stay, if_neg nofun, if_neg hp0]
    case restart =>
      have stay : (p == 0 && wantsHandover r && !needsPause st.hdr) = false := by rcases hstay with h | h <;> simp [h]
      refine defers_of_noReply b r hs exec_fwActivate ?_
      dsimp only
      split
      · next h => exact absurd h (not_refused (hpass _ (by rw [stay]; nofun)))
      · rw [stay, if_neg nofun, if_pos hp0]; rfl
  case attest =>
    intro hs r b hres hnext hsoon x q
    refine answersOk_of_reply b r hs exec_attest ?_
    dsimp only
    rw [(firstOf_none _).mpr ?checks]
    · rfl
    case checks =>
      simp only [List.forall_mem_cons, need_none, rsvd_none]
      refine ⟨hres, by simpa using hnext, ?_, nofun⟩
      cases h : r.ctl.quoteAt with
      | none => rfl
      | some t => simpa using hsoon t h
  case lastLoad =>
    intro hs r b id hfault hpend hstage htrial t
    refine answersOk_of_reply b r hs exec_lastLoad ?_
    simp [hfault, hpend, hstage, htrial, id, t]
  case shadowConfig =>
    intro hs r b hon htables hsome h2 hper hper' haddr hrate hrate' h20
    have hsome' := imp_iff_not_or.mp hsome
    refine answersOk_of_reply b r hs exec_shadowConfig (checked_none ((firstOf_none _).mpr ?_) _ _ _)
    simp [need_none, rsvd_none, *]

/-- Settles O41: the guards of each command say which of its branches is taken. -/
theorem seamsAndMemoryErrorsAct : Obligations.SeamsAndMemoryErrorsAct := by
  unfold Obligations.SeamsAndMemoryErrorsAct
  intro s m dir lane b n r
  simp only [exec_seamFrameCrcFail, exec_seamLaneLoss, exec_bufferEccError]
  refine ⟨fun hm hdir => ?seam, fun hn hkeep => ?entry, fun hgone ue => ?gone, rfl, rfl, rfl, rfl⟩
  case seam =>
    have hreal : ¬(decide (10 ≤ m) || decide (2 ≤ dir)) = true := by simp [hm, hdir]
    have hloss (h0 : (s.seam m dir).spares = 0) : ¬(decide (10 ≤ m) || decide (2 ≤ dir) || decide ((s.seam m dir).spares ≠ 0)) = true := by
      simp [hm, hdir, h0]
    refine ⟨fun h => ?again, fun h h0 => ?exhausted, fun h h0 => ?spare, fun h0 h => ?fence, fun h0 h => ?narrow⟩
    case again => exact (if_neg hreal).trans (if_pos h)
    case exhausted => exact (if_neg hreal).trans ((if_neg h.not_gt).trans (if_pos h0))
    case spare => exact (if_neg hreal).trans ((if_neg h.not_gt).trans (if_neg h0))
    case fence => exact (if_neg (hloss h0)).trans (if_pos h)
    case narrow => exact (if_neg (hloss h0)).trans (if_neg h.not_ge)
  case entry =>
    have hserves : ¬(decide (199728 ≤ n) || (s.block b).retired.contains n) = true := by rw [hkeep]; simpa using hn
    exact ⟨if_neg hserves, if_neg hserves⟩
  case gone =>
    have hskip : (decide (199728 ≤ n) || (s.block b).retired.contains n) = true := by simpa using hgone
    exact if_pos hskip

/-- Settles O58: the guards of each command say which of its branches is taken. -/
theorem recordsAndPassesTakeEffect : Obligations.RecordsAndPassesTakeEffect := by
  unfold Obligations.RecordsAndPassesTakeEffect
  intro s die seg eyes
  refine ⟨fun l h b hl hp ht => ?format, fun hon => ?pass, fun hon hsus => ?recheck, fun hdie htakes => ?latches,
    fun hdie htakes hnew z hz hsent => ?waits, fun hup hdie => ?ledger⟩
  case format => simp [execLastCellfmtActivate, activateFmt, hl, hp, ht]
  case pass =>
    have hrun : ¬(!s.host.shadow.enable) = true := by simp [hon]
    rw [exec_shadowPass, execShadowPass, if_neg hrun]
    exact ⟨fun g hg => by simp only [hg], fun hg => by simp only [hg]⟩
  case recheck =>
    have hrun : ¬(!s.host.shadow.enable || !s.host.shadow.suspects.contains seg) = true := by rw [hon, hsus]; nofun
    rw [exec_shadowRecheck]
    refine ⟨fun hbad => (if_neg hrun).trans (if_pos hbad), fun hgood => ?_⟩
    intro t
    refine (if_neg hrun).trans ((if_neg (by rw [hgood]; nofun)).trans ?_)
    dsimp only
    cases shadowDiff t seg with
    | none => rfl
    | some off =>
      simp only [Bool.or_eq_true, or_assoc, t]
      split <;> rfl
  case latches => simp [execFreezeMarkerArrival, hdie, htakes]
  case waits =>
    simp only [exec_freezeMarkerArrival, execFreezeMarkerArrival, hdie.not_ge, hz, hsent, htakes, hnew]
    rfl
  case ledger =>
    have hrun : ¬(s.chip.inReset || decide (5 ≤ die)) = true := by simp [hup, hdie]
    rw [exec_ledgerFlush, exec_ledgerDaily, exec_ledgerHourly]
    exact ⟨congrArg Host.Outcome.next (if_neg hrun), if_neg hrun, if_neg hrun⟩

end Sys2Proof.Proofs

/-! PROOFS of the lanes, links and cells family: port messages (O22), lock, errors and DISCOVERY (O36), control words, retries and stomps (O37),
verdicts, cells, boundaries and slots (O38). -/
namespace Sys2Proof.Proofs
open Sys2Proof Sys2Proof.Machine Sys2Proof.Laws

/-! PORT_CONFIG, PORT_FENCE, PORT_UNFENCE and PORT_DAMP. -/

/-- Joined check-lists pass exactly when each passes. -/
theorem firstOf_append_none {α : Type} (l k : List (Option α)) : firstOf (l ++ k) = none ↔ firstOf l = none ∧ firstOf k = none := by
  simp only [firstOf_none, List.forall_mem_append]

/-- A single byte that is there or past the end is zero exactly when it reads as zero. -/
theorem zeroAt_one (b : Bytes) (off : Nat) : zeroAt b off 1 = true ↔ byteAt b off = 0 := by
  rw [zeroAt, byteAt, List.getD_eq_getElem?_getD, List.take_one, List.head?_drop]
  cases b[off]? with
  | none => simp
  | some x => simpa using (BitVec.toNat_inj (x := x) (y := 0)).symm

/-- The request body that PORT_FENCE, PORT_UNFENCE and PORT_DAMP read: byte 2 carries the ACTION where the opcode has one. -/
def portBody (action : Option Nat) (b : Bytes) : Bytes :=
  match action with
  | some a => withAction 2 a b
  | none => b

/-- PORT_FENCE, PORT_UNFENCE and PORT_DAMP on a port that is there, with nothing that stops them: the response names the port's state before and
after. -/
theorem answersOk_portOp {c : Instr} {op : Nat} {action : Option Nat} {m : Msg} {s : State} {stop : Nat → Bool} {f : Nat → State → State} (r : State)
    (b : Bytes) (p : Nat) (hs : Served op m s) (he : exec c s = portOp op action m s stop f) (hthere : portThere r p = true)
    (h2 : action = none → byteAt b 2 = 0) (h3 : byteAt b 3 = 0) (hstop : (!stop p) = true) (hr : r = ring op m s := by rfl)
    (hb : b = portBody action (reqBody r m) := by rfl) (hp : p = le b 0 2 := by rfl) :
    AnswersOk c op m s [BitVec.ofNat 8 (r.port p).st.code, BitVec.ofNat 8 ((f p r).port p).st.code, 0, 0] (f p r) := by
  subst hr hb hp
  refine answersOk_of_reply _ _ hs he (checked_none ((firstOf_none _).mpr ?_) _ _ _)
  simp only [List.forall_mem_cons, need_none, rsvd_none, zeroAt_one]
  refine ⟨hthere, ?_, h3, hstop, nofun⟩
  cases action with
  | none => exact (rsvd_none _ _ _).mpr ((zeroAt_one _ _).mpr (h2 rfl))
  | some a => rfl

/-- Settles O22: the checks of each message pass, and what its rules reply past them is read off. -/
theorem portMessagesTakeEffect : Obligations.PortMessagesTakeEffect := by
  unfold Obligations.PortMessagesTakeEffect
  intro m s
  refine ⟨?config, ?qosOnly, ?remove, ?move⟩
  case config =>
    intro hs r b p w q hfields hdiv hover hqos hreach hstate
    refine defers_of_noReply (reqBody r m) r hs exec_portConfig ?_
    dsimp only
    split
    · next h =>
      refine absurd h (not_refused ((firstOf_append_none _ _).mpr ⟨hfields, (firstOf_none _).mpr ?_⟩))
      have hreach' := imp_iff_not_or.mp hreach
      simp only [List.forall_mem_cons, need_none]
      refine ⟨by simpa using hdiv, by simpa using hover, hqos, by simpa using hreach', ?_, nofun⟩
      simpa [or_assoc, and_assoc] using hstate
    · rfl
  case qosOnly =>
    intro hs r b q hfields hthere hw hen hlong hprof hqos
    refine defers_of_noReply (reqBody r m) r hs exec_portConfigQosOnly ?_
    dsimp only
    split
    · next h =>
      refine absurd h (not_refused ((firstOf_append_none _ _).mpr ⟨hfields, (firstOf_none _).mpr ?_⟩))
      simp only [List.forall_mem_cons, need_none]
      exact ⟨hthere, by simpa using hw, by simpa using ⟨hen, hlong⟩, by simpa using hprof, hqos, nofun⟩
    · rfl
  case remove =>
    intro hs r b hfields hres hthere hdown
    refine answersOk_of_reply (reqBody r m) r hs exec_portConfigRemove (checked_none ?_ _ _ _)
    refine (firstOf_append_none _ _).mpr ⟨(firstOf_append_none _ _).mpr ⟨hfields, hres⟩, (firstOf_none _).mpr ?_⟩
    simpa [need_none] using ⟨hthere, hdown⟩
  case move =>
    refine List.forall_mem_cons.mpr ⟨?fence, List.forall_mem_cons.mpr ⟨?unfence, List.forall_mem_cons.mpr ⟨?damp,
      List.forall_mem_cons.mpr ⟨?release, List.forall_mem_nil _⟩⟩⟩⟩
    case fence =>
      intro hs r b p hthere h2 h3 _
      exact answersOk_portOp r b p hs exec_portFence hthere h2 h3 (by rfl)
    case unfence =>
      intro hs r b p hthere h2 h3 hfenced
      exact answersOk_portOp r b p hs exec_portUnfence hthere h2 h3 (by simpa using hfenced)
    case damp =>
      intro hs r b p hthere h2 h3 hmay
      exact answersOk_portOp r b p hs exec_portDampDamp hthere h2 h3 (by simpa using hmay)
    case release =>
      intro hs r b p hthere h2 h3 hmay
      exact answersOk_portOp r b p hs exec_portDampRelease hthere h2 h3 hmay

/-! Changes of a port, and the link faults of R60 and R61. -/

/-- A change of an entry reaches that entry alone. -/
theorem look?_mod {α : Type} (t : Tbl α) (k j : Nat) (f : α → α) : (t.mod k f).look? j = (t.look? j).map fun a => if j = k then f a else a := by
  induction t with
  | nil => rfl
  | cons e t ih =>
    have hcons : Tbl.mod (e :: t) k f = (e.1, if e.1 = k then f e.2 else e.2) :: Tbl.mod t k f := by
      simp only [Tbl.mod, List.map_cons]
      split <;> rfl
    rw [hcons, Tbl.look?, Tbl.look?, ih]
    split
    · next h => rw [h]; rfl
    · rfl

/-- A change of a port that keeps its state keeps the state of every port. -/
theorem port_st_modPort (s : State) (p x : Nat) {f : Port → Port} (hf : ∀ q, (f q).st = q.st) : ((s.modPort p f).port x).st = (s.port x).st := by
  simp only [State.port, State_modPort_ports, Tbl.look, look?_mod]
  cases s.ports.look? x with
  | none => rfl
  | some q => by_cases h : x = p <;> simp [h, hf]

theorem faultable_iff (st : PState) : faultable st = true ↔ st = .up ∨ st = .check ∨ st = .quarantine := by
  simp [faultable, or_assoc]

/-- In UP, CHECK and QUARANTINE a link fault is a fault of the port (R60). -/
theorem linkFault_of_active {s : State} {p : Nat} (cause : Nat) (h : (s.port p).st = .up ∨ (s.port p).st = .check ∨ (s.port p).st = .quarantine) :
    linkFault p cause s = portFault p cause s := if_pos ((faultable_iff _).mpr h)

/-- On a FENCED port a link fault is counted alone (R61). -/
theorem linkFault_of_fenced {s : State} {p : Nat} (cause : Nat) (h : (s.port p).st = .fenced) : linkFault p cause s = bump 0x20 (portEntry p) 1 s := by
  simp [linkFault, countFenced, faultable, h]

/-- Settles O36: the guards of each event say which of its branches is taken, and a new limit keeps the port's state. -/
theorem linkErrorsAndDiscoveryAct : Obligations.LinkErrorsAndDiscoveryAct := by
  unfold Obligations.LinkErrorsAndDiscoveryAct
  refine ⟨fun s p lane ser => ⟨fun hlane => ?lock, fun hlane => ?loss, fun hst hser => ?dwellSer, fun f hst hser hf => ?dwell, ?ratio, fun hlane => ?stomps⟩,
    fun s p c hfab hst => ?discovery⟩
  case lock => exact congrArg Host.Outcome.next (if_pos hlane)
  case loss => exact congrArg Host.Outcome.next (if_pos hlane)
  case dwellSer => exact (if_neg (not_not.mpr hst)).trans (if_pos hser)
  case dwell =>
    have hjudge : exec (.checkDwellEnd p ser) s =
        if reachLimit s p < f then .next (portFault p 11 s) else .next (tryUp p (s.modPort p fun q => { q with dwellOk := true })) := by
      rw [exec_checkDwellEnd, execCheckDwellEnd, if_neg (not_not.mpr hst), if_neg hser.not_gt, hf]
    exact ⟨fun hfar => hjudge.trans (if_pos hfar), fun hnear => hjudge.trans (if_neg hnear.not_gt)⟩
  case ratio =>
    intro max t
    have hkeeps : (t.port p).st = (s.port p).st := port_st_modPort s p p fun _ => rfl
    have hfault (h : max < ser) : exec (.serDamp p ser) s = .next (linkFault p 10 t) := congrArg Host.Outcome.next (if_pos h)
    refine ⟨fun h hact => ?_, fun h hfen => ?_, fun h => congrArg Host.Outcome.next (if_neg h.not_gt)⟩
    · rw [hfault h, linkFault_of_active 10 (by rwa [hkeeps])]
    · rw [hfault h, linkFault_of_fenced 10 (by rwa [hkeeps])]
  case stomps =>
    intro l max
    have hreal : ¬(!laneOk lane) = true := by simp [hlane]
    refine ⟨fun hfew => (if_neg hreal).trans ?few, fun hmany => (if_neg hreal).trans ?many⟩
    case few => simp [l, max, hfew.not_gt]
    case many =>
      have htoo : decide ((s.lane lane).stompMax.getD (sm s 0x28 4) * (s.lane lane).sent < (s.lane lane).stomps * 1000000) = true := decide_eq_true hmany
      simp only [htoo, Bool.or_true, Bool.true_and, l]
      cases (s.lane lane).specOff <;> rfl
  case discovery =>
    have hact : ((s.port p).st == .check || (s.port p).st == .quarantine || (s.port p).st == .up) = true := by simpa [or_assoc] using hst
    refine ⟨?send, fun hcrc htyp => ?receive⟩
    case send =>
      exact congrArg Host.Outcome.next (if_pos (by rw [hfab, hact]; rfl))
    case receive =>
      have hheard : ¬(isWelt p || !((s.port p).st == .check || (s.port p).st == .quarantine || (s.port p).st == .up) || !c.crcOk ||
          decide (c.typ ≠ tDiscovery)) = true := by
        rw [hfab, hact, hcrc, htyp]; decide
      rw [exec_discoveryReceive, execDiscoveryReceive, if_neg hheard]
      refine ⟨fun hbad => by rw [hbad], fun h hgood => ?_⟩
      rw [hgood]
      exact ⟨fun hfirst => if_neg hfirst, fun hsecond => if_pos hsecond⟩

/-! Link control words, retries and stomps. -/

/-- In DAMPED and FENCED a STOMP is discarded and counted (R59). -/
theorem takeStomp_of_cut {lane p : Nat} {c : Cell} {s : State} (h : (s.port p).st = .damped ∨ (s.port p).st = .fenced) :
    takeStomp lane p c s = countDiscard (some p) causePortState s := if_pos (by simpa using h)

/-- A port without a link passes a STOMP over. -/
theorem takeStomp_of_unlinked {lane p : Nat} {c : Cell} {s : State} (h : (s.port p).st = .down ∨ (s.port p).st = .training ∨ (s.port p).st = .absent) :
    takeStomp lane p c s = s := by
  rcases h with h | h | h <;> simp [takeStomp, faultable, h]

/-- In UP, CHECK and QUARANTINE a STOMP of a legal encoding is acted on (R39). -/
theorem takeStomp_of_active {lane p : Nat} {c : Cell} {s : State} (h : (s.port p).st = .up ∨ (s.port p).st = .check ∨ (s.port p).st = .quarantine) :
    takeStomp lane p c s = if (!stompOk s c) = true then countDiscard (some p) causeEncoding s
      else if bit c.hdr.toNat 35 = true then onLinkStomp lane c s else onStomp lane c s := by
  have hopen : ¬((s.port p).st == .damped || (s.port p).st == .fenced) = true := by rcases h with h | h | h <;> simp [h]
  have hact : ¬(!faultable (s.port p).st) = true := by simpa [faultable_iff] using h
  exact (if_neg hopen).trans (if_neg hact)

/-- Settles O37: a word goes past the guards of its lane to its CRC16, a STOMP past those of its port to what it names. -/
theorem controlWordsAndRetriesAct : Obligations.ControlWordsAndRetriesAct := by
  unfold Obligations.ControlWordsAndRetriesAct
  refine ⟨fun s lane p w hp hdown habsent hlock => ?word, fun s lane p c hp => ⟨fun b rest hun => ?timeout, fun htyp hok hcrc => ?stomp⟩⟩
  case word =>
    have hlive : ¬((s.port p).st == .down || (s.port p).st == .absent) = true := by simp [hdown, habsent]
    have hlocked : ¬(!(s.lane lane).locked) = true := by simp [hlock]
    refine ⟨fun hgood => ?good, fun hbad => ?bad, fun hact => ?lost⟩
    case good =>
      have hsound : ¬(!lcwOk w) = true := by simp [hgood]
      rw [exec_lcwReceive, execLcwReceive, hp]
      refine (if_neg hlive).trans ((if_neg hlocked).trans ((if_neg hsound).trans ?_))
      simp only [beq_iff_eq, BitVec.ofNat_add]
      rfl
    case bad =>
      intro counted ended t
      have hlost : exec (.lcwReceive lane w) s = .next (loseLcw lane p ended) := by
        rw [exec_lcwReceive, execLcwReceive, hp]
        refine (if_neg hlive).trans ((if_neg hlocked).trans ((if_pos (by simp [hbad])).trans ?_))
        simp only [beq_iff_eq]
        rfl
      refine ⟨fun hact hfour => ?_, fun hfew => ?_⟩
      · exact hlost.trans (congrArg Host.Outcome.next ((if_pos hfour).trans (linkFault_of_active 8 hact)))
      · exact hlost.trans (congrArg Host.Outcome.next (if_neg hfew.not_ge))
    case lost =>
      rw [exec_lcwLoss, execLcwLoss, hp]
      exact congrArg Host.Outcome.next (linkFault_of_active 8 hact)
  case timeout => simp only [exec_retryTimeout, execRetryTimeout, hp, hun, List.head?_cons]
  case stomp =>
    intro st link cmd
    have hcmd : exec (cmd lane c) s = .next (takeStomp lane p c s) := by
      have htyp' : (c.typ == tStomp) = true := by simp [htyp]
      cases hl : bit c.hdr.toNat 35 <;>
        simp [cmd, link, hl, execStompReceive, execLinkStompReceive, hp, htyp', hok, hcrc]
    rw [hcmd]
    refine ⟨fun hcut => congrArg Host.Outcome.next (takeStomp_of_cut hcut), fun hidle => congrArg Host.Outcome.next (takeStomp_of_unlinked hidle),
      fun hact => ?act⟩
    case act =>
      rw [takeStomp_of_active hact]
      refine ⟨fun hbad => congrArg Host.Outcome.next (if_pos (by simp [hbad])), fun hgood => ?_⟩
      have hlegal : ¬(!stompOk s c) = true := by simp [hgood]
      rw [if_neg hlegal]
      intro t lsn slot tail tl known
      have hkeeps : t.port p = s.port p := by simp only [State.port, t, bump_ports]
      have hon (hl : link = false) : (if bit c.hdr.toNat 35 = true then onLinkStomp lane c s else onStomp lane c s) = onStomp lane c s :=
        if_neg (by simpa [link] using hl)
      refine ⟨fun hl => ?resend, fun hl hnone => ?unknown, fun f hl hsome => ?takeBack⟩
      case resend => rw [if_pos hl, onLinkStomp, hp]
      case unknown =>
        rw [hon hl, onStomp, hp, ← linkFault_of_active 9 (by rwa [hkeeps])]
        dsimp only
        split
        · rfl
        · next hfound => exact absurd (hnone.symm.trans hfound) nofun
      case takeBack =>
        rw [hon hl, onStomp, hp]
        dsimp only
        split
        · next hnone => exact absurd (hsome.symm.trans hnone) nofun
        · next hfound =>
          obtain rfl := Option.some.inj (hsome.symm.trans hfound)
          rfl

/-! A received cell. -/

/-- A cell of the block being received, once the slots before the one a resend starts from are passed over: one whose verdicts are in and whose
CRC-32C or codewords are bad makes the block bad, any other goes to the merge. -/
theorem arrive_eq (lane p slot : Nat) (c : Cell) (s : State) (h : (s.lane lane).rxFrom ≤ slot) :
    let l := s.lane lane
    let known := decide (lastCw l.rxBlk slot < l.rxCw)
    arrive lane p slot c s = if (known && (!c.crcOk || l.ueAt l.rxBlk slot)) = true then badFrom lane p l.rxLsn slot (countDiscard (some p) causeCrc s)
      else merge p (s.modLane lane fun l => { l with
        rxSlot := slot + 1
        fates := l.fates.filter (fun f => decide ((l.rxLsn - f.lsn).toNat * 16 + slot < 128 + f.slot) && !(f.lsn == l.rxLsn && f.slot == slot)) ++
          [⟨l.rxLsn, slot, l.rxBlk, c⟩]
        rxq := l.rxq ++ [(⟨l.rxLsn, slot, l.rxBlk, c⟩, known || speculating s lane)] }) := if_neg h.not_gt

/-! The stages of a codeword's verdict (R44, R45). -/

/-- The codeword is counted, with the symbols it corrected. -/
def countVerdict (lane : Nat) (v : Verdict) (s : State) : State :=
  let s := bump 0x03 lane 0 s
  if v.symbols = 0 then s else bumpN 0x03 lane 2 v.symbols (bump 0x03 lane 1 s)

/-- An uncorrectable codeword makes bad the block that holds it for good, from the first slot it touches. -/
def spoilBlock (lane p cw : Nat) (s : State) : State :=
  match ueSlot (s.lane lane) cw with
  | some (lsn, slot) => if linked (s.port p).st then badFrom lane p lsn slot s else s
  | none => s

/-- The first cell that ends in a codeword and whose CRC-32C fails makes its block bad from there. -/
def judgeCrcs (lane p cw : Nat) (s : State) : State :=
  match (s.lane lane).fates.find? fun x => decide (lastCw x.blk x.slot = cw) && !x.cell.crcOk with
  | some x => badFrom lane p x.lsn x.slot s
  | none => s

/-- Cells whose verdicts are all in go on, and whole blocks are acknowledged. -/
def takeUp (lane p : Nat) (s : State) : State :=
  merge p (s.modLane lane fun l => Lane.confirm { l with rxq := l.rxq.map fun x => (x.1, x.2 || decide (lastCw x.1.blk x.1.slot < l.rxCw)) })

theorem spoilBlock_of_none {lane p cw : Nat} {s : State} (h : ueSlot (s.lane lane) cw = none) : spoilBlock lane p cw s = s := by
  rw [spoilBlock, h]

theorem spoilBlock_of_some {lane p cw slot : Nat} {lsn : BitVec 16} {s : State} (h : ueSlot (s.lane lane) cw = some (lsn, slot))
    (hlink : linked (s.port p).st = true) : spoilBlock lane p cw s = badFrom lane p lsn slot s := by
  rw [spoilBlock, h]
  exact if_pos hlink

/-- A verdict counts its codeword, acts on the cells the codeword touches, and lets what waited for it go on. -/
theorem codewordVerdict_eq {s : State} {lane p : Nat} (v : Verdict) (hp : portOfLane s lane = some p) :
    let t := countVerdict lane v s
    let cw := (t.lane lane).rxCw
    let t := t.modLane lane fun l => { l with rxCw := cw + 1 }
    exec (.codewordVerdict lane v) s = .next (takeUp lane p (judgeCrcs lane p cw
      (if v.uncorrectable = true then spoilBlock lane p cw (bump 0x03 lane 3 (t.modLane lane fun l => { l with rxUe := l.rxUe ++ [cw] }))
       else v.changed.foldl (fun s x => verdictCell lane p ((cwSlot cw).1 + x.1) x.2.1 x.2.2 s) t))) := by
  rw [exec_codewordVerdict, execCodewordVerdict, hp]
  simp only [ne_eq, ite_not, countVerdict]
  generalize (if v.symbols = 0 then bump 0x03 lane 0 s else bumpN 0x03 lane 2 v.symbols (bump 0x03 lane 1 (bump 0x03 lane 0 s))) = t
  generalize (t.lane lane).rxCw = cw
  generalize (t.modLane lane fun l => { l with rxCw := cw + 1 }) = t
  cases v.uncorrectable with
  | false => rfl
  | true => rfl

/-- Settles O38: a verdict passes through its stages, a cell and a slot past the guards of their lane and port. -/
theorem lanesReceiveAndSend : Obligations.LanesReceiveAndSend := by
  unfold Obligations.LanesReceiveAndSend
  refine ⟨fun s lane p v hp => ?verdict, fun s lane p slot c hp hlane hok hslot => ?cell, fun s p hthere => ⟨fun hfab => ?refill, fun hfab hnext => ?install,
    fun hdown htrain habsent hroom => ?slot⟩⟩
  case verdict =>
    intro _ _ cw _ failed taken
    have hends (u : State) : takeUp lane p (judgeCrcs lane p cw u) = taken (failed u) := rfl
    rw [codewordVerdict_eq v hp]
    refine ⟨fun hgood => ?good, fun hbad => ?bad⟩
    case good =>
      rw [if_neg (by rw [hgood]; nofun)]
      exact congrArg Host.Outcome.next (hends _)
    case bad =>
      intro u
      rw [if_pos hbad]
      refine ⟨fun hgone => ?gone, fun lsn k hkept hlink => ?kept⟩
      case gone => exact congrArg Host.Outcome.next ((congrArg _ (congrArg _ (spoilBlock_of_none hgone))).trans (hends u))
      case kept => exact congrArg Host.Outcome.next ((congrArg _ (congrArg _ (spoilBlock_of_some hkept hlink))).trans (hends _))
  case cell =>
    have htaken : ¬(!laneOk lane || !Cell.ok c || decide (16 ≤ slot)) = true := by simp [hlane, hok, hslot]
    rw [exec_cellReceive, execCellReceive, hp]
    simp only [if_neg htaken]
    refine ⟨fun hunlocked => if_pos (by rw [hunlocked]; rfl), fun hlock hlink => ?locked⟩
    rw [if_neg (by rw [hlock]; nofun), if_neg (by rw [hlink]; nofun)]
    refine ⟨fun hwhole hpassed => ?passed, fun hwhole hfrom hknown hbad => ?bad, fun hwhole hfrom hgood => ?good, fun hbad hkept => ?kept⟩
    case kept => rw [if_pos hbad, if_neg (by rw [hkept]; nofun)]
    all_goals rw [if_neg (by rw [hwhole]; nofun)]
    case passed => exact congrArg Host.Outcome.next (if_pos hpassed)
    case bad => rw [arrive_eq _ _ _ _ _ hfrom, if_pos (by simpa [hknown] using hbad)]
    case good =>
      rw [arrive_eq _ _ _ _ _ hfrom, if_neg ?_]
      · rfl
      · rcases hgood with hlate | ⟨hcrc, hclean⟩
        · simp [hlate]
        · simp [hcrc, hclean]
  case refill => exact congrArg Host.Outcome.next (if_pos (by rw [hthere, hfab]; rfl))
  case install => exact congrArg Host.Outcome.next (if_pos (by rw [hthere, hfab, hnext]; rfl))
  case slot =>
    have hexists : ¬(!s.hasPort p) = true := by simp [hthere]
    have hsends : ¬((s.port p).st == .down || (s.port p).st == .absent || (s.port p).st == .training) = true := by simp [hdown, htrain, habsent]
    exact (if_neg hexists).trans ((if_neg hsends).trans (if_neg hroom.not_ge))

end Sys2Proof.Proofs

/-! PROOFS of the switching core family: the shared pool, trains and the express path (O39), waves, the local arbiter and claims (O40). -/
namespace Sys2Proof.Proofs
open Sys2Proof Sys2Proof.Machine Sys2Proof.Laws

/-! What a VC0 cell's crossing leaves of the scheduler (R86, R87). -/

@[simp] theorem returnCredit_sched {o : Origin} {s : State} : (returnCredit o s).sched = s.sched := by
  unfold returnCredit freeRoom
  cases o.port <;> rfl

@[simp] theorem leaveBlock_sched {n : Nat} {c : BufCell} {s : State} : (leaveBlock n c s).sched = s.sched := by
  unfold leaveBlock
  split
  · rfl
  · simp

@[simp] theorem countDiscard_sched {p : Option Nat} {cause : Nat} {s : State} : (countDiscard p cause s).sched = s.sched := by
  cases p <;> simp [countDiscard]

@[simp] theorem seamPassed_sched {m dir : Nat} {s : State} : (seamPassed m dir s).sched = s.sched := by
  unfold seamPassed
  split <;> simp

@[simp] theorem newEnt_hub {n : Nat} {s : State} : (newEnt n s).2.sched.hub = s.sched.hub := rfl

/-- A VC0 cell that crosses leaves in place what waits at the hub seams. -/
theorem expressCross_hub (i j : Nat) (x : Nat × BufCell) (s : State) : (expressCross i j x s).sched.hub = s.sched.hub := by
  unfold expressCross
  dsimp only
  split <;> simp

/-- The express port of an output block forwards the first cell its round robin finds, and what waited behind it at the hub seams follows. -/
theorem expressForward_eq {s : State} {n i : Nat} {x : Nat × BufCell}
    (hfirst : ((List.range 32).map fun k => (s.sched.expPtr.look n 0 + k) % 32).findSome? (fun i => (expressGo s i n).map fun x => (i, x)) = some (i, x)) :
    exec (.expressForward n) s = .next (drainHub s.sched.hub.length (expressCross i n x s)) := by
  rw [exec_expressForward, execExpressForward]
  simp only [hfirst, expressCross_hub]

/-- An engine that is not retired passes the guard of waves and of retirement. -/
theorem engine_inService {e : Nat} {retired : Bool} (he : e < 64) (hserves : retired = false) : ¬(decide (64 ≤ e) || retired) = true := by
  simp [he, hserves]

/-- Settles O39: what each command looks up first says which of its branches is taken. -/
theorem cellsCrossTheSwitch : Obligations.CellsCrossTheSwitch := by
  unfold Obligations.CellsCrossTheSwitch
  refine ⟨fun s n p vc => ⟨fun c hawait hfree => ?await, fun a dst c rest hnone hfirst hcopies => ?move, fun x hfirst => ?pend⟩,
    fun s n i p vc no e => ⟨fun t hblock hfirst => ?train, fun k x hfirst => ?express, fun he hserves => ?stall, fun hretired => ?retired⟩⟩
  case await =>
    rw [exec_sharedPoolMove, execSharedPoolMove]
    simp only [hawait, if_pos hfree]
  case move =>
    rw [exec_sharedPoolMove, execSharedPoolMove]
    simp only [hnone, hfirst, hcopies]
    exact ⟨fun huni => if_neg (by rw [huni]; nofun), fun hmulti => if_pos hmulti⟩
  case pend =>
    rw [exec_replicationPendingPlace, execReplicationPendingPlace]
    simp only [hfirst]
    refine ⟨fun hcopy => ?_, fun hown hlive => ?_, fun hown hgone => ?_⟩
    · rw [if_pos hcopy]
    · rw [if_neg (by rw [hown]; nofun), if_pos hlive]
    · rw [if_neg (by rw [hown]; nofun), if_neg (by rw [hgone]; nofun)]
  case train =>
    rw [exec_trainArrival, execTrainArrival, if_neg (not_not.mpr hblock)]
    simp only [hfirst]
    refine ⟨fun hbusy => if_pos hbusy, fun hfree => (if_neg (by rw [hfree]; nofun)).trans ?_⟩
    by_cases hsame : regionOf i = regionOf n <;> simp [crosses, hsame]
  case express =>
    refine expressForward_eq (Eq.trans (congrArg (List.findSome? · _) (funext fun i => ?_)) hfirst)
    rw [expressGo]
    cases blockDead s i with
    | true => rfl
    | false =>
      cases expressHead s i n with
      | none => rfl
      | some x => cases hroom : expressRoom s x.1 <;> simp [hroom]
  case stall =>
    exact congrArg Host.Outcome.next (if_neg (engine_inService he hserves))
  case retired =>
    have hskip : (decide (64 ≤ e) || (s.sched.engines.look e {}).retired) = true := by rw [hretired, Bool.or_true]
    exact congrArg Host.Outcome.next (if_pos hskip)

/-! Waves and claims. -/

/-- Slots are refused at a fabric port that is there. -/
theorem refuseSlots_eq (p len : Nat) (s : State) :
    refuseSlots p len s = if p < 1024 ∧ s.hasPort p = true then addDebt p (min 16 len) s else s := by
  simp only [refuseSlots, Bool.and_eq_true, decide_eq_true_eq]

/-- Settles O40: what each command looks up first says which of its branches is taken, and a wave acts match by match. -/
theorem wavesAndClaimsAct : Obligations.WavesAndClaimsAct := by
  unfold Obligations.WavesAndClaimsAct
  refine ⟨fun s e n lost => ⟨fun he hserves => ?wave, fun t hnone => ?idle, fun p vc t c u c' g hsel hclaim hfind hreply => ?arbiter⟩,
    fun s n p vc len e i id => ⟨fun c hfind => ?held, fun hfind => ?stray, fun c hfind => ⟨fun g hreply hfirst => ?reply, ?noReply⟩,
      fun c g hfind hreply => ?expiry⟩⟩
  case wave =>
    rw [exec_schedulerWave, execSchedulerWave]
    dsimp only
    rw [if_neg (engine_inService he hserves)]
    generalize runWave s e lost.requests (s.sched.engines.look e {}) = w
    refine congrArg Host.Outcome.next (congrArg (List.foldl · _ _) (funext₂ fun s m => ?_))
    cases lost.outCopies.contains (m.i, m.j) <;> rfl
  case idle => rw [exec_localArbitration, execLocalArbitration, hnone]
  case arbiter =>
    rw [exec_localArbitration, execLocalArbitration]
    simp only [hsel, hclaim, hfind, hreply]
  case held =>
    rw [exec_claim, execClaim]
    simp only [hfind, refuseSlots_eq]
    split <;> rfl
  case stray =>
    rw [exec_claim, execClaim]
    simp only [hfind, refuseSlots_eq]
  case reply =>
    have hearly : ¬(s.sched.claims.any fun d => d.inB == i && d.port == c.port && d.vc == c.vc && !d.bound && decide (d.id < c.id)) = true := by
      simpa [and_assoc] using hfirst
    rw [exec_claimReply, execClaimReply]
    simp only [hfind, hreply, if_neg hearly]
  case noReply =>
    rw [exec_claimNoReply, execClaimNoReply]
    simp only [hfind]
  case expiry =>
    rw [exec_reservationExpiry, execReservationExpiry]
    simp only [hfind, hreply]

end Sys2Proof.Proofs

/-! PROOFS of the addressing and routing family: table messages (O21), path health (O42). -/
namespace Sys2Proof.Proofs
open Sys2Proof Sys2Proof.Machine Sys2Proof.Laws

/-- A part of the state that no single change touches is as it was after all of them. -/
theorem forAll_unchanged {α β : Type} (part : State → β) {f : State → α → State} (hf : ∀ s a, part (f s a) = part s) (l : List α) (s : State) :
    part (forAll l s f) = part s := by
  rw [forAll]
  induction l generalizing s with
  | nil => rfl
  | cons a l ih => exact (ih (f s a)).trans (hf s a)

/-! What the table change keeps (R127, R128). -/

/-- Copying the banks touches the byte memories and the routing state alone. -/
theorem copyBanks_unchanged {β : Type} (part : State → β) (hmem : ∀ s f, part (s.modMem f) = part s) (hfab : ∀ s f, part (s.modFabric f) = part s)
    (s : State) : part (copyBanks s) = part s :=
  forAll_unchanged part (fun _ _ => (forAll_unchanged part (fun _ _ => hfab _ _) _ _).trans (hmem _ _)) _ s

@[simp] theorem copyBanks_ports (s : State) : (copyBanks s).ports = s.ports := copyBanks_unchanged State.ports (fun _ _ => rfl) (fun _ _ => rfl) s

@[simp] theorem copyBanks_peals (s : State) : (copyBanks s).peals = s.peals := copyBanks_unchanged State.peals (fun _ _ => rfl) (fun _ _ => rfl) s

@[simp] theorem copyBanks_host (s : State) : (copyBanks s).host = s.host := copyBanks_unchanged State.host (fun _ _ => rfl) (fun _ _ => rfl) s

@[simp] theorem healthUpdate_fabric (e : Nat) (d : Deferred) (s : State) : (healthUpdate e d s).fabric = s.fabric := by
  rw [healthUpdate]
  split <;> rfl

/-- A commit moves to the next epoch, whatever health entries it resets. -/
theorem commitCut_epoch (drain : Nat) (s : State) : (commitCut drain s).fabric.epoch = (s.fabric.epoch + 1) % 4 :=
  congrArg (fun f : Fabric => (f.epoch + 1) % 4) (forAll_unchanged State.fabric (fun s e => healthUpdate_fabric e (.reset e) s) (movedMembers s) s)

/-! How TABLE_COMMIT and TABLE_ACCESS end, whose response body comes with every status (R395, R403). -/

/-- Rules that reply OK and a body to a served message answer it with that body, whether or not the body comes with every status. -/
theorem answersOk_of_okReply {c : Instr} {op : Nat} {m : Msg} {s t : State} {f : Bytes → State → Option Reply × State} {body : Bytes} {always : Bool}
    (hs : Served op m s) (he : exec c s = runMsg op m s f) (hf : f (reqBody (ring op m s) m) (ring op m s) = (some ⟨eOk, 0, body, always⟩, t)) :
    AnswersOk c op m s body t :=
  ⟨always, by rw [he, runMsg_eq hs, hf]⟩

/-- The ACTION byte stands in front of every other field. -/
theorem le_withAction (a : Nat) (b : Bytes) (off n : Nat) : le (withAction 0 a b) (off + 1) n = le b (off + 1) n := by
  simp [le, withAction, putBytes]

/-- Segments of FENCE edits alone pass the limit of SAFE_MONITOR and DAMPED, and READ passes it over any (R449). -/
theorem limit_passes {action : Nat} {r : State} {segs : List Nat} (h : action ≠ 0 → restricted r = true → ∀ g ∈ segs, fenceSeg r g = true) :
    (if action ≠ 0 ∧ restricted r = true then segs.find? fun g => !fenceSeg r g else none) = none := by
  split
  · next hlimited => simpa using h hlimited.1 hlimited.2
  · rfl

/-- TABLE_ACCESS past its common checks and the limit of R449 answers OK with what the rules of its ACTION give. -/
theorem answersOk_tableAccess {c : Instr} {action n first : Nat} {m : Msg} {s t : State} {f : Nat → Nat → Nat → List Nat → State → Reply × State}
    (r : State) (b : Bytes) (hs : Served 0x33 m s) (he : exec c s = tableAccess action m s f) (hpass : accessCheck (withAction 0 action b) = none)
    (hlimit : action ≠ 0 → restricted r = true → ∀ g ∈ segsOf (le b 8 8) (le b 4 4), fenceSeg r g = true)
    (hf : f (le b 8 8) (le b 4 4) (le b 16 8) (segsOf (le b 8 8) (le b 4 4)) r = (accessReply eOk 0 n first, t))
    (hr : r = ring 0x33 m s := by rfl) (hb : b = reqBody r m := by rfl) : AnswersOk c 0x33 m s (toLE 4 n ++ toLE 4 first) t := by
  subst hr hb
  refine answersOk_of_okReply (always := true) hs he ?_
  simp only [hpass, le_withAction, limit_passes hlimit, hf, accessReply]

/-- A transfer of nothing, or one that host memory takes, passes the check of its range. -/
theorem dma_passes {r : State} {host len : Nat} (h : len = 0 ∨ r.dmaBad host len = false) : ¬(decide (0 < len) && r.dmaBad host len) = true := by
  rcases h with h | h <;> simp [h]

/-- Settles O21: the checks of each message pass, and what its rules reply past them is read off. -/
theorem tableMessagesTakeEffect : Obligations.TableMessagesTakeEffect := by
  unfold Obligations.TableMessagesTakeEffect
  refine ⟨fun m s => ⟨?load, ?start, ?commit, ?abort, rfl⟩, fun m s hs => ?access⟩
  case load =>
    intro hs r b pl hfields hcirc hup htags
    obtain ⟨hhead, hrecs⟩ := (firstOf_append_none _ _).mp hfields
    refine answersOk_of_reply b r hs exec_planLoad (checked_none ((firstOf_append_none _ _).mpr ⟨hhead, (firstOf_none _).mpr ?_⟩) _ _ _)
    simp only [List.forall_mem_cons, need_none]
    refine ⟨(firstOf_none _).mp hrecs _ (List.mem_singleton_self _), by simpa using hcirc, List.all_eq_true.mpr fun e he => ?_,
      by simpa using htags, nofun⟩
    exact (Bool.or_eq_true _ _).mpr ((imp_iff_not_or.mp (hup e he)).imp bne_iff_ne.mpr id)
  case start =>
    intro hs r b e hres hopen hdrain hepoch hrange
    refine ⟨_, answersOk_of_reply b r hs exec_tableBegin (checked_none ((firstOf_none _).mpr ?_) _ _ _), rfl, rfl, ?_⟩
    · simp only [List.forall_mem_cons, need_none, rsvd_none]
      exact ⟨by simpa using hrange, hres, by simp [hopen], by simp [hdrain], by simpa using hepoch, nofun⟩
    · simp only [State_modFabric_ports, State_modFabric_peals, State_modFabric_host, copyBanks_ports, copyBanks_peals, copyBanks_host, and_self]
  case commit =>
    intro hs r b drain bank hdrain hres hopen hunlocked hgood t
    refine ⟨answersOk_of_okReply (always := true) hs exec_tableCommit ?_, commitCut_epoch drain r, rfl, rfl⟩
    dsimp only
    split
    · next h =>
      refine absurd h (not_refused ((firstOf_none _).mpr ?_))
      simp only [List.forall_mem_cons, need_none]
      refine ⟨by simpa using hdrain, hres, hopen, ?_, by rw [hgood]; rfl, nofun⟩
      simpa only [Bool.not_eq_true', List.any_eq_false, beq_iff_eq] using hunlocked
    · rfl
  case abort =>
    intro hs r hopen
    exact ⟨answersOk_of_reply _ r hs exec_tableAbort (checked_none (by simp [firstOf_none, need_none, hopen]) _ _ _), rfl⟩
  case access =>
    intro r b
    dsimp only
    refine ⟨?read, ?write, ?lock, ?unlock, ?discard⟩
    case read =>
      intro hpass hdma
      exact ⟨_, answersOk_tableAccess r b hs exec_tableAccessRead hpass (absurd rfl) (if_neg (dma_passes hdma))⟩
    case write =>
      intro hpass hallowed hmay hdma hkeep
      refine answersOk_tableAccess r b hs exec_tableAccessWrite hpass (fun _ => hallowed) ?_
      have hlands : ((piecesOf (le b 8 8) (r.hostRead (le b 16 8) (le b 4 4))).find? fun p =>
          segOf (p.1 / 4096) != .bitmap && editRefused r p.1 p.2) = none := by
        simpa using hkeep
      simp only [hmay, if_neg (dma_passes hdma), hlands]
      rfl
    case lock =>
      intro hpass hallowed hlockable hroom
      refine answersOk_tableAccess r b hs exec_tableAccessLock hpass (fun _ => hallowed) ?_
      have hall : ((segsOf (le b 8 8) (le b 4 4)).find? fun g => !(segOf g).lockable) = none := by simpa using hlockable
      simp only [hall, if_neg hroom.not_gt]
      rfl
    case unlock =>
      intro hpass hallowed
      exact ⟨_, answersOk_tableAccess r b hs exec_tableAccessUnlock hpass (fun _ => hallowed) rfl⟩
    case discard =>
      intro hpass hallowed
      exact answersOk_tableAccess r b hs exec_tableAccessDiscard hpass (fun _ => hallowed) rfl

/-- Settles O42: a decay tick and an expiry are read off, an ECHO credits the sample it finds, and a seam load changes the entry of its region alone. -/
theorem pathHealthIsUpdated : Obligations.PathHealthIsUpdated := by
  unfold Obligations.PathHealthIsUpdated
  intro s c r pct
  refine ⟨rfl, rfl, fun htyp => ?echo, _, rfl, rfl, fun k hk => ?other, fun b hb => ?own⟩
  case echo =>
    intro t x hfound k u
    rw [exec_echoCellTransit, execEchoCellTransit]
    dsimp only
    rw [if_neg (not_not.mpr htyp), hfound]
  case other => simp [hk]
  case own => simp [hb]

end Sys2Proof.Proofs

/-! PROOFS of the classes and congestion family: windows at holder and grantor (O43), contributions, PEAL_EXP and repair requests (O44). -/
namespace Sys2Proof.Proofs
open Sys2Proof Sys2Proof.Machine Sys2Proof.Laws

/-! Windows (R153 to R156). -/

/-- A WINDOW with SCOPE 1 is current when it names the running round of a peal that is not FREE, one with SCOPE 0 always (R154). -/
theorem windowCurrent_iff (c : Cell) (pl : Peal) :
    (!bit c.hdr.toNat 46 || (pl.st != .free && c.tag == dTag pl.desc && field c.hdr.toNat 44 2 == pl.round)) = true ↔
      (bit c.hdr.toNat 46 = true → pl.st ≠ .free ∧ c.tag = dTag pl.desc ∧ field c.hdr.toNat 44 2 = pl.round) := by
  simp [imp_iff_not_or, and_assoc]

/-- A WINDOW goes back on nothing when it is the first or takes back neither LIMIT nor ACK (R154). -/
theorem window_notBack_iff (h : HeldWin) (limit ack : Nat) :
    (h.granted && (precedes limit h.limit || precedes ack h.ack)) = false ↔
      (h.granted = true → precedes limit h.limit = false ∧ precedes ack h.ack = false) := by
  simp [imp_iff_not_or]

/-- Settles O43: an accepted WINDOW passes the three guards of its receipt, and a timeout or a repeat that has something to send passes its one. -/
theorem windowsAreHeldAndRepeated : Obligations.WindowsAreHeldAndRepeated := by
  unfold Obligations.WindowsAreHeldAndRepeated
  refine fun s c win p m => ⟨?receive, fun h hheld => ?timeout, fun hopen hmember hgrants => ?again⟩
  case receive =>
    intro q t pl w h limit ack htyp hcrc hhere hrsvd hcurrent hforward moved keep
    have hmine : ¬(decide (c.typ ≠ tWindow) || !c.crcOk || !forChip t c.dst) = true := by simp [htyp, hcrc, hhere]
    have hfresh : ¬(!((!bit c.hdr.toNat 46 || (pl.st != .free && c.tag == dTag pl.desc && field c.hdr.toNat 44 2 == pl.round))
        && !(h.granted && (precedes limit h.limit || precedes ack h.ack)))) = true := by
      rw [(windowCurrent_iff c pl).mpr hcurrent, (window_notBack_iff h limit ack).mpr hforward]
      nofun
    rw [exec_windowReceive, execWindowReceive]
    exact congrArg Host.Outcome.next ((if_neg hmine).trans ((if_neg (by rw [hrsvd]; nofun)).trans (if_neg hfresh)))
  case timeout =>
    intro side sent hsent hgoes hround hlive _ _ _ last _ u
    have hdue : ¬(sent.isEmpty || h.stopped || h.round != (s.peal h.id).round || (s.peal h.id).st == .free) = true := by
      simp [hsent, hgoes, hround, hlive]
    rw [exec_windowTimeout, execWindowTimeout, hheld]
    exact congrArg Host.Outcome.next (if_neg hdue)
  case again =>
    have hdue : ¬(!(s.peal p).isOpen || ((s.peal p).wins.look? m).isNone || decide (winLimit (s.peal p) m ≤ ((s.peal p).win m).ack)) = true := by
      simpa [hopen, ← Option.isSome_iff_ne_none, hmember] using hgrants
    rw [exec_windowRepeat, execWindowRepeat]
    exact if_neg hdue

/-! Contributions, PEAL_EXP and repair requests at a home (R177, R181, R210, R214, R216). -/

/-- Settles O44: the guards of each command and the judgement of R177 say which of its branches is taken. -/
theorem contributionsAndReportsAreJudged : Obligations.ContributionsAndReportsAreJudged := by
  unfold Obligations.ContributionsAndReportsAreJudged
  refine ⟨fun s c core => ⟨fun hserved => ?contrib, fun u rest good hring hroom => ?verdict⟩,
    fun s c p m => ⟨fun hcrc => ?exps, fun hrsvd => ?repair, rfl⟩⟩
  case contrib =>
    have hgoes : ¬((s.peal c.flow).st != .free && !coreTakes s c) = true := by
      rcases hserved with hfree | htakes
      · simp [hfree]
      · simp [htakes]
    rw [exec_pealContribReceive, execPealContribReceive, if_neg hgoes]
    dsimp only
    refine ⟨fun hspec hplace => ?added, fun hspec hfull => ?full, fun hspec hbad => ?badCrc, fun why hspec hok hfails => ?fails,
      fun hspec hok hpasses => ?passes⟩
    case added => rw [if_pos hspec, if_neg hplace.not_ge]
    case full => rw [if_pos hspec, if_pos hfull]
    all_goals rw [if_neg (by rw [hspec]; nofun)]
    case badCrc => rw [if_pos (by rw [hbad]; rfl)]
    case fails => rw [if_neg (by rw [hok]; nofun), hfails]
    case passes => rw [if_neg (by rw [hok]; nofun), hpasses]
  case verdict =>
    intro t
    have hgoes : ¬(!fastPath s (dProgram (s.peal u.peal).desc) && eventsFull s core) = true := by
      rcases hroom with hfast | hroom
      · simp [hfast]
      · simp [hroom]
    rw [exec_verdictArrival, execVerdictArrival, hring]
    dsimp only
    rw [if_neg hgoes]
    refine ⟨fun why hfails => ?fails, fun hpasses hgood hclean => ?commits, fun hpasses hbad => ?takenBack⟩
    case fails => rw [hfails]
    all_goals rw [hpasses]; dsimp only
    case commits => rw [if_pos (by simp [hgood, hclean])]
    case takenBack => rw [if_neg (by rcases hbad with h | h <;> simp [h])]
  case exps =>
    rw [exec_pealExpReceive, execPealExpReceive]
    dsimp only
    rw [if_neg (by rw [hcrc]; nofun)]
    refine ⟨fun why hfails => ?fails, fun hpasses hrsvd hagain => ?again, fun hpasses hrsvd hnew => ?new⟩
    case fails => rw [hfails]
    all_goals rw [hpasses]; dsimp only; rw [if_neg (by rw [hrsvd]; nofun)]
    case again => rw [if_pos hagain]
    case new => rw [if_neg (by rw [hnew]; nofun)]
  case repair =>
    rw [exec_repairRequestReceive, execRepairRequestReceive]
    dsimp only
    rw [if_neg (by rw [hrsvd]; nofun)]
    refine ⟨fun hnone => ?none, fun hlive htag hsealed hround => ?sealed, fun hlive htag hother => ?other⟩
    case none => rw [if_pos (by rcases hnone with h | h <;> simp [h])]
    all_goals rw [if_neg (by simp [hlive, htag])]
    case sealed => rw [if_pos (by simp [hsealed, hround])]
    case other => rw [if_neg (by rcases hother with h | h <;> simp [h])]

end Sys2Proof.Proofs

/-! PROOFS of the peals family: tags and peals (O23), chunks and rounds (O45), rounds across the pair (O49). -/
namespace Sys2Proof.Proofs
open Sys2Proof Sys2Proof.Machine Sys2Proof.Laws

/-! Tags and peals (R160, R165, R168, R174, R491). -/

/-- A PEAL or TAG field passes its check exactly when it is below 4,096. -/
theorem id12_none (b : Bytes) (off : Nat) : id12 b off = none ↔ le b off 2 < 4096 := (need_none _ _).trans decide_eq_true_iff

/-- Settles O23: the checks of each message pass, and what its rules reply past them is read off. -/
theorem pealMessagesTakeEffect : Obligations.PealMessagesTakeEffect := by
  unfold Obligations.PealMessagesTakeEffect
  intro m s
  refine ⟨?jobRetire, ?enrols, ?arm, ?retire, ?void⟩
  case jobRetire =>
    intro hs r b tag htag hres hheld ps
    refine answersOk_of_reply b r hs exec_jobRetire (checked_none ((firstOf_none _).mpr ?_) _ _ _)
    simp only [List.forall_mem_cons, need_none, rsvd_none, id12_none]
    exact ⟨htag, hres, hheld, nofun⟩
  case enrols =>
    intro hs r d pl base hpass hplace hfit hroom
    refine answersOk_of_reply (reqBody r m) r hs exec_pealAdmit ?_
    dsimp only
    rw [hpass, hplace, hfit]
    exact if_pos hroom
  case arm =>
    intro hs r b p hp hres hchecks
    have hpass : firstOf ([id12 b 0, rsvd b 2 2] ++ armChecks r p) = none := by
      refine (firstOf_append_none _ _).mpr ⟨(firstOf_none _).mpr ?_, hchecks⟩
      simp only [List.forall_mem_cons, rsvd_none, id12_none]
      exact ⟨hp, hres, nofun⟩
    refine ⟨fun halone => ?alone, fun htwinned => ?twinned⟩
    case alone =>
      refine answersOk_of_reply b r hs exec_pealArm ?_
      dsimp only
      rw [hpass]
      exact if_neg (by rw [halone]; nofun)
    case twinned =>
      refine defers_of_noReply b r hs exec_pealArm ?_
      dsimp only
      rw [hpass]
      exact if_pos htwinned
  case retire =>
    intro hs r b p hp hres hheld
    refine defers_of_noReply b r hs exec_pealRetire ?_
    dsimp only
    rw [(firstOf_none _).mpr ?checks]
    · simp only [beq_iff_eq]; rfl
    case checks =>
      simp only [List.forall_mem_cons, need_none, rsvd_none, id12_none]
      exact ⟨hp, hres, bne_iff_ne.mpr hheld, nofun⟩
  case void =>
    intro hs r b p hp hhold hres hlive
    refine answersOk_of_reply b r hs exec_pealVoid ((checked_none ((firstOf_none _).mpr ?_) _ _ _).trans (by rw [if_pos hlive]))
    simp only [List.forall_mem_cons, need_none, rsvd_none, id12_none]
    exact ⟨hp, decide_eq_true hhold, hres, by rw [hlive]; rfl, nofun⟩

/-! Chunks and rounds at their home (R174, R176, R178 to R180, R184). -/

/-- Settles O45: the guards of each command say which of its branches is taken. -/
theorem chunksAndRoundsGoOn : Obligations.ChunksAndRoundsGoOn := by
  unfold Obligations.ChunksAndRoundsGoOn
  refine ⟨fun s p k => ⟨fun hopen => ?opens, fun hready => ?complete, fun hgo => ?release⟩,
    fun s p => ⟨fun hsealed hagreed => ?ends, rfl, fun hrun => ?late, fun hrun => ?stands, fun hret => ?freed, fun hret => ?kept⟩⟩
  case opens => exact congrArg Host.Outcome.next (if_pos hopen)
  case complete =>
    rw [exec_chunkComplete, execChunkComplete, if_neg (by rw [hready]; nofun)]
    simp only [beq_iff_eq, Bool.and_eq_true, Bool.not_eq_true']
  case release =>
    rw [exec_resultRelease, execResultRelease, if_neg (by rw [hgo]; nofun)]
    dsimp only
    simp only [Bool.not_eq_true']
    split <;> rfl
  case ends =>
    have hmay : ¬((s.peal p).st != .sealed || (isUpdate (s.peal p).desc && pairedFor s (s.peal p) && !(s.peal p).agreed)) = true := by
      rcases hagreed with h | h | h <;> simp [hsealed, h]
    exact if_neg hmay
  case late => exact congrArg Host.Outcome.next (if_pos (beq_iff_eq.mpr hrun))
  case stands => exact congrArg Host.Outcome.next (if_neg (by simpa using hrun))
  case freed => exact if_neg (by simp [hret])
  case kept => exact if_pos (bne_iff_ne.mpr hret)

/-! Rounds, digests and acknowledgements across the pair (R182, R291, R301, R302, R308 to R310). -/

/-- The cells of a VC are resent in SYNCING and PAIRED, and those of VC0 and VC5 while a pair exists (R301). -/
theorem resends_iff (s : State) (vc : Nat) :
    resends s vc = true ↔ s.twin.st = .syncing ∨ s.twin.st = .paired ∨ (s.twin.st ≠ .solo ∧ (vc = 0 ∨ vc = 5)) := by
  rw [resends]
  cases s.twin.st <;> simp

/-- Settles O49: the guards of each command say which of its branches is taken. -/
theorem twinRoundsTakeEffect : Obligations.TwinRoundsTakeEffect := by
  unfold Obligations.TwinRoundsTakeEffect
  refine ⟨fun s m => ⟨?roundCtl, ?mirror, ?digests, ?verdict, ?ack⟩, fun s k p hbound hpaired => ⟨?send, ?missing⟩, fun s vc seq => ?resend⟩
  case roundCtl =>
    intro p pl t round step hok hpeal
    rw [exec_roundCtlReceive, execRoundCtlReceive]
    dsimp only
    rw [if_neg (by rw [hok]; nofun), if_neg (by rw [hpeal]; nofun)]
    refine ⟨fun hact => ?opens, fun hact => ?void, fun hact => ?rollback, fun hact => ?commit⟩
    all_goals rw [hact]
    case opens =>
      have hwaits : ¬(pl.st != .armed || pl.isOpen || !pl.waiting) = true ↔ pl.st = .armed ∧ pl.isOpen = false ∧ pl.waiting = true := by
        simp [and_assoc]
      exact ⟨fun h => if_neg (hwaits.mpr h), fun h => if_pos (not_not.mp (mt hwaits.mp h))⟩
    case void =>
      have hnames : (roundLive pl && pl.round == round) = true ↔ roundLive pl = true ∧ pl.round = round := by simp
      have hother : ¬(roundLive pl && pl.round == round) = true ↔ roundLive pl = false ∨ pl.round ≠ round := by
        rw [hnames, not_and_or, Bool.not_eq_true]
      exact ⟨fun hlive hround => congrArg Host.Outcome.next (if_pos (hnames.mpr ⟨hlive, hround⟩)),
        fun h => congrArg Host.Outcome.next (if_neg (hother.mpr h))⟩
    case rollback => exact ⟨fun h => congrArg Host.Outcome.next (if_pos h), fun h => congrArg Host.Outcome.next (if_neg (by rw [h]; nofun))⟩
    case commit => rfl
  case mirror =>
    intro p d x t hok hpeal hupdate hround hx hopen haway
    rw [exec_mirrorRowReceive, execMirrorRowReceive]
    dsimp only
    have hnamed : ¬(!twinPeal s p m.tag || !isUpdate d || decide ((s.peal p).round ≠ byteAt m.head 2) || decide (dStepCells d ≤ x)) = true := by
      simp [hpeal, hupdate, hround, hx]
    have hlands : ¬(!(s.peal p).isOpen || isHome t (s.peal p) (chunkOf d x)) = true := by simp [hopen, haway]
    rw [if_neg (by rw [hok]; nofun), if_neg hnamed, if_neg (by rw [hopen]; simp), if_neg hlands]
  case digests =>
    intro us hok
    exact if_neg (by rw [hok]; nofun)
  case verdict =>
    intro hok
    exact if_neg (by rw [hok]; nofun)
  case ack =>
    intro ack hok
    exact if_neg (by rw [hok]; nofun)
  case send =>
    intro hopen hdone hnew sd us
    rw [exec_digestsSend, execDigestsSend, hbound]
    exact if_neg (by simp [hpaired, hopen, hdone, hnew])
  case missing =>
    intro hmine htheirs hagreed
    rw [exec_digestsMissing, execDigestsMissing, hbound]
    exact congrArg Host.Outcome.next (if_pos (by simp [hpaired, hmine, htheirs, hagreed]))
  case resend =>
    dsimp only
    rw [← resends_iff, exec_twinResend, execTwinResend]
    refine ⟨fun u hfound huses => ?goes, fun hnot => ?stays⟩
    case goes => simp only [huses, Bool.and_true, hfound]
    case stays =>
      have hnone : (s.twin.unacked.find? fun u => u.vc == vc && u.tseq == seq && resends s vc) = none := by simp [hnot]
      rw [hnone]

end Sys2Proof.Proofs

/-! PROOFS of the exact reduction family: special and vanishing inputs (O59, O60), ACCX, UNACC and CHK (O15), spot duplication (O46). -/
namespace Sys2Proof.Proofs
open Sys2Proof Sys2Proof.Machine Sys2Proof.Laws

/-! Inputs on the grid of a row (R199 to R203). -/

/-- The element that a row with anchored accumulators adds for an element of a contribution: its square for SUMSQ, and for PROGRAM where SQ asks (R203). -/
def addend (d : BitVec 512) (sq : Bool) (x : Elt) : Elt := if dOp d = 3 ∨ (dOp d = 4 ∧ sq = true) then x.square else x

theorem gridCell_eq (d : BitVec 512) (sq : Bool) (anchor : Int) (xs : List Elt) :
    gridCell d sq anchor xs = (xs.map (addend d sq)).map (gridIn (accW d) anchor) := by
  rw [List.map_map]; rfl

/-- A contribution to a row with anchored accumulators adds its inputs on the grid and commits them. -/
theorem accumulate_of_sums {d : BitVec 512} (hsums : sums d = true) (r : Row) (sq : Bool) (anchor : Int) (c : Cell) :
    r.accumulate d sq anchor c =
      (r.addInts (elems d) (accW d) 0 ((gridCell d sq anchor (cellElts d c)).map (·.n))).commit (elems d) 0 (gridCell d sq anchor (cellElts d c)) := by
  have hcopy : ¬ isCopy d = true := fun h => by simp [sums, h] at hsums
  rw [Row.accumulate, if_neg hcopy]
  exact if_pos hsums

section
variable {r : Row} {d : BitVec 512} {sq : Bool} {anchor : Int} {c : Cell} {i : Nat} {x : Elt} (hsums : sums d = true)
  (hx : (cellElts d c)[i]? = some x)
include hsums hx

theorem accumulate_lane (hi : i < elems d) :
    (r.accumulate d sq anchor c).lane.getD i 0 = laneJoin (r.lane.getD i 0) (gridIn (accW d) anchor (addend d sq x)).lane := by
  simp [accumulate_of_sums hsums, Row.commit, Row.addInts, gridCell_eq, hi, hx]

theorem accumulate_at (hi : i < elems d) :
    (r.accumulate d sq anchor c).at i = accAdd (accW d) (r.at i) (gridIn (accW d) anchor (addend d sq x)).n := by
  obtain ⟨hlen, rfl⟩ := List.getElem?_eq_some_iff.mp hx
  simp [accumulate_of_sums hsums, Row.commit, Row.addInts, Row.at, gridCell_eq, hi, hlen]

theorem accumulate_nan (hlane : (gridIn (accW d) anchor (addend d sq x)).lane = 3) : (r.accumulate d sq anchor c).nan = true := by
  have hany : ∃ y ∈ cellElts d c, (gridIn (accW d) anchor (addend d sq y)).lane = 3 := ⟨x, List.mem_of_getElem? hx, hlane⟩
  simpa [accumulate_of_sums hsums, Row.commit, Row.addInts, gridCell_eq] using Or.inr hany

theorem accumulate_inf (hlane : (gridIn (accW d) anchor (addend d sq x)).lane = 1 ∨ (gridIn (accW d) anchor (addend d sq x)).lane = 2) :
    (r.accumulate d sq anchor c).inf = true := by
  have hany : ∃ y ∈ cellElts d c, (gridIn (accW d) anchor (addend d sq y)).lane = 1 ∨ (gridIn (accW d) anchor (addend d sq y)).lane = 2 :=
    ⟨x, List.mem_of_getElem? hx, hlane⟩
  simpa [accumulate_of_sums hsums, Row.commit, Row.addInts, gridCell_eq] using Or.inr hany

end

/-- The two's complement of an integer in `w` bits, read as a signed number, is what the bit vector of that width holds. -/
theorem signed_twos (a : Int) (w : Nat) : signed (twos a w) w = (BitVec.ofInt w a).toInt := by
  rw [twos, ← BitVec.toNat_ofInt, signed, Nat.mod_eq_of_lt (BitVec.isLt _), BitVec.toInt_eq_msb_cond, BitVec.msb_eq_decide]
  simp only [decide_eq_true_eq, ← not_lt, ite_not]

/-- Adding nothing keeps an accumulator that is in range. -/
theorem accAdd_zero {w : Nat} (hw : 0 < w) {a : Int} (hlo : -(2 ^ (w - 1)) ≤ a) (hhi : a < 2 ^ (w - 1)) : accAdd w a 0 = a := by
  rw [accAdd, add_zero, signed_twos, BitVec.toInt_ofInt_eq_self hw hlo hhi]

theorem le_accW (d : BitVec 512) : 64 ≤ accW d := by
  rw [accW]
  split <;> simp

/-- A NaN or infinite element adds no integer, and brings its lane state. -/
theorem gridIn_of_notFinite {x : Elt} (hx : ∀ n m e, x ≠ .fin n m e) (w : Nat) (anchor : Int) : gridIn w anchor x = ⟨0, false, false, x.lane⟩ := by
  cases x with
  | fin n m e => exact absurd rfl (hx n m e)
  | nan => rfl
  | inf n => rfl

/-- The element added for a NaN or infinity is none of the finite ones. -/
theorem addend_notFinite {x : Elt} (hx : ∀ n m e, x ≠ .fin n m e) (d : BitVec 512) (sq : Bool) (n : Bool) (m : Nat) (e : Int) : addend d sq x ≠ .fin n m e := by
  rw [addend]
  split
  · cases x with
    | fin n m e => exact absurd rfl (hx n m e)
    | nan => nofun
    | inf n => nofun
  · exact hx n m e

theorem laneJoin_comm (a b : Nat) : laneJoin a b = laneJoin b a := by
  unfold laneJoin
  split_ifs <;> omega

@[simp] theorem laneJoin_zero_left (b : Nat) : laneJoin 0 b = b := if_pos rfl

@[simp] theorem laneJoin_zero_right (a : Nat) : laneJoin a 0 = a := by
  rw [laneJoin_comm, laneJoin_zero_left]

theorem laneJoin_self (a : Nat) : laneJoin a a = a := by
  simp [laneJoin]

theorem laneJoin_of_ne {a b : Nat} (ha : a ≠ 0) (hb : b ≠ 0) (hab : a ≠ b) : laneJoin a b = 3 := by
  rw [laneJoin, if_neg ha, if_neg hb, if_neg hab]

/-- NAN stays NAN (R201). -/
theorem laneJoin_nan (a : Nat) : laneJoin a 3 = 3 := by
  simp [laneJoin]

/-- States other than FINITE join to NAN unless all are the same. -/
theorem laneJoin_assoc (a b c : Nat) : laneJoin (laneJoin a b) c = laneJoin a (laneJoin b c) := by
  rcases eq_or_ne a 0 with rfl | ha
  · simp
  rcases eq_or_ne b 0 with rfl | hb
  · simp
  rcases eq_or_ne c 0 with rfl | hc
  · simp
  by_cases hab : a = b
  · subst hab
    by_cases hac : a = c
    · rw [hac, laneJoin_comm]
    · rw [laneJoin_self, laneJoin_of_ne ha hc hac, laneJoin_nan]
  · by_cases hbc : b = c
    · rw [← hbc, laneJoin_self, laneJoin_of_ne ha hb hab, laneJoin_comm, laneJoin_nan]
    · rw [laneJoin_of_ne ha hb hab, laneJoin_of_ne hb hc hbc, laneJoin_comm, laneJoin_nan, laneJoin_nan]

/-- A finite element is lost exactly when it is not zero and its integer on the grid is: one replaced by the largest magnitude is not (R200, R202). -/
theorem gridIn_fin_lost {w : Nat} (hw : 18 < w) (anchor : Int) (neg : Bool) (m : Nat) (e : Int) :
    (gridIn w anchor (.fin neg m e)).lost = decide (m ≠ 0 ∧ (gridIn w anchor (.fin neg m e)).n = 0) := by
  have hmax : gridMax w ≠ 0 := by
    have := Nat.one_lt_two_pow (n := w - 18) (by omega)
    rw [gridMax]; omega
  have hzero (n : Nat) : signedOf neg n = 0 ↔ n = 0 := by cases neg <;> simp [signedOf]
  by_cases hbig : gridMax w < rneScaled m 1 (e - anchor)
  · simp [gridIn, toGrid, hbig, hzero, hmax]
  · simp [gridIn, toGrid, hbig, hzero, bne, Bool.beq_eq_decide_eq]

/-- Settles O60: LOSS counts the inputs that are lost on the grid, and those are the finite ones that vanish there. -/
theorem lossCountsTheInputsThatVanish : Obligations.LossCountsTheInputsThatVanish := by
  unfold Obligations.LossCountsTheInputsThatVanish
  intro r d sq anchor c hsums xs
  have hw : 18 < accW d := lt_of_lt_of_le (by decide) (le_accW d)
  have hgrid : gridCell d sq anchor (cellElts d c) = xs.map (gridIn (accW d) anchor) := gridCell_eq ..
  rw [accumulate_of_sums hsums, hgrid, Row.commit, List.filter_map, List.length_map]
  refine congrArg (fun l : List Elt => r.loss + l.length) (List.filter_congr fun x _ => ?_)
  cases x with
  | nan => rfl
  | inf n => rfl
  | fin neg m e => exact gridIn_fin_lost hw anchor neg m e

/-- Settles O59: the element added brings no integer and its lane state, which joins the lane's by the table. -/
theorem specialInputsSetLaneStateAndFlags : Obligations.SpecialInputsSetLaneStateAndFlags := by
  unfold Obligations.SpecialInputsSetLaneStateAndFlags
  refine ⟨fun r d sq anchor c i st x hsums hi hx hst => ?input, fun a b c _ _ _ => ⟨laneJoin_comm a b, laneJoin_assoc a b c⟩⟩
  intro t squared
  have hlane : t.lane.getD i 0 = laneJoin st (gridIn (accW d) anchor (addend d sq x)).lane := hst ▸ accumulate_lane hsums hx hi
  refine ⟨fun hspecial hlo hhi => ?kept, fun hnan => ?nan, fun hinf => ?posInf, fun hinf hplain => ?negInf⟩
  case kept =>
    calc t.at i = accAdd (accW d) (r.at i) (gridIn (accW d) anchor (addend d sq x)).n := accumulate_at hsums hx hi
      _ = accAdd (accW d) (r.at i) 0 := by rw [gridIn_of_notFinite (addend_notFinite hspecial d sq)]
      _ = r.at i := accAdd_zero (lt_of_lt_of_le (by decide) (le_accW d)) hlo hhi
  case nan =>
    have hbrings : (gridIn (accW d) anchor (addend d sq x)).lane = 3 := by
      rw [hnan, addend]; split <;> rfl
    rw [hlane, hbrings]
    exact ⟨laneJoin_nan st, accumulate_nan hsums hx hbrings⟩
  case posInf =>
    have hbrings : (gridIn (accW d) anchor (addend d sq x)).lane = 1 := by
      rcases hinf with rfl | ⟨rfl, hsq⟩
      · rw [addend]; split <;> rfl
      · rw [addend, if_pos hsq]; rfl
    rw [hlane, hbrings]
    refine ⟨accumulate_inf hsums hx (.inl hbrings), ?_, ?_, ?_, ?_⟩ <;> (rintro rfl; rfl)
  case negInf =>
    have hbrings : (gridIn (accW d) anchor (addend d sq x)).lane = 2 := by
      rw [hinf, addend, if_neg hplain]; rfl
    rw [hlane, hbrings]
    refine ⟨accumulate_inf hsums hx (.inr hbrings), ?_, ?_, ?_, ?_⟩ <;> (rintro rfl; rfl)

/-! ACCX, UNACC and CHK (R218, R248). -/

@[simp] theorem countOps_peal (op core : Nat) (w : IWord) (i : Inv) (s : State) (p : Nat) : (countOps op core w i s).peal p = s.peal p := by
  obtain ⟨l, hl⟩ := countOps_frame op core w i s
  rw [hl]; rfl

@[simp] theorem invRow_countOps (op core : Nat) (w : IWord) (i j : Inv) (s : State) : invRow (countOps op core w i s) j = invRow s j := by
  rw [invRow, countOps_peal]; rfl

/-- The lanes of a V register that ACCX and UNACC take: those that act and whose row lane lies in the row. -/
def rowLanes (d : BitVec 512) (w : IWord) (i : Inv) : List Nat := (List.range 32).filter fun l => i.acts w.c l && decide (32 * wHalf w + l < elems d)

/-- ACCX adds those lanes of a V register to the row, and UNACC takes them away where all of them are finite. -/
theorem vregOp_eq {s : State} {core op : Nat} {w : IWord} {i : Inv} (h : Issues s core op w i) (sub : Bool)
    (hfin : sub = true → ∀ l ∈ rowLanes (s.peal i.peal).desc w i, notFinite ((vregElts w i).getD l .nan) = false) :
    vregOp sub op core w s = .next (setInv core i.next (modRowOf i (fun r => (rowLanes (s.peal i.peal).desc w i).foldl (fun r l =>
      addLane (s.peal i.peal).desc (w.imm.getLsbD 7) sub ((invRow s i).2.getD 0) (32 * wHalf w + l) ((vregElts w i).getD l .nan) r) r)
        (countOps op core w i s))) := by
  rw [vregOp, issue_eq h]
  simp only [countOps_peal, invRow_countOps]
  refine congrArg Host.Outcome.next (if_neg ?_)
  rw [Bool.and_eq_true, List.any_eq_true]
  rintro ⟨hsub, l, hl, hbad⟩
  exact Bool.false_ne_true ((hfin hsub l hl).symm.trans hbad)

/-- Settles O15: each instruction issues, and its mode and what it finds in the row say which of its branches is taken. -/
theorem rowInstructionsActOnTheRow : Obligations.RowInstructionsActOnTheRow := by
  unfold Obligations.RowInstructionsActOnTheRow
  intro core w s i d anchor sq xs ls onRow
  refine ⟨fun h c hmode hcell => ?accxCell, fun h hmode => ?accxVreg, fun h hmode hfin => ?unaccVreg, fun h c hmode hcell => ?unaccCell,
    fun h hspec => ⟨fun hok => ?agrees, fun hbad => ?differs⟩, fun h hspec => ?waits⟩
  case accxCell =>
    rw [exec_accxCell, execAccxCell, if_neg (not_not.mpr hmode), issue_eq h, hcell]
    simp only [countOps_peal, invRow_countOps]
    rfl
  case accxVreg =>
    rw [exec_accxVreg, execAccxVreg, if_neg (not_not.mpr hmode)]
    exact vregOp_eq h false nofun
  case unaccVreg =>
    rw [exec_unacc, execUnacc, if_pos hmode]
    exact vregOp_eq h true fun _ => hfin
  case unaccCell =>
    intro xs hfin
    have hnone : ¬ xs.any notFinite = true := by
      rw [List.any_eq_true]
      rintro ⟨x, hx, hbad⟩
      exact Bool.false_ne_true ((hfin x hx).symm.trans hbad)
    rw [exec_unacc, execUnacc, if_neg (by rw [hmode]; nofun), issue_eq h, hcell]
    simp only [countOps_peal, invRow_countOps]
    exact congrArg Host.Outcome.next (if_neg hnone)
  all_goals
    rw [exec_chk, execChk, issue_eq h]
    simp only [countOps_peal, invRow_countOps]
  case agrees => rw [if_neg (not_not.mpr hspec), if_pos hok]; rfl
  case differs => rw [if_neg (not_not.mpr hspec), if_neg (by rw [hbad]; nofun)]
  case waits => rw [if_pos hspec]; rfl

/-! Spot duplication (R220, R221). -/

/-- Settles O46: the guards of each command say which of its branches is taken. -/
theorem spotDuplicationCompares : Obligations.SpotDuplicationCompares := by
  unfold Obligations.SpotDuplicationCompares
  refine fun s m q k => ⟨?forward, ?digest, fun ch hch hcomplete hwaits hpaired hopen => ?timeout⟩
  case forward =>
    intro t p d x c cell cells hok hpeal hpaired hround
    have hgoes : ¬(!twinPeal t p m.tag || t.twin.st != .paired || decide ((t.peal p).round ≠ byteAt m.head 2)) = true := by
      simp [hpeal, hpaired, hround]
    rw [exec_spotFwdReceive, execSpotFwdReceive]
    dsimp only
    rw [if_neg (by rw [hok]; nofun), if_neg hgoes]
    exact ⟨fun hmore => if_pos hmore, fun hlast => if_neg hlast.not_gt⟩
  case digest =>
    intro t p c hok hpeal hround hopen
    have hgoes : ¬(!twinPeal t p m.tag || decide ((t.peal p).round ≠ byteAt m.head 2) || !(t.peal p).isOpen) = true := by
      simp [hpeal, hround, hopen]
    rw [exec_spotDigestReceive, execSpotDigestReceive, if_neg (by rw [hok]; nofun), if_neg hgoes]
  case timeout =>
    rw [exec_spotDigestTimeout, execSpotDigestTimeout, hch]
    exact congrArg Host.Outcome.next (if_pos (by simp [hcomplete, hwaits, hpaired, hopen]))

end Sys2Proof.Proofs

/-! PROOFS of the peal cores family: FP32 and integer instructions (O8, O9). -/
namespace Sys2Proof.Proofs
open Sys2Proof Sys2Proof.Machine Sys2Proof.Laws

/-! Register results (R230, R241, R249, R250): what an operation that names its destination leaves, one word on. -/

theorem scalResult_eq (i : Inv) (w : IWord) (x : W32) : (i.setS w.d.toNat x).next = i.scalResult w x := rfl

theorem predResult_eq (i : Inv) (w : IWord) (x : W32) : (i.setP w.d.toNat x).next = i.predResult w x := rfl

/-- An A-class result that never holds a value at the bound leaves SAT as it is. -/
theorem accResult_noHold (i : Inv) (w : IWord) (g : Nat → ALane) : (i.setA w.d.toNat (i.lane? w.c g)).next = i.accResult w fun l => (g l, false) := by
  have hsat : (i.sat || (List.range 32).any fun l => i.acts w.c l && false) = i.sat := by simp
  rw [← accResult_eq]
  dsimp only
  rw [hsat]
  rfl

theorem fp2_next (f : W32 → W32 → W32) (w : IWord) (i : Inv) :
    (i.fp2 f w).next = if w.imm.getLsbD 9 then i.scalResult w (f (i.sr w.a.toNat) (i.sr w.b.toNat))
      else i.vecResult w fun l => f (i.vl w.a.toNat l) (i.vl w.b.toNat l) := by
  rw [Inv.fp2, apply_ite Inv.next, scalResult_eq, vecResult_eq]

theorem fp1_next (f : W32 → W32) (w : IWord) (i : Inv) :
    (i.fp1 f w).next = if w.imm.getLsbD 9 then i.scalResult w (f (i.sr w.a.toNat)) else i.vecResult w fun l => f (i.vl w.a.toNat l) := by
  rw [Inv.fp1, apply_ite Inv.next, scalResult_eq, vecResult_eq]

theorem fp3_next (f : W32 → W32 → W32 → W32) (w : IWord) (i : Inv) :
    (i.fp3 f w).next = if w.imm.getLsbD 9 then i.scalResult w (f (i.sr w.a.toNat) (i.sr w.b.toNat) (i.sr w.c.toNat))
      else { i with pc := i.pc + 1, taken := i.counts, v := i.v.mapIdx fun k x =>
        if k / 32 = w.d.toNat then f (i.vl w.a.toNat (k % 32)) (i.vl w.b.toNat (k % 32)) (i.vl w.c.toNat (k % 32)) else x } := by
  rw [Inv.fp3, apply_ite Inv.next, scalResult_eq]
  rfl

theorem int2_next (fw : W32 → W32 → W32) (fa : ALane → ALane → ALane × Bool) (w : IWord) (i : Inv) :
    (i.int2 fw fa w).next = match field w.imm.toNat 8 2 with
      | 0 => i.vecResult w fun l => fw (i.vl w.a.toNat l) (i.vl w.b.toNat l)
      | 1 => i.scalResult w (fw (i.sr w.a.toNat) (i.sr w.b.toNat))
      | _ => i.accResult w fun l => fa (i.al w.a.toNat l) (i.al w.b.toNat l) := by
  rw [Inv.int2]
  match field w.imm.toNat 8 2 with
  | 0 => exact vecResult_eq i w _
  | 1 => rfl
  | _ + 2 => exact accResult_eq i w fun l => fa (i.al w.a.toNat l) (i.al w.b.toNat l)

theorem fscl_next (w : IWord) (i : Inv) :
    (i.fscl w).next = if w.imm.getLsbD 9 then i.scalResult w (fScl (i.sr w.a.toNat) (i.sr w.b.toNat).toInt)
      else i.vecResult w fun l => fScl (i.vl w.a.toNat l) (i.sr w.b.toNat).toInt :=
  fp1_next (fun x => fScl x (i.sr w.b.toNat).toInt) w i

/-- An instruction between registers leaves the invocation that its operation makes, one word on. -/
theorem exec_of_regOp {c : Instr} {core op : Nat} {w : IWord} {s : State} {i j : Inv} {f : Inv → Inv} (h : Issues s core op w i)
    (hj : (f i).next = j) (he : exec c s = regOp op core w s f := by rfl) : exec c s = .next (Leaves op core w i j s) := by
  rw [he, regOp_eq h, hj]

/-- Settles O8: each instruction runs its operation over its operands in the scalar or the vector form. -/
theorem fpInstructionsWriteTheirResult : Obligations.FpInstructionsWriteTheirResult := by
  unfold Obligations.FpInstructionsWriteTheirResult
  intro core w s i
  refine ⟨fun e he h => ?two, fun e he h => ?one, fun e he h => ?three⟩ <;> simp only [List.mem_cons, List.not_mem_nil, or_false] at he
  case two => rcases he with rfl | rfl | rfl | rfl | rfl | rfl <;> exact exec_of_regOp h (fp2_next _ w i)
  case one =>
    rcases he with rfl | rfl | rfl | rfl | rfl
    on_goal 5 => exact exec_of_regOp h (fscl_next w i)
    all_goals exact exec_of_regOp h (fp1_next _ w i)
  case three => rcases he with rfl | rfl <;> exact exec_of_regOp h (fp3_next _ w i)

/-! Shifts (R250): a shift of a word is the shift of its bit vector, and a count of 32 or more leaves nothing, or sign bits alone. -/

theorem shiftN_left (x : W32) (k : Nat) : BitVec.ofNat 32 (shiftN 0 32 x.toNat k) = if 32 ≤ k then 0 else x <<< k := by
  rw [shiftN, apply_ite (BitVec.ofNat 32)]
  refine ite_congr rfl (fun _ => rfl) fun _ => BitVec.eq_of_toNat_eq ?_
  simp [Nat.shiftLeft_eq]

theorem shiftN_logical (x : W32) (k : Nat) : BitVec.ofNat 32 (shiftN 1 32 x.toNat k) = if 32 ≤ k then 0 else x >>> k := by
  rw [shiftN, apply_ite (BitVec.ofNat 32)]
  refine ite_congr rfl (fun _ => rfl) fun _ => BitVec.eq_of_toNat_eq ?_
  simp only [BitVec.toNat_ofNat, BitVec.toNat_ushiftRight, Nat.shiftRight_eq_div_pow]
  exact Nat.mod_eq_of_lt ((Nat.div_le_self _ _).trans_lt x.isLt)

theorem signed_toNat_eq_toInt (x : W32) : signed x.toNat 32 = x.toInt := by
  rw [signed, Nat.mod_eq_of_lt x.isLt, BitVec.toInt_eq_toNat_cond]
  split <;> split <;> omega

theorem negOne_shiftRight (n : Nat) : (-1 : Int) >>> n = -1 := by
  change Int.negSucc (0 >>> n) = -1
  rw [Nat.zero_shiftRight]
  rfl

/-- A count of 32 or more leaves the sign bits of a word. -/
theorem toInt_shiftRight_far (x : W32) {k : Nat} (hk : 32 ≤ k) : x.toInt >>> k = x.toInt >>> (32 : Nat) := by
  have hlo : -2 ^ 31 ≤ x.toInt := x.le_toInt
  have hhi : x.toInt < 2 ^ 31 := x.toInt_lt
  have hsigns : x.toInt >>> (32 : Nat) = if x.toInt < 0 then -1 else 0 := by
    rw [Int.shiftRight_eq_div_pow]; split <;> omega
  rw [← Nat.add_sub_cancel' hk, Int.shiftRight_add, hsigns]
  split
  · exact negOne_shiftRight _
  · exact Int.zero_shiftRight _

theorem shiftN_arith (x : W32) (k : Nat) : BitVec.ofNat 32 (shiftN 2 32 x.toNat k) = x.sshiftRight k := by
  have hshift : x.toInt / (2 ^ min k 32 : Nat) = x.toInt >>> k := by
    rw [← Int.shiftRight_eq_div_pow]
    rcases le_total k 32 with h | h
    · rw [min_eq_left h]
    · exact (min_eq_right h).symm ▸ (toInt_shiftRight_far x h).symm
  calc BitVec.ofNat 32 (shiftN 2 32 x.toNat k) = BitVec.ofNat 32 (twos (x.toInt >>> k) 32) := by rw [← hshift, ← signed_toNat_eq_toInt]; rfl
    _ = BitVec.ofInt 32 (x.toInt >>> k) := by
      refine BitVec.eq_of_toNat_eq ?_
      rw [BitVec.toNat_ofInt, BitVec.toNat_ofNat, twos]
      omega
    _ = x.sshiftRight k := rfl
/-- Settles O9: each operation runs over the registers of its class, and a shift of a word is that of its bit vector. -/
theorem integerInstructionsWriteTheirResult : Obligations.IntegerInstructionsWriteTheirResult := by
  unfold Obligations.IntegerInstructionsWriteTheirResult
  intro core w s i count e he h
  have hleft := fun x y => (shiftN_left x (count y)).symm
  have hright := fun x y => (shiftN_logical x (count y)).symm
  have harith := fun x y => (shiftN_arith x (count y)).symm
  simp only [List.mem_cons, List.not_mem_nil, or_false, hleft, hright, harith] at he
  rcases he with rfl | rfl | rfl | rfl | rfl | rfl | rfl | rfl | rfl | rfl <;> exact exec_of_regOp h (int2_next _ _ w i)
end Sys2Proof.Proofs

/-! PROOFS of the peal cores family: moves, comparisons and conversions (O10, O11). -/
namespace Sys2Proof.Proofs
open Sys2Proof Sys2Proof.Machine Sys2Proof.Laws

/-! Moves, selection and comparison (R252, R253). -/

theorem field_lt (v lo w : Nat) : field v lo w < 2 ^ w := Nat.mod_lt _ (Nat.two_pow_pos w)

/-- A MOV that is an instruction has one of the modes that R253 gives. -/
theorem mode_le_of_wordCheck {w : IWord} (h : wordCheck 0x07 w = none) : field w.imm.toNat 6 4 ≤ 11 := by
  by_contra hmode
  have hlt := field_lt w.imm.toNat 6 4
  have hnone : wClasses 0x07 w.imm.toNat = none := by
    simp only [wClasses]
    generalize field w.imm.toNat 6 4 = mode at hmode hlt
    interval_cases mode <;> exact ite_self none
  rw [wordCheck, hnone] at h
  exact Option.some_ne_none 5 h

theorem mov_next (w : IWord) (i : Inv) (hmode : field w.imm.toNat 6 4 ≤ 11) (hctx : field w.imm.toNat 6 4 ≠ 10) :
    (i.mov w).next = match field w.imm.toNat 6 4 with
      | 0 => i.vecResult w fun l => i.vl w.a.toNat l
      | 1 => i.vecResult w fun _ => i.sr w.a.toNat
      | 2 => i.scalResult w (i.vl w.a.toNat (field w.imm.toNat 0 5))
      | 3 => i.scalResult w (i.sr w.a.toNat)
      | 4 => i.accResult w fun l => (⟨(i.vl w.a.toNat l).toInt, 0⟩, false)
      | 5 => i.vecResult w fun l => BitVec.ofNat 32 (twos (i.al w.a.toNat l).val 32)
      | 6 => { i with pc := i.pc + 1, taken := i.counts, a := i.a.mapIdx fun k x => if k / 32 = w.d.toNat % 4 then i.al w.a.toNat (k % 32) else x }
      | 7 => i.predResult w (i.sr w.a.toNat)
      | 8 => i.scalResult w (i.pr w.a.toNat)
      | 9 => i.predResult w (i.pr w.a.toNat)
      | _ => { i with pc := i.pc + 1, taken := i.counts, a := i.a.mapIdx fun k x => if k / 32 = w.d.toNat % 4 then ⟨(i.sr w.a.toNat).toInt, 0⟩ else x } := by
  unfold Inv.mov
  generalize field w.imm.toNat 6 4 = mode at hmode hctx
  match mode with
  | 0 | 1 | 5 => exact vecResult_eq i w _
  | 4 => exact accResult_noHold i w _
  | 2 | 3 | 6 | 7 | 8 | 9 | 11 => rfl
  | 10 => exact absurd rfl hctx
  | _ + 12 => omega

/-- The bits of a predicate that a comparison sets, lane by lane, are its P[D]. -/
theorem fcmp_next (w : IWord) (i : Inv) :
    (i.fcmp w).next = i.predResult w (if w.imm.getLsbD 9 then (if fCmp (field w.imm.toNat 0 3) (i.sr w.a.toNat) (i.sr w.b.toNat) then 0xFFFFFFFF else 0)
      else BitVec.ofNat 32 (((List.range 32).map fun l =>
        b2n (fCmp (field w.imm.toNat 0 3) (i.vl w.a.toNat l) (i.vl w.b.toNat l)) * 2 ^ l).foldl (· + ·) 0)) := by
  rw [Inv.fcmp, apply_ite Inv.next, predResult_eq, predResult_eq, ← apply_ite (i.predResult w)]

theorem icmp_next (free : W32) (w : IWord) (i : Inv) :
    (i.icmp free w).next = i.predResult w
      (match field w.imm.toNat 8 2 with
       | 0 => BitVec.ofNat 32 (((List.range 32).map fun l =>
           b2n (iCmp (field w.imm.toNat 0 3) (w.imm.getLsbD 3) (i.vl w.a.toNat l) (i.vl w.b.toNat l)) * 2 ^ l).foldl (· + ·) 0)
       | 1 => if iCmp (field w.imm.toNat 0 3) (w.imm.getLsbD 3) (i.sr w.a.toNat) (i.sr w.b.toNat) then 0xFFFFFFFF else 0
       | _ => BitVec.ofNat 32 (((List.range 32).map fun l =>
           b2n (aCmp (field w.imm.toNat 0 3) (w.imm.getLsbD 3) (free.getLsbD l) (i.al w.a.toNat l) (i.al w.b.toNat l)) * 2 ^ l).foldl (· + ·) 0)) := by
  unfold Inv.icmp
  generalize field w.imm.toNat 8 2 = cls
  match cls with
  | 0 | 1 | _ + 2 => rfl

/-- Counting issue slots leaves every value of the context (R232). -/
theorem ctxValue_countOps (op core : Nat) (w : IWord) (i j : Inv) (s : State) (idx : Nat) : ctxValue (countOps op core w i s) j idx = ctxValue s j idx := by
  obtain ⟨l, hl⟩ := countOps_frame op core w i s
  rw [hl]; rfl

@[simp] theorem countOps_free (op core : Nat) (w : IWord) (i : Inv) (s : State) : (countOps op core w i s).free = s.free := by
  obtain ⟨l, hl⟩ := countOps_frame op core w i s
  rw [hl]

/-- Settles O10: each instruction runs its operation, and its mode says which destination takes the result. -/
theorem movesAndComparisonsWriteTheirResult : Obligations.MovesAndComparisonsWriteTheirResult := by
  unfold Obligations.MovesAndComparisonsWriteTheirResult
  intro core w s i a mode mask
  refine ⟨fun h => ?ldi, fun h hctx => ?mov, fun h hctx hdef => ?movCtx, fun h => ?sel, fun h => ?fcmp, fun h => ?icmp⟩
  case ldi => exact exec_of_regOp h rfl
  case mov =>
    have ⟨_, _, hword⟩ := h
    exact exec_of_regOp h (mov_next w i (mode_le_of_wordCheck hword) hctx) (if_neg hctx)
  case movCtx =>
    rw [exec_movCtx, execMovCtx, if_neg (not_not.mpr hctx), issue_eq h]
    dsimp only
    rw [countOps_peal, if_neg (by rw [hdef]; nofun), ctxValue_countOps]
    rfl
  case sel => exact exec_of_regOp h rfl
  case fcmp => exact exec_of_regOp h (fcmp_next w i)
  case icmp =>
    rw [exec_icmp, execIcmp, issue_eq h, countOps_free, icmp_next]
    rfl

/-! Conversions, RNDX and VSUM (R248, R251): they write registers and SAT alone, and every register keeps its lanes. -/

/-- `j` is `i` with other V, A and S registers of as many lanes, and another SAT. -/
def RegsChange (i j : Inv) : Prop :=
  ∃ v a s sat, j = { i with v := v, a := a, s := s, sat := sat } ∧ v.length = i.v.length ∧ a.length = i.a.length ∧ s.length = i.s.length

namespace RegsChange
variable {i j : Inv}

theorem refl (i : Inv) : RegsChange i i := ⟨_, _, _, _, rfl, rfl, rfl, rfl⟩

theorem setV (h : RegsChange i j) (r : Nat) (f : Nat → Option W32) : RegsChange i (j.setV r f) := by
  obtain ⟨v, a, s, sat, rfl, hv, ha, hs⟩ := h
  exact ⟨_, _, _, _, rfl, List.length_mapIdx.trans hv, ha, hs⟩

theorem setA (h : RegsChange i j) (r : Nat) (f : Nat → Option ALane) : RegsChange i (j.setA r f) := by
  obtain ⟨v, a, s, sat, rfl, hv, ha, hs⟩ := h
  exact ⟨_, _, _, _, rfl, hv, List.length_mapIdx.trans ha, hs⟩

theorem setS (h : RegsChange i j) (r : Nat) (x : W32) : RegsChange i (j.setS r x) := by
  obtain ⟨v, a, s, sat, rfl, hv, ha, hs⟩ := h
  exact ⟨_, _, _, _, rfl, hv, ha, List.length_set.trans hs⟩

theorem setSat (h : RegsChange i j) (b : Bool) : RegsChange i { j with sat := b } := by
  obtain ⟨v, a, s, sat, rfl, hv, ha, hs⟩ := h
  exact ⟨_, _, _, _, rfl, hv, ha, hs⟩

theorem ite {p : Prop} [Decidable p] {j k : Inv} (hj : RegsChange i j) (hk : RegsChange i k) : RegsChange i (if p then j else k) := by
  split
  · exact hj
  · exact hk

/-- The program goes on from where it stood. -/
theorem next_eq (h : RegsChange i j) : j.next = { j with pc := i.pc + 1, taken := i.counts } := by
  obtain ⟨v, a, s, sat, rfl, hv, ha, hs⟩ := h
  rfl

theorem frame (h : RegsChange i j) :
    j = { i with v := j.v, a := j.a, s := j.s, sat := j.sat } ∧ j.v.length = i.v.length ∧ j.a.length = i.a.length ∧ j.s.length = i.s.length := by
  obtain ⟨v, a, s, sat, rfl, hv, ha, hs⟩ := h
  exact ⟨rfl, hv, ha, hs⟩

end RegsChange

theorem cvt_regs (w : IWord) (i : Inv) : RegsChange i (i.cvt w) := by
  unfold Inv.cvt
  dsimp only
  split
  case h_7 => exact .refl i
  all_goals exact (RegsChange.refl i).setV _ _

theorem qnt_regs (w : IWord) (i : Inv) : RegsChange i (i.qnt w) := by
  unfold Inv.qnt
  dsimp only
  split
  · exact ((RegsChange.refl i).setV _ _).setS _ _
  · exact (RegsChange.refl i).setV _ _

theorem dqt_regs (scale : Nat) (w : IWord) (i : Inv) : RegsChange i (i.dqt scale w) := (RegsChange.refl i).setV _ _

theorem vsum_regs (w : IWord) (i : Inv) : RegsChange i (i.vsum w) := ((RegsChange.refl i).setA _ _).setSat _

theorem rndx_regs (scale : Nat) (anchor : Int) (w : IWord) (i : Inv) : RegsChange i (i.rndx scale anchor w) := by
  unfold Inv.rndx
  dsimp only
  have hv (f : Nat → Option W32) : RegsChange i (i.setV w.d.toNat f) := (RegsChange.refl i).setV _ _
  exact .ite ((hv _).setSat _) (.ite ((hv _).setSat _) (.ite (((hv _).setS _ _).setSat _) (.ite ((hv _).setSat _) (hv _))))

/-- Settles O11: each instruction changes registers alone, so the program goes on from where it stood. -/
theorem conversionsChangeRegistersAlone : Obligations.ConversionsChangeRegistersAlone := by
  unfold Obligations.ConversionsChangeRegistersAlone
  intro core w s i d
  refine ⟨fun h => ?cvt, fun h => ?qnt, fun h => ?dqt, fun h => ?rndx, fun h => ?vsum, fun j hj => ?frame⟩
  case cvt => exact exec_of_regOp h (cvt_regs w i).next_eq
  case qnt => exact exec_of_regOp h (qnt_regs w i).next_eq
  case dqt =>
    rw [exec_dqt, execDqt, issue_eq h, countOps_peal, (dqt_regs _ w i).next_eq]
    rfl
  case rndx =>
    rw [exec_rndx, execRndx, issue_eq h, countOps_peal, invRow_countOps, (rndx_regs _ _ w i).next_eq]
    rfl
  case vsum => exact exec_of_regOp h (vsum_regs w i).next_eq
  case frame =>
    rcases hj with rfl | rfl | rfl | rfl | rfl
    exacts [(cvt_regs w i).frame, (qnt_regs w i).frame, (dqt_regs _ w i).frame, (rndx_regs _ _ w i).frame, (vsum_regs w i).frame]
end Sys2Proof.Proofs

/-! PROOFS of the peal cores family: program faults, sending and control (O14, O16, O17). -/
namespace Sys2Proof.Proofs
open Sys2Proof Sys2Proof.Machine Sys2Proof.Laws

/-! Counting an instruction's issue slots changes the logs alone, so whatever does not read them stays. -/

theorem countOps_unchanged {β : Type} (part : State → β) (hpart : ∀ s l, part { s with logs := l } = part s) (op core : Nat) (w : IWord) (i : Inv) (s : State) :
    part (countOps op core w i s) = part s := by
  obtain ⟨l, hl⟩ := countOps_frame op core w i s
  rw [hl, hpart]

section
variable (op core : Nat) (w : IWord) (i j : Inv) (s : State)

@[simp] theorem countOps_core (k : Nat) : (countOps op core w i s).core k = s.core k := countOps_unchanged (State.core · k) (fun _ _ => rfl) ..

@[simp] theorem countOps_fabric : (countOps op core w i s).fabric = s.fabric := countOps_unchanged State.fabric (fun _ _ => rfl) ..

@[simp] theorem accessOk_countOps (w' : IWord) : accessOk (countOps op core w i s) j w' = accessOk s j w' :=
  countOps_unchanged (accessOk · j w') (fun _ _ => rfl) ..

@[simp] theorem loopBound_countOps (pid k : Nat) : loopBound (countOps op core w i s) pid k = loopBound s pid k :=
  countOps_unchanged (loopBound · pid k) (fun _ _ => rfl) ..

@[simp] theorem heldWin_countOps (p side : Nat) : heldWin (countOps op core w i s) p side = heldWin s p side :=
  countOps_unchanged (heldWin · p side) (fun _ _ => rfl) ..

end

/-! Program faults (R256). -/

/-- The invocation `i` of a core faults under a row: it ends, its core and its peal count the row, and the round is voided. -/
def programFault (core row : Nat) (i : Inv) (s : State) : State :=
  let u := bump 0x06 core (7 + row) (bumpPeal i.peal (48 + row) 1 (dropInv core s))
  if row = 7 then voidFor 14 i.peal (coreFault core 7 u) else voidFor 12 i.peal u

theorem progFault_eq {s : State} {core : Nat} {i : Inv} (h : (s.core core).inv = some i) (row : Nat) : progFault core row s = programFault core row i s := by
  rw [progFault, h, programFault]
  dsimp only
  split
  · next hrow => rw [hrow]
  · rfl

/-- An issued instruction that faults leaves the fault of its row. -/
theorem issue_of_fault {core op row : Nat} {w : IWord} {s : State} {i : Inv} {f : Inv → State → State} (h : Issues s core op w i)
    (hf : f i (countOps op core w i s) = progFault core row (countOps op core w i s)) :
    issue op core w s f = .next (programFault core row i (countOps op core w i s)) := by
  have ⟨hinv, _, _⟩ := h
  rw [issue_eq h, hf, progFault_eq (by rw [countOps_core, hinv])]

/-! Jumps (R252, R262). -/

section
variable {s : State} {core : Nat} {off : Int} {i : Inv} {dest : Nat} (hdest : dest = ((i.pc : Int) + 1 + off).toNat)
include hdest

/-- Control goes ahead: a loop that starts where it comes to counts from nothing. -/
theorem jump_ahead (h : i.pc < dest) : jump core off i s = setInv core { i with pc := dest, taken := i.taken.filter fun e => e.2.1 != dest } s := by
  subst hdest
  rw [jump, if_neg h.not_ge, enterLoops]
  simp only [h.not_ge, decide_false, Bool.false_and, Bool.not_false, Bool.and_true]
  rfl

/-- Control goes back within the bound: the branch counts, and the loops that hold it go on. -/
theorem jump_back (h : dest ≤ i.pc) (hn : (i.taken.look i.pc (dest, 0)).2 + 1 ≤ (loopBound s (dProgram (s.peal i.peal).desc) i.pc).getD 0) :
    jump core off i s = setInv core
      { i with pc := dest, taken := Tbl.put (i.taken.filter fun e => e.2.1 != dest || decide (i.pc ≤ e.1)) i.pc (dest, (i.taken.look i.pc (dest, 0)).2 + 1) } s := by
  subst hdest
  rw [jump, if_pos h, if_neg hn.not_gt, enterLoops]
  simp only [h, decide_true, Bool.true_and, Bool.not_and, Bool.not_not]
  rfl

/-- A backward branch beyond its bound faults under row 1. -/
theorem jump_beyond (h : dest ≤ i.pc) (hn : (loopBound s (dProgram (s.peal i.peal).desc) i.pc).getD 0 < (i.taken.look i.pc (dest, 0)).2 + 1) :
    jump core off i s = progFault core 1 s := by
  subst hdest
  exact (if_pos h).trans (if_pos hn)

end

/-- The invocation on a core ends, or faults under row 2 where it owes a part (R247). -/
theorem endInvocation_eq {s : State} {core : Nat} {i : Inv} (h : (s.core core).inv = some i) :
    endInvocation core s =
      if ((List.range (partsDue (s.peal i.peal).desc i.entry)).any fun q => !(i.parts.any (·.part == q))) = true then progFault core 2 s
      else unparkCore core (match i.entry with
        | 1 => endChunkRow i.peal i.x i.parts i.sat true (dropInv core s)
        | 2 => endStep i.peal (if isUpdate (s.peal i.peal).desc then i.x else core) i.mirror i.parts i.sat (dropInv core s)
        | _ => joinSat i.peal i.x i.entry i.sat (dropInv core s)) := by
  rw [endInvocation, h] <;> rfl

/-- Settles O14: each instruction issues, and what it finds makes it fault under its row. -/
theorem programFaultsEndTheInvocation : Obligations.ProgramFaultsEndTheInvocation := by
  unfold Obligations.ProgramFaultsEndTheInvocation
  intro core w s i d fault q dest ls target
  have hfault (op row : Nat) : fault op row = programFault core row i (countOps op core w i s) := rfl
  clear_value fault
  simp only [hfault]
  refine ⟨fun e he h hbad => ?access, fun h hback hbeyond => ?loop, fun h hpart => ?emit, fun h hdue => ?finish, fun h hto => ?echo, fun h hmode hval => ?unacc,
    fun h => ?void, fun e he h => ?check, fun op f hinv hbad => ?fetch⟩
  case access =>
    have hbad' : (!accessOk (countOps e.2 core w i s) i w) = true := by rw [accessOk_countOps, hbad]; rfl
    simp only [List.mem_cons, List.not_mem_nil, or_false] at he
    rcases he with rfl | rfl | rfl | rfl | rfl <;>
      simp only [exec_ldc, execLdc, exec_lds, execLds, exec_sts, execSts, exec_ldm, execLdm, exec_stm, execStm, loadOp] <;>
      exact issue_of_fault h (if_pos hbad')
  case loop =>
    rw [exec_br, execBr]
    refine issue_of_fault h (jump_beyond rfl hback ?_)
    rwa [countOps_peal, loopBound_countOps]
  case emit =>
    rw [exec_emit, execEmit]
    refine issue_of_fault h (if_pos ?_)
    rw [countOps_peal, Bool.or_eq_true, Bool.or_eq_true, or_assoc]
    exact hpart.imp decide_eq_true (Or.imp_right beq_iff_eq.mpr)
  case finish =>
    have ⟨hinv, _, _⟩ := h
    obtain ⟨k, hk, hmissing⟩ := hdue
    rw [exec_endInv, execEnd]
    refine issue_of_fault h ((endInvocation_eq (by rw [countOps_core, hinv])).trans (if_pos ?_))
    rw [countOps_peal]
    exact List.any_eq_true.mpr ⟨k, List.mem_range.mpr hk, by rw [hmissing]; rfl⟩
  case echo =>
    rw [exec_echo, execEcho]
    refine issue_of_fault h (if_pos ?_)
    simpa [or_assoc] using hto
  case unacc =>
    obtain ⟨l, hl, hnot⟩ := hval
    rw [exec_unacc, execUnacc, if_pos hmode, vregOp]
    refine issue_of_fault h (if_pos ?_)
    rw [countOps_peal, Bool.true_and]
    exact List.any_eq_true.mpr ⟨l, hl, hnot⟩
  case void => exact issue_of_fault h rfl
  case check =>
    simp only [List.mem_cons, List.not_mem_nil, or_false] at he
    rcases he with rfl | rfl | rfl <;> exact issue_of_fault h rfl
  case fetch =>
    rw [issue, hinv]
    dsimp only
    rw [if_pos hbad, progFault_eq hinv, programFault, if_pos rfl]

/-! Sending and control (R246, R247, R252, R262). -/

/-- Settles O16: the part is there to send, and the peal is live and of the tag. -/
theorem emitAndEchoSend : Obligations.EmitAndEchoSend := by
  unfold Obligations.EmitAndEchoSend
  intro core w s i d
  refine ⟨fun h => ?emit, fun h => ?echo⟩
  case emit =>
    intro n q sd side hhas hnew hdue
    have hgoes : ¬(decide (n ≤ q) || i.parts.any (·.part == q) || partsDue d i.entry == 0) = true := by simp [hhas, hnew, hdue]
    have hside : (if (!isMx (dResFmt d) && (decide (1 < n) || decide (11 ≤ dResFmt d))) = true then setField sd 0 4 q else sd) = side :=
      if_congr (by simp) rfl rfl
    rw [exec_emit, execEmit, issue_eq h]
    dsimp only
    rw [countOps_peal, if_neg hgoes, hside]
    rfl
  case echo =>
    intro tp x tl side hw cell go held hpeal htag hlive
    have hgoes : ¬(decide (4096 ≤ tp) || dTag tl.desc != dTag d || !(tl.st == .armed || tl.st == .running)) = true := by
      rw [show (tl.st == .armed || tl.st == .running) = true by simpa using hlive]
      simp [hpeal, htag]
    rw [exec_echo, execEcho, issue_eq h]
    simp only [countOps_peal, heldWin_countOps, countOps_fabric]
    exact congrArg Host.Outcome.next (if_neg hgoes)

/-- Settles O17: each instruction issues, and where control goes says which of its branches is taken. -/
theorem controlInstructionsGoOn : Obligations.ControlInstructionsGoOn := by
  unfold Obligations.ControlInstructionsGoOn
  intro core w s i d dest ahead n back passes
  have hjumps (op : Nat) (hto : i.pc < dest) : jump core w.imm.toInt i (countOps op core w i s) = Leaves op core w i ahead s := jump_ahead rfl hto
  have hreturns (op : Nat) (hto : dest ≤ i.pc) (hn : n ≤ (loopBound s (dProgram d) i.pc).getD 0) :
      jump core w.imm.toInt i (countOps op core w i s) = Leaves op core w i back s :=
    jump_back rfl hto (by rwa [countOps_peal, loopBound_countOps])
  have hbr (h : Issues s core 0x38 w i) : exec (.br core w) s = .next (jump core w.imm.toInt i (countOps 0x38 core w i s)) := issue_eq h _
  have hbrp (h : Issues s core 0x39 w i) (hp : passes = true) : exec (.brp core w) s = .next (jump core w.imm.toInt i (countOps 0x39 core w i s)) := by
    rw [exec_brp, execBrp, issue_eq h]
    exact congrArg Host.Outcome.next (if_pos hp)
  have hlink (hm : w.imm = 1) : ¬w.imm.toNat ≠ 1 := by rw [hm]; nofun
  refine ⟨fun h hto => ?brAhead, fun h hto hn => ?brBack, fun h hp hto => ?brpAhead, fun h hp hto hn => ?brpBack, fun h hp => ?brpOn, fun h hm => ?waitSend,
    fun h hm hsealed => ?waitLink, fun h hm hopen => ?waits, fun h => ?fence, fun h hall => ?finish⟩
  case brAhead => rw [hbr h, hjumps _ hto]
  case brBack => rw [hbr h, hreturns _ hto hn]
  case brpAhead => rw [hbrp h hp, hjumps _ hto]
  case brpBack => rw [hbrp h hp, hreturns _ hto hn]
  case brpOn =>
    rw [exec_brp, execBrp, issue_eq h]
    exact congrArg Host.Outcome.next (if_neg (Bool.eq_false_iff.mp hp))
  case waitSend => exact exec_of_regOp h rfl (if_neg (by rw [hm]; nofun))
  case waitLink =>
    have ⟨hinv, _, _⟩ := h
    rw [exec_waitLink, execWaitLink, if_neg (hlink hm), hinv]
    dsimp only
    rw [hsealed, if_neg nofun, regOp_eq h]
    rfl
  case waits =>
    obtain ⟨hinv, -, -⟩ := h
    rw [exec_waitLink, execWaitLink, if_neg (hlink hm), hinv]
    exact if_pos (by rw [hopen]; rfl)
  case fence => exact exec_of_regOp h rfl
  case finish =>
    have ⟨hinv, _, _⟩ := h
    have hdone : ¬((List.range (partsDue d i.entry)).any fun q => !(i.parts.any (·.part == q))) = true := by simpa using hall
    rw [exec_endInv, execEnd, issue_eq h, endInvocation_eq (by rw [countOps_core, hinv]), countOps_peal]
    exact congrArg Host.Outcome.next (if_neg hdone)

end Sys2Proof.Proofs

/-! PROOFS of the peal cores family: loads and stores (O12, O13). -/
namespace Sys2Proof.Proofs
open Sys2Proof Sys2Proof.Machine Sys2Proof.Laws

/-! Bursts of the memory channels (R318, R319, R325) change counters and channels alone. -/

/-- `t` is `s` with other counters and channels. -/
def ChannelsChange (s t : State) : Prop := ∃ l c, t = { s with logs := l, chans := c }

namespace ChannelsChange
variable {s t u : State}

theorem refl (s : State) : ChannelsChange s s := ⟨_, _, rfl⟩

theorem trans (h : ChannelsChange s t) (k : ChannelsChange t u) : ChannelsChange s u := by
  obtain ⟨l, c, rfl⟩ := h
  obtain ⟨l', c', rfl⟩ := k
  exact ⟨_, _, rfl⟩

theorem bumpN (h : ChannelsChange s t) (sec ent idx n : Nat) : ChannelsChange s (bumpN sec ent idx n t) := by
  obtain ⟨l, hl⟩ := bumpN_frame sec ent idx n t
  exact h.trans ⟨l, _, hl⟩

theorem modChan (h : ChannelsChange s t) (c : Nat) (f : Chan → Chan) : ChannelsChange s (t.modChan c f) := h.trans ⟨_, _, rfl⟩

theorem forAll {α : Type} {f : State → α → State} (hf : ∀ t a, ChannelsChange t (f t a)) (l : List α) (s : State) : ChannelsChange s (forAll l s f) := by
  induction l generalizing s with
  | nil => exact .refl s
  | cons a l ih => exact (hf s a).trans (ih (f s a))

end ChannelsChange

theorem burstServed_channels (write : Bool) (pool c : Nat) (s : State) : ChannelsChange s (burstServed write pool c s) := by
  rw [burstServed]
  dsimp only
  have hbytes := (ChannelsChange.refl s).bumpN 0x0B pool (b2n write) 64
  have hslot := hbytes.bumpN 0x0A c (8 + pool) 1
  split
  · exact .refl s
  · split
    · exact hbytes
    · split
      · exact (hslot.bumpN _ _ _ _).modChan _ _
      · exact hslot.modChan _ _

theorem sliceServed_channels (own write : Bool) (k bank x off n : Nat) (s : State) : ChannelsChange s (sliceServed own write k bank x off n s) :=
  ChannelsChange.forAll (fun _ _ => burstServed_channels ..) _ _

theorem windowServed_channels (i : Inv) (win off n : Nat) (s : State) : ChannelsChange s (windowServed i win off n s) := by
  unfold windowServed
  split
  · exact sliceServed_channels ..
  · exact sliceServed_channels ..
  · exact .refl s

/-! Loads (R243, R244). -/

/-- The invocation that a load of the bytes `b` leaves, by SIZE; `p` says whether a lane is decoded exactly (R207). -/
theorem load_next (size wb : Nat) (p : Prop) [Decidable p] (tags : Nat → Nat) (w : IWord) (b : Bytes) (i : Inv) :
    (i.load size (wHalf w) wb (decide p) tags w.d.toNat w.c b).next = match size with
      | 0 => i.vecResult w fun l => BitVec.ofNat 32 (le b (4 * l) 4)
      | 1 => { i with
          pc := i.pc + 1
          taken := i.counts
          v := i.v.mapIdx fun k x =>
            if k / 32 = w.d.toNat ∧ k % 32 / 16 = wHalf w ∧ i.acts w.c (k % 32) = true then BitVec.ofNat 32 (le b (4 * (k % 32 % 16)) 4) else x }
      | 2 => i.accResult w fun l =>
          (if p then exactLane wb (le b (l * wb / 8) (wb / 8)) else mkLane (tags l) (signed (le b (l * wb / 8) (wb / 8)) wb), false)
      | _ => i.scalResult w (BitVec.ofNat 32 (le b 0 4)) := by
  match size with
  | 0 => exact vecResult_eq i w _
  | 1 =>
    have hlane (k : Nat) (x y : W32) :
        (if k / 32 = w.d.toNat then (if (decide (k % 32 / 16 = wHalf w) && i.acts w.c (k % 32)) = true then some y else none).getD x else x) =
        if k / 32 = w.d.toNat ∧ k % 32 / 16 = wHalf w ∧ i.acts w.c (k % 32) = true then y else x := by
      simp only [Bool.and_eq_true, decide_eq_true_eq, apply_ite (Option.getD · x), Option.getD_some, Option.getD_none, ite_and]
    simp only [Inv.load, Inv.setV, hlane]
    rfl
  | 2 =>
    rw [← accResult_noHold]
    simp only [Inv.load, decide_eq_true_eq]
  | _ + 3 => rfl

section
variable (op core : Nat) (w : IWord) (i j : Inv) (s : State)

@[simp] theorem winRead_countOps (k win off n : Nat) : winRead (countOps op core w i s) k j win off n = winRead s k j win off n :=
  countOps_unchanged (winRead · k j win off n) (fun _ _ => rfl) ..

end

/-- A load that is allowed takes its slots and fills its register. -/
theorem loadOp_eq {s : State} {core op : Nat} {w : IWord} {i : Inv} (h : Issues s core op w i) (hok : accessOk s i w = true) :
    loadOp op core w s = .next (setInv core
      (i.load (wSize w) (wHalf w) (accW (s.peal i.peal).desc) (decide (4 ≤ wWin w))
        (fun l => if wWin w = 0 then (invRow s i).1.lane.getD ((i.sr w.a.toNat).toNat / (accW (s.peal i.peal).desc / 8) + l) 0 else 0) w.d.toNat w.c
        (winRead s core i (wWin w) (i.sr w.a.toNat).toNat (sizeBytes (wSize w) (accW (s.peal i.peal).desc)))).next
      (windowServed i (wWin w) (i.sr w.a.toNat).toNat (sizeBytes (wSize w) (accW (s.peal i.peal).desc)) (countOps op core w i s))) := by
  have hruns : ¬(!accessOk (countOps op core w i s) i w) = true := by rw [accessOk_countOps, hok]; nofun
  rw [loadOp, issue_eq h]
  dsimp only
  rw [if_neg hruns, countOps_peal, winRead_countOps, invRow_countOps]

/-- Settles O12: the access is allowed, and SIZE says which register it fills. -/
theorem loadsFillTheirRegister : Obligations.LoadsFillTheirRegister := by
  unfold Obligations.LoadsFillTheirRegister
  intro core w s i wb off b tag word e he h hok u
  refine ⟨?frame, ?effect⟩
  case frame =>
    obtain ⟨l, hl⟩ := countOps_frame e.2 core w i s
    exact ChannelsChange.trans ⟨l, _, hl⟩ (windowServed_channels ..)
  case effect =>
    have hload : exec e.1 s = loadOp e.2 core w s := by
      simp only [List.mem_cons, List.not_mem_nil, or_false] at he
      rcases he with rfl | rfl | rfl <;> rfl
    rw [hload, loadOp_eq h hok, load_next]
    rfl

/-! Stores (R243, R245). The statement does not ask that the memory be in canonical form (State.memOk). Where PSTORE lists an address twice, storing the
byte that an unlisted address reads as drops one of the entries, and the other still reads. -/

/-- An invocation whose registers are all zero. -/
def zeroInv : Inv := { peal := 0, entry := 1, x := 0 }

/-- STS of S[0] to PSTORE at the address in S[0]. -/
def storeZero : IWord := { d := 0, a := 0, b := 0, c := 0, imm := 224 }

/-- The invocation on core 0, with a PSTORE that lists its address 0 twice. -/
def twiceListed : State := { State.reset with spine := { cores := [(0, { inv := some zeroInv })] }, mem := { pstore := [(0, 1), (0, 1)] } }

theorem storeZero_issues : Issues twiceListed 0 0x03 storeZero zeroInv := ⟨by decide +kernel, by decide +kernel, by decide +kernel⟩

theorem storeZero_allowed : accessOk twiceListed zeroInv storeZero = true := by decide +kernel

/-- A word of zeros is stored, and the second entry stays. -/
theorem storeZero_leaves {t : State} (h : exec (.sts 0 storeZero) twiceListed = .next t) : t.mem.pstore = [(0, 1)] := by
  have hruns : ¬(!accessOk (countOps 0x03 0 storeZero zeroInv twiceListed) zeroInv storeZero) = true := by rw [accessOk_countOps, storeZero_allowed]; nofun
  rw [exec_sts, execSts, issue_eq storeZero_issues] at h
  dsimp only at h
  rw [if_neg hruns] at h
  cases h
  decide +kernel

/-- Refutes O13: the word stored at an address that PSTORE lists twice does not read back. -/
theorem not_storesWriteTheirPartsAlone : ¬ Obligations.StoresWriteTheirPartsAlone := by
  unfold Obligations.StoresWriteTheirPartsAlone
  intro hall
  obtain ⟨hsts, -⟩ := hall 0 storeZero twiceListed zeroInv storeZero_allowed
  obtain ⟨p, hexec, -, hparts⟩ := hsts storeZero_issues
  obtain rfl : p = [(0, 1)] := storeZero_leaves hexec
  revert hparts
  decide +kernel

end Sys2Proof.Proofs

/-! PROOFS of the peal cores family: entry points (O18), host writes and the checker (O29). -/
namespace Sys2Proof.Proofs
open Sys2Proof Sys2Proof.Machine Sys2Proof.Laws

/-- Settles O18: the event is due, and the image says whether the program's entry runs or the standard behaviour. -/
theorem entryPointsRun : Obligations.EntryPointsRun := by
  unfold Obligations.EntryPointsRun
  refine ⟨fun core peal x s e => ?program, fun core peal x s => ?standard⟩
  case program =>
    intro pl d
    refine ⟨fun member q hq he hfree => ?contrib, fun hwaits he => ?chunk, fun mirror hwaits hlib he => ?stepEnd, fun c cause r t hv he hidle => ?void⟩
    case contrib =>
      have hruns : ¬(!coreFree s core peal) = true := by rw [hfree]; nofun
      rw [exec_onContrib, execOnContrib, hq, he]
      exact if_neg hruns
    case chunk =>
      rw [exec_onChunk, execOnChunk, hwaits, he]
      rfl
    case stepEnd =>
      rw [exec_onStepEnd, execOnStepEnd, hwaits]
      dsimp only
      rw [hlib, if_neg nofun, he]
    case void =>
      rw [exec_onVoid, execOnVoid, hv, he, hidle]
      rfl
  case standard =>
    intro pl d ch r u
    refine ⟨fun hwaits he hkind hok => ?holds, fun hwaits he hbad => ?differs, fun v hv he => ?void⟩
    case holds =>
      rw [exec_onChunk, execOnChunk, hwaits, he]
      dsimp only
      rw [hok, hkind]
      rfl
    case differs =>
      rw [exec_onChunk, execOnChunk, hwaits, he]
      dsimp only
      rw [hbad]
      rfl
    case void =>
      rw [exec_onVoid, execOnVoid, hv, he]

/-! Host writes and the checker (R262, R392 to R394, R402). -/

theorem writeBytes_eq_foldl (off : Nat) (data : Bytes) (s : State) :
    writeBytes off data s = (data.mapIdx fun k v => (off + k, v)).foldl (fun s e => writeByte e.1 e.2 s) s := by
  induction data generalizing off s with
  | nil => rfl
  | cons v data ih =>
    have hshift : (fun (k : Nat) (v : Byte) => (off + 1 + k, v)) = fun k v => (off + (k + 1), v) := by
      funext k v
      rw [Nat.add_right_comm, Nat.add_assoc]
    rw [writeBytes, ih, List.mapIdx_cons, List.foldl_cons, hshift]
    rfl

/-- Settles O29: CXL is in operation, and the feature map or the checker's verdict says which branch is taken. -/
theorem hostWritesAndTheCheckerTakeEffect : Obligations.HostWritesAndTheCheckerTakeEffect := by
  unfold Obligations.HostWritesAndTheCheckerTakeEffect
  refine ⟨fun s head off data segs hup hout => ?host, fun s pid huser hchecking => ?checker⟩
  case host =>
    have hcxl : (s.host.cxlUp && !s.chip.inReset) = true := by rw [hup, hout]; rfl
    have hmem : ¬(!cxlMem s) = true := by rw [cxlMem, hcxl]; nofun
    intro gs
    refine ⟨congrArg Host.Outcome.next (if_pos hcxl), ?register, fun hfeat => ?windows, fun hfeat win => ?dropped⟩
    case register =>
      rw [← writeBytes_eq_foldl]
      exact congrArg Host.Outcome.next (if_pos hcxl)
    case windows =>
      have hon : ¬(!cxlFeature s) = true := by rw [cxlFeature, hfeat]; nofun
      refine ⟨?_, ?_, ?_, ?_⟩ <;> exact congrArg Host.Outcome.next ((if_neg hmem).trans (if_neg hon))
    case dropped =>
      have hoff : (!cxlFeature s) = true := by rw [cxlFeature, hfeat]; rfl
      refine ⟨?_, ?_, ?_⟩ <;> exact congrArg Host.Outcome.next ((if_neg hmem).trans (if_pos hoff))
  case checker =>
    have hruns : ¬(!userProgram pid || progState s pid != 1) = true := by rw [huser, hchecking]; nofun
    intro wc
    rw [exec_programCheckDone, execProgramCheckDone, if_neg hruns]
    exact ⟨fun hpass => by rw [hpass], fun r o hfail => by rw [hfail]⟩

end Sys2Proof.Proofs

/-! PROOFS of the resident update family: shard and step messages (O24), the norm exchange (O47). -/
namespace Sys2Proof.Proofs
open Sys2Proof Sys2Proof.Machine Sys2Proof.Laws

/-! Shards and steps (R274, R278, R290, R291, R294, R295). -/

/-- A check that is asked for only under a condition passes when what it asks follows from the condition. -/
theorem notOr_of_imp {a b : Bool} (h : a = true → b = true) : (!a || b) = true := by
  cases a with
  | false => rfl
  | true => exact h rfl

/-- The checks that open SHARD_EXPORT and SHARD_IMPORT: the shard, the byte with its one flag, and the fields both share (R294, R295). -/
theorem moveChecks_none {b : Bytes} {l : List (Option Reply)} (hk : le b 0 2 < 4096) (hflag : byteAt b 2 < 2) (hmove : firstOf (moveFields b) = none)
    (hl : ∀ x ∈ l, x = none) : firstOf ([id12 b 0, need (decide (byteAt b 2 < 2)) (.range 2)] ++ moveFields b ++ l) = none := by
  have hhead : firstOf [id12 b 0, need (decide (byteAt b 2 < 2)) (.range 2)] = none := by
    simp only [firstOf_none, List.forall_mem_cons, need_none, id12_none]
    exact ⟨hk, decide_eq_true hflag, nofun⟩
  exact (firstOf_append_none _ _).mpr ⟨(firstOf_append_none _ _).mpr ⟨hhead, hmove⟩, (firstOf_none _).mpr hl⟩

/-- The shard states SHARD_EXPORT reads from hold slices that are not LOST (R294). -/
theorem exportable {st : ShardSt} (h : st = .ready ∨ st = .bound) : (st != .free && st != .loading) = true ∧ (st != .lost) = true := by
  rcases h with rfl | rfl <;> exact ⟨rfl, rfl⟩

/-- The shard states SHARD_IMPORT writes to are not LOST, and BOUND counts among them while the peal is ADMITTED (R295). -/
theorem importable {st : ShardSt} {peal : PealSt} (h : st = .loading ∨ st = .ready ∨ st = .bound ∧ peal = .admitted) :
    (st != .lost) = true ∧ (st == .loading || st == .ready || (st == .bound && peal == .admitted)) = true := by
  rcases h with rfl | rfl | ⟨rfl, rfl⟩ <;> exact ⟨rfl, rfl⟩

/-- Settles O24: the checks of each message pass, and what its rules reply past them is read off. -/
theorem shardMessagesTakeEffect : Obligations.ShardMessagesTakeEffect := by
  unfold Obligations.ShardMessagesTakeEffect
  intro m s
  refine ⟨?creates, ?params, ?commit, ?rollsBack, ?exports, ?imports⟩
  case creates =>
    intro hs r b d k start hfields hrecs hconsistent htwinned htag hfree hpeal hroom
    refine answersOk_of_reply b r hs exec_shardCreate (checked_none ((firstOf_none _).mpr ?_) _ _ _)
    simp only [List.forall_mem_cons, need_none]
    exact ⟨Option.map_eq_none_iff.mpr hfields, hrecs, hconsistent, notOr_of_imp htwinned,
      by rw [htag, hfree, hpeal]; rfl, hroom, nofun⟩
  case params =>
    intro hs r b p hp h2 h24 hupdate hnext hkept
    refine answersOk_of_reply b r hs exec_stepParams (checked_none ((firstOf_none _).mpr ?_) _ _ _)
    simp only [List.forall_mem_cons, need_none, rsvd_none, id12_none]
    exact ⟨hp, h2, h24, hupdate, decide_eq_true hnext.ge, beq_iff_eq.mpr hnext, hkept, nofun⟩
  case commit =>
    intro hs r b p pl hfields hstep
    refine answersOk_of_reply b r hs exec_stepCommitCommit (checked_none ?_ _ _ _)
    refine (firstOf_append_none _ _).mpr ⟨hfields, (firstOf_none _).mpr (List.forall_mem_singleton.mpr ((need_none _ _).mpr ?_))⟩
    simpa using hstep
  case rollsBack =>
    intro hs r b hfields hmay
    refine answersOk_of_reply b r hs exec_stepCommitRollback (checked_none ?_ _ _ _)
    exact (firstOf_append_none _ _).mpr ⟨hfields, (firstOf_none _).mpr (List.forall_mem_singleton.mpr ((need_none _ _).mpr hmay))⟩
  case exports =>
    intro hs r b k sh pend x n len data hk hflag hmove h24 hst hpend hend hdma
    obtain ⟨hdata, hkept⟩ := exportable hst
    refine ⟨toLE 8 (if pend then sh.pendStep else sh.step.toNat) ++ toLE 8 (if pend then sh.pendTrain else sh.train.toNat),
      answersOk_of_reply b r hs exec_shardExport ?_⟩
    dsimp only
    rw [moveChecks_none hk hflag hmove]
    simp only [List.forall_mem_cons, need_none, rsvd_none]
    exact ⟨h24, hdata, hkept, notOr_of_imp hpend, decide_eq_true hend, by rw [hdma]; rfl, nofun⟩
  case imports =>
    intro hs r b k sh final x n len data hk hflag hmove h28 hst hnext hend hfinal hdma hcrc t
    obtain ⟨hkept, htakes⟩ := importable hst
    refine answersOk_of_reply b r hs exec_shardImport ?_
    dsimp only
    rw [moveChecks_none hk hflag hmove]
    simp only [List.forall_mem_cons, need_none, rsvd_none]
    exact ⟨h28, hkept, htakes, beq_iff_eq.mpr hnext, decide_eq_true hend,
      notOr_of_imp fun h => beq_iff_eq.mpr (hfinal h), by rw [hdma]; rfl, beq_iff_eq.mpr hcrc, nofun⟩

/-! The norm exchange (R280 to R283). -/

/-- Settles O47: the guards of each command and the record a Q goes to say which of its branches is taken. -/
theorem normExchangeTakesEffect : Obligations.NormExchangeTakesEffect := by
  unfold Obligations.NormExchangeTakesEffect
  refine fun s tag np ts c m => ⟨?forms, rfl, ?contrib, ?result, ?copy⟩
  case forms =>
    intro key hdone t n all q
    have hsome : ¬(normDone s tag np ts).isEmpty = true := by simpa using hdone
    have hall : (all.all fun p => (n.partials.look? p).isSome) = true ↔ ∀ p ∈ all, n.partials.look? p ≠ none := by
      simp [Option.isSome_iff_ne_none]
    rw [exec_normPartialForm, execNormPartialForm, if_neg hsome]
    exact ⟨fun ⟨p, hp, hnone⟩ => if_neg fun h => hall.mp h p hp hnone, fun h => if_pos (hall.mpr h)⟩
  case contrib =>
    intro t np q x tr hcrc hflags hres h hhome htag hlisted hserves
    have hframed : ¬(decide (1 < byteAt c.payload 24) || !zeroAt c.payload 26 38) = true := by simp [hflags, hres]
    have hknown : ¬(decide (h.tag ≠ c.tag) || !(h.list.any fun e => e.1 == c.src)) = true := by rw [hlisted]; simp [htag]
    have hserved : ¬(!normServes t np) = true := by rw [hserves]; nofun
    rw [exec_normContribReceive, execNormContribReceive]
    dsimp only
    rw [if_neg (by rw [hcrc]; nofun), if_neg hframed, hhome]
    dsimp only
    rw [if_neg hknown, if_neg hserved]
    refine ⟨fun hstale => ?stale, fun g r hrec hopen => ?new, fun g r hrec hsealed => ?again⟩
    case stale => rw [hstale]
    case new => rw [hrec]; exact if_pos (Option.isNone_iff_eq_none.mpr hopen)
    case again => rw [hrec]; exact if_neg (mt Option.isNone_iff_eq_none.mp hsealed)
  case result =>
    intro t x key hcrc hflags h26 h32
    have hframed : ¬(decide (1 < byteAt c.payload 24) || !zeroAt c.payload 26 2 || !zeroAt c.payload 32 32) = true := by simp [hflags, h26, h32]
    have hcurrent (n : NormStep) : (n.sum.isSome && n.tries % 256 == byteAt c.payload 25) = true ↔
        n.sum.isSome = true ∧ n.tries % 256 = byteAt c.payload 25 := by simp
    rw [exec_normResultReceive, execNormResultReceive]
    dsimp only
    rw [if_neg (by rw [hcrc]; nofun), if_neg hframed]
    refine ⟨fun n hfound hsum htry => ?kept, fun hother => ?counted⟩
    case kept => rw [hfound]; exact if_pos ((hcurrent n).mpr ⟨hsum, htry⟩)
    case counted =>
      split
      · next n hfound => exact if_neg (mt (hcurrent n).mp (hother n hfound))
      · rfl
  case copy =>
    intro t np x hok h g r hhome hrec hopen
    rw [exec_normCopyReceive, execNormCopyReceive, if_neg (by rw [hok]; nofun), hhome]
    dsimp only
    rw [hrec]
    exact if_neg (by simp [hopen])

end Sys2Proof.Proofs

/-! PROOFS of the twin pair family: pair messages (O25), pair states (O48), rebuild and copies (O50), probes and FENCE cells (O51). -/
namespace Sys2Proof.Proofs
open Sys2Proof Sys2Proof.Machine Sys2Proof.Laws

/-! The host's messages to the twin pair (R304, R313, R314). -/

/-- The fields of TWIN_REBUILD and one check more pass exactly when both do. -/
theorem rebuildChecks_none {r : State} {b : Bytes} {x : Option Reply} :
    firstOf (rebuildFields r b ++ [x]) = none ↔ firstOf (rebuildFields r b) = none ∧ x = none := by
  rw [firstOf_append_none, firstOf_none [x], List.forall_mem_singleton]

/-- Settles O25: the checks of each message pass, and what its rules reply past them is read off. -/
theorem pairMessagesTakeEffect : Obligations.PairMessagesTakeEffect := by
  unfold Obligations.PairMessagesTakeEffect
  intro m s
  refine ⟨?pair, ?unpair, ?grant, ?start, ?abort⟩
  case pair =>
    intro hs r b hchip htwin hquorum hquorum' h2 hdead hdead' hhold hhold' h20 hsolo
    refine answersOk_of_reply b r hs exec_twinPairPair (checked_none ((firstOf_none _).mpr ?_) _ _ _)
    simp only [List.forall_mem_cons, need_none, rsvd_none]
    exact ⟨by simpa [← htwin] using hchip, decide_eq_true ⟨hquorum, hquorum'⟩, h2, decide_eq_true ⟨hdead, hdead'⟩,
      decide_eq_true ⟨hhold, hhold'⟩, h20, beq_iff_eq.mpr hsolo, nofun⟩
  case unpair =>
    intro hs r b h2 h20 hnone hst
    refine answersOk_of_reply b r hs exec_twinPairUnpair (checked_none ((firstOf_none _).mpr ?_) _ _ _)
    simp only [List.forall_mem_cons, need_none, rsvd_none]
    exact ⟨h2, h20, by simp [hnone, hst], nofun⟩
  case grant =>
    intro hs r b htwin h8
    have hgrants (hst : (r.twin.st == .takeover || (r.twin.st == .solo && r.twin.tookOver) || r.twin.st == .orphan) = true) :
        AnswersOk (.takeoverGrant m) 0x82 m s [] (if r.twin.st == .takeover || (r.twin.st == .solo && r.twin.tookOver) then r else takeOver r) := by
      refine answersOk_of_reply b r hs exec_takeoverGrant (checked_none ((firstOf_none _).mpr ?_) _ _ _)
      simp only [List.forall_mem_cons, need_none, rsvd_none]
      exact ⟨beq_iff_eq.mpr htwin, h8, hst, nofun⟩
    refine ⟨fun horphan => ?takes, fun hidle => ?again⟩
    case takes => simpa [horphan] using hgrants (by simp [horphan])
    case again => simpa [hidle] using hgrants (by simp [hidle])
  case start =>
    intro hs r b t hfields hst hold
    refine answersOk_of_reply b r hs exec_twinRebuildStart (checked_none (rebuildChecks_none.mpr ⟨hfields, ?_⟩) _ _ _)
    exact (need_none _ _).mpr (by simp [hst, hold])
  case abort =>
    intro hs r b hfields hrebuild
    refine answersOk_of_reply b r hs exec_twinRebuildAbort (checked_none (rebuildChecks_none.mpr ⟨hfields, ?_⟩) _ _ _)
    exact (need_none _ _).mpr hrebuild

/-! The pair state (R299, R301, R305 to R307, R311, R312). -/

/-- A TWIN message that keeps its ranges is not turned away. -/
theorem twinOk_passes {tmsg : Nat} {m : TwinMsg} (hok : twinOk tmsg m = true) : ¬(!twinOk tmsg m) = true := by
  rw [hok]; nofun

/-- A Welt port takes a PAIR_HELLO in CHECK, QUARANTINE and UP (R298). -/
theorem takesHello {wp : Nat} {st : PState} {m : TwinMsg} (hwp : wp < 4) (hst : st = .check ∨ st = .quarantine ∨ st = .up) (hmsg : m.tmsg = 0x01) :
    ¬(decide (4 ≤ wp) || !(st == .check || st == .quarantine || st == .up) || decide (m.tmsg ≠ 0x01)) = true := by
  rcases hst with rfl | rfl | rfl <;> simp [hwp, hmsg]

/-- How the pair state follows a PAIR_HELLO that has judged its port: `ours` says that the twin sent it (R305, R307). -/
def followHello (h : Bytes) (ours : Bool) (s : State) : Out :=
  if s.twin.st == .solo then .next (if s.twin.asked then judgeAgreement h s else s)
  else if !ours then .next s
  else .next (heardAgain (byteAt h 12) (byteAt h 34 % 16) false s)

theorem followHello_of_solo {s : State} (h : Bytes) (ours : Bool) (hst : s.twin.st = .solo) :
    followHello h ours s = .next (if s.twin.asked then judgeAgreement h s else s) := if_pos (beq_iff_eq.mpr hst)

theorem followHello_of_not_solo {s : State} (h : Bytes) (ours : Bool) (hst : s.twin.st ≠ .solo) :
    followHello h ours s = .next (if ours then heardAgain (byteAt h 12) (byteAt h 34 % 16) false s else s) := by
  refine (if_neg (by simpa using hst)).trans ?_
  cases ours <;> rfl

/-- A PAIR_HELLO taken is kept, judges its port when it repeats the one before, and then moves the pair state (R298, R305). -/
theorem exec_pairHelloReceive_of_taken {wp : Nat} {m : TwinMsg} {s : State} (hwp : wp < 4)
    (hst : (s.port (weltPort wp)).st = .check ∨ (s.port (weltPort wp)).st = .quarantine ∨ (s.port (weltPort wp)).st = .up) (hmsg : m.tmsg = 0x01)
    (hok : twinOk 0x01 m = true) :
    let p := weltPort wp
    let st := (s.port p).st
    let h := fit 64 m.head
    let ours := s.fabric.plan.twinChip != 0 && BitVec.ofNat 64 (le h 0 8) == s.fabric.plan.twinChip
    let twice := s.twin.heard.look? p == some h
    let t := s.modTwin fun t => { t with heard := t.heard.put p h, agreed := if twice then t.agreed.put p h else t.agreed, peer := if ours then h else t.peer }
    let u := if twice = false then t else if ours = false then (if st = .quarantine then t else enter p .quarantine 5 t)
      else if st = .quarantine then enter p .check 4 t else tryUp p t
    exec (.pairHelloReceive wp m) s = followHello h ours u := by
  intro p st h ours twice t u
  have hjudged : (if !twice then t else if !ours then (if st == .quarantine then t else enter p .quarantine 5 t)
      else if st == .quarantine then enter p .check 4 t else tryUp p t) = u := by
    simp only [Bool.not_eq_true', beq_iff_eq, u]
  exact (if_neg (takesHello hwp hst hmsg)).trans ((if_neg (twinOk_passes hok)).trans (congrArg (followHello h ours) hjudged))

/-- A chip ID that is not the twin's, or no twin in the cabling plan, takes a message as one of another chip. -/
theorem notTwins_iff (t : State) (id : Nat) :
    (t.fabric.plan.twinChip == 0 || BitVec.ofNat 64 id != t.fabric.plan.twinChip) = true ↔
      ¬(t.fabric.plan.twinChip ≠ 0 ∧ BitVec.ofNat 64 id = t.fabric.plan.twinChip) := by
  simp [imp_iff_not_or]

/-- Settles O48: the guards of each command and the pair state say which of its branches is taken. -/
theorem pairStatesFollowTheTwin : Obligations.PairStatesFollowTheTwin := by
  unfold Obligations.PairStatesFollowTheTwin
  refine ⟨fun s wp m => ⟨fun hwp hst => ?sends, ?hears⟩, fun s hpair => ⟨?heartbeat, ?ack⟩, fun s m => ⟨fun hok => ?heard, fun hok htwin => ?dying⟩,
    fun s => ⟨fun hst => ?orphans, fun hst hjoined => ?orphansJoined, fun hst hnone => ?ends, fun hst => ?reassigned⟩⟩
  case sends =>
    rw [exec_pairHelloSend, execPairHelloSend]
    exact congrArg Host.Outcome.next (if_pos (by simpa [hwp, or_assoc] using hst))
  case hears =>
    intro h ours twice t u hwp hst hmsg hok
    have hfollows : exec (.pairHelloReceive wp m) s = followHello h ours u := exec_pairHelloReceive_of_taken hwp hst hmsg hok
    rw [hfollows]
    exact ⟨followHello_of_solo h ours, followHello_of_not_solo h ours⟩
  case heartbeat =>
    rw [exec_heartbeatSend]
    exact if_neg (by simpa using hpair)
  case ack =>
    rw [exec_twinAckSend]
    exact if_neg (by simpa using hpair)
  case heard =>
    rw [exec_heartbeatReceive, execHeartbeatReceive, if_neg (twinOk_passes hok)]
    exact ⟨fun htwin => if_neg fun h => (notTwins_iff _ _).mp h htwin, fun hother => if_pos ((notTwins_iff _ _).mpr hother)⟩
  case dying =>
    rw [exec_dyingReceive, execDyingReceive]
    dsimp only
    rw [if_neg (twinOk_passes hok), if_neg fun h => (notTwins_iff _ _).mp h htwin]
    refine ⟨fun hchip hst => ?chip, fun hregions => ?regions⟩
    case chip => rw [if_pos hchip, if_pos (by simpa [or_assoc] using hst)]
    case regions => exact if_neg hregions
  case orphans => rw [exec_heartbeatLoss, execHeartbeatLoss, hst]
  case orphansJoined =>
    rw [exec_heartbeatLoss, execHeartbeatLoss, hst]
    exact if_pos (List.any_eq_true.mpr hjoined)
  case ends =>
    rw [exec_heartbeatLoss, execHeartbeatLoss, hst]
    exact if_neg (mt List.any_eq_true.mp hnone)
  case reassigned =>
    rw [exec_homesReassigned, execHomesReassigned, if_neg (not_not.mpr hst)]
    simp only [Bool.or_eq_true]
    rfl

/-! Rebuild and copies (R172, R302, R314, R315). -/

/-- Settles O50: the guards of each command say which of its branches is taken. -/
theorem rebuildCopiesTakeEffect : Obligations.RebuildCopiesTakeEffect := by
  unfold Obligations.RebuildCopiesTakeEffect
  refine fun s m q => ⟨?armCheck, ?copyData, ?copyCtl, ?sliceReq, ?holdEnds⟩
  case armCheck =>
    intro p pl survives hok
    have hwaits : (dTwinned pl.desc && pl.isOpen && s.twin.st == .syncing && !s.twin.isNew && !pl.joined) = true ↔ survives s ∧ pl.isOpen = true := by
      simp only [survives, Bool.and_eq_true, beq_iff_eq, Bool.not_eq_true']
      tauto
    refine ⟨fun harm => ?decides, fun hnone hgoes => ?answers, fun hnone hold hopen => ?holds⟩
    case decides =>
      have hwaiting : (!pl.armMbx.isEmpty) = true := by simpa using harm
      exact (if_neg (twinOk_passes hok)).trans (if_pos hwaiting)
    case answers =>
      intro t
      have hjoins : (t.twin.st == .syncing && !t.twin.isNew && dTwinned pl.desc && !pl.joined && armAgrees t p (fit 64 m.head) && pl.st != .retiring) = true ↔
          survives t ∧ armAgrees t p (fit 64 m.head) = true ∧ pl.st ≠ .retiring := by
        simp only [survives, Bool.and_eq_true, beq_iff_eq, Bool.not_eq_true', bne_iff_ne]
        tauto
      have hanswers : exec (.armCheckReceive m) s = if t.twin.st == .syncing && !t.twin.isNew && dTwinned pl.desc && !pl.joined
          && armAgrees t p (fit 64 m.head) && pl.st != .retiring then .next (joinPeal p t) else .next t :=
        (if_neg (twinOk_passes hok)).trans ((if_neg (by rw [hnone]; nofun)).trans (if_neg (mt hwaits.mp hgoes)))
      rw [hanswers]
      exact ⟨fun hjoin => if_pos (hjoins.mpr hjoin), fun hapart => if_neg (mt hjoins.mp hapart)⟩
    case holds => exact (if_neg (twinOk_passes hok)).trans ((if_neg (by rw [hnone]; nofun)).trans (if_pos (hwaits.mpr ⟨hold, hopen⟩)))
  case copyData =>
    intro t k d x n b hok hpad hfree hlost hlen hcrc hfit u
    have hframed : ¬(!twinOk 0x0C m || !(m.data.drop (n * sliceBytes d)).all (· == 0)) = true := by rw [hok, hpad]; nofun
    have hwhole : ¬((t.shard k).st == .free || (t.shard k).st == .lost || decide (b.length ≠ n * sliceBytes d) || decide (crc32c b ≠ le m.head 12 4)
        || decide (shCells d < x + n)) = true := by simp [hfree, hlost, hlen, hcrc, hfit]
    refine ⟨fun hcopy hst hnew => ?copy, fun hrepair => ?repair⟩
    case copy =>
      have htakes : ¬(decide (t.twin.st ≠ .syncing) || t.twin.rebuild) = true := by rw [hst, hnew]; nofun
      exact (if_neg hframed).trans ((if_neg hwhole).trans ((if_pos hcopy).trans (if_neg htakes)))
    case repair =>
      intro v
      have hrepairs : exec (.copyDataReceive m) s = .next (match boundPeal v k with | some p => tryOpen p v | none => v) :=
        (if_neg hframed).trans ((if_neg hwhole).trans (if_neg hrepair))
      rw [hrepairs]
      exact ⟨fun p hp => by rw [hp], fun hp => by rw [hp]⟩
  case copyCtl =>
    intro t k sh bank named hok hfree hlost hst hnew
    have hserves : ¬(sh.st == .free || sh.st == .lost || decide (t.twin.st ≠ .syncing) || t.twin.rebuild) = true := by simp [hfree, hlost, hst, hnew]
    have hnamed : (t.peals.any fun e => e.2.st != .free && isUpdate e.2.desc && dShard e.2.desc == k) = true ↔ named := by
      simp [named, and_assoc]
    rw [exec_copyCtlReceive, execCopyCtlReceive]
    refine ⟨fun hact hout => ?aborts, fun hact st hbound hready => ?copied, fun hact => ?frames⟩
    case aborts =>
      have hapart : ¬(sh.st == .bound && (t.peal sh.peal).joined) = true := by simpa using hout
      rw [hact]
      exact (if_neg (twinOk_passes hok)).trans ((if_neg hserves).trans (if_neg hapart))
    case copied =>
      obtain rfl : (if t.peals.any fun e => e.2.st != .free && isUpdate e.2.desc && dShard e.2.desc == k then .bound else .ready) = st := by
        split
        · next h => exact (hbound (hnamed.mp h)).symm
        · next h => exact (hready (mt hnamed.mpr h)).symm
      rw [hact]
      exact (if_neg (twinOk_passes hok)).trans (if_neg hserves)
    case frames =>
      have hneither : byteAt m.head 2 = 0 ∨ byteAt m.head 2 = 1 := by omega
      rcases hneither with h | h <;> rw [h] <;> exact (if_neg (twinOk_passes hok)).trans (if_neg hserves)
  case sliceReq =>
    intro t k hok hfree hlost
    have hserves : ¬((t.shard k).st == .free || (t.shard k).st == .lost) = true := by simp [hfree, hlost]
    exact (if_neg (twinOk_passes hok)).trans (if_neg hserves)
  case holdEnds =>
    intro c hcopy hc hjoined hheld t
    rw [exec_rebuildHoldExpiry, execRebuildHoldExpiry, hcopy]
    exact if_neg (by simp [hc, hjoined, hheld])

/-! Probes and FENCE cells (R299, R311, R440, R441). -/

/-- Settles O51: the guards of each command say which of its branches is taken. -/
theorem probesAndFencesAct : Obligations.ProbesAndFencesAct := by
  unfold Obligations.ProbesAndFencesAct
  refine fun s wp p m stamp c chip => ⟨fun hwp => ?probes, fun hhere hst => ?sends, fun hfab hup hcrc htyp hok => ?receives, rfl⟩
  case probes =>
    intro w
    refine ⟨fun hst => ?send, fun htimes hmsg hok => ?echo, fun htimes hmsg hok => ?measure, fun hok hup hdown => ?check, fun hok hup => ?stays⟩
    case send =>
      have hmay : ¬(decide (4 ≤ wp) || !((s.port w).st == .check || (s.port w).st == .up)) = true := by rcases hst with h | h <;> simp [hwp, h]
      exact if_neg hmay
    case echo =>
      have hbad : ¬(decide (wp < 4) && timingState (s.port w).st && !twinOk 0x0F m) = true := by simp [hok]
      have htakes : (decide (wp < 4) && timingState (s.port w).st && m.tmsg == 0x0F) = true := by simp [hwp, htimes, hmsg]
      exact congrArg Host.Outcome.next ((if_neg hbad).trans (if_pos htakes))
    case measure =>
      intro x
      have htakes : ¬(decide (4 ≤ wp) || !timingState (s.port w).st || decide (m.tmsg ≠ 0x10)) = true := by simp [hwp, htimes, hmsg]
      refine ⟨fun hnone => ?unmatched, fun t1 hsome => ?matched⟩
      case unmatched =>
        have hlate : takeStamp (weltPort wp) (le m.head 20 2) s = (none, x.2) := Prod.ext hnone rfl
        refine (if_neg htakes).trans ((if_neg (twinOk_passes hok)).trans ?_)
        rw [hlate]
      case matched =>
        have hkept : takeStamp (weltPort wp) (le m.head 20 2) s = (some t1, x.2) := Prod.ext hsome rfl
        refine (if_neg htakes).trans ((if_neg (twinOk_passes hok)).trans ?_)
        rw [hkept]
    case check =>
      have hbad : ¬(decide (wp < 4) && !twinOk 0x11 m) = true := by simp [hok]
      have hleaves : (decide (wp < 4) && (s.port w).st == .up && byteAt m.head 1 != 4) = true := by simp [hwp, hup, hdown]
      exact congrArg Host.Outcome.next ((if_neg hbad).trans (if_pos hleaves))
    case stays =>
      have hbad : ¬(decide (wp < 4) && !twinOk 0x11 m) = true := by simp [hok]
      have hkeeps : ¬(decide (wp < 4) && (s.port w).st == .up && byteAt m.head 1 != 4) = true := by simp [hup]
      exact congrArg Host.Outcome.next ((if_neg hbad).trans (if_neg hkeeps))
  case sends =>
    intro f
    have hmay : ¬(!s.hasPort p || !((s.port p).st == .damped || (s.port p).st == .fenced)) = true := by rcases hst with h | h <;> simp [hhere, h]
    exact ⟨fun hwelt => (if_neg hmay).trans (if_pos hwelt), fun hfab => (if_neg hmay).trans (if_neg (by rw [hfab]; nofun))⟩
  case receives =>
    have htakes : ¬(isWelt p || decide ((s.port p).st ≠ .up) || !c.crcOk || decide (c.typ ≠ tFence)) = true := by simp [hfab, hup, hcrc, htyp]
    have hgood : ¬(!fenceOk c) = true := by rw [hok]; nofun
    refine ⟨fun hport => ?state, fun hleaf => ?report⟩
    case state =>
      refine (if_neg htakes).trans ((if_neg hgood).trans ((if_pos hport).trans (congrArg Host.Outcome.next ?_)))
      exact ite_not ..
    case report =>
      intro sender fits
      have hreports : exec (.fenceCellReceive p c) s =
          if fits && byteAt c.payload 16 == 1 && decide (1 ≤ byteAt c.payload 17) then
            .next (tryQuorum (s.modTwin fun t => { t with reports := t.reports.put sender s.now }))
          else if fits && decide (1 ≤ byteAt c.payload 18) then .next (s.modTwin fun t => { t with reports := t.reports.del sender })
          else .next (bump 0x01 0 3 s) :=
        (if_neg htakes).trans ((if_neg hgood).trans (if_neg hleaf.not_gt))
      rw [hreports]
      refine ⟨fun hfits hsays hnow => ?kept, fun hfits hnot hpast => ?dropped, fun hother => ?counted⟩
      case kept => exact if_pos (by simp [hfits, hsays, hnow])
      case dropped =>
        have hsilent : ¬(fits && byteAt c.payload 16 == 1 && decide (1 ≤ byteAt c.payload 17)) = true := by simpa [hfits] using hnot
        exact (if_neg hsilent).trans (if_pos (by simp [hfits, hpast]))
      case counted => rw [hother, Bool.false_and, Bool.false_and, Bool.false_and, if_neg nofun, if_neg nofun]

end Sys2Proof.Proofs

/-! PROOFS of the LPDDR memory family: errors, tracking and refresh of the memory channels (O52). -/
namespace Sys2Proof.Proofs
open Sys2Proof Sys2Proof.Machine Sys2Proof.Laws

/-- Link ECC of a read with `k` re-reads left (R328): each of the leading uncorrectable reads takes one while any is left, and the read that ends them has
its single-bit error corrected. -/
theorem linkReads_eq (k : Nat) (l : List LinkEcc) :
    let n := (l.takeWhile (· == .uncorrectable)).length
    linkReads k l = (if n ≤ k ∧ l[n]? = some .single then 1 else 0, min k n) := by
  induction l generalizing k with
  | nil => cases k <;> simp [linkReads]
  | cons x l ih =>
    cases x with
    | clean => cases k <;> simp [linkReads]
    | single => cases k <;> simp [linkReads]
    | uncorrectable =>
      cases k with
      | zero => simp [linkReads]
      | succ k => simp [linkReads, ih k]

/-- What link ECC counts of a read with its two re-reads (R328). -/
theorem linkCount_eq (c : Nat) (l : List LinkEcc) (s : State) :
    let n := (l.takeWhile (· == .uncorrectable)).length
    let t := if n ≤ 2 ∧ l[n]? = some .single then bumpChan c 2 1 s else s
    linkCount c l s = if n = 0 then t else bumpChan c 3 (min 2 n) t := by
  intro n t
  have hcorrected : (if (if n ≤ 2 ∧ l[n]? = some .single then 1 else 0) = 0 then s
      else bumpChan c 2 (if n ≤ 2 ∧ l[n]? = some .single then 1 else 0) s) = t := by
    unfold t
    split
    · rfl
    · rfl
  have hreread : min 2 n = 0 ↔ n = 0 := by omega
  rw [linkCount, linkReads_eq]
  dsimp only
  rw [hcorrected]
  exact if_congr hreread rfl rfl

/-- Settles O52: the guards say that the channel is served, and the outcome of the read, of the scrub or of tracking says what is done. -/
theorem memoryChannelsAct : Obligations.MemoryChannelsAct := by
  unfold Obligations.MemoryChannelsAct
  refine fun s c f burst p code mult temp tgt ue => ⟨fun hc hburst hlive => ?scrub, fun hc hlive => ?read, fun hc hserves => ?tracking, fun hp => ?refresh⟩
  case scrub =>
    have htakes : ¬(decide (128 ≤ c) || decide (64 ≤ burst) || !chanLive s c) = true := by simp [hc, hburst, hlive]
    exact ⟨if_neg htakes, if_neg htakes, if_neg htakes, if_neg htakes⟩
  case read =>
    intro h n corrected t
    have htakes : ¬(decide (128 ≤ ue.channel) || !chanLive s ue.channel) = true := by simp [hc, hlive]
    rw [exec_memoryUe, execMemoryUe, if_neg htakes, linkCount_eq]
    rfl
  case tracking =>
    have htakes : ¬(decide (128 ≤ c) || !chanServes s c) = true := by simp [hc, hserves]
    refine ⟨⟨(Config.trackPause s.free).val, Nat.lt_succ_iff.mp (Config.trackPause s.free).isLt, ?succeeds⟩, ?fails⟩
    case succeeds => exact (if_neg htakes).trans (if_pos rfl)
    case fails => exact (if_neg htakes).trans (if_neg nofun)
  case refresh =>
    intro m t
    rw [exec_mr4Read, execMr4Read, if_neg hp.not_ge]
    simp only [decide_eq_true_eq]
    rfl

end Sys2Proof.Proofs

/-! PROOFS of the machine as a whole: one step (O1, O2), reset (O3), the form of the memories (O4), the queue (O6), the floors (O7). -/
namespace Sys2Proof.Proofs
open Sys2Proof Sys2Proof.Machine Sys2Proof.Laws

/-! Steps and reset (log entry 1). -/

/-- A step with a command waiting runs it on the rest of the queue. -/
theorem step_cons {s : State} {c : Instr} {rest : List Instr} (h : s.pending = c :: rest) : step s = exec c { s with pending := rest } := by
  rw [step, h]

/-- A step with no command waiting idles. -/
theorem step_nil {s : State} (h : s.pending = []) : step s = .next s.idle := by
  rw [step, h]

/-- Settles O1: the step takes the command at the front. -/
theorem stepRunsFrontCommand : Obligations.StepRunsFrontCommand := by
  unfold Obligations.StepRunsFrontCommand
  exact fun _ _ _ => step_cons

/-- Settles O2: the idle step ticks unless the module is held in reset. -/
theorem stepIdlesOnAnEmptyQueue : Obligations.StepIdlesOnAnEmptyQueue := by
  unfold Obligations.StepIdlesOnAnEmptyQueue
  intro s h
  rw [step_nil h]
  rfl

/-- Settles O3: at reset every byte memory is the empty list. -/
theorem resetMemoryIsCanonical : Obligations.ResetMemoryIsCanonical := by
  unfold Obligations.ResetMemoryIsCanonical
  exact ⟨rfl, rfl, rfl, rfl, rfl⟩

/-! What every command and every step keeps (O4, O6, O7). -/

/-- Every command keeps the waiting commands, the form of the byte memories, the rollback floors, the key's index and the module record: one arm per
command, as in the dispatch. -/
theorem exec_keeps (c : Instr) (s : State) : KeepsOut s (exec c s) :=
  match c with
  | .hello m => execHello_keeps m s (.refl s)
  | .goodbye m => execGoodbye_keeps m s (.refl s)
  | .queryInfo m => execQueryInfo_keeps m s (.refl s)
  | .planLoad m => execPlanLoad_keeps m s (.refl s)
  | .planStatus m => execPlanStatus_keeps m s (.refl s)
  | .tableBegin m => execTableBegin_keeps m s (.refl s)
  | .tableCommit m => execTableCommit_keeps m s (.refl s)
  | .tableAbort m => execTableAbort_keeps m s (.refl s)
  | .tableAccessRead m => execTableAccessRead_keeps m s (.refl s)
  | .tableAccessWrite m => execTableAccessWrite_keeps m s (.refl s)
  | .tableAccessLock m => execTableAccessLock_keeps m s (.refl s)
  | .tableAccessUnlock m => execTableAccessUnlock_keeps m s (.refl s)
  | .tableAccessDiscard m => execTableAccessDiscard_keeps m s (.refl s)
  | .portConfig m => execPortConfig_keeps m s (.refl s)
  | .portConfigQosOnly m => execPortConfigQosOnly_keeps m s (.refl s)
  | .portConfigRemove m => execPortConfigRemove_keeps m s (.refl s)
  | .portFence m => execPortFence_keeps m s (.refl s)
  | .portUnfence m => execPortUnfence_keeps m s (.refl s)
  | .portDampDamp m => execPortDampDamp_keeps m s (.refl s)
  | .portDampRelease m => execPortDampRelease_keeps m s (.refl s)
  | .jobAdmit m => execJobAdmit_keeps m s (.refl s)
  | .jobRetire m => execJobRetire_keeps m s (.refl s)
  | .pealAdmit m => execPealAdmit_keeps m s (.refl s)
  | .pealArm m => execPealArm_keeps m s (.refl s)
  | .pealRetire m => execPealRetire_keeps m s (.refl s)
  | .pealStatus m => execPealStatus_keeps m s (.refl s)
  | .pealVoid m => execPealVoid_keeps m s (.refl s)
  | .shardCreate m => execShardCreate_keeps m s (.refl s)
  | .stepParams m => execStepParams_keeps m s (.refl s)
  | .stepCommitCommit m => execStepCommitCommit_keeps m s (.refl s)
  | .stepCommitRollback m => execStepCommitRollback_keeps m s (.refl s)
  | .shardExport m => execShardExport_keeps m s (.refl s)
  | .shardImport m => execShardImport_keeps m s (.refl s)
  | .twinPairPair m => execTwinPairPair_keeps m s (.refl s)
  | .twinPairUnpair m => execTwinPairUnpair_keeps m s (.refl s)
  | .twinStatus m => execTwinStatus_keeps m s (.refl s)
  | .takeoverGrant m => execTakeoverGrant_keeps m s (.refl s)
  | .twinRebuildStart m => execTwinRebuildStart_keeps m s (.refl s)
  | .twinRebuildAbort m => execTwinRebuildAbort_keeps m s (.refl s)
  | .circuitScheduleLoad m => execCircuitScheduleLoad_keeps m s (.refl s)
  | .circuitArmArm m => execCircuitArmArm_keeps m s (.refl s)
  | .circuitArmDisarm m => execCircuitArmDisarm_keeps m s (.refl s)
  | .timeSetSource m => execTimeSetSource_keeps m s (.refl s)
  | .timeStatus m => execTimeStatus_keeps m s (.refl s)
  | .snapshot m => execSnapshot_keeps m s (.refl s)
  | .healthRead m => execHealthRead_keeps m s (.refl s)
  | .eventRead m => execEventRead_keeps m s (.refl s)
  | .fwStageStatus m => execFwStageStatus_keeps m s (.refl s)
  | .fwActivate m => execFwActivate_keeps m s (.refl s)
  | .attest m => execAttest_keeps m s (.refl s)
  | .lastLoad m => execLastLoad_keeps m s (.refl s)
  | .lastQuery m => execLastQuery_keeps m s (.refl s)
  | .shadowConfig m => execShadowConfig_keeps m s (.refl s)
  | .messageReplay m => execMessageReplay_keeps m s (.refl s)
  | .mailboxOverrun mbx => execMailboxOverrun_keeps mbx s (.refl s)
  | .eqHeadWrite head => execEqHeadWrite_keeps head s (.refl s)
  | .registerWrite off data => execRegisterWrite_keeps off data s (.refl s)
  | .segmentLock segs => execSegmentLock_keeps segs s (.refl s)
  | .segmentUnlock segs => execSegmentUnlock_keeps segs s (.refl s)
  | .cxlMemWrite win off data => execCxlMemWrite_keeps win off data s (.refl s)
  | .programCheckDone pid => execProgramCheckDone_keeps pid s (.refl s)
  | .svcHello dg => execSvcHello_keeps dg s (.refl s)
  | .svcStatus dg => execSvcStatus_keeps dg s (.refl s)
  | .stageBegin dg => execStageBegin_keeps dg s (.refl s)
  | .stageData dg => execStageData_keeps dg s (.refl s)
  | .stageEnd dg => execStageEnd_keeps dg s (.refl s)
  | .stageAbort dg => execStageAbort_keeps dg s (.refl s)
  | .configRead dg => execConfigRead_keeps dg s (.refl s)
  | .configWrite dg => execConfigWrite_keeps dg s (.refl s)
  | .setOpk dg => execSetOpk_keeps dg s (.refl s)
  | .clearOpk dg => execClearOpk_keeps dg s (.refl s)
  | .ledgerRead dg => execLedgerRead_keeps dg s (.refl s)
  | .svcSessionIdle session => execSvcSessionIdle_keeps session s (.refl s)
  | .resetNAssert => execResetNAssert_keeps s (.refl s)
  | .resetNRelease boot => execResetNRelease_keeps boot s (.refl s)
  | .selftestComplete res => execSelftestComplete_keeps res s (.refl s)
  | .perstN => execPerstN_keeps s (.refl s)
  | .supplyWarning die mv => execSupplyWarning_keeps die mv s (.refl s)
  | .supplyWarningClear die mv => execSupplyWarningClear_keeps die mv s (.refl s)
  | .supplyWarningHeld die => execSupplyWarningHeld_keeps die s (.refl s)
  | .supplyReset die mv => execSupplyReset_keeps die mv s (.refl s)
  | .supplyFail rail => execSupplyFail_keeps rail s (.refl s)
  | .refclkLoss clk => execRefclkLoss_keeps clk s (.refl s)
  | .trefLoss => execTrefLoss_keeps s (.refl s)
  | .signalDetect port => execSignalDetect_keeps port s (.refl s)
  | .retrainInterval port => execRetrainInterval_keeps port s (.refl s)
  | .trainingStepDone port res => execTrainingStepDone_keeps port res s (.refl s)
  | .trainingStepFail port => execTrainingStepFail_keeps port s (.refl s)
  | .trainTimeout port => execTrainTimeout_keeps port s (.refl s)
  | .pcsLock lane => execPcsLock_keeps lane s (.refl s)
  | .pcsLossOfLock lane => execPcsLossOfLock_keeps lane s (.refl s)
  | .checkDwellEnd port serPpm => execCheckDwellEnd_keeps port serPpm s (.refl s)
  | .dampHoldExpiry port => execDampHoldExpiry_keeps port s (.refl s)
  | .serDamp port serPpm => execSerDamp_keeps port serPpm s (.refl s)
  | .stompRateLimit lane => execStompRateLimit_keeps lane s (.refl s)
  | .discoverySend port => execDiscoverySend_keeps port s (.refl s)
  | .discoveryReceive port cell => execDiscoveryReceive_keeps port cell s (.refl s)
  | .lcwReceive lane lcw => execLcwReceive_keeps lane lcw s (.refl s)
  | .lcwLoss lane => execLcwLoss_keeps lane s (.refl s)
  | .retryTimeout lane => execRetryTimeout_keeps lane s (.refl s)
  | .codewordVerdict lane v => execCodewordVerdict_keeps lane v s (.refl s)
  | .stompReceive lane cell => execStompReceive_keeps lane cell s (.refl s)
  | .linkStompReceive lane cell => execLinkStompReceive_keeps lane cell s (.refl s)
  | .cellReceive lane slot cell => execCellReceive_keeps lane slot cell s (.refl s)
  | .policerRefill port => execPolicerRefill_keeps port s (.refl s)
  | .qosRecordInstall port => execQosRecordInstall_keeps port s (.refl s)
  | .sharedPoolMove block port vc => execSharedPoolMove_keeps block port vc s (.refl s)
  | .replicationPendingPlace block => execReplicationPendingPlace_keeps block s (.refl s)
  | .schedulerWave engine lost => execSchedulerWave_keeps engine lost s (.refl s)
  | .localArbitration block => execLocalArbitration_keeps block s (.refl s)
  | .claim block port vc len engine inBlock => execClaim_keeps block port vc len engine inBlock s (.refl s)
  | .claimReply inBlock claim => execClaimReply_keeps inBlock claim s (.refl s)
  | .claimNoReply inBlock claim => execClaimNoReply_keeps inBlock claim s (.refl s)
  | .reservationExpiry block claim => execReservationExpiry_keeps block claim s (.refl s)
  | .engineStall engine => execEngineStall_keeps engine s (.refl s)
  | .trainArrival block inBlock port vc number => execTrainArrival_keeps block inBlock port vc number s (.refl s)
  | .expressForward outBlock => execExpressForward_keeps outBlock s (.refl s)
  | .transmitSlot port => execTransmitSlot_keeps port s (.refl s)
  | .seamFrameCrcFail seam dir lane => execSeamFrameCrcFail_keeps seam dir lane s (.refl s)
  | .seamLaneLoss seam dir => execSeamLaneLoss_keeps seam dir s (.refl s)
  | .bufferEccError e => execBufferEccError_keeps e s (.refl s)
  | .drainTimerExpiry => execDrainTimerExpiry_keeps s (.refl s)
  | .healthDecayTick => execHealthDecayTick_keeps s (.refl s)
  | .sampleExpiry region => execSampleExpiry_keeps region s (.refl s)
  | .echoCellTransit cell => execEchoCellTransit_keeps cell s (.refl s)
  | .seamLoadUpdate region pct => execSeamLoadUpdate_keeps region pct s (.refl s)
  | .windowReceive cell => execWindowReceive_keeps cell s (.refl s)
  | .windowTimeout win => execWindowTimeout_keeps win s (.refl s)
  | .windowRepeat peal member => execWindowRepeat_keeps peal member s (.refl s)
  | .pealContribReceive cell => execPealContribReceive_keeps cell s (.refl s)
  | .markEchoTimer peal member => execMarkEchoTimer_keeps peal member s (.refl s)
  | .verdictArrival core good => execVerdictArrival_keeps core good s (.refl s)
  | .pealExpReceive cell => execPealExpReceive_keeps cell s (.refl s)
  | .chunkOpen peal => execChunkOpen_keeps peal s (.refl s)
  | .chunkComplete peal chunk => execChunkComplete_keeps peal chunk s (.refl s)
  | .resultRelease peal chunk => execResultRelease_keeps peal chunk s (.refl s)
  | .sealedExpiry peal => execSealedExpiry_keeps peal s (.refl s)
  | .roundOpen peal => execRoundOpen_keeps peal s (.refl s)
  | .stepWatchdogExpiry peal => execStepWatchdogExpiry_keeps peal s (.refl s)
  | .retireComplete peal => execRetireComplete_keeps peal s (.refl s)
  | .repairRequestReceive cell => execRepairRequestReceive_keeps cell s (.refl s)
  | .spotFwdReceive msg => execSpotFwdReceive_keeps msg s (.refl s)
  | .spotDigestReceive msg => execSpotDigestReceive_keeps msg s (.refl s)
  | .spotDigestTimeout peal chunk => execSpotDigestTimeout_keeps peal chunk s (.refl s)
  | .onContrib core peal x member => execOnContrib_keeps core peal x member s (.refl s)
  | .onChunk core peal x => execOnChunk_keeps core peal x s (.refl s)
  | .onStepEnd core peal x => execOnStepEnd_keeps core peal x s (.refl s)
  | .onVoid core peal => execOnVoid_keeps core peal s (.refl s)
  | .ldc core w => execLdc_keeps core w s (.refl s)
  | .lds core w => execLds_keeps core w s (.refl s)
  | .sts core w => execSts_keeps core w s (.refl s)
  | .ldm core w => execLdm_keeps core w s (.refl s)
  | .stm core w => execStm_keeps core w s (.refl s)
  | .ldi core w => execLdi_keeps core w s (.refl s)
  | .mov core w => execMov_keeps core w s (.refl s)
  | .movCtx core w => execMovCtx_keeps core w s (.refl s)
  | .emit core w => execEmit_keeps core w s (.refl s)
  | .echo core w => execEcho_keeps core w s (.refl s)
  | .accxCell core w => execAccxCell_keeps core w s (.refl s)
  | .accxVreg core w => execAccxVreg_keeps core w s (.refl s)
  | .unacc core w => execUnacc_keeps core w s (.refl s)
  | .rndx core w => execRndx_keeps core w s (.refl s)
  | .chk core w => execChk_keeps core w s (.refl s)
  | .vsum core w => execVsum_keeps core w s (.refl s)
  | .fadd core w => execFadd_keeps core w s (.refl s)
  | .fsub core w => execFsub_keeps core w s (.refl s)
  | .fmul core w => execFmul_keeps core w s (.refl s)
  | .ffma core w => execFfma_keeps core w s (.refl s)
  | .fmax core w => execFmax_keeps core w s (.refl s)
  | .fmin core w => execFmin_keeps core w s (.refl s)
  | .fdiv core w check => execFdiv_keeps core w check s (.refl s)
  | .fsqrt core w check => execFsqrt_keeps core w check s (.refl s)
  | .frsq core w check => execFrsq_keeps core w check s (.refl s)
  | .fscl core w => execFscl_keeps core w s (.refl s)
  | .fabs core w => execFabs_keeps core w s (.refl s)
  | .fneg core w => execFneg_keeps core w s (.refl s)
  | .fclmp core w => execFclmp_keeps core w s (.refl s)
  | .iadd core w => execIadd_keeps core w s (.refl s)
  | .isub core w => execIsub_keeps core w s (.refl s)
  | .imax core w => execImax_keeps core w s (.refl s)
  | .imin core w => execImin_keeps core w s (.refl s)
  | .andOp core w => execAnd_keeps core w s (.refl s)
  | .orOp core w => execOr_keeps core w s (.refl s)
  | .xorOp core w => execXor_keeps core w s (.refl s)
  | .shl core w => execShl_keeps core w s (.refl s)
  | .shr core w => execShr_keeps core w s (.refl s)
  | .shrArith core w => execShrArith_keeps core w s (.refl s)
  | .cvt core w => execCvt_keeps core w s (.refl s)
  | .qnt core w => execQnt_keeps core w s (.refl s)
  | .dqt core w => execDqt_keeps core w s (.refl s)
  | .fcmp core w => execFcmp_keeps core w s (.refl s)
  | .icmp core w => execIcmp_keeps core w s (.refl s)
  | .sel core w => execSel_keeps core w s (.refl s)
  | .br core w => execBr_keeps core w s (.refl s)
  | .brp core w => execBrp_keeps core w s (.refl s)
  | .waitSend core w => execWaitSend_keeps core w s (.refl s)
  | .waitLink core w => execWaitLink_keeps core w s (.refl s)
  | .fenceOp core w => execFence_keeps core w s (.refl s)
  | .voidOp core w => execVoid_keeps core w s (.refl s)
  | .endInv core w => execEnd_keeps core w s (.refl s)
  | .normPartialForm tag normPeal trainStep => execNormPartialForm_keeps tag normPeal trainStep s (.refl s)
  | .normResend tag normPeal => execNormResend_keeps tag normPeal s (.refl s)
  | .normContribReceive cell => execNormContribReceive_keeps cell s (.refl s)
  | .normResultReceive cell => execNormResultReceive_keeps cell s (.refl s)
  | .normCopyReceive msg => execNormCopyReceive_keeps msg s (.refl s)
  | .pairHelloSend wp => execPairHelloSend_keeps wp s (.refl s)
  | .pairHelloReceive wp msg => execPairHelloReceive_keeps wp msg s (.refl s)
  | .heartbeatSend => execHeartbeatSend_keeps s (.refl s)
  | .heartbeatReceive msg => execHeartbeatReceive_keeps msg s (.refl s)
  | .heartbeatLoss => execHeartbeatLoss_keeps s (.refl s)
  | .dyingReceive msg => execDyingReceive_keeps msg s (.refl s)
  | .homesReassigned => execHomesReassigned_keeps s (.refl s)
  | .roundCtlReceive msg => execRoundCtlReceive_keeps msg s (.refl s)
  | .verdictReceive msg => execVerdictReceive_keeps msg s (.refl s)
  | .twinAckSend => execTwinAckSend_keeps s (.refl s)
  | .twinAckReceive msg => execTwinAckReceive_keeps msg s (.refl s)
  | .twinResend vc tseq => execTwinResend_keeps vc tseq s (.refl s)
  | .armCheckReceive msg => execArmCheckReceive_keeps msg s (.refl s)
  | .mirrorRowReceive msg => execMirrorRowReceive_keeps msg s (.refl s)
  | .digestsSend shard => execDigestsSend_keeps shard s (.refl s)
  | .digestsReceive msg => execDigestsReceive_keeps msg s (.refl s)
  | .digestsMissing shard => execDigestsMissing_keeps shard s (.refl s)
  | .copyDataReceive msg => execCopyDataReceive_keeps msg s (.refl s)
  | .copyCtlReceive msg => execCopyCtlReceive_keeps msg s (.refl s)
  | .sliceReqReceive msg => execSliceReqReceive_keeps msg s (.refl s)
  | .rebuildHoldExpiry peal => execRebuildHoldExpiry_keeps peal s (.refl s)
  | .probeSend wp => execProbeSend_keeps wp s (.refl s)
  | .probeReceive wp msg stamp => execProbeReceive_keeps wp msg stamp s (.refl s)
  | .probeEchoReceive wp msg stamp => execProbeEchoReceive_keeps wp msg stamp s (.refl s)
  | .weltFenceReceive wp msg => execWeltFenceReceive_keeps wp msg s (.refl s)
  | .fenceSend port => execFenceSend_keeps port s (.refl s)
  | .fenceCellReceive port cell => execFenceCellReceive_keeps port cell s (.refl s)
  | .patrolScrub channel frame burst res target => execPatrolScrub_keeps channel frame burst res target s (.refl s)
  | .memoryUe ue => execMemoryUe_keeps ue s (.refl s)
  | .dqsTracking channel ok => execDqsTracking_keeps channel ok s (.refl s)
  | .mr4Read package code mr4Mult tempC => execMr4Read_keeps package code mr4Mult tempC s (.refl s)
  | .stashRecordWrite port group => execStashRecordWrite_keeps port group s (.refl s)
  | .stashWriterWait port => execStashWriterWait_keeps port s (.refl s)
  | .edgeReleaseStop port => execEdgeReleaseStop_keeps port s (.refl s)
  | .circuitNoticeSend port => execCircuitNoticeSend_keeps port s (.refl s)
  | .edgeResendStop port => execEdgeResendStop_keeps port s (.refl s)
  | .slotEdge port => execSlotEdge_keeps port s (.refl s)
  | .switchSettled port => execSwitchSettled_keeps port s (.refl s)
  | .relockLimitExpiry port => execRelockLimitExpiry_keeps port s (.refl s)
  | .fullTrainDeadline port => execFullTrainDeadline_keeps port s (.refl s)
  | .circuitNoticeReceive port cell => execCircuitNoticeReceive_keeps port cell s (.refl s)
  | .announceSend port => execAnnounceSend_keeps port s (.refl s)
  | .announceReceive port cell => execAnnounceReceive_keeps port cell s (.refl s)
  | .announceTimeout port => execAnnounceTimeout_keeps port s (.refl s)
  | .timingReqSend port => execTimingReqSend_keeps port s (.refl s)
  | .timingReqReceive port cell stamp => execTimingReqReceive_keeps port cell stamp s (.refl s)
  | .timingRespReceive port cell stamp => execTimingRespReceive_keeps port cell stamp s (.refl s)
  | .ppsInEdge frcQ => execPpsInEdge_keeps frcQ s (.refl s)
  | .ppsInLoss => execPpsInLoss_keeps s (.refl s)
  | .ptpMessage p => execPtpMessage_keeps p s (.refl s)
  | .ptpMasterLoss => execPtpMasterLoss_keeps s (.refl s)
  | .holdoverExpiry => execHoldoverExpiry_keeps s (.refl s)
  | .ppsOutEdge => execPpsOutEdge_keeps s (.refl s)
  | .ppsOutEnd => execPpsOutEnd_keeps s (.refl s)
  | .coreWatchdogMiss core => execCoreWatchdogMiss_keeps core s (.refl s)
  | .coreRestartComplete core => execCoreRestartComplete_keeps core s (.refl s)
  | .wardenCompareMismatch restartOk => execWardenCompareMismatch_keeps restartOk s (.refl s)
  | .trialExpiry => execTrialExpiry_keeps s (.refl s)
  | .pauseRestartComplete => execPauseRestartComplete_keeps s (.refl s)
  | .handoverCut => execHandoverCut_keeps s (.refl s)
  | .handoverTimeout => execHandoverTimeout_keeps s (.refl s)
  | .throughputIndexRefresh region rates => execThroughputIndexRefresh_keeps region rates s (.refl s)
  | .derateCompute => execDerateCompute_keeps s (.refl s)
  | .delayExcursion region monitor rate => execDelayExcursion_keeps region monitor rate s (.refl s)
  | .setpointStep acks => execSetpointStep_keeps acks s (.refl s)
  | .tjSample die tj8 => execTjSample_keeps die tj8 s (.refl s)
  | .lastCellfmtActivate => execLastCellfmtActivate_keeps s (.refl s)
  | .shadowPass => execShadowPass_keeps s (.refl s)
  | .shadowRecheck seg => execShadowRecheck_keeps seg s (.refl s)
  | .freezeMarkerArrival die => execFreezeMarkerArrival_keeps die s (.refl s)
  | .ledgerHourly die eyes => execLedgerHourly_keeps die eyes s (.refl s)
  | .ledgerDaily die => execLedgerDaily_keeps die s (.refl s)
  | .ledgerFlush die => execLedgerFlush_keeps die s (.refl s)
  | .coreCrash core => execCoreCrash_keeps core s (.refl s)
  | .uncorrectableHubState loc => execUncorrectableHubState_keeps loc s (.refl s)
  | .leafReportExpiry chip => execLeafReportExpiry_keeps chip s (.refl s)
  | .serdesFirmwareFault => execSerdesFirmwareFault_keeps s (.refl s)
  | .servicePortLinkAttempt linkUp => execServicePortLinkAttempt_keeps linkUp s (.refl s)

theorem idle_keeps (s : State) : Keeps s s.idle := Keeps.ite (fun _ => .refl s) fun _ => tick_keeps s (.refl s)

/-- A step keeps all but the queue, from which it may take the front command. -/
theorem step_keeps {s t : State} (h : step s = .next t) : ∃ rest, Keeps { s with pending := rest } t := by
  cases hq : s.pending with
  | nil =>
    obtain rfl : s.idle = t := Host.Outcome.next.inj ((step_nil hq).symm.trans h)
    exact ⟨s.pending, idle_keeps s⟩
  | cons c rest => exact ⟨rest, exec_keeps c _ t ((step_cons hq).symm.trans h)⟩

/-- Settles O4: a step keeps the form, whether it idles or runs a command. -/
theorem stepKeepsMemoryCanonical : Obligations.StepKeepsMemoryCanonical := by
  unfold Obligations.StepKeepsMemoryCanonical
  intro s t hok h
  obtain ⟨_, hkeeps⟩ := step_keeps h
  exact hkeeps.mem hok

/-- Settles O6: the queue is among what every command keeps. -/
theorem noCommandTouchesTheQueue : Obligations.NoCommandTouchesTheQueue := by
  unfold Obligations.NoCommandTouchesTheQueue
  exact fun c s t h => (exec_keeps c s t h).queue

/-- Settles O7: a step keeps the floors, the key's index and the record, whether it idles or runs a command. -/
theorem floorsAndKeyBlocksNeverFall : Obligations.FloorsAndKeyBlocksNeverFall := by
  unfold Obligations.FloorsAndKeyBlocksNeverFall
  intro s t h
  obtain ⟨_, hkeeps⟩ := step_keeps h
  exact ⟨hkeeps.floors, hkeeps.lms, hkeeps.record⟩

end Sys2Proof.Proofs

/-! PROOFS of the machine as a whole: every command is carried out (O5). -/
namespace Sys2Proof.Proofs
open Sys2Proof Sys2Proof.Machine Sys2Proof.Laws

/-- An outcome carries a command out: a next state, no fault and no refusal. -/
def Carried (o : Out) : Prop := ∃ t, o = .next t

theorem carried_next (s : State) : Carried (.next s) := ⟨s, rfl⟩

/-! What the shared operations answer: a next state on every branch. -/

theorem carried_ite {p : Prop} [Decidable p] {a b : Out} (ha : Carried a) (hb : Carried b) : Carried (if p then a else b) := by
  split
  · exact ha
  · exact hb

theorem carried_of_eq {c : Instr} {s : State} {o : Out} (h : exec c s = o) (ho : Carried o) : Carried (exec c s) := h ▸ ho

theorem runMsg_carried (op : Nat) (m : Msg) (s : State) (f : Bytes → State → Option Reply × State) : Carried (runMsg op m s f) := by
  simp only [runMsg]
  repeat' split
  all_goals exact carried_next _

theorem tableAccess_carried (action : Nat) (m : Msg) (s : State) (f : Nat → Nat → Nat → List Nat → State → Reply × State) :
    Carried (tableAccess action m s f) := runMsg_carried ..

theorem portOp_carried (op : Nat) (action : Option Nat) (m : Msg) (s : State) (stop : Nat → Bool) (f : Nat → State → State) :
    Carried (portOp op action m s stop f) := runMsg_carried ..

theorem svcCommand_carried (cmd kind : Nat) (d : Dgram) (s : State) (f : Nat → State → State) : Carried (svcCommand cmd kind d s f) := by
  simp only [svcCommand]
  repeat' split
  all_goals exact carried_next _

theorem issue_carried (op core : Nat) (w : IWord) (s : State) (f : Inv → State → State) : Carried (issue op core w s f) := by
  simp only [issue]
  repeat' split
  all_goals exact carried_next _

theorem loadOp_carried (op core : Nat) (w : IWord) (s : State) : Carried (loadOp op core w s) := issue_carried ..

theorem vregOp_carried (sub : Bool) (op core : Nat) (w : IWord) (s : State) : Carried (vregOp sub op core w s) := issue_carried ..

theorem checkedOp_carried (op core : Nat) (w : IWord) (check : SelfCheck) (s : State) (f : Inv → Inv) : Carried (checkedOp op core w check s f) := by
  cases check with
  | agrees => exact issue_carried ..
  | failed => exact issue_carried ..

/-! What the meanings with branches of their own answer: each branch ends in a next state. -/

section Branches
variable (s : State)

/-! Of mailboxes (chapter 14). -/

theorem execMessageReplay_carried (m : Msg) : Carried (execMessageReplay m s) := by
  (simp only [execMessageReplay]; repeat' split) <;> exact carried_next _

/-! Of the service port (chapter 15). -/

theorem execSvcHello_carried (dg : Dgram) : Carried (execSvcHello dg s) := by
  (simp only [execSvcHello]; repeat' split) <;> exact carried_next _
theorem execSvcStatus_carried (dg : Dgram) : Carried (execSvcStatus dg s) := by
  (simp only [execSvcStatus]; repeat' split) <;> exact carried_next _
theorem execSetOpk_carried (dg : Dgram) : Carried (execSetOpk dg s) := by
  simp only [execSetOpk]
  split
  · (repeat' split) <;> exact carried_next _
  · exact svcCommand_carried ..
theorem execClearOpk_carried (dg : Dgram) : Carried (execClearOpk dg s) := by
  (simp only [execClearOpk]; repeat' split) <;> exact carried_next _
theorem execSvcSessionIdle_carried (session : Nat) : Carried (execSvcSessionIdle session s) := by
  (simp only [execSvcSessionIdle]; repeat' split) <;> exact carried_next _
theorem execServicePortLinkAttempt_carried (linkUp : Bool) : Carried (execServicePortLinkAttempt linkUp s) := by
  (simp only [execServicePortLinkAttempt]; repeat' split) <;> exact carried_next _

/-! Of boot, supplies and clocks (chapters 15, 18). -/

theorem execResetNRelease_carried (boot : BootRun) : Carried (execResetNRelease boot s) := by
  (simp only [execResetNRelease]; repeat' split) <;> exact carried_next _
theorem execSelftestComplete_carried (res : SelfTest) : Carried (execSelftestComplete res s) := by
  (simp only [execSelftestComplete]; repeat' split) <;> exact carried_next _
theorem execSupplyWarning_carried (die mv : Nat) : Carried (execSupplyWarning die mv s) := by
  (simp only [execSupplyWarning]; repeat' split) <;> exact carried_next _
theorem execSupplyWarningClear_carried (die mv : Nat) : Carried (execSupplyWarningClear die mv s) := by
  (simp only [execSupplyWarningClear]; repeat' split) <;> exact carried_next _
theorem execRefclkLoss_carried (clk : RefClk) : Carried (execRefclkLoss clk s) := by
  (simp only [execRefclkLoss]; repeat' split) <;> exact carried_next _

/-! Of network time (chapter 13). -/

theorem execTrefLoss_carried : Carried (execTrefLoss s) := by
  (simp only [execTrefLoss]; repeat' split) <;> exact carried_next _
theorem execProbeSend_carried (wp : Nat) : Carried (execProbeSend wp s) := by
  (simp only [execProbeSend]; repeat' split) <;> exact carried_next _
theorem execProbeEchoReceive_carried (wp : Nat) (msg : TwinMsg) (stamp : BitVec 80) : Carried (execProbeEchoReceive wp msg stamp s) := by
  (simp only [execProbeEchoReceive]; repeat' split) <;> exact carried_next _
theorem execAnnounceSend_carried (port : Nat) : Carried (execAnnounceSend port s) := by
  (simp only [execAnnounceSend]; repeat' split) <;> exact carried_next _
theorem execAnnounceReceive_carried (port : Nat) (cell : Cell) : Carried (execAnnounceReceive port cell s) := by
  (simp only [execAnnounceReceive]; repeat' split) <;> exact carried_next _
theorem execTimingReqReceive_carried (port : Nat) (cell : Cell) (stamp : BitVec 80) : Carried (execTimingReqReceive port cell stamp s) := by
  (simp only [execTimingReqReceive]; repeat' split) <;> exact carried_next _
theorem execTimingRespReceive_carried (port : Nat) (cell : Cell) (stamp : BitVec 80) : Carried (execTimingRespReceive port cell stamp s) := by
  (simp only [execTimingRespReceive]; repeat' split) <;> exact carried_next _
theorem execPpsInEdge_carried (frcQ : Nat) : Carried (execPpsInEdge frcQ s) := by
  (simp only [execPpsInEdge]; repeat' split) <;> exact carried_next _
theorem execPtpMessage_carried (p : PtpMsg) : Carried (execPtpMessage p s) := by
  (simp only [execPtpMessage]; repeat' split) <;> exact carried_next _

/-! Of training and port states (chapter 02). -/

theorem execTrainingStepDone_carried (port : Nat) (res : TrainRes) : Carried (execTrainingStepDone port res s) := by
  (simp only [execTrainingStepDone]; repeat' split) <;> exact carried_next _
theorem execTrainingStepFail_carried (port : Nat) : Carried (execTrainingStepFail port s) := by
  (simp only [execTrainingStepFail]; repeat' split) <;> exact carried_next _
theorem execCheckDwellEnd_carried (port serPpm : Nat) : Carried (execCheckDwellEnd port serPpm s) := by
  (simp only [execCheckDwellEnd]; repeat' split) <;> exact carried_next _
theorem execDampHoldExpiry_carried (port : Nat) : Carried (execDampHoldExpiry port s) := by
  (simp only [execDampHoldExpiry]; repeat' split) <;> exact carried_next _
theorem execStompRateLimit_carried (lane : Nat) : Carried (execStompRateLimit lane s) := by
  (simp only [execStompRateLimit]; repeat' split) <;> exact carried_next _

/-! Of lanes and cells (chapters 02, 03). -/

theorem execDiscoveryReceive_carried (port : Nat) (cell : Cell) : Carried (execDiscoveryReceive port cell s) := by
  (simp only [execDiscoveryReceive]; repeat' split) <;> exact carried_next _
theorem execLcwReceive_carried (lane : Nat) (lcw : BitVec 128) : Carried (execLcwReceive lane lcw s) := by
  (simp only [execLcwReceive]; repeat' split) <;> exact carried_next _
theorem execLcwLoss_carried (lane : Nat) : Carried (execLcwLoss lane s) := by
  (simp only [execLcwLoss]; repeat' split) <;> exact carried_next _
theorem execRetryTimeout_carried (lane : Nat) : Carried (execRetryTimeout lane s) := by
  (simp only [execRetryTimeout]; repeat' split) <;> exact carried_next _
theorem execCodewordVerdict_carried (lane : Nat) (v : Verdict) : Carried (execCodewordVerdict lane v s) := by
  (simp only [execCodewordVerdict]; repeat' split) <;> exact carried_next _
theorem execStompReceive_carried (lane : Nat) (cell : Cell) : Carried (execStompReceive lane cell s) := by
  (simp only [execStompReceive]; repeat' split) <;> exact carried_next _
theorem execLinkStompReceive_carried (lane : Nat) (cell : Cell) : Carried (execLinkStompReceive lane cell s) := by
  (simp only [execLinkStompReceive]; repeat' split) <;> exact carried_next _
theorem execCellReceive_carried (lane slot : Nat) (cell : Cell) : Carried (execCellReceive lane slot cell s) := by
  (simp only [execCellReceive]; repeat' split) <;> exact carried_next _
theorem execTransmitSlot_carried (port : Nat) : Carried (execTransmitSlot port s) := by
  (simp only [execTransmitSlot]; repeat' split) <;> exact carried_next _

/-! Of the scheduler and the express path (chapter 03). -/

theorem execSharedPoolMove_carried (block port vc : Nat) : Carried (execSharedPoolMove block port vc s) := by
  (simp only [execSharedPoolMove]; repeat' split) <;> exact carried_next _
theorem execReplicationPendingPlace_carried (block : Nat) : Carried (execReplicationPendingPlace block s) := by
  (simp only [execReplicationPendingPlace]; repeat' split) <;> exact carried_next _
theorem execSchedulerWave_carried (engine : Nat) (lost : SideLoss) : Carried (execSchedulerWave engine lost s) := by
  (simp only [execSchedulerWave]; repeat' split) <;> exact carried_next _
theorem execLocalArbitration_carried (block : Nat) : Carried (execLocalArbitration block s) := by
  (simp only [execLocalArbitration]; repeat' split) <;> exact carried_next _
theorem execClaim_carried (block port vc len engine inBlock : Nat) : Carried (execClaim block port vc len engine inBlock s) := by
  (simp only [execClaim]; repeat' split) <;> exact carried_next _
theorem execClaimReply_carried (inBlock claim : Nat) : Carried (execClaimReply inBlock claim s) := by
  (simp only [execClaimReply]; repeat' split) <;> exact carried_next _
theorem execClaimNoReply_carried (inBlock claim : Nat) : Carried (execClaimNoReply inBlock claim s) := by
  (simp only [execClaimNoReply]; repeat' split) <;> exact carried_next _
theorem execReservationExpiry_carried (block claim : Nat) : Carried (execReservationExpiry block claim s) := by
  (simp only [execReservationExpiry]; repeat' split) <;> exact carried_next _
theorem execTrainArrival_carried (block inBlock port vc number : Nat) : Carried (execTrainArrival block inBlock port vc number s) := by
  (simp only [execTrainArrival]; repeat' split) <;> exact carried_next _
theorem execSeamFrameCrcFail_carried (m dir lane : Nat) : Carried (execSeamFrameCrcFail m dir lane s) := by
  (simp only [execSeamFrameCrcFail]; repeat' split) <;> exact carried_next _

/-! Of seams and buffers (chapter 03). -/

theorem execSeamLaneLoss_carried (m dir : Nat) : Carried (execSeamLaneLoss m dir s) := by
  (simp only [execSeamLaneLoss]; repeat' split) <;> exact carried_next _
theorem execBufferEccError_carried (e : EccError) : Carried (execBufferEccError e s) := by
  (simp only [execBufferEccError]; repeat' split) <;> exact carried_next _

/-! Of peals (chapter 07). -/

theorem execWindowRepeat_carried (peal member : Nat) : Carried (execWindowRepeat peal member s) := by
  (simp only [execWindowRepeat]; repeat' split) <;> exact carried_next _
theorem execPealContribReceive_carried (cell : Cell) : Carried (execPealContribReceive cell s) := by
  (simp only [execPealContribReceive]; repeat' split) <;> exact carried_next _
theorem execVerdictArrival_carried (core : Nat) (good : Bool) : Carried (execVerdictArrival core good s) := by
  (simp only [execVerdictArrival]; repeat' split) <;> exact carried_next _
theorem execPealExpReceive_carried (cell : Cell) : Carried (execPealExpReceive cell s) := by
  (simp only [execPealExpReceive]; repeat' split) <;> exact carried_next _
theorem execChunkComplete_carried (peal chunk : Nat) : Carried (execChunkComplete peal chunk s) := by
  (simp only [execChunkComplete]; repeat' split) <;> exact carried_next _
theorem execResultRelease_carried (peal chunk : Nat) : Carried (execResultRelease peal chunk s) := by
  (simp only [execResultRelease]; repeat' split) <;> exact carried_next _
theorem execSealedExpiry_carried (peal : Nat) : Carried (execSealedExpiry peal s) := by
  (simp only [execSealedExpiry]; repeat' split) <;> exact carried_next _
theorem execRepairRequestReceive_carried (cell : Cell) : Carried (execRepairRequestReceive cell s) := by
  (simp only [execRepairRequestReceive]; repeat' split) <;> exact carried_next _
theorem execSpotDigestReceive_carried (msg : TwinMsg) : Carried (execSpotDigestReceive msg s) := by
  (simp only [execSpotDigestReceive]; repeat' split) <;> exact carried_next _
theorem execSpotDigestTimeout_carried (peal chunk : Nat) : Carried (execSpotDigestTimeout peal chunk s) := by
  (simp only [execSpotDigestTimeout]; repeat' split) <;> exact carried_next _

/-! Of peals across the pair (chapter 07). -/

theorem execRetireComplete_carried (peal : Nat) : Carried (execRetireComplete peal s) := by
  (simp only [execRetireComplete]; repeat' split) <;> exact carried_next _
theorem execArmCheckReceive_carried (msg : TwinMsg) : Carried (execArmCheckReceive msg s) := by
  (simp only [execArmCheckReceive]; repeat' split) <;> exact carried_next _

/-! Of spot duplication (chapter 16). -/

theorem execSpotFwdReceive_carried (msg : TwinMsg) : Carried (execSpotFwdReceive msg s) := by
  (simp only [execSpotFwdReceive]; repeat' split) <;> exact carried_next _

/-! Of entry points of the peal cores (chapter 08). -/

theorem execOnContrib_carried (core peal x member : Nat) : Carried (execOnContrib core peal x member s) := by
  (simp only [execOnContrib]; repeat' split) <;> exact carried_next _
theorem execOnChunk_carried (core peal x : Nat) : Carried (execOnChunk core peal x s) := by
  (simp only [execOnChunk]; repeat' split) <;> exact carried_next _
theorem execOnStepEnd_carried (core peal x : Nat) : Carried (execOnStepEnd core peal x s) := by
  (simp only [execOnStepEnd]; repeat' split) <;> exact carried_next _
theorem execOnVoid_carried (core peal : Nat) : Carried (execOnVoid core peal s) := by
  (simp only [execOnVoid]; repeat' split) <;> exact carried_next _

/-! Of the norm exchange (chapter 09). -/

theorem execNormPartialForm_carried (tag normPeal trainStep : Nat) : Carried (execNormPartialForm tag normPeal trainStep s) := by
  (simp only [execNormPartialForm]; repeat' split) <;> exact carried_next _
theorem execNormContribReceive_carried (cell : Cell) : Carried (execNormContribReceive cell s) := by
  (simp only [execNormContribReceive]; repeat' split) <;> exact carried_next _
theorem execNormResultReceive_carried (cell : Cell) : Carried (execNormResultReceive cell s) := by
  (simp only [execNormResultReceive]; repeat' split) <;> exact carried_next _
theorem execNormCopyReceive_carried (msg : TwinMsg) : Carried (execNormCopyReceive msg s) := by
  (simp only [execNormCopyReceive]; repeat' split) <;> exact carried_next _

/-! Of the twin pair (chapter 10). -/

theorem execPairHelloReceive_carried (wp : Nat) (msg : TwinMsg) : Carried (execPairHelloReceive wp msg s) :=
  carried_ite (carried_next _) (carried_ite (carried_next _) (carried_ite (carried_next _) (carried_ite (carried_next _) (carried_next _))))
theorem execHeartbeatSend_carried : Carried (execHeartbeatSend s) := by
  (simp only [execHeartbeatSend]; repeat' split) <;> exact carried_next _
theorem execHeartbeatReceive_carried (msg : TwinMsg) : Carried (execHeartbeatReceive msg s) := by
  (simp only [execHeartbeatReceive]; repeat' split) <;> exact carried_next _
theorem execHeartbeatLoss_carried : Carried (execHeartbeatLoss s) := by
  (simp only [execHeartbeatLoss]; repeat' split) <;> exact carried_next _
theorem execDyingReceive_carried (msg : TwinMsg) : Carried (execDyingReceive msg s) := by
  (simp only [execDyingReceive]; repeat' split) <;> exact carried_next _
theorem execHomesReassigned_carried : Carried (execHomesReassigned s) := by
  (simp only [execHomesReassigned]; repeat' split) <;> exact carried_next _
theorem execRoundCtlReceive_carried (msg : TwinMsg) : Carried (execRoundCtlReceive msg s) := by
  (simp only [execRoundCtlReceive]; repeat' split) <;> exact carried_next _
theorem execVerdictReceive_carried (msg : TwinMsg) : Carried (execVerdictReceive msg s) := by
  (simp only [execVerdictReceive]; repeat' split) <;> exact carried_next _
theorem execTwinAckSend_carried : Carried (execTwinAckSend s) := by
  (simp only [execTwinAckSend]; repeat' split) <;> exact carried_next _
theorem execTwinAckReceive_carried (msg : TwinMsg) : Carried (execTwinAckReceive msg s) := by
  (simp only [execTwinAckReceive]; repeat' split) <;> exact carried_next _
theorem execTwinResend_carried (vc : Nat) (tseq : BitVec 32) : Carried (execTwinResend vc tseq s) := by
  (simp only [execTwinResend]; repeat' split) <;> exact carried_next _
theorem execMirrorRowReceive_carried (msg : TwinMsg) : Carried (execMirrorRowReceive msg s) := by
  (simp only [execMirrorRowReceive]; repeat' split) <;> exact carried_next _
theorem execDigestsSend_carried (shard : Nat) : Carried (execDigestsSend shard s) := by
  (simp only [execDigestsSend]; repeat' split) <;> exact carried_next _
theorem execDigestsReceive_carried (msg : TwinMsg) : Carried (execDigestsReceive msg s) := by
  (simp only [execDigestsReceive]; repeat' split) <;> exact carried_next _
theorem execDigestsMissing_carried (shard : Nat) : Carried (execDigestsMissing shard s) := by
  (simp only [execDigestsMissing]; repeat' split) <;> exact carried_next _
theorem execCopyDataReceive_carried (msg : TwinMsg) : Carried (execCopyDataReceive msg s) := by
  (simp only [execCopyDataReceive]; repeat' split) <;> exact carried_next _
theorem execCopyCtlReceive_carried (msg : TwinMsg) : Carried (execCopyCtlReceive msg s) := by
  (simp only [execCopyCtlReceive]; repeat' split) <;> exact carried_next _
theorem execSliceReqReceive_carried (msg : TwinMsg) : Carried (execSliceReqReceive msg s) := by
  (simp only [execSliceReqReceive]; repeat' split) <;> exact carried_next _
theorem execRebuildHoldExpiry_carried (peal : Nat) : Carried (execRebuildHoldExpiry peal s) := by
  (simp only [execRebuildHoldExpiry]; repeat' split) <;> exact carried_next _
theorem execFenceSend_carried (port : Nat) : Carried (execFenceSend port s) := by
  (simp only [execFenceSend]; repeat' split) <;> exact carried_next _
theorem execFenceCellReceive_carried (port : Nat) (cell : Cell) : Carried (execFenceCellReceive port cell s) := by
  (simp only [execFenceCellReceive]; repeat' split) <;> exact carried_next _

/-! Of memory channels (chapter 11). -/

theorem execPatrolScrub_carried (channel frame burst : Nat) (res : EccKind) (target : UeTarget) : Carried (execPatrolScrub channel frame burst res target s) := by
  (simp only [execPatrolScrub]; repeat' split) <;> exact carried_next _
theorem execMemoryUe_carried (ue : MemUe) : Carried (execMemoryUe ue s) := by
  (simp only [execMemoryUe]; repeat' split) <;> exact carried_next _
theorem execDqsTracking_carried (channel : Nat) (ok : Bool) : Carried (execDqsTracking channel ok s) := by
  (simp only [execDqsTracking]; repeat' split) <;> exact carried_next _
theorem execMr4Read_carried (package code mr4Mult tempC : Nat) : Carried (execMr4Read package code mr4Mult tempC s) := by
  (simp only [execMr4Read]; repeat' split) <;> exact carried_next _

/-! Of circuit ports (chapter 12). -/

theorem execStashWriterWait_carried (port : Nat) : Carried (execStashWriterWait port s) := by
  (simp only [execStashWriterWait]; repeat' split) <;> exact carried_next _
theorem execCircuitNoticeSend_carried (port : Nat) : Carried (execCircuitNoticeSend port s) := by
  (simp only [execCircuitNoticeSend]; repeat' split) <;> exact carried_next _
theorem execSlotEdge_carried (port : Nat) : Carried (execSlotEdge port s) := by
  (simp only [execSlotEdge]; repeat' split) <;> exact carried_next _
theorem execSwitchSettled_carried (port : Nat) : Carried (execSwitchSettled port s) := by
  (simp only [execSwitchSettled]; repeat' split) <;> exact carried_next _
theorem execRelockLimitExpiry_carried (port : Nat) : Carried (execRelockLimitExpiry port s) := by
  (simp only [execRelockLimitExpiry]; repeat' split) <;> exact carried_next _
theorem execCircuitNoticeReceive_carried (port : Nat) (cell : Cell) : Carried (execCircuitNoticeReceive port cell s) := by
  (simp only [execCircuitNoticeReceive]; repeat' split) <;> exact carried_next _

/-! Of control cores (chapter 15). -/

theorem execCoreRestartComplete_carried (core : Nat) : Carried (execCoreRestartComplete core s) := by
  (simp only [execCoreRestartComplete]; repeat' split) <;> exact carried_next _
theorem execWardenCompareMismatch_carried (restartOk : Bool) : Carried (execWardenCompareMismatch restartOk s) := by
  (simp only [execWardenCompareMismatch]; repeat' split) <;> exact carried_next _
theorem execPauseRestartComplete_carried : Carried (execPauseRestartComplete s) := by
  (simp only [execPauseRestartComplete]; repeat' split) <;> exact carried_next _
theorem execHandoverCut_carried : Carried (execHandoverCut s) := by
  (simp only [execHandoverCut]; repeat' split) <;> exact carried_next _
theorem execHandoverTimeout_carried : Carried (execHandoverTimeout s) := by
  (simp only [execHandoverTimeout]; repeat' split) <;> exact carried_next _
theorem execUncorrectableHubState_carried (loc : HubLoc) : Carried (execUncorrectableHubState loc s) := by
  (simp only [execUncorrectableHubState]; repeat' split) <;> exact carried_next _

/-! Of health and records (chapters 17, 18). -/

theorem execThroughputIndexRefresh_carried (region : Nat) (rates : List Nat) : Carried (execThroughputIndexRefresh region rates s) := by
  (simp only [execThroughputIndexRefresh]; repeat' split) <;> exact carried_next _
theorem execDelayExcursion_carried (region monitor rate : Nat) : Carried (execDelayExcursion region monitor rate s) := by
  (simp only [execDelayExcursion]; repeat' split) <;> exact carried_next _
theorem execSetpointStep_carried (acks : AvsAcks) : Carried (execSetpointStep acks s) := by
  (simp only [execSetpointStep]; repeat' split) <;> exact carried_next _
theorem execTjSample_carried (die : Nat) (tj8 : Int) : Carried (execTjSample die tj8 s) := by
  (simp only [execTjSample]; repeat' split) <;> exact carried_next _
theorem execLedgerHourly_carried (die : Nat) (eyes : List Nat) : Carried (execLedgerHourly die eyes s) := by
  (simp only [execLedgerHourly]; repeat' split) <;> exact carried_next _
theorem execLedgerDaily_carried (die : Nat) : Carried (execLedgerDaily die s) := by
  (simp only [execLedgerDaily]; repeat' split) <;> exact carried_next _

/-! Of the shadow compare (chapter 14). -/

theorem execShadowPass_carried : Carried (execShadowPass s) := by
  (simp only [execShadowPass]; repeat' split) <;> exact carried_next _
theorem execShadowRecheck_carried (seg : Nat) : Carried (execShadowRecheck seg s) := by
  (simp only [execShadowRecheck]; repeat' split) <;> exact carried_next _

/-! Of the instructions that two commands share by a field of the word (chapter 08). -/

theorem execMov_carried (core : Nat) (w : IWord) : Carried (execMov core w s) := carried_ite (carried_next _) (issue_carried ..)

theorem execMovCtx_carried (core : Nat) (w : IWord) : Carried (execMovCtx core w s) := carried_ite (carried_next _) (issue_carried ..)

theorem execAccxCell_carried (core : Nat) (w : IWord) : Carried (execAccxCell core w s) := carried_ite (carried_next _) (issue_carried ..)

theorem execAccxVreg_carried (core : Nat) (w : IWord) : Carried (execAccxVreg core w s) := carried_ite (carried_next _) (vregOp_carried ..)

theorem execUnacc_carried (core : Nat) (w : IWord) : Carried (execUnacc core w s) := carried_ite (vregOp_carried ..) (issue_carried ..)

theorem execWaitSend_carried (core : Nat) (w : IWord) : Carried (execWaitSend core w s) := carried_ite (carried_next _) (issue_carried ..)

theorem execWaitLink_carried (core : Nat) (w : IWord) : Carried (execWaitLink core w s) := by
  refine carried_ite (carried_next _) ?_
  split
  · exact carried_next _
  · exact carried_ite (carried_next _) (issue_carried ..)

end Branches

/-- Every command is carried out: one arm per command, as in the dispatch. -/
theorem exec_carried (c : Instr) (s : State) : Carried (exec c s) :=
  match c with
  | .hello _ => carried_of_eq exec_hello (runMsg_carried ..)
  | .goodbye _ => carried_of_eq exec_goodbye (runMsg_carried ..)
  | .queryInfo _ => carried_of_eq exec_queryInfo (runMsg_carried ..)
  | .planLoad _ => carried_of_eq exec_planLoad (runMsg_carried ..)
  | .planStatus _ => carried_of_eq exec_planStatus (runMsg_carried ..)
  | .tableBegin _ => carried_of_eq exec_tableBegin (runMsg_carried ..)
  | .tableCommit _ => carried_of_eq exec_tableCommit (runMsg_carried ..)
  | .tableAbort _ => carried_of_eq exec_tableAbort (runMsg_carried ..)
  | .tableAccessRead _ => carried_of_eq exec_tableAccessRead (tableAccess_carried ..)
  | .tableAccessWrite _ => carried_of_eq exec_tableAccessWrite (tableAccess_carried ..)
  | .tableAccessLock _ => carried_of_eq exec_tableAccessLock (tableAccess_carried ..)
  | .tableAccessUnlock _ => carried_of_eq exec_tableAccessUnlock (tableAccess_carried ..)
  | .tableAccessDiscard _ => carried_of_eq exec_tableAccessDiscard (tableAccess_carried ..)
  | .portConfig _ => carried_of_eq exec_portConfig (runMsg_carried ..)
  | .portConfigQosOnly _ => carried_of_eq exec_portConfigQosOnly (runMsg_carried ..)
  | .portConfigRemove _ => carried_of_eq exec_portConfigRemove (runMsg_carried ..)
  | .portFence _ => carried_of_eq exec_portFence (portOp_carried ..)
  | .portUnfence _ => carried_of_eq exec_portUnfence (portOp_carried ..)
  | .portDampDamp _ => carried_of_eq exec_portDampDamp (portOp_carried ..)
  | .portDampRelease _ => carried_of_eq exec_portDampRelease (portOp_carried ..)
  | .jobAdmit _ => carried_of_eq exec_jobAdmit (runMsg_carried ..)
  | .jobRetire _ => carried_of_eq exec_jobRetire (runMsg_carried ..)
  | .pealAdmit _ => carried_of_eq exec_pealAdmit (runMsg_carried ..)
  | .pealArm _ => carried_of_eq exec_pealArm (runMsg_carried ..)
  | .pealRetire _ => carried_of_eq exec_pealRetire (runMsg_carried ..)
  | .pealStatus _ => carried_of_eq exec_pealStatus (runMsg_carried ..)
  | .pealVoid _ => carried_of_eq exec_pealVoid (runMsg_carried ..)
  | .shardCreate _ => carried_of_eq exec_shardCreate (runMsg_carried ..)
  | .stepParams _ => carried_of_eq exec_stepParams (runMsg_carried ..)
  | .stepCommitCommit _ => carried_of_eq exec_stepCommitCommit (runMsg_carried ..)
  | .stepCommitRollback _ => carried_of_eq exec_stepCommitRollback (runMsg_carried ..)
  | .shardExport _ => carried_of_eq exec_shardExport (runMsg_carried ..)
  | .shardImport _ => carried_of_eq exec_shardImport (runMsg_carried ..)
  | .twinPairPair _ => carried_of_eq exec_twinPairPair (runMsg_carried ..)
  | .twinPairUnpair _ => carried_of_eq exec_twinPairUnpair (runMsg_carried ..)
  | .twinStatus _ => carried_of_eq exec_twinStatus (runMsg_carried ..)
  | .takeoverGrant _ => carried_of_eq exec_takeoverGrant (runMsg_carried ..)
  | .twinRebuildStart _ => carried_of_eq exec_twinRebuildStart (runMsg_carried ..)
  | .twinRebuildAbort _ => carried_of_eq exec_twinRebuildAbort (runMsg_carried ..)
  | .circuitScheduleLoad _ => carried_of_eq exec_circuitScheduleLoad (runMsg_carried ..)
  | .circuitArmArm _ => carried_of_eq exec_circuitArmArm (runMsg_carried ..)
  | .circuitArmDisarm _ => carried_of_eq exec_circuitArmDisarm (runMsg_carried ..)
  | .timeSetSource _ => carried_of_eq exec_timeSetSource (runMsg_carried ..)
  | .timeStatus _ => carried_of_eq exec_timeStatus (runMsg_carried ..)
  | .snapshot _ => carried_of_eq exec_snapshot (runMsg_carried ..)
  | .healthRead _ => carried_of_eq exec_healthRead (runMsg_carried ..)
  | .eventRead _ => carried_of_eq exec_eventRead (runMsg_carried ..)
  | .fwStageStatus _ => carried_of_eq exec_fwStageStatus (runMsg_carried ..)
  | .fwActivate _ => carried_of_eq exec_fwActivate (runMsg_carried ..)
  | .attest _ => carried_of_eq exec_attest (runMsg_carried ..)
  | .lastLoad _ => carried_of_eq exec_lastLoad (runMsg_carried ..)
  | .lastQuery _ => carried_of_eq exec_lastQuery (runMsg_carried ..)
  | .shadowConfig _ => carried_of_eq exec_shadowConfig (runMsg_carried ..)
  | .messageReplay _ => execMessageReplay_carried ..
  | .mailboxOverrun _ => ⟨_, exec_mailboxOverrun⟩
  | .eqHeadWrite _ => ⟨_, exec_eqHeadWrite⟩
  | .registerWrite _ _ => ⟨_, exec_registerWrite⟩
  | .segmentLock _ => ⟨_, exec_segmentLock⟩
  | .segmentUnlock _ => ⟨_, exec_segmentUnlock⟩
  | .cxlMemWrite _ _ _ => ⟨_, exec_cxlMemWrite⟩
  | .programCheckDone _ => ⟨_, exec_programCheckDone⟩
  | .svcHello _ => execSvcHello_carried ..
  | .svcStatus _ => execSvcStatus_carried ..
  | .stageBegin _ => carried_of_eq exec_stageBegin (svcCommand_carried ..)
  | .stageData _ => carried_of_eq exec_stageData (svcCommand_carried ..)
  | .stageEnd _ => carried_of_eq exec_stageEnd (svcCommand_carried ..)
  | .stageAbort _ => carried_of_eq exec_stageAbort (svcCommand_carried ..)
  | .configRead _ => carried_of_eq exec_configRead (svcCommand_carried ..)
  | .configWrite _ => carried_of_eq exec_configWrite (svcCommand_carried ..)
  | .setOpk _ => execSetOpk_carried ..
  | .clearOpk _ => execClearOpk_carried ..
  | .ledgerRead _ => carried_of_eq exec_ledgerRead (svcCommand_carried ..)
  | .svcSessionIdle _ => execSvcSessionIdle_carried ..
  | .resetNAssert => ⟨_, exec_resetNAssert⟩
  | .resetNRelease _ => execResetNRelease_carried ..
  | .selftestComplete _ => execSelftestComplete_carried ..
  | .perstN => ⟨_, exec_perstN⟩
  | .supplyWarning _ _ => execSupplyWarning_carried ..
  | .supplyWarningClear _ _ => execSupplyWarningClear_carried ..
  | .supplyWarningHeld _ => ⟨_, exec_supplyWarningHeld⟩
  | .supplyReset _ _ => ⟨_, exec_supplyReset⟩
  | .supplyFail _ => ⟨_, exec_supplyFail⟩
  | .refclkLoss _ => execRefclkLoss_carried ..
  | .trefLoss => execTrefLoss_carried ..
  | .signalDetect _ => ⟨_, exec_signalDetect⟩
  | .retrainInterval _ => ⟨_, exec_retrainInterval⟩
  | .trainingStepDone _ _ => execTrainingStepDone_carried ..
  | .trainingStepFail _ => execTrainingStepFail_carried ..
  | .trainTimeout _ => ⟨_, exec_trainTimeout⟩
  | .pcsLock _ => ⟨_, exec_pcsLock⟩
  | .pcsLossOfLock _ => ⟨_, exec_pcsLossOfLock⟩
  | .checkDwellEnd _ _ => execCheckDwellEnd_carried ..
  | .dampHoldExpiry _ => execDampHoldExpiry_carried ..
  | .serDamp _ _ => ⟨_, exec_serDamp⟩
  | .stompRateLimit _ => execStompRateLimit_carried ..
  | .discoverySend _ => ⟨_, exec_discoverySend⟩
  | .discoveryReceive _ _ => execDiscoveryReceive_carried ..
  | .lcwReceive _ _ => execLcwReceive_carried ..
  | .lcwLoss _ => execLcwLoss_carried ..
  | .retryTimeout _ => execRetryTimeout_carried ..
  | .codewordVerdict _ _ => execCodewordVerdict_carried ..
  | .stompReceive _ _ => execStompReceive_carried ..
  | .linkStompReceive _ _ => execLinkStompReceive_carried ..
  | .cellReceive _ _ _ => execCellReceive_carried ..
  | .policerRefill _ => ⟨_, exec_policerRefill⟩
  | .qosRecordInstall _ => ⟨_, exec_qosRecordInstall⟩
  | .sharedPoolMove _ _ _ => execSharedPoolMove_carried ..
  | .replicationPendingPlace _ => execReplicationPendingPlace_carried ..
  | .schedulerWave _ _ => execSchedulerWave_carried ..
  | .localArbitration _ => execLocalArbitration_carried ..
  | .claim _ _ _ _ _ _ => execClaim_carried ..
  | .claimReply _ _ => execClaimReply_carried ..
  | .claimNoReply _ _ => execClaimNoReply_carried ..
  | .reservationExpiry _ _ => execReservationExpiry_carried ..
  | .engineStall _ => ⟨_, exec_engineStall⟩
  | .trainArrival _ _ _ _ _ => execTrainArrival_carried ..
  | .expressForward _ => ⟨_, exec_expressForward⟩
  | .transmitSlot _ => execTransmitSlot_carried ..
  | .seamFrameCrcFail _ _ _ => execSeamFrameCrcFail_carried ..
  | .seamLaneLoss _ _ => execSeamLaneLoss_carried ..
  | .bufferEccError _ => execBufferEccError_carried ..
  | .drainTimerExpiry => ⟨_, exec_drainTimerExpiry⟩
  | .healthDecayTick => ⟨_, exec_healthDecayTick⟩
  | .sampleExpiry _ => ⟨_, exec_sampleExpiry⟩
  | .echoCellTransit _ => ⟨_, exec_echoCellTransit⟩
  | .seamLoadUpdate _ _ => ⟨_, exec_seamLoadUpdate⟩
  | .windowReceive _ => ⟨_, exec_windowReceive⟩
  | .windowTimeout _ => ⟨_, exec_windowTimeout⟩
  | .windowRepeat _ _ => execWindowRepeat_carried ..
  | .pealContribReceive _ => execPealContribReceive_carried ..
  | .markEchoTimer _ _ => ⟨_, exec_markEchoTimer⟩
  | .verdictArrival _ _ => execVerdictArrival_carried ..
  | .pealExpReceive _ => execPealExpReceive_carried ..
  | .chunkOpen _ => ⟨_, exec_chunkOpen⟩
  | .chunkComplete _ _ => execChunkComplete_carried ..
  | .resultRelease _ _ => execResultRelease_carried ..
  | .sealedExpiry _ => execSealedExpiry_carried ..
  | .roundOpen _ => ⟨_, exec_roundOpen⟩
  | .stepWatchdogExpiry _ => ⟨_, exec_stepWatchdogExpiry⟩
  | .retireComplete _ => execRetireComplete_carried ..
  | .repairRequestReceive _ => execRepairRequestReceive_carried ..
  | .spotFwdReceive _ => execSpotFwdReceive_carried ..
  | .spotDigestReceive _ => execSpotDigestReceive_carried ..
  | .spotDigestTimeout _ _ => execSpotDigestTimeout_carried ..
  | .onContrib _ _ _ _ => execOnContrib_carried ..
  | .onChunk _ _ _ => execOnChunk_carried ..
  | .onStepEnd _ _ _ => execOnStepEnd_carried ..
  | .onVoid _ _ => execOnVoid_carried ..
  | .ldc _ _ => carried_of_eq exec_ldc (loadOp_carried ..)
  | .lds _ _ => carried_of_eq exec_lds (loadOp_carried ..)
  | .sts _ _ => carried_of_eq exec_sts (issue_carried ..)
  | .ldm _ _ => carried_of_eq exec_ldm (loadOp_carried ..)
  | .stm _ _ => carried_of_eq exec_stm (issue_carried ..)
  | .ldi _ _ => carried_of_eq exec_ldi (issue_carried ..)
  | .mov _ _ => execMov_carried ..
  | .movCtx _ _ => execMovCtx_carried ..
  | .emit _ _ => carried_of_eq exec_emit (issue_carried ..)
  | .echo _ _ => carried_of_eq exec_echo (issue_carried ..)
  | .accxCell _ _ => execAccxCell_carried ..
  | .accxVreg _ _ => execAccxVreg_carried ..
  | .unacc _ _ => execUnacc_carried ..
  | .rndx _ _ => carried_of_eq exec_rndx (issue_carried ..)
  | .chk _ _ => carried_of_eq exec_chk (issue_carried ..)
  | .vsum _ _ => carried_of_eq exec_vsum (issue_carried ..)
  | .fadd _ _ => carried_of_eq exec_fadd (issue_carried ..)
  | .fsub _ _ => carried_of_eq exec_fsub (issue_carried ..)
  | .fmul _ _ => carried_of_eq exec_fmul (issue_carried ..)
  | .ffma _ _ => carried_of_eq exec_ffma (issue_carried ..)
  | .fmax _ _ => carried_of_eq exec_fmax (issue_carried ..)
  | .fmin _ _ => carried_of_eq exec_fmin (issue_carried ..)
  | .fdiv _ _ _ => carried_of_eq exec_fdiv (checkedOp_carried ..)
  | .fsqrt _ _ _ => carried_of_eq exec_fsqrt (checkedOp_carried ..)
  | .frsq _ _ _ => carried_of_eq exec_frsq (checkedOp_carried ..)
  | .fscl _ _ => carried_of_eq exec_fscl (issue_carried ..)
  | .fabs _ _ => carried_of_eq exec_fabs (issue_carried ..)
  | .fneg _ _ => carried_of_eq exec_fneg (issue_carried ..)
  | .fclmp _ _ => carried_of_eq exec_fclmp (issue_carried ..)
  | .iadd _ _ => carried_of_eq exec_iadd (issue_carried ..)
  | .isub _ _ => carried_of_eq exec_isub (issue_carried ..)
  | .imax _ _ => carried_of_eq exec_imax (issue_carried ..)
  | .imin _ _ => carried_of_eq exec_imin (issue_carried ..)
  | .andOp _ _ => carried_of_eq exec_andOp (issue_carried ..)
  | .orOp _ _ => carried_of_eq exec_orOp (issue_carried ..)
  | .xorOp _ _ => carried_of_eq exec_xorOp (issue_carried ..)
  | .shl _ _ => carried_of_eq exec_shl (issue_carried ..)
  | .shr _ _ => carried_of_eq exec_shr (issue_carried ..)
  | .shrArith _ _ => carried_of_eq exec_shrArith (issue_carried ..)
  | .cvt _ _ => carried_of_eq exec_cvt (issue_carried ..)
  | .qnt _ _ => carried_of_eq exec_qnt (issue_carried ..)
  | .dqt _ _ => carried_of_eq exec_dqt (issue_carried ..)
  | .fcmp _ _ => carried_of_eq exec_fcmp (issue_carried ..)
  | .icmp _ _ => carried_of_eq exec_icmp (issue_carried ..)
  | .sel _ _ => carried_of_eq exec_sel (issue_carried ..)
  | .br _ _ => carried_of_eq exec_br (issue_carried ..)
  | .brp _ _ => carried_of_eq exec_brp (issue_carried ..)
  | .waitSend _ _ => execWaitSend_carried ..
  | .waitLink _ _ => execWaitLink_carried ..
  | .fenceOp _ _ => carried_of_eq exec_fenceOp (issue_carried ..)
  | .voidOp _ _ => carried_of_eq exec_voidOp (issue_carried ..)
  | .endInv _ _ => carried_of_eq exec_endInv (issue_carried ..)
  | .normPartialForm _ _ _ => execNormPartialForm_carried ..
  | .normResend _ _ => ⟨_, exec_normResend⟩
  | .normContribReceive _ => execNormContribReceive_carried ..
  | .normResultReceive _ => execNormResultReceive_carried ..
  | .normCopyReceive _ => execNormCopyReceive_carried ..
  | .pairHelloSend _ => ⟨_, exec_pairHelloSend⟩
  | .pairHelloReceive _ _ => execPairHelloReceive_carried ..
  | .heartbeatSend => execHeartbeatSend_carried ..
  | .heartbeatReceive _ => execHeartbeatReceive_carried ..
  | .heartbeatLoss => execHeartbeatLoss_carried ..
  | .dyingReceive _ => execDyingReceive_carried ..
  | .homesReassigned => execHomesReassigned_carried ..
  | .roundCtlReceive _ => execRoundCtlReceive_carried ..
  | .verdictReceive _ => execVerdictReceive_carried ..
  | .twinAckSend => execTwinAckSend_carried ..
  | .twinAckReceive _ => execTwinAckReceive_carried ..
  | .twinResend _ _ => execTwinResend_carried ..
  | .armCheckReceive _ => execArmCheckReceive_carried ..
  | .mirrorRowReceive _ => execMirrorRowReceive_carried ..
  | .digestsSend _ => execDigestsSend_carried ..
  | .digestsReceive _ => execDigestsReceive_carried ..
  | .digestsMissing _ => execDigestsMissing_carried ..
  | .copyDataReceive _ => execCopyDataReceive_carried ..
  | .copyCtlReceive _ => execCopyCtlReceive_carried ..
  | .sliceReqReceive _ => execSliceReqReceive_carried ..
  | .rebuildHoldExpiry _ => execRebuildHoldExpiry_carried ..
  | .probeSend _ => execProbeSend_carried ..
  | .probeReceive _ _ _ => ⟨_, exec_probeReceive⟩
  | .probeEchoReceive _ _ _ => execProbeEchoReceive_carried ..
  | .weltFenceReceive _ _ => ⟨_, exec_weltFenceReceive⟩
  | .fenceSend _ => execFenceSend_carried ..
  | .fenceCellReceive _ _ => execFenceCellReceive_carried ..
  | .patrolScrub _ _ _ _ _ => execPatrolScrub_carried ..
  | .memoryUe _ => execMemoryUe_carried ..
  | .dqsTracking _ _ => execDqsTracking_carried ..
  | .mr4Read _ _ _ _ => execMr4Read_carried ..
  | .stashRecordWrite _ _ => ⟨_, exec_stashRecordWrite⟩
  | .stashWriterWait _ => execStashWriterWait_carried ..
  | .edgeReleaseStop _ => ⟨_, exec_edgeReleaseStop⟩
  | .circuitNoticeSend _ => execCircuitNoticeSend_carried ..
  | .edgeResendStop _ => ⟨_, exec_edgeResendStop⟩
  | .slotEdge _ => execSlotEdge_carried ..
  | .switchSettled _ => execSwitchSettled_carried ..
  | .relockLimitExpiry _ => execRelockLimitExpiry_carried ..
  | .fullTrainDeadline _ => ⟨_, exec_fullTrainDeadline⟩
  | .circuitNoticeReceive _ _ => execCircuitNoticeReceive_carried ..
  | .announceSend _ => execAnnounceSend_carried ..
  | .announceReceive _ _ => execAnnounceReceive_carried ..
  | .announceTimeout _ => ⟨_, exec_announceTimeout⟩
  | .timingReqSend _ => ⟨_, exec_timingReqSend⟩
  | .timingReqReceive _ _ _ => execTimingReqReceive_carried ..
  | .timingRespReceive _ _ _ => execTimingRespReceive_carried ..
  | .ppsInEdge _ => execPpsInEdge_carried ..
  | .ppsInLoss => ⟨_, exec_ppsInLoss⟩
  | .ptpMessage _ => execPtpMessage_carried ..
  | .ptpMasterLoss => ⟨_, exec_ptpMasterLoss⟩
  | .holdoverExpiry => ⟨_, exec_holdoverExpiry⟩
  | .ppsOutEdge => ⟨_, exec_ppsOutEdge⟩
  | .ppsOutEnd => ⟨_, exec_ppsOutEnd⟩
  | .coreWatchdogMiss _ => ⟨_, exec_coreWatchdogMiss⟩
  | .coreRestartComplete _ => execCoreRestartComplete_carried ..
  | .wardenCompareMismatch _ => execWardenCompareMismatch_carried ..
  | .trialExpiry => ⟨_, exec_trialExpiry⟩
  | .pauseRestartComplete => execPauseRestartComplete_carried ..
  | .handoverCut => execHandoverCut_carried ..
  | .handoverTimeout => execHandoverTimeout_carried ..
  | .throughputIndexRefresh _ _ => execThroughputIndexRefresh_carried ..
  | .derateCompute => ⟨_, exec_derateCompute⟩
  | .delayExcursion _ _ _ => execDelayExcursion_carried ..
  | .setpointStep _ => execSetpointStep_carried ..
  | .tjSample _ _ => execTjSample_carried ..
  | .lastCellfmtActivate => ⟨_, exec_lastCellfmtActivate⟩
  | .shadowPass => execShadowPass_carried ..
  | .shadowRecheck _ => execShadowRecheck_carried ..
  | .freezeMarkerArrival _ => ⟨_, exec_freezeMarkerArrival⟩
  | .ledgerHourly _ _ => execLedgerHourly_carried ..
  | .ledgerDaily _ => execLedgerDaily_carried ..
  | .ledgerFlush _ => ⟨_, exec_ledgerFlush⟩
  | .coreCrash _ => ⟨_, exec_coreCrash⟩
  | .uncorrectableHubState loc => execUncorrectableHubState_carried s loc
  | .leafReportExpiry _ => ⟨_, exec_leafReportExpiry⟩
  | .serdesFirmwareFault => ⟨_, exec_serdesFirmwareFault⟩
  | .servicePortLinkAttempt _ => execServicePortLinkAttempt_carried ..

/-- Settles O5: every arm of the dispatch ends in a next state. -/
theorem everyCommandCompletes : Obligations.EveryCommandCompletes := by
  unfold Obligations.EveryCommandCompletes
  exact exec_carried

end Sys2Proof.Proofs

/-! PROOFS of the security and fail-safe family, resets and supplies: the reset state (O31, O32), supply warnings and clock losses (O34). -/
namespace Sys2Proof.Proofs
open Sys2Proof Sys2Proof.Machine Sys2Proof.Laws

/-! Resets (R446, R467, R484). -/

/-- VDD_CORE of a die below 0.58 V leaves the reset state (R446). -/
theorem exec_supplyReset_low {die mv : Nat} (hdie : die < 5) (hmv : mv < 580) (s : State) : exec (.supplyReset die mv) s = .next (resetModule s) := by
  rw [exec_supplyReset, execSupplyReset, if_pos (by simp [hdie, hmv])]

/-- The failure of one of the seven other rails leaves the reset state (R473). -/
theorem exec_supplyFail_rail {rail : Nat} (hrail : rail < 7) (s : State) : exec (.supplyFail rail) s = .next (resetModule s) := by
  rw [exec_supplyFail, execSupplyFail, if_pos hrail]

/-- Settles O31: the three resets leave the one state of the module in reset. -/
theorem resetsLeaveTheResetState : Obligations.ResetsLeaveTheResetState := by
  unfold Obligations.ResetsLeaveTheResetState
  exact fun s => ⟨rfl, fun _ _ hdie hmv => exec_supplyReset_low hdie hmv s, fun _ hrail => exec_supplyFail_rail hrail s, rfl⟩

/-- Settles O32: both leave the state of the module in reset, whose twin block is as at reset. -/
theorem lowCoreSupplyResetsAsResetN : Obligations.LowCoreSupplyResetsAsResetN := by
  unfold Obligations.LowCoreSupplyResetsAsResetN
  intro s die mv hdie hmv
  have hreset : exec (.supplyReset die mv) s = .next (resetModule s) := exec_supplyReset_low hdie hmv s
  refine ⟨hreset, fun t ht => ?_⟩
  obtain rfl : resetModule s = t := Host.Outcome.next.inj (hreset.symm.trans ht)
  rfl

/-! Supply warnings and clock losses (R361, R445, R483). -/

/-- Settles O34: the guards of each event, and whether a warning of the die is kept, say which of its branches is taken. -/
theorem suppliesAndClocksTakeEffect : Obligations.SuppliesAndClocksTakeEffect := by
  unfold Obligations.SuppliesAndClocksTakeEffect
  refine ⟨fun s die mv => ⟨fun hup hdie hmv => ?warns, fun w hw hmv => ?clears, fun hw => ?held⟩, fun s => ⟨rfl, fun r hr => ?fabric, ?tref⟩⟩
  case warns =>
    have hlow : ¬(s.chip.inReset || decide (5 ≤ die) || decide (660 ≤ mv)) = true := by simp [hup, hdie, hmv]
    rw [exec_supplyWarning, execSupplyWarning, if_neg hlow]
    dsimp only [setVdd, State_modChip_chip]
    exact ⟨fun hnone => by rw [hnone]; rfl, fun w hw => by rw [hw]; rfl⟩
  case clears =>
    rw [exec_supplyWarningClear, execSupplyWarningClear, hw]
    exact ⟨_, if_neg hmv.not_gt⟩
  case held =>
    rw [exec_supplyWarningHeld, execSupplyWarningHeld, if_pos hw]
    rfl
  case fabric =>
    rw [exec_refclkLoss, execRefclkLoss]
    exact if_neg hr.not_ge
  case tref =>
    rw [exec_trefLoss, execTrefLoss]
    simp only [beq_iff_eq, State_modChip_time]
    exact (apply_ite Host.Outcome.next _ _ _).symm

end Sys2Proof.Proofs

/-! PROOFS of the host interface, circuits and network time, messages: sessions and reports (O20), circuits and time (O26). -/
namespace Sys2Proof.Proofs
open Sys2Proof Sys2Proof.Machine Sys2Proof.Laws

/-! Sessions, tags and what the host reads (R388 to R390, R401, R403, R468). -/

/-- Data that are written to host memory pass their check when there are none or no access fails. -/
theorem dataCheck_passes {α : Type} {l : List α} {bad : Bool} (h : l = [] ∨ bad = false) : (l.isEmpty || !bad) = true := by
  rcases h with rfl | rfl
  · rfl
  · exact Bool.or_true _

/-- Settles O20: the checks of each message pass, and what its rules reply past them is read off. -/
theorem sessionsAndReportsTakeEffect : Obligations.SessionsAndReportsTakeEffect := by
  unfold Obligations.SessionsAndReportsTakeEffect
  refine ⟨fun m s => ⟨?hello, ?goodbye, ?jobAdmit, ?eventRead, ?healthRead⟩, fun m s => ⟨?info, ?plan, ?peal, ?twin, ?time, ?stages, ?last⟩⟩
  case hello =>
    intro hs r b acc h10 hsize haddr h24 hheld
    have hanswers := answersOk_of_reply b r hs exec_hello (checked_none ((firstOf_none _).mpr ?_) _ _ _)
    · simp only [List.append_assoc] at hanswers
      exact ⟨_, hanswers⟩
    · simp only [List.forall_mem_cons, need_none, rsvd_none]
      exact ⟨h10, hsize, beq_iff_eq.mpr haddr, h24, notOr_of_imp fun h => beq_iff_eq.mpr (hheld h), nofun⟩
  case goodbye => exact fun hs => answersOk_of_reply _ _ hs exec_goodbye rfl
  case jobAdmit =>
    intro hs r b mask htag h2 hports hfree hplan
    refine answersOk_of_reply b r hs exec_jobAdmit (checked_none ((firstOf_none _).mpr ?_) _ _ _)
    simp only [List.forall_mem_cons, need_none, rsvd_none, id12_none]
    exact ⟨htag, h2, List.all_eq_true.mpr hports, by rw [hfree]; rfl, List.all_eq_true.mpr fun p hp => by simpa using hplan p hp, nofun⟩
  case eventRead =>
    intro hs r b es data hone hmax haddr h16 hdma
    have hanswers := answersOk_of_reply b r hs exec_eventRead (checked_none ((firstOf_none _).mpr ?_) _ _ _)
    · rw [List.append_assoc] at hanswers
      exact ⟨_, _, hanswers⟩
    · simp only [List.forall_mem_cons, need_none, rsvd_none]
      exact ⟨decide_eq_true ⟨hone, hmax⟩, beq_iff_eq.mpr haddr, h16, dataCheck_passes hdma, nofun⟩
  case healthRead =>
    intro hs r b rs data hdie h1 hone hmax h24 hdma
    refine ⟨_, answersOk_of_reply b r hs exec_healthRead (checked_none ((firstOf_none _).mpr ?_) _ _ _)⟩
    simp only [List.forall_mem_cons, need_none, rsvd_none]
    exact ⟨decide_eq_true hdie, h1, decide_eq_true ⟨hone, hmax⟩, h24, dataCheck_passes hdma, nofun⟩
  case info =>
    intro hs r b hpage h1
    refine answersOk_of_reply b r hs exec_queryInfo (checked_none ((firstOf_none _).mpr ?_) _ _ _)
    simp only [List.forall_mem_cons, need_none, rsvd_none]
    exact ⟨decide_eq_true hpage, h1, nofun⟩
  case plan => exact fun hs => answersOk_of_reply _ _ hs exec_planStatus rfl
  case peal =>
    intro hs r b hid h2
    refine answersOk_of_reply b r hs exec_pealStatus (checked_none ((firstOf_none _).mpr ?_) _ _ _)
    simp only [List.forall_mem_cons, rsvd_none, id12_none]
    exact ⟨hid, h2, nofun⟩
  case twin => exact fun hs => answersOk_of_reply _ _ hs exec_twinStatus rfl
  case time => exact fun hs => answersOk_of_reply _ _ hs exec_timeStatus rfl
  case stages => exact fun hs => answersOk_of_reply _ _ hs exec_fwStageStatus rfl
  case last =>
    intro hs r b id hlo hhi h2 l hl
    have hpass (hsel : byteAt b 1 < 2) :
        firstOf [need (decide (1 ≤ id ∧ id ≤ 7)) (Reply.range 0), need (decide (byteAt b 1 < 2)) (.range 1), rsvd b 2 6] = none := by
      simp only [firstOf_none, List.forall_mem_cons, need_none, rsvd_none]
      exact ⟨decide_eq_true ⟨hlo, hhi⟩, decide_eq_true hsel, h2, nofun⟩
    refine ⟨fun hactive => ?active, fun hpend h x hx => ?pending⟩
    case active =>
      refine answersOk_of_reply b r hs exec_lastQuery ?_
      dsimp only
      rw [hpass (by omega), hactive, hl]
      rfl
    case pending =>
      refine answersOk_of_reply b r hs exec_lastQuery ?_
      dsimp only
      rw [hpass (by omega), hpend, hl]
      simp only [hx]

/-! Circuit schedules, arming and TIME_SET_SOURCE (R340, R344, R345, R370). -/

/-- ARM of a port that holds a schedule: it stays dark until the schedule's first edge from now (R344). -/
theorem armCircuit_eq {p : Nat} {s : State} {sc : Schedule} {k cyc t : Nat} (h : (s.circOf p).sched = some sc)
    (he : edgeFrom sc (ntCeil s) = (k, cyc, t)) :
    armCircuit p s = s.modCirc p fun c => { c with
      armed := true, disarm := false, started := false, ended := sc.cycles != 0 && decide (sc.cycles ≤ cyc), suspended := false
      slot := k, cycle := cyc, edge := t, failed := false, release := false, resend := true, darkAt := s.now } := by
  simp only [armCircuit, h, he]

/-- DISARM of a port: of one not armed nothing, now where its schedule has ended with none to follow, else at the next edge (R345). -/
theorem disarmCircuit_eq (p : Nat) (s : State) :
    disarmCircuit p s = if (s.circOf p).armed = false then s else if (s.circOf p).ended = true ∧ (s.circOf p).succ = none then disarmNow p s
      else s.modCirc p fun c => { c with disarm := true } := by
  simp only [disarmCircuit, Bool.not_eq_true', Bool.and_eq_true, Option.isNone_iff_eq_none]

/-- TOD_NS of TIME_SET_SOURCE passes its check: a whole second for PPS_IN, a time for LOCAL, and zero without either (R370). -/
theorem todCheck_passes {pps loc : Bool} {tod : Nat} (hpps : pps = true → tod % 1000000000 = 0) (hloc : loc = true → tod ≠ 0)
    (hnone : pps = false → loc = false → tod = 0) : ((!pps || tod % 1000000000 == 0) && (!loc || tod != 0) && (pps || loc || tod == 0)) = true := by
  simp only [Bool.and_eq_true]
  refine ⟨⟨notOr_of_imp fun h => beq_iff_eq.mpr (hpps h), notOr_of_imp fun h => bne_iff_ne.mpr (hloc h)⟩, ?_⟩
  cases pps with
  | true => rfl
  | false =>
    cases loc with
    | true => rfl
    | false => exact beq_iff_eq.mpr (hnone rfl rfl)

/-- Settles O26: the checks of each message pass, and what its rules reply past them is read off. -/
theorem circuitAndTimeMessagesTakeEffect : Obligations.CircuitAndTimeMessagesTakeEffect := by
  unfold Obligations.CircuitAndTimeMessagesTakeEffect
  refine fun m s => ⟨?load, ?arm, ?disarm, ?setSource⟩
  case load => exact fun hs hpass => answersOk_of_reply _ _ hs exec_circuitScheduleLoad (checked_none hpass _ _ _)
  case arm =>
    intro hs r b p c hmay hfields hlocked hst harmed sc hsc e
    refine answersOk_of_reply (reqBody r m) r hs exec_circuitArmArm ((checked_none ?_ _ _ _).trans ?_)
    · refine (firstOf_append_none _ _).mpr ⟨(firstOf_append_none _ _).mpr ⟨?_, hfields⟩, ?_⟩
      · exact (firstOf_none _).mpr (List.forall_mem_singleton.mpr ((need_none _ _).mpr (by rw [hmay]; rfl)))
      · refine (firstOf_none _).mpr (List.forall_mem_singleton.mpr ((need_none _ _).mpr ?_))
        have hsc' : (r.circOf p).sched = some sc := hsc
        have harmed' : (r.circOf p).armed = false := harmed
        simp only [Bool.and_eq_true, bne_iff_ne, Bool.not_eq_true']
        exact ⟨⟨⟨by rw [hsc']; rfl, hlocked⟩, hst⟩, harmed'⟩
    · exact congrArg (some (Reply.ok []), ·) (armCircuit_eq hsc rfl)
  case disarm =>
    intro hs r b p c hfields
    have hdisarms {t : State} (h : disarmCircuit p r = t) : AnswersOk (.circuitArmDisarm m) 0x91 m s [] t :=
      answersOk_of_reply (reqBody r m) r hs exec_circuitArmDisarm ((checked_none hfields _ _ _).trans (congrArg (some (Reply.ok []), ·) h))
    refine ⟨fun hidle => hdisarms ?_, fun harmed hgoes => hdisarms ?_, fun harmed hended hlast => hdisarms ?_⟩
    · exact (disarmCircuit_eq p r).trans (if_pos hidle)
    · exact (disarmCircuit_eq p r).trans ((if_neg (ne_false_of_eq_true harmed)).trans (if_neg hgoes))
    · exact (disarmCircuit_eq p r).trans ((if_neg (ne_false_of_eq_true harmed)).trans (if_pos ⟨hended, hlast⟩))
  case setSource =>
    intro hs r b mask tod hmask hmask' h2 hhold hhold' hpps hloc hnone hdelay hadv h21
    refine answersOk_of_reply b r hs exec_timeSetSource (checked_none ((firstOf_none _).mpr ?_) _ _ _)
    simp only [List.forall_mem_cons, need_none, rsvd_none]
    refine ⟨?_, h2, ?_, todCheck_passes hpps (fun h => (hloc h).1) hnone, decide_eq_true hdelay, decide_eq_true hadv, h21, ?_, nofun⟩
    · simpa using ⟨hmask, hmask'⟩
    · simpa using ⟨hhold, hhold'⟩
    · have hfresh := fun h => (hloc h).2
      cases h : bit mask 3 <;> simp_all [mask, b]

end Sys2Proof.Proofs

/-! PROOFS of the circuit and network time family, events: circuit edges (O53), timing cells (O54), time references (O55). -/
namespace Sys2Proof.Proofs
open Sys2Proof Sys2Proof.Machine Sys2Proof.Laws

/-! Circuit ports at their edges (R343, R346, R347, R350, R352, R353, R355). -/

/-- Settles O53: the guards of each event and the slot that its edge begins say which of its branches is taken. -/
theorem circuitEdgesTakeEffect : Obligations.CircuitEdgesTakeEffect := by
  unfold Obligations.CircuitEdgesTakeEffect
  intro s p g cell c q
  refine ⟨fun hpart => ?closes, fun hnone => ?nothing, fun k b rest t hwaits htakes => ?enters, fun harmed hends => ⟨?release, ?resend, ?notice⟩,
    fun hup hcrc htyp harmed hrsvd => ?hears, fun harmed hdue => ?disarms, fun harmed hstays hlast => ?ends, fun sc k cyc x harmed hstays hnext hslot => ?begins,
    fun x hcur harmed hlit hgood => ⟨?settles, ?late, ?fullLate⟩⟩
  case closes => exact congrArg Host.Outcome.next (if_neg hpart)
  case nothing => exact congrArg Host.Outcome.next (if_pos hnone)
  case enters =>
    rw [exec_stashWriterWait, execStashWriterWait, show (s.circOf p).writer = (k, b) :: rest from hwaits]
    dsimp only
    rw [htakes]
  case release =>
    have hstops : (c.armed && !nextContinues c) = true := by simp [harmed, hends]
    exact congrArg Host.Outcome.next (if_pos hstops)
  case resend =>
    have hstops : (c.armed && !nextContinues c) = true := by simp [harmed, hends]
    exact congrArg Host.Outcome.next (if_pos hstops)
  case notice =>
    intro sc k cyc x hup hnext hslot
    have hsends : ¬(!c.armed || (s.port p).st != .up || nextContinues c) = true := by simp [harmed, hup, hends]
    refine (if_neg hsends).trans ?_
    rw [show nextSlot (s.circOf p) = some (sc, k, cyc) from hnext]
    dsimp only
    rw [hslot]
  case hears =>
    have htakes : ¬((s.port p).st != .up || !cell.crcOk || decide (cell.typ ≠ tCircuit) || !c.armed) = true := by simp [hup, hcrc, htyp, harmed]
    exact (if_neg htakes).trans (if_neg (by rw [hrsvd]; nofun))
  case disarms => exact (if_neg (by rw [show (s.circOf p).armed = true from harmed]; nofun)).trans (if_pos hdue)
  all_goals have hruns : ¬(!c.armed) = true := by rw [harmed]; nofun
  case ends =>
    refine (if_neg hruns).trans ((if_neg (by rw [show (s.circOf p).disarm = false from hstays]; nofun)).trans ?_)
    rw [show nextSlot (s.circOf p) = none from hlast]
  case begins =>
    refine (if_neg hruns).trans ((if_neg (by rw [show (s.circOf p).disarm = false from hstays]; nofun)).trans ?_)
    rw [show nextSlot (s.circOf p) = some (sc, k, cyc) from hnext]
    dsimp only
    rw [hslot]
  case settles =>
    intro hgoes hdown hen
    have htrains : ¬(!c.armed || c.suspended || x.dark || c.failed || (s.port p).st != .down || !(s.port p).enabled) = true := by
      simp [harmed, hgoes, hlit, hgood, hdown, hen]
    rw [exec_switchSettled, execSwitchSettled, show curSlot (s.circOf p) = some x from hcur]
    refine ⟨fun hwarm => (if_neg htrains).trans ?_, fun hcold => (if_neg htrains).trans ?_⟩
    · rw [hwarm]; rfl
    · rw [hcold]; rfl
  case late =>
    intro hwarm hshut hgoes hfenced hdamped
    have hfails : ¬(!c.armed || x.dark || c.full || c.failed || c.opened || c.suspended || (s.port p).st == .fenced || (s.port p).st == .damped) = true := by
      simp [harmed, hlit, hwarm, hgood, hshut, hgoes, hfenced, hdamped]
    rw [exec_relockLimitExpiry, execRelockLimitExpiry, show curSlot (s.circOf p) = some x from hcur]
    exact if_neg hfails
  case fullLate =>
    intro hfull htrains
    have hfails : (c.armed && c.full && !c.failed && (s.port p).st == .training) = true := by simp [harmed, hfull, hgood, htrains]
    exact congrArg Host.Outcome.next (if_pos hfails)

/-! Timing cells (R362, R365). -/

/-- Settles O54: the guards of each event, and whether a stamp matches the response, say which of its branches is taken. -/
theorem timingCellsTakeEffect : Obligations.TimingCellsTakeEffect := by
  unfold Obligations.TimingCellsTakeEffect
  refine fun s p c stamp => ⟨fun hfab hst => ?announces, fun hfab hst => ?asks, fun htakes hok => ?announced, rfl, fun htakes hrsvd => ?answers,
    fun htakes hrsvd => ?measures⟩
  case announces => exact if_neg (by simp [hfab, hst])
  case asks => exact congrArg Host.Outcome.next (if_pos (by simpa [hfab] using hst))
  case announced => exact (if_neg (by rw [htakes]; nofun)).trans (if_neg (by rw [hok]; nofun))
  case answers => exact (if_neg (by rw [htakes]; nofun)).trans (if_neg (by rw [hrsvd]; nofun))
  case measures =>
    intro x
    rw [exec_timingRespReceive, execTimingRespReceive, if_neg (by rw [htakes]; nofun), if_neg (by rw [hrsvd]; nofun)]
    refine ⟨fun hnone => ?unmatched, fun t1 hsome => ?matched⟩
    case unmatched =>
      have hlate : takeStamp p (le c.payload 20 2) s = (none, x.2) := Prod.ext hnone rfl
      rw [hlate]
    case matched =>
      have hkept : takeStamp p (le c.payload 20 2) s = (some t1, x.2) := Prod.ext hsome rfl
      rw [hkept]
      intro e
      exact ⟨fun hbad => if_pos (c := (!e.2.1) = true) (by rw [hbad]; rfl), fun hgood => if_neg (c := (!e.2.1) = true) (by rw [hgood]; nofun)⟩

/-! Time references (R361, R366, R367, R369). -/

/-- Settles O55: the guards of each event, and what the part keeps of its references, say which of its branches is taken. -/
theorem timeReferencesTakeEffect : Obligations.TimeReferencesTakeEffect := by
  unfold Obligations.TimeReferencesTakeEffect
  intro s f prio id t1 t2 mine glitch
  refine ⟨fun hglitch => ?glitch, fun hclean => ?edge, rfl, rfl, rfl, fun hmine => ?same, fun hother => ?master, fun hmine => ?measures, fun hst => ?drifts, rfl, rfl⟩
  case glitch => exact if_pos hglitch
  case edge =>
    have hkept : ¬glitch = true := by rw [hclean]; nofun
    intro tod t
    have hkeeps : exec (.ppsInEdge f) s = match t.time.src, tod with
        | 2, some x => .next (measure (2 * stampDiff (x * 65536) (ntAtQ t.time f s.time.inDelay)) (f / 4) t)
        | _, _ => .next t := if_neg hkept
    rw [hkeeps]
    refine ⟨fun hsrc => ?_, fun hnone => ?_, fun x hsrc hsome => ?_⟩
    · split
      · next heq _ => exact absurd heq hsrc
      · rfl
    · split
      · next _ heq => cases hnone.symm.trans heq
      · rfl
    · rw [hsrc, hsome]; rfl
  case same => exact if_pos hmine
  case master => exact if_neg (ne_true_of_eq_false hother)
  case measures =>
    intro u
    have htakes : ¬(!mine) = true := by rw [hmine]; nofun
    refine ⟨fun d hd hsrc => (if_neg htakes).trans ?_, fun hnone => (if_neg htakes).trans ?_, fun a b hsync => ?_⟩
    · rw [hd, hsrc]; rfl
    · rw [hnone]
    · rw [exec_ptpMessage, execPtpMessage]
      dsimp only
      rw [hsync]
      exact congrArg Host.Outcome.next (if_pos hmine)
  case drifts => exact congrArg Host.Outcome.next (if_pos (beq_iff_eq.mpr hst))

end Sys2Proof.Proofs

/-! PROOFS of the security family: the service port (O30). -/
namespace Sys2Proof.Proofs
open Sys2Proof Sys2Proof.Machine Sys2Proof.Laws

/-! Sessions and datagrams (R423, R424). -/

/-- An entry that was put is read back. -/
theorem look?_put_same {α : Type} (t : Tbl α) (k : Nat) (a : α) : (t.put k a).look? k = some a := by
  induction t with
  | nil => exact if_pos rfl
  | cons e t ih =>
    rw [Tbl.put]
    split
    · exact if_pos rfl
    · split
      · exact if_pos rfl
      · next hne => rw [Tbl.look?, if_neg (Ne.symm hne), ih]

/-- The session in which an accepted datagram is served holds its SEQ and the time. -/
theorem svc_svcIn (d : Dgram) (x : Svc) (s : State) : (svcIn d x s).svc d.session.toNat = some { x with rxSeq := d.seq.toNat, at_ := s.now } :=
  look?_put_same _ _ _

/-- An accepted datagram of a command leaves what the command's rules leave of the state it is served in. -/
theorem exec_of_accepted {c : Instr} {cmd kind : Nat} {d : Dgram} {s t : State} {x : Svc} {f : Nat → State → State} (h : Accepted cmd kind d s x) (he : exec c s = svcCommand cmd kind d s f)
    (hf : f d.session.toNat (svcIn d x s) = t) : exec c s = .next t := by
  rw [he, svcCommand_eq h, hf]

/-- A link that is up takes a datagram past BOOT (R423). -/
theorem takesDatagram {s : State} (hup : svcUp s = true) (hst : s.chip.st ≠ .boot) : ¬(!svcUp s || s.chip.st == .boot) = true := by simp [hup, hst]

/-- Version 1 of KIND 0 passes (R423). -/
theorem plainDatagram {d : Dgram} (hver : d.ver = 1) (hkind : d.kind = 0) : ¬(d.ver != 1 || d.kind != 0) = true := by simp [hver, hkind]

/-! Staging (R425). -/

/-- No activation of a part is under way when the one that is, is of another part. -/
theorem notActing {o : Option Activation} {p : Nat} (h : ∀ a, o = some a → a.part ≠ p) :
    (!(match (generalizing := false) o with | some a => a.part == p | none => false)) = true := by
  cases o with
  | none => rfl
  | some a => simpa using h a rfl

/-- No other session stages when the one that does is this one. -/
theorem notOthersStaging {o : Option Staging} {n : Nat} (h : ∀ g, o = some g → g.session = n) :
    (!(match (generalizing := false) o with | some g => g.session != n | none => false)) = true := by
  cases o with
  | none => rfl
  | some g => simpa using h g rfl

/-- Settles O30: past the acceptance of the datagram, the guards and checks of each command say which of its branches is taken. -/
theorem servicePortCommandsTakeEffect : Obligations.ServicePortCommandsTakeEffect := by
  unfold Obligations.ServicePortCommandsTakeEffect
  refine ⟨fun d s => ⟨fun hup hst hver hkind hlen => ?hello, fun hup hver hkind => ?status, fun hup hst hnone hver hkind hnow hlen => ?firstKey,
    fun x hacc hsome hfresh hlen => ?nextKey, fun hup hst hver hkind => ?clearKey, fun n x hx => ?idle, fun hup hdown => ⟨?fails, fun hclk => ?linked⟩⟩,
    fun d s x => ⟨fun hacc hlen => ?begins, fun g hacc hg hmine => ?data, fun g hacc hg hmine => ?ends, fun g hacc hg hmine => ?aborts,
      fun b hacc hlen hone hmax hb => ?reads, fun t hacc ht hknown hok htrial => ?writes, fun hacc hlen hdie h1 hone hmax h24 => ?ledger⟩⟩
  case hello =>
    have hgood : ¬(d.ver != 1 || d.kind != 0 || d.body.length != 32) = true := by simp [hver, hkind, hlen]
    exact (if_neg (takesDatagram hup hst)).trans (if_neg hgood)
  case status => exact (if_neg (by rw [hup]; nofun)).trans (if_neg (plainDatagram hver hkind))
  case firstKey =>
    have hgood : ¬(d.ver != 1 || d.kind != 0 || decide (600000000000 ≤ s.now)) = true := by simp [hver, hkind, hnow]
    have hwhole : ¬(d.body.length != 32) = true := by simp [hlen]
    exact (if_pos (Option.isNone_iff_eq_none.mpr hnone)).trans
      ((if_neg (takesDatagram hup hst)).trans ((if_neg hgood).trans (if_neg hwhole)))
  case nextKey =>
    refine exec_of_accepted hacc (if_neg (mt Option.isNone_iff_eq_none.mp hsome)) ?_
    refine svcChecked_none (beq_iff_eq.mpr hlen) ((firstOf_none _).mpr (List.forall_mem_singleton.mpr ((need_none _ _).mpr ?_))) _ _ _ _
    rw [svc_svcIn]
    simpa using hfresh
  case clearKey =>
    intro t
    refine (if_neg (takesDatagram hup hst)).trans ((if_neg (plainDatagram hver hkind)).trans ?_)
    exact (apply_ite Host.Outcome.next _ _ _).symm
  case idle =>
    rw [exec_svcSessionIdle, execSvcSessionIdle, hx]
    rfl
  case fails => exact (if_neg (by simp [hup, hdown])).trans (if_neg nofun)
  case linked => exact (if_neg (by simp [hup, hdown])).trans (if_pos (by rw [hclk]; rfl))
  case begins =>
    intro p len hp h1 hmin hmax htrial hact hstage hlast t bank t'
    have hlasts : (!(p == 4 && lastPending (svcIn d x s) 7)) = true := by simpa using imp_iff_not_or.mp hlast
    refine exec_of_accepted hacc exec_stageBegin (svcChecked_none (beq_iff_eq.mpr hlen) ((firstOf_none _).mpr ?_) _ _ _ _)
    simp only [List.forall_mem_cons, need_none, Bool.and_eq_true]
    refine ⟨⟨⟨decide_eq_true hp, h1⟩, decide_eq_true ⟨hmin, hmax⟩⟩, ⟨⟨⟨congrArg Bool.not htrial, notActing hact⟩, notOthersStaging hstage⟩, hlasts⟩, nofun⟩
  case data =>
    intro k data g' hk hdata hsha t early
    have hthis : ¬(g.session != d.session.toNat) = true := by simp [hmine]
    have hgood : ¬(decide (ceilDiv g.len 1024 ≤ k) || data.length != min 1024 (g.len - 1024 * k)
        || (d.body.drop 4).take 32 != fit 32 (Config.sha256 data)) = true := by simp [hk, hdata, hsha]
    have hjudged : exec (.stageData d) s = .next (match if early = true then earlyCheck t g.part (chunkBytes g' 0 4) else none with
        | some e => svcReply 0x13 d.session.toNat e [] (endStaging g.part 3 t)
        | none => stageAck d.session.toNat g' t) := by
      refine exec_of_accepted hacc exec_stageData ?_
      rw [hg]
      exact (if_neg hthis).trans (if_neg hgood)
    rw [hjudged]
    refine ⟨fun hpass => ?_, fun e hearly hfails => by rw [if_pos hearly, hfails]⟩
    have hnone : (if early = true then earlyCheck t g.part (chunkBytes g' 0 4) else none) = none := by
      rcases hpass with hlate | hpass
      · exact if_neg (ne_true_of_eq_false hlate)
      · rw [hpass, ite_self]
    rw [hnone]
  case ends =>
    intro img bank ok t
    refine exec_of_accepted hacc exec_stageEnd ?_
    dsimp only
    rw [hg]
    exact if_neg (by simp [hmine])
  case aborts =>
    refine exec_of_accepted hacc exec_stageAbort ?_
    rw [hg]
    exact if_neg (by simp [hmine])
  case reads =>
    refine exec_of_accepted hacc exec_configRead ((svcChecked_none (beq_iff_eq.mpr hlen) ((firstOf_none _).mpr ?_) _ _ _ _).trans ?_)
    · simp only [List.forall_mem_cons, need_none]
      exact ⟨decide_eq_true ⟨hone, hmax⟩, by rw [hb]; rfl, nofun⟩
    · rw [hb]; rfl
  case writes =>
    intro u
    refine exec_of_accepted hacc exec_configWrite ?_
    dsimp only
    rw [ht]
    refine svcChecked_none (bne_iff_ne.mpr hknown) ((firstOf_none _).mpr ?_) _ _ _ _
    simp only [List.forall_mem_cons, need_none]
    exact ⟨hok, congrArg Bool.not htrial, nofun⟩
  case ledger =>
    intro rs
    refine ⟨_, exec_of_accepted hacc exec_ledgerRead (svcChecked_none (beq_iff_eq.mpr hlen) ((firstOf_none _).mpr ?_) _ _ _ _)⟩
    simp only [List.forall_mem_cons, need_none, Bool.and_eq_true]
    exact ⟨⟨⟨⟨decide_eq_true hdie, h1⟩, decide_eq_true ⟨hone, hmax⟩⟩, h24⟩, nofun⟩

end Sys2Proof.Proofs

/-! PROOFS of the fail-safe and clocking family: control cores (O56), rates, voltage and temperature (O57). -/
namespace Sys2Proof.Proofs
open Sys2Proof Sys2Proof.Machine Sys2Proof.Laws

/-! Control cores and the ends of an activation (R407, R408, R420, R428 to R430). -/

/-- Settles O56: the guards of each event, and the activation under way, say which of its branches is taken. -/
theorem controlCoresTakeEffect : Obligations.ControlCoresTakeEffect := by
  unfold Obligations.ControlCoresTakeEffect
  refine fun s core loc => ⟨rfl, rfl, fun hdown => ?restarts, fun hup => ?warden, fun hup => ?hub, fun a hact hpause => ?restarted, fun a hact hhand => ?handover,
    rfl, fun htrial => ?reverts⟩
  case restarts =>
    intro t
    exact if_neg (by rw [hdown]; nofun)
  case warden =>
    intro t t'
    have hruns : ¬s.chip.inReset = true := by rw [hup]; nofun
    exact ⟨(if_neg hruns).trans (if_pos rfl), (if_neg hruns).trans (if_neg nofun)⟩
  case hub =>
    intro t
    refine (if_neg (by rw [hup]; nofun)).trans ?_
    simp only [beq_iff_eq]
    rfl
  case restarted =>
    rw [exec_pauseRestartComplete, execPauseRestartComplete, hact]
    exact if_neg (by rw [hpause]; nofun)
  case handover =>
    rw [exec_handoverCut, execHandoverCut, exec_handoverTimeout, execHandoverTimeout, hact]
    exact ⟨fun hcores => if_neg (by simp [hhand, hcores]), if_neg (by simp [hhand])⟩
  case reverts => exact congrArg Host.Outcome.next (if_pos htrial)

/-! Tables that are filled key by key. -/

/-- A put leaves the entries under other keys. -/
theorem look?_put_ne {α : Type} (t : Tbl α) {k j : Nat} (a : α) (h : j ≠ k) : (t.put k a).look? j = t.look? j := by
  induction t with
  | nil => exact if_neg h.symm
  | cons e t ih =>
    rw [Tbl.put]
    split
    · exact if_neg h.symm
    · split
      · next _ he => rw [Tbl.look?, if_neg h.symm, Tbl.look?, if_neg (he ▸ h.symm)]
      · rw [Tbl.look?, ih, Tbl.look?]

/-- Puts under different keys leave under each key what was put there, and under a key that already held its value that value. -/
theorem look?_foldl_put {α : Type} {key : Nat → Nat} (hkey : Function.Injective key) (f : Nat → α) (k : Nat) (l : List Nat) (t : Tbl α)
    (h : k ∈ l ∨ t.look? (key k) = some (f k)) : (l.foldl (fun t i => t.put (key i) (f i)) t).look? (key k) = some (f k) := by
  induction l generalizing t with
  | nil => exact h.resolve_left List.not_mem_nil
  | cons i l ih =>
    refine ih _ ?_
    by_cases hi : k = i
    · exact .inr (hi ▸ look?_put_same _ _ _)
    · exact h.imp (fun hk => (List.mem_cons.mp hk).resolve_left hi) fun hk => (look?_put_ne _ _ (hkey.ne hi)).trans hk

/-! What a Tj sample of a die in eighths of a °C does once it is kept (R448): the warning, its end, the trip. -/

/-- From 115 °C a die that has not warned warns. -/
def warnTj (die : Nat) (tj : Int) (t : State) : State :=
  if (decide (920 ≤ tj) && !t.chip.tjWarn.contains die) = true then
    settle 7 ((ledgerAdd die 0x13 ([0, 0] ++ toLE 2 (twos tj 16)) (postEvent 0x4005 (thermData die tj) t)).modChip fun c => { c with tjWarn := insertNat die c.tjWarn })
  else t

/-- Below 110 °C a die that has warned no longer does. -/
def clearTj (die : Nat) (tj : Int) (t : State) : State :=
  if (decide (tj < 880) && t.chip.tjWarn.contains die) = true then settle 9 (t.modChip fun c => { c with tjWarn := c.tjWarn.erase die }) else t

/-- The first trip at 125 °C is recorded, and past BOOT it takes the chip to DAMPED. -/
def firstTrip (die : Nat) (tj : Int) (t : State) : State :=
  let v := (ledgerAdd die 0x13 ([1, 0] ++ toLE 2 (twos tj 16)) (postEvent 0x4006 (thermData die tj) t)).modChip fun c => { c with thermN := true }
  if v.chip.st == .boot then v else dampChip 12 v

/-- From 125 °C the first sample trips. -/
def tripTj (die : Nat) (tj : Int) (t : State) : State := if (decide (tj < 1000) || t.chip.thermN) = true then t else firstTrip die tj t

section Tj
variable {die : Nat} {tj : Int}

theorem warnTj_of_cool (h : tj < 920) (t : State) : warnTj die tj t = t := if_neg (by simp [h])

theorem warnTj_of_hot (h : 920 ≤ tj) (t : State) : warnTj die tj t = if t.chip.tjWarn.contains die then t
    else settle 7 ((ledgerAdd die 0x13 ([0, 0] ++ toLE 2 (twos tj 16)) (postEvent 0x4005 (thermData die tj) t)).modChip fun c =>
      { c with tjWarn := insertNat die c.tjWarn }) := by
  rw [warnTj, decide_eq_true h]
  cases t.chip.tjWarn.contains die <;> rfl

theorem clearTj_of_warm (h : 880 ≤ tj) (t : State) : clearTj die tj t = t := if_neg (by simp [h])

theorem clearTj_of_cold (h : tj < 880) (t : State) : clearTj die tj t =
    if t.chip.tjWarn.contains die then settle 9 (t.modChip fun c => { c with tjWarn := c.tjWarn.erase die }) else t := by
  rw [clearTj, decide_eq_true h, Bool.true_and]

theorem tripTj_of_low (h : tj < 1000) (t : State) : tripTj die tj t = t := if_pos (by simp [h])

theorem tripTj_of_first {t : State} (h : 1000 ≤ tj) (hfirst : t.chip.thermN = false) : tripTj die tj t = firstTrip die tj t := if_neg (by simp [h, hfirst])

/-- A sample of a die out of reset is kept, then judged against the three limits. -/
theorem exec_tjSample_eq {s : State} (hup : s.chip.inReset = false) (hdie : die < 5) :
    exec (.tjSample die tj) s = .next (tripTj die tj (clearTj die tj (warnTj die tj (noteSample die tj
      (s.modChip fun c => { c with tj := (List.range 5).map fun d => if d = die then tj else c.tj.getD d 0 }))))) := by
  have htakes : ¬(s.chip.inReset || decide (5 ≤ die)) = true := by simp [hup, hdie]
  rw [tripTj, apply_ite Host.Outcome.next]
  exact if_neg htakes

end Tj

/-! Rates, voltage and temperature (R447, R448, R476, R480). -/

/-- Settles O57: the guards of each event say which of its branches is taken. -/
theorem monitorsTakeEffect : Obligations.MonitorsTakeEffect := by
  unfold Obligations.MonitorsTakeEffect
  refine fun s r mon rate rates acks tj => ⟨fun hr hlen => ?index, fun hup => ?derates, fun hup hr hmon hrate => ?excursion,
    fun hup hst hwrites hloaded => ?setpoint, fun hup hr => ?sample⟩
  case index =>
    have htakes : ¬(4 ≤ r ∨ rates.length ≠ 16) := by omega
    have hkey : Function.Injective (16 * r + ·) := fun _ _ => Nat.add_left_cancel
    have hput (k : Nat) (hk : k < 16) : ((List.range 16).foldl (fun (t : Tbl Nat) i => t.put (16 * r + i) (nth rates i)) s.chip.monitors).look? (16 * r + k)
        = some (nth rates k) := look?_foldl_put hkey (nth rates) k _ _ (.inl (List.mem_range.mpr hk))
    rw [exec_throughputIndexRefresh, execThroughputIndexRefresh, if_neg htakes, State.modChip]
    generalize (List.range 16).foldl (fun (t : Tbl Nat) i => t.put (16 * r + i) (nth rates i)) s.chip.monitors = monitors at hput ⊢
    exact ⟨_, rfl, rfl, rfl, fun k hk => by rw [Tbl.look, hput k hk]; rfl⟩
  case derates => exact congrArg Host.Outcome.next (if_neg (by rw [hup]; nofun))
  case excursion =>
    have htakes : ¬(s.chip.inReset || decide (4 ≤ r) || decide (16 ≤ mon) || decide (19 * 1024 ≤ 20 * rate)) = true := by simp [hup, hr, hmon, hrate]
    exact if_neg htakes
  case setpoint =>
    intro new ok
    have hruns : ¬(s.chip.inReset || s.chip.st == .boot || s.chip.avsStop || (s.lasts.look? 5).isNone) = true := by
      simp [hup, hst, hwrites, ← Option.not_isSome, hloaded]
    refine ⟨fun hmay hpast => ?steps, fun hlower hwarned => ?stays⟩
    case steps =>
      have hkeeps : ¬(decide (new < s.chip.setpoint) && mayNotLower s) = true := by simpa [or_iff_not_imp_left] using hmay
      have hdue : ¬(s.chip.stepAt != 0 && decide (s.now < s.chip.stepAt + 10000)) = true := by simpa [or_iff_not_imp_left] using hpast
      have hsteps {t : State} (hends : (if (new != s.chip.setpoint && !ok) = true then .next (s.modChip fun c => { c with avsStop := true })
          else .next (s.modChip fun c => { c with
            setpoint := new, stepAt := if (new == c.setpoint) = true then c.stepAt else s.now
            atTarget := c.atTarget || new == le (s.lastBody 5) 0 2 }) : Out) = .next t) : exec (.setpointStep acks) s = .next t :=
        (if_neg hruns).trans ((if_neg hkeeps).trans ((if_neg hdue).trans hends))
      refine ⟨fun hmoves hbad => hsteps (if_pos ?_), fun hsame => hsteps ((if_neg ?_).trans ?_), fun hmoves hgood => hsteps ((if_neg ?_).trans ?_)⟩
      · simp [hmoves, hbad]
      · simp [hsame]
      · simp only [State.modChip, if_pos (beq_iff_eq.mpr hsame)]
        rw [hsame]
      · simp [hgood]
      · simp only [State.modChip, if_neg (mt beq_iff_eq.mp hmoves)]
    case stays =>
      have hkeeps : (decide (new < s.chip.setpoint) && mayNotLower s) = true := by simp [hlower, hwarned]
      exact (if_neg hruns).trans (if_pos hkeeps)
  case sample =>
    intro t
    have hjudged : exec (.tjSample r tj) s = .next (tripTj r tj (clearTj r tj (warnTj r tj t))) := exec_tjSample_eq hup hr
    rw [hjudged]
    refine ⟨fun hwarm hcool => ?mild, fun hcold => ?cold, ?hot⟩
    case mild => rw [warnTj_of_cool hcool, clearTj_of_warm hwarm, tripTj_of_low (hcool.trans (by decide))]
    case cold => rw [warnTj_of_cool (hcold.trans (by decide)), tripTj_of_low (hcold.trans (by decide)), clearTj_of_cold hcold]
    case hot =>
      intro u v
      have hwarns (hhot : 920 ≤ tj) : clearTj r tj (warnTj r tj t) = u :=
        (clearTj_of_warm (le_trans (by decide) hhot) _).trans (warnTj_of_hot hhot t)
      refine ⟨fun hhot hlow => by rw [hwarns hhot, tripTj_of_low hlow], fun htrip hfirst => ?_⟩
      rw [hwarns (le_trans (by decide) htrip), tripTj_of_first htrip hfirst, firstTrip]
      simp only [beq_iff_eq]
      rfl

end Sys2Proof.Proofs
